-- ==== Sys2Proof/Word.lean ====
section
/-! DEFINITION. The word types of the T2448: a register is 64 bits wide (spec/00_scope.md, Register access codes), an fp32 value 32 bits (R60), memory is held in bytes. -/

namespace Sys2Proof

/-- A byte of memory or of a message. -/
abbrev Byte := BitVec 8

/-- A register (spec/00_scope.md: registers are 64 bits wide). -/
abbrev Word := BitVec 64

/-- The bits of an fp32 value (R60). -/
abbrev F32 := BitVec 32

end Sys2Proof
end

