-- ==== Sys2Proof/Machine/Bits.lean ====
section
/-! DEFINITION. Bit fields, byte order (R5, R6), serial-number order (R448), saturation, and the sparse canonical lists that hold memory and tables. -/

namespace Sys2Proof.Machine

/-- Bits hi down to lo of a natural number (R5). -/
def natBits (w hi lo : Nat) : Nat := (w / 2 ^ lo) % 2 ^ (hi + 1 - lo)

/-- Bits hi down to lo of a register (R5). -/
def getBits (w : Word) (hi lo : Nat) : Nat := natBits w.toNat hi lo

/-- The register w with bits hi down to lo set to v, taken modulo the field's width. -/
def setBits (w : Word) (hi lo v : Nat) : Word :=
  BitVec.ofNat 64 (w.toNat - natBits w.toNat hi lo * 2 ^ lo + (v % 2 ^ (hi + 1 - lo)) * 2 ^ lo)

/-- Bit i of a register. -/
def getBit (w : Word) (i : Nat) : Bool := getBits w i i == 1

/-- The register w with bit i set to b. -/
def setBit (w : Word) (i : Nat) (b : Bool) : Word := setBits w i i (if b then 1 else 0)

/-- The n bytes of v, least significant first (R6). -/
def leBytes : Nat → Nat → List Byte
  | 0, _ => []
  | n + 1, v => BitVec.ofNat 8 (v % 256) :: leBytes n (v / 256)

/-- The number whose little-endian bytes are given (R6). -/
def ofLe : List Byte → Nat
  | [] => 0
  | b :: bs => b.toNat + 256 * ofLe bs

/-- n bytes of a byte list from an offset, zero where the list ends. -/
def slice (bs : List Byte) (off n : Nat) : List Byte :=
  let t := (bs.drop off).take n
  t ++ List.replicate (n - t.length) 0

/-- The little-endian field of n bytes at offset off of a byte list (R6). -/
def leAt (bs : List Byte) (off n : Nat) : Nat := ofLe (slice bs off n)

/-- ⌈a ÷ b⌉. -/
def ceilDiv (a b : Nat) : Nat := (a + b - 1) / b

/-- The two's complement value of the low w bits of n. -/
def toSigned (w n : Nat) : Int :=
  let m := n % 2 ^ w
  if m < 2 ^ (w - 1) then (m : Int) else (m : Int) - (2 ^ w : Nat)

/-- The low w bits of an integer in two's complement. -/
def ofSigned (w : Nat) (i : Int) : Nat := (i % ((2 ^ w : Nat) : Int)).toNat

/-- a is later than b as w-bit serial numbers (R448). -/
def serialLater (w a b : Nat) : Bool :=
  let d := (a + 2 ^ w - b % 2 ^ w) % 2 ^ w
  decide (1 ≤ d) && decide (d < 2 ^ (w - 1))

/-- a is later than b, or equal to it, as w-bit serial numbers (R448). -/
def serialAtLeast (w a b : Nat) : Bool := decide (a % 2 ^ w = b % 2 ^ w) || serialLater w a b

/-- The largest value of a 64-bit counter. -/
def max64 : Nat := 2 ^ 64 - 1

/-- Replace the element at index i of a list. -/
def setAt {α : Type} (l : List α) (i : Nat) (v : α) : List α := l.set i v

/-- The element at index i, or d. -/
def nth {α : Type} (d : α) (l : List α) (i : Nat) : α := l.getD i d

/-- The bytes of an ASCII string. -/
def ascii (s : String) : List Byte := s.toList.map (fun c => BitVec.ofNat 8 c.toNat)

/-- Pad a byte list with zeros to n bytes, or cut it there. -/
def padTo (bs : List Byte) (n : Nat) : List Byte := slice bs 0 n

/-- A table from numbers to values, held as a list with rising keys in which no entry equals what an absent key reads as. -/
abbrev Sparse (α : Type) := List (Nat × α)

/-- The value at key k; an absent key reads as d k. -/
def sget {α : Type} (d : Nat → α) : Sparse α → Nat → α
  | [], k => d k
  | (k', v) :: m, k => if k = k' then v else sget d m k

/-- Put v at key k, whatever v is, keeping the keys rising. -/
def sinsert {α : Type} : Sparse α → Nat → α → Sparse α
  | [], k, v => [(k, v)]
  | (k', v') :: m, k, v =>
    if k < k' then (k, v) :: (k', v') :: m
    else if k = k' then (k, v) :: m
    else (k', v') :: sinsert m k v

/-- Remove key k. -/
def serase {α : Type} : Sparse α → Nat → Sparse α
  | [], _ => []
  | (k', v') :: m, k => if k = k' then m else (k', v') :: serase m k

/-- Write v at key k, in canonical form: writing what an absent key reads as removes the entry. -/
def sput {α : Type} [DecidableEq α] (d : Nat → α) (m : Sparse α) (k : Nat) (v : α) : Sparse α :=
  if v = d k then serase m k else sinsert m k v

/-- Change the value at key k. -/
def supd {α : Type} [DecidableEq α] (d : Nat → α) (m : Sparse α) (k : Nat) (f : α → α) : Sparse α :=
  sput d m k (f (sget d m k))

/-- The canonical form: rising keys, and no entry equal to what its key reads as when absent. -/
def swf {α : Type} [DecidableEq α] (d : Nat → α) : Sparse α → Bool
  | [] => true
  | (k, v) :: m => decide (v ≠ d k) && m.all (fun e => decide (k < e.1)) && swf d m

/-- Does a sorted list of distinct numbers hold n? -/
def hasNat (l : List Nat) (n : Nat) : Bool := l.contains n

/-- Insert n in a rising list, once. -/
def insNat : List Nat → Nat → List Nat
  | [], n => [n]
  | m :: l, n => if n < m then n :: m :: l else if n = m then m :: l else m :: insNat l n

/-- Insert n in a list kept rising by a key, after those of equal key. -/
def insBy {α : Type} (key : α → Nat) (x : α) : List α → List α
  | [] => [x]
  | y :: l => if key x < key y then x :: y :: l else y :: insBy key x l

/-- Sort by a key, keeping the order of equals. -/
def sortBy {α : Type} (key : α → Nat) (l : List α) : List α := l.foldl (fun acc x => insBy key x acc) []

end Sys2Proof.Machine
end

