-- ==== Sys2Proof/Machine/Fp.lean ====
section
/-! DEFINITION. Floating-point arithmetic (R60, R61, R67 to R69, R149, R193): fp32, bf16 and the two fp8 formats, every result formed exactly and rounded once. -/

namespace Sys2Proof.Machine

/-- The canonical quiet NaN of R61. -/
def qNaN : F32 := 0x7FC00000#32
/-- +infinity. -/
def posInf : F32 := 0x7F800000#32
/-- −infinity. -/
def negInf : F32 := 0xFF800000#32
/-- 1.0. -/
def one32 : F32 := 0x3F800000#32

/-- The sign bit. -/
def fSign (x : F32) : Bool := x.toNat / 2 ^ 31 == 1
/-- The bits below the sign. -/
def fMag (x : F32) : Nat := x.toNat % 2 ^ 31
/-- Is the value a NaN? -/
def fIsNaN (x : F32) : Bool := decide (0x7F800000 < fMag x)
/-- Is the value an infinity? -/
def fIsInf (x : F32) : Bool := decide (fMag x = 0x7F800000)
/-- Is the value finite? -/
def fIsFinite (x : F32) : Bool := decide (fMag x < 0x7F800000)
/-- Is the value a zero of either sign? -/
def fIsZero (x : F32) : Bool := decide (fMag x = 0)

/-- An exact real number n ÷ 2^e. -/
structure Dy where
  n : Int
  e : Nat
  deriving DecidableEq, Repr

/-- Exact product. -/
def Dy.mul (a b : Dy) : Dy := ⟨a.n * b.n, a.e + b.e⟩
/-- Exact sum. -/
def Dy.add (a b : Dy) : Dy :=
  if a.e ≤ b.e then ⟨a.n * ((2 ^ (b.e - a.e) : Nat) : Int) + b.n, b.e⟩
  else ⟨a.n + b.n * ((2 ^ (a.e - b.e) : Nat) : Int), a.e⟩
/-- Exact zero. -/
def Dy.zero : Dy := ⟨0, 0⟩
/-- Exact sum of a list. -/
def Dy.sum (l : List Dy) : Dy := l.foldl Dy.add Dy.zero

/-- The magnitude of a finite fp32 value in units of 2^−149. -/
def fUnits (x : F32) : Nat :=
  let m := fMag x
  let e := m / 2 ^ 23
  if e = 0 then m else (2 ^ 23 + m % 2 ^ 23) * 2 ^ (e - 1)

/-- The exact value of a finite fp32 number. -/
def fExact (x : F32) : Dy := ⟨if fSign x then -(fUnits x : Int) else (fUnits x : Int), 149⟩

/-- How a result is rounded: to nearest with ties to even (R61), or toward +infinity (R160, R169, R173). -/
inductive Rounding where
  | nearestEven
  | towardPosInf
  deriving DecidableEq, Repr

/-- The magnitude bits of num ÷ den in a format with p fraction bits whose least subnormal is 2^−q: significand and exponent field together, not limited at the top. -/
def roundBits (r : Rounding) (neg : Bool) (p q num den : Nat) : Nat :=
  let u := num * 2 ^ q
  let f := u / den
  let sh := if f < 2 ^ (p + 1) then 0 else Nat.log2 f - p
  let unit := den * 2 ^ sh
  let m := u / unit
  let rest := u - m * unit
  let up := match r with
    | .nearestEven => decide (unit < 2 * rest) || (decide (unit = 2 * rest) && decide (m % 2 = 1))
    | .towardPosInf => decide (0 < rest) && !neg
  (if up then m + 1 else m) + sh * 2 ^ p

/-- Attach a sign to magnitude bits. -/
def fWithSign (neg : Bool) (mag : Nat) : F32 := BitVec.ofNat 32 (if neg then 2 ^ 31 + mag else mag)

/-- The fp32 rounding of ±num ÷ den; a magnitude beyond the largest finite value is infinity (R61). -/
def fRoundMag (r : Rounding) (neg : Bool) (num den : Nat) : F32 :=
  fWithSign neg (min (roundBits r neg 23 149 num den) 0x7F800000)

/-- The fp32 rounding of an exact number; an exact zero has the sign given. -/
def fRound (r : Rounding) (zeroNeg : Bool) (d : Dy) : F32 :=
  if d.n = 0 then fWithSign zeroNeg 0 else fRoundMag r (decide (d.n < 0)) d.n.natAbs (2 ^ d.e)

/-- Round an exact number to nearest even, an exact zero being +0. -/
def fOfDy (d : Dy) : F32 := fRound .nearestEven false d

/-- The fp32 value nearest an integer (R59, R66 step 1). -/
def fOfInt (i : Int) : F32 := fOfDy ⟨i, 0⟩

/-- Negation of the sign bit. -/
def fNeg (x : F32) : F32 := BitVec.ofNat 32 ((x.toNat + 2 ^ 31) % 2 ^ 32)

/-- fp32 addition (R61). -/
def fAdd (a b : F32) : F32 :=
  if fIsNaN a || fIsNaN b then qNaN
  else if fIsInf a then (if fIsInf b && (fSign a != fSign b) then qNaN else a)
  else if fIsInf b then b
  else fRound .nearestEven (fSign a && fSign b) ((fExact a).add (fExact b))

/-- fp32 subtraction (R61). -/
def fSub (a b : F32) : F32 := if fIsNaN b then qNaN else fAdd a (fNeg b)

/-- fp32 multiplication under a rounding. -/
def fMulR (r : Rounding) (a b : F32) : F32 :=
  let neg := fSign a != fSign b
  if fIsNaN a || fIsNaN b then qNaN
  else if fIsInf a || fIsInf b then (if fIsZero a || fIsZero b then qNaN else fWithSign neg 0x7F800000)
  else fRound r neg ((fExact a).mul (fExact b))

/-- fp32 multiplication (R61). -/
def fMul (a b : F32) : F32 := fMulR .nearestEven a b

/-- fp32 fused multiply-add with one rounding (R192). -/
def fFma (a b c : F32) : F32 :=
  let neg := fSign a != fSign b
  if fIsNaN a || fIsNaN b || fIsNaN c then qNaN
  else if fIsInf a || fIsInf b then
    if fIsZero a || fIsZero b then qNaN
    else if fIsInf c && (fSign c != neg) then qNaN
    else fWithSign neg 0x7F800000
  else if fIsInf c then c
  else fRound .nearestEven (neg && fSign c) (((fExact a).mul (fExact b)).add (fExact c))

/-- fp32 division under a rounding (R193, R169). -/
def fDivR (r : Rounding) (a b : F32) : F32 :=
  let neg := fSign a != fSign b
  if fIsNaN a || fIsNaN b then qNaN
  else if fIsInf a then (if fIsInf b then qNaN else fWithSign neg 0x7F800000)
  else if fIsInf b then fWithSign neg 0
  else if fIsZero b then (if fIsZero a then qNaN else fWithSign neg 0x7F800000)
  else if fIsZero a then fWithSign neg 0
  else fRoundMag r neg (fUnits a) (fUnits b)

/-- fp32 division, correctly rounded to nearest even (R193). -/
def fDiv (a b : F32) : F32 := fDivR .nearestEven a b

/-- The order of R149 and R134: a key that rises with the value, −0 just below +0. -/
def fKey (x : F32) : Int := if fSign x then -(fMag x : Int) - 1 else (fMag x : Int)

/-- The fp32 maximum of R149. -/
def fMax (a b : F32) : F32 :=
  if fIsNaN a || fIsNaN b then qNaN else if fKey a < fKey b then b else a

/-- The fp32 minimum, the mirror of R149 with −0 below +0 (R192, R266). -/
def fMin (a b : F32) : F32 :=
  if fIsNaN a || fIsNaN b then qNaN else if fKey b < fKey a then b else a

/-- The IEEE order of two values that are not NaN, −0 and +0 equal: a < b. -/
def fLt (a b : F32) : Bool :=
  if fIsNaN a || fIsNaN b then false
  else if fIsZero a && fIsZero b then false
  else decide (fKey a < fKey b)

/-- The magnitude of a value. -/
def fAbs (x : F32) : F32 := BitVec.ofNat 32 (fMag x)

/-- One step of the integer square root, from bit k down. -/
def isqrtAux : Nat → Nat → Nat → Nat
  | 0, _, r => r
  | k + 1, n, r =>
    let t := r + 2 ^ k
    if t * t ≤ n then isqrtAux k n t else isqrtAux k n r

/-- The integer square root of a number below 2^(2·bits). -/
def isqrt (bits n : Nat) : Nat := isqrtAux bits n 0

/-- 1 ÷ √a, correctly rounded; negative gives NaN, ±0 gives ±infinity (R192, R193). -/
def fRsq (a : F32) : F32 :=
  if fIsNaN a then qNaN
  else if fIsZero a then fWithSign (fSign a) 0x7F800000
  else if fSign a then qNaN
  else if fIsInf a then 0#32
  else
    let n := fUnits a
    let t := 2 ^ (149 + 600)
    let q := isqrt 384 (t / n)
    if q * q * n = t then fRoundMag .nearestEven false q (2 ^ 300)
    else fRoundMag .nearestEven false (2 * q + 1) (2 ^ 301)

/-- 1 ÷ a (R193). -/
def fRcp (a : F32) : F32 := fDiv one32 a

/-- The precision, in bits after the point, of the exponential's intermediate values. -/
def expBits : Nat := 320

/-- Terms of the exponential series: term is the last term, acc the sum, in units of 2^−expBits; r is the reduced argument. -/
def expSeries : Nat → Nat → Nat → Nat → Nat → Nat
  | 0, _, _, _, acc => acc
  | fuel + 1, i, r, term, acc =>
    let t := term * r / 2 ^ expBits / i
    expSeries fuel (i + 1) r t (acc + t)

/-- Square x, in units of 2^−expBits, k times. -/
def expSquare : Nat → Nat → Nat
  | 0, x => x
  | k + 1, x => expSquare k (x * x / 2 ^ expBits)

/-- e^(u ÷ 2^149) in units of 2^−expBits, for arguments up to 128. -/
def expUnits (u : Nat) : Nat :=
  expSquare 8 (expSeries 60 1 (u * 2 ^ (expBits - 149) / 256) (2 ^ expBits) (2 ^ expBits))

/-- e^a, correctly rounded (R193). -/
def fExp (a : F32) : F32 :=
  if fIsNaN a then qNaN
  else if fIsInf a then (if fSign a then 0#32 else posInf)
  else if fIsZero a then one32
  else
    let u := fUnits a
    if u ≥ 120 * 2 ^ 149 then (if fSign a then 0#32 else posInf)
    else if fSign a then fRoundMag .nearestEven false (2 ^ expBits) (expUnits u)
    else fRoundMag .nearestEven false (expUnits u) (2 ^ expBits)

/-- Widen a bf16 value: exact, a NaN becoming the canonical quiet NaN (R61). -/
def fOfBf16 (b : Nat) : F32 :=
  let x : F32 := BitVec.ofNat 32 (b % 2 ^ 16 * 2 ^ 16)
  if fIsNaN x then qNaN else x

/-- Round to bf16 (R67). -/
def bf16Of (y : F32) : Nat :=
  if fIsNaN y then 0x7FC0
  else
    let m := fMag y
    let m' := if fIsInf y then 0x7F80 else (m + 0x7FFF + (m / 2 ^ 16) % 2) / 2 ^ 16
    (if fSign y then 2 ^ 15 else 0) + m'

/-- Widen an fp8 code with p fraction bits and least subnormal 2^−q: the exact value of its magnitude bits. -/
def fp8Mag (p q m : Nat) : Dy :=
  let e := m / 2 ^ p
  ⟨((if e = 0 then m else (2 ^ p + m % 2 ^ p) * 2 ^ (e - 1) : Nat) : Int), q⟩

/-- Widen fp8 E4M3 (R60): NaN only at S.1111.111, no infinity. -/
def fOfE4M3 (b : Nat) : F32 :=
  let m := b % 128
  if m = 127 then qNaN
  else fRound .nearestEven false (fp8Mag 3 9 m) ||| BitVec.ofNat 32 (b / 128 % 2 * 2 ^ 31)

/-- Widen fp8 E5M2 (R60). -/
def fOfE5M2 (b : Nat) : F32 :=
  let m := b % 128
  let s : F32 := BitVec.ofNat 32 (b / 128 % 2 * 2 ^ 31)
  if m = 124 then posInf ||| s
  else if 124 < m then qNaN
  else fRound .nearestEven false (fp8Mag 2 16 m) ||| s

/-- Round to fp8 E4M3: saturate to ±448, NaN to 0x7F (R69). -/
def e4m3Of (y : F32) : Nat :=
  if fIsNaN y then 0x7F
  else
    let m := if fIsInf y then 0x7E else min (roundBits .nearestEven false 3 9 (fUnits y) (2 ^ 149)) 0x7E
    (if fSign y then 0x80 else 0) + m

/-- Round to fp8 E5M2: saturate to ±57,344, NaN to 0x7E (R69). -/
def e5m2Of (y : F32) : Nat :=
  if fIsNaN y then 0x7E
  else
    let m := if fIsInf y then 0x7B else min (roundBits .nearestEven false 2 16 (fUnits y) (2 ^ 149)) 0x7B
    (if fSign y then 0x80 else 0) + m

/-- The integer nearest an exact number, ties to even. -/
def dyRoundInt (d : Dy) : Int :=
  let k : Int := ((2 ^ d.e : Nat) : Int)
  let q := d.n / k
  let r := d.n - q * k
  if 2 * r > k || (decide (2 * r = k) && decide (q % 2 = 1)) then q + 1 else q

/-- What quantising one value gives: the integer, and whether R68 counts it as a clip. -/
structure Quant where
  v : Int
  clip : Bool
  deriving DecidableEq, Repr

/-- R68 steps 2 and 3: round z to an integer with ties to even and saturate it to ±lim. -/
def quantise (lim : Nat) (z : F32) : Quant :=
  if fIsNaN z then ⟨0, true⟩
  else if fIsInf z then ⟨if fSign z then -(lim : Int) else (lim : Int), true⟩
  else
    let i := dyRoundInt (fExact z)
    if (lim : Int) < i then ⟨(lim : Int), true⟩
    else if i < -(lim : Int) then ⟨-(lim : Int), true⟩
    else ⟨i, false⟩

/-- The census bin of a magnitude (R163). -/
def censusBin (z : F32) : Nat :=
  let u := fUnits z
  if fIsInf z then 31
  else if u < 2 ^ 126 then 0
  else if u ≥ 2 ^ 156 then 31
  else Nat.log2 u - 125

/-- Finite and nonzero (R64). -/
def fUsable (x : F32) : Bool := fIsFinite x && !(fIsZero x)

/-- The most negative 32-bit two's complement reading of a word, as an integer. -/
def i32 (n : Nat) : Int := toSigned 32 n

end Sys2Proof.Machine
end

