-- ==== Sys2Proof/Machine/CoreTypes.lean ====
section
/-! DEFINITION. Plain data of the transports, the control commands, the tenants, models, grammars, sequences, prefixes, pages and hem buffers. -/

namespace Sys2Proof.Machine

/-- Who makes a memory access, in the port order of R265. -/
inductive Requester where
  | controller
  | shuttle (ch : Nat)
  | planEngine
  | sampler
  | gate
  | panel (p : Nat)
  deriving DecidableEq, Repr

/-- What is fused in one part, and its one-time-programmable store (R3, R381, R392, R395 to R397, R411, R420). -/
structure Fuse where
  /-- GiB per stack, 64 for the T2448-64Q and 32 for the T2448-32Q (R3) -/
  stackGiB : Nat
  perfClass : Nat
  ownerId : Nat
  romVersion : Nat
  deviceId : Word
  macBase : Nat
  coef : List Nat
  /-- voltage of each ladder step from 800 MHz, in mV (R412) -/
  ladder : List Nat
  identityCert : List Byte
  manufacturingCert : List Byte
  /-- the unique device secret (R392) -/
  secret : List Byte
  /-- digest of the Crenko root's public key (R392) -/
  rootDigest : List Byte
  deriving DecidableEq, Repr

/-- Where messages of a session go (R324). -/
structure Peer where
  port : Nat
  iface : Nat
  addr : Nat
  udp : Nat
  deriving DecidableEq, Repr

/-- An Obush header (R319) with its payload as plaintext and its tag. -/
structure Datagram where
  magic : Nat
  version : Nat
  type : Nat
  mailbox : Nat
  flags : Nat
  msn : Nat
  length : Nat
  tape : Nat
  command : Nat
  status : Nat
  correlation : Nat
  payload : List Byte
  tag : List Byte
  deriving DecidableEq, Repr

/-- What arrives with a datagram outside its bytes: the UDP length, the sender and the destination address (R325, R327, R333). -/
structure Arrival where
  udpLength : Nat
  peer : Peer
  /-- the address it was sent to, least byte first -/
  dest : Nat
  deriving DecidableEq, Repr

/-- One session of a mailbox (R321 to R324, R326, R332, R402). -/
structure Session where
  live : Bool
  key : List Byte
  salt : List Byte
  windOk : Bool
  cred : Bool
  /-- next expected MSN e (R325) -/
  rxNext : Nat
  /-- next MSN the device numbers (R332) -/
  txNext : Nat
  /-- next acknowledgement serial the device sends (R326) -/
  ackNext : Nat
  /-- last acknowledgement serial acted on -/
  ackSeen : Option Nat
  peer : Option Peer
  /-- sent and unacknowledged, oldest first -/
  unacked : List Datagram
  /-- waiting in the transmit queue, oldest first -/
  queue : List Datagram
  /-- consecutive expiries of RTO -/
  expiries : Nat
  /-- tape of the last advance, sending or expiry RTO is measured from -/
  timer : Nat
  /-- tape of the last acknowledgement sent -/
  ackTape : Option Nat
  /-- an acknowledgement is owed -/
  ackDue : Bool
  deriving DecidableEq, Repr

/-- A session that is not established. -/
def Session.none : Session :=
  ⟨false, [], [], false, false, 0, 0, 0, Option.none, Option.none, [], [], 0, 0, Option.none, false⟩

/-- What a mailbox slot holds (R328). -/
inductive SlotKind where
  | free
  | control
  | data
  /-- a seq.feed delivered after its sequence was marked cancel-pending (R331) -/
  | late
  deriving DecidableEq, Repr

/-- A delivered request as the controller takes it from its slot (R327, R336, R344). -/
structure Req where
  mailbox : Nat
  slot : Nat
  session : Nat
  correlation : Nat
  payload : List Byte
  deriving DecidableEq, Repr

/-- Where an answer that is deferred goes. -/
structure Waiter where
  mailbox : Nat
  session : Nat
  correlation : Nat
  command : Nat
  deriving DecidableEq, Repr

/-- A 64-tenant entry (R341, R387, R388, R389, R399, R405). -/
structure Tenant where
  live : Bool
  qos : Nat
  quota : Nat
  /-- deficit round robin credit (R388) -/
  deficit : Int
  /-- generation of the tenant's memory key; 0 none yet -/
  keyGen : Nat
  hasKey : Bool
  /-- T[t] of R399 -/
  measure : List Byte
  /-- a tenant reset is running, to be answered at its end (R343, R389) -/
  resetting : List Waiter
  deriving DecidableEq, Repr

/-- A tenant number without a tenant. -/
def Tenant.none : Tenant := ⟨false, 0, 0, 0, 0, false, [], []⟩

/-- A notice route (R341, R350). -/
structure Route where
  session : Nat
  mask : Nat
  deriving DecidableEq, Repr

/-- Every notice type enabled. -/
def Route.all : Route := ⟨0, 2 ^ 64 - 1⟩

/-- A stage buffer (R341, R346). -/
structure Stage where
  live : Bool
  owner : Nat
  base : Nat
  size : Nat
  deriving DecidableEq, Repr

/-- A stage number not in use. -/
def Stage.none : Stage := ⟨false, 0, 0, 0⟩

/-- A resident model (R346, R38, R132, R160, R173, R32, R439 to R441). -/
structure Model where
  live : Bool
  /-- 0 to 63, or 64 for a shared model -/
  owner : Nat
  base : Nat
  size : Nat
  sliceRes : Bool
  digest : List Byte
  faulted : Bool
  quarantined : Bool
  /-- the quarantine list, line addresses rising -/
  quar : List Nat
  /-- tape at which the quarantine pause expires -/
  pause : Option Nat
  /-- the quarantine lifts at the next edge -/
  lift : Bool
  replica : Nat
  /-- dynamic per-token scales rather than carried ones -/
  dynamic : Bool
  clipShift : Nat
  headroom : Nat
  /-- settings that a model.scale has ordered from the next edge on: mode, shift, headroom; one it keeps is none (R160, R341) -/
  scaleNext : Option (Option Bool × Option Nat × Option Nat)
  /-- carried scale of each scale point, by 4 × layer + point -/
  scales : Sparse F32
  /-- candidates of committed steps, to take effect at the next edge (R173) -/
  candidates : Sparse F32
  /-- layer ranges of the stages, first and last layer -/
  stages : List (Nat × Nat)
  /-- consecutive stretches (R38) -/
  stretchRun : Nat
  /-- a stretch was counted in this tick -/
  stretched : Bool
  /-- model.unload with FORCE waits for the next edge -/
  unload : List Waiter
  deriving DecidableEq, Repr

/-- A model number not in use. -/
def Model.none : Model :=
  ⟨false, 0, 0, 0, false, [], false, false, [], Option.none, false, 0, false, 0, 0, Option.none, [], [], [], 0, false, []⟩

/-- The owner and the arrays of a loaded grammar (R240, R474). -/
structure Grammar where
  live : Bool
  owner : Nat
  base : Nat
  size : Nat
  deriving DecidableEq, Repr

/-- A grammar number not in use. -/
def Grammar.none : Grammar := ⟨false, 0, 0, 0⟩

/-- The states of R233. -/
inductive SeqState where
  | free
  | idle
  | ready
  | inStep
  | ending
  deriving DecidableEq, Repr

/-- What seq.open fixes for the life of a sequence (R231). -/
structure SeqParams where
  model : Nat
  dest : Nat
  tag : Nat
  seed : Nat
  temp : F32
  topK : Nat
  topP : Nat
  stopTokens : List Nat
  stopSeqs : List (List Nat)
  outLimit : Nat
  grammar : Option Nat
  anyAccept : Bool
  /-- number of ids of the allowed-token list, 0 for none -/
  nlist : Nat
  /-- 0 none, 1 intake, 2 drafter -/
  draftSource : Nat
  drafterSeq : Nat
  drafterGen : Nat
  /-- handle of the prefix it opened on -/
  prefixRec : Option Nat
  deriving DecidableEq, Repr

/-- The epoch of a hem position (R211): a step number and an attempt, or committed. -/
inductive Epoch where
  | committed
  | step (n attempt : Nat)
  deriving DecidableEq, Repr

/-- One position of one layer held in the hem (R206, R211). -/
structure HeldPos where
  layer : Nat
  pos : Nat
  key : List Byte
  val : List Byte
  /-- the key and the value record stand -/
  hasKey : Bool
  hasVal : Bool
  /-- bytes of the key and of the value record that are poisoned -/
  keyBad : List Nat
  valBad : List Nat
  epoch : Epoch
  deriving DecidableEq, Repr

/-- A position nothing was written for. -/
def HeldPos.none : HeldPos := ⟨0, 0, [], [], false, false, [], [], .committed⟩

/-- A hem segment (R211): up to 8 positions of one page of one layer. -/
structure HemSeg where
  layer : Nat
  /-- first sequence position of the segment's range -/
  base : Nat
  granules : Nat
  deriving DecidableEq, Repr

/-- Tokens committed and not yet emitted (R246, R247). -/
structure EmitPending where
  first : Nat
  tokens : List Nat
  deriving DecidableEq, Repr

/-- A sequence context (R230 to R234, R243 to R250, R208, R211 to R218). -/
structure Seq where
  gen : Nat
  state : SeqState
  tenant : Nat
  par : SeqParams
  /-- allowed-token ids that have arrived (R348) -/
  allowed : List Nat
  ringAddr : Nat
  ringHead : Nat
  ringCount : Nat
  listAddr : Nat
  drafts : List Nat
  /-- how many of the first pending drafts a discarded step has carried: none of them has been counted yet (R245) -/
  carried : Nat
  fed : Option Nat
  drawn : Nat
  /-- the last committed drawn tokens, newest first, at most 15 (R244) -/
  history : List Nat
  gstate : Nat
  esn : Nat
  emit : Option EmitPending
  endReason : Nat
  endStatus : Nat
  stops : Nat
  cancel : List Waiter
  cancelPending : Bool
  /-- waiters of a prefix.pin whose park is not complete, with the length, and the length the park writes to once it has begun (R220) -/
  pin : List (Waiter × Nat × Option Nat)
  /-- fixed at the edge: in the eligible set of R18, with what its intake held then -/
  eligible : Bool
  ringAt : Nat
  draftsAt : Nat
  lastServed : Nat
  /-- consecutive ticks waiting for pages (R227) -/
  pageWait : Nat
  flushed : Nat
  committed : Nat
  pending : Option (Nat × Nat)
  held : List HeldPos
  segs : List HemSeg
  deriving DecidableEq, Repr

/-- No parameters. -/
def SeqParams.none : SeqParams :=
  ⟨0, 0, 0, 0, 0, 0, 0, [], [], 0, Option.none, false, 0, 0, 0, 0, Option.none⟩

/-- A free sequence context. -/
def Seq.none : Seq :=
  ⟨0, .free, 0, SeqParams.none, [], 0, 0, 0, 0, [], 0, Option.none, 0, [], 0, 0, Option.none, 0, 0, 0, [], false, [],
   false, 0, 0, 0, 0, 0, 0, Option.none, [], []⟩

/-- A prefix record (R220 to R222). -/
structure Prefix where
  live : Bool
  gen : Nat
  tenant : Nat
  model : Nat
  length : Nat
  /-- page numbers, layer by layer, page index by page index -/
  pages : List Nat
  deriving DecidableEq, Repr

/-- A free prefix record. -/
def Prefix.none : Prefix := ⟨false, 0, 0, 0, 0, []⟩

/-- A page write or a park on the plan-engine channels (R215 to R217). -/
structure KvJob where
  seq : Nat
  gen : Nat
  park : Bool
  layer : Nat
  /-- page index within the sequence -/
  page : Nat
  positions : List Nat
  /-- the write is in progress -/
  started : Bool
  /-- the write has completed; F advances at the next edge (R216) -/
  done : Bool
  deriving DecidableEq, Repr

/-- Where a firmware shuttle channel stands (CH_STATUS of spec/13): moved is a descriptor whose last line is written and whose record is not. -/
inductive ChPhase where
  | idle
  | waiting
  | moving
  | moved
  deriving DecidableEq, Repr

/-- A firmware shuttle channel (R300, R305 to R311). -/
structure Channel where
  phase : ChPhase
  /-- slot of the head descriptor -/
  head : Nat
  /-- the running descriptor's own slot, where the ring was enabled anew while it ran (R307, R309) -/
  slot : Option Nat
  /-- CSEQ the next completion takes -/
  next : Nat
  last : Nat
  /-- completions whose status was not 0, by CSEQ -/
  fails : List (Nat × Nat)
  /-- the head descriptor -/
  bits : Nat
  /-- tape at which it became head -/
  since : Nat
  /-- tape TRIG 1 and TRIG 2 wait for -/
  trigAt : Nat
  done : Nat
  diff : Nat
  dropped : Bool
  poisonSeen : Bool
  faults : Nat
  status : Nat
  /-- paused by the all-channel stop until RESUME (R311) -/
  paused : Bool
  deriving DecidableEq, Repr

/-- A channel after reset. -/
def Channel.none : Channel := ⟨.idle, 0, Option.none, 0, 0, [], 0, 0, 0, 0, 2 ^ 64 - 1, false, false, 0, 0, false⟩

/-- A copy-on-write copy (R224). -/
structure CowJob where
  seq : Nat
  step : Nat
  layer : Nat
  src : Nat
  dst : Nat
  deriving DecidableEq, Repr

/-- What a frame the device sends is wrapped in (R316 to R318, R361): the port, F0 to F3 and B0 to B3 in order, its interface and MAC address, the VLAN tag and its priority, the version of IP, and the UDP ports, 0 where the packet has none. -/
structure Wire where
  port : Nat
  iface : Nat
  mac : Nat
  tag : Option (Nat × Nat)
  ipv6 : Bool
  udpFrom : Nat
  udpTo : Nat
  deriving DecidableEq, Repr

/-- What a message the device sent was, and where it went: the device's outputs, in order. -/
inductive Sent where
  /-- an Obush datagram to a peer (R319, R324); no frame while no interface is up -/
  | obush (d : Datagram) (dest : Option Peer) (frame : Option Wire)
  /-- a boot message to an address (R333, R379) -/
  | boot (d : Datagram) (dest : Peer) (frame : Wire)
  /-- a Kralyn message to a device (R362, R363) -/
  | kralyn (dest : Nat) (mtype : Nat) (header payload : List Byte) (frame : Wire)
  /-- a tape-exchange message to a member, with the ICV of its AUTHENTICATION TLV (R356, R404) -/
  | tape (dest : Nat) (mtype : Nat) (seq : Nat) (stamp correction : Nat) (icv : List Byte) (frame : Wire)
  /-- an answer to a link-level packet, neighbour, ARP or echo, for an address of the interface (R317) -/
  | link (kind address : Nat) (frame : Wire)
  /-- a thimble heartbeat, pin or rail event -/
  | pin (name : Nat) (level : Bool)
  deriving DecidableEq, Repr

end Sys2Proof.Machine
end

