-- ==== Sys2Proof/Machine/EngineTypes.lean ====
section
/-! DEFINITION. Plain data of the compute engines: pieces, matrix commands, seam records, stitchers, slots, plan entries and steps. -/

namespace Sys2Proof.Machine

/-- A piece descriptor (R99), decoded, with the operation of the step it belongs to. -/
structure Piece where
  step : Nat
  piece : Nat
  attempt : Nat
  wound : Bool
  fmt : Nat
  ptag : Nat
  model : Nat
  layer : Nat
  elem0 : Nat
  rows : Nat
  lanemask : Nat
  lgroup : Nat
  aslot : Nat
  oslot : Nat
  home : Nat
  colFirst : Nat
  colEnd : Nat
  waddr : Nat
  tcount : Nat
  tlist : Nat
  ablk : Nat
  sub : Nat
  subs : Nat
  /-- index of the operation in the step's list -/
  op : Nat
  deriving DecidableEq, Repr

/-- A piece in a work queue with its ready bit (R104). -/
structure QEntry where
  piece : Piece
  ready : Bool
  deriving DecidableEq, Repr

/-- A matrix-queue command or a part of one (R185, R191, R195), with the bits of its template entry. -/
structure MatCmd where
  step : Nat
  piece : Nat
  attempt : Nat
  opc : Nat
  model : Nat
  layer : Nat
  lgroup : Nat
  lanemask : Nat
  /-- slots as the plan engine filled them -/
  inSlots : List Nat
  outSlots : List Nat
  /-- dense: first output element, rows, first input element, inputs -/
  elem0 : Nat
  rows : Nat
  in0 : Nat
  inlen : Nat
  /-- attention: the kv head of the part -/
  part : Nat
  /-- attention: the page-list table of the lane group -/
  pltab : Nat
  /-- the template entry (R475) -/
  bits : Nat
  op : Nat
  /-- predicted engine clocks (R191) -/
  clocks : Nat
  /-- the run was discarded once for an uncorrectable error (R203) -/
  rerun : Bool
  ready : Bool
  deriving DecidableEq, Repr

/-- A seam record with its poison bit (R143). -/
structure Record where
  value : Nat
  elem : Nat
  slot : Nat
  lane : Nat
  ptag : Nat
  op : Nat
  piece : Nat
  step : Nat
  attempt : Nat
  poison : Bool
  deriving DecidableEq, Repr

/-- One element-lane's entry in a merge store (R148, R150, R154). -/
structure MergeEntry where
  step : Nat
  slot : Nat
  elem : Nat
  lane : Nat
  op : Nat
  ptag : Nat
  /-- int32 sum or maximum; the tag-3 sum in split mode -/
  acc : Int
  /-- the tag-4 sum -/
  low : Int
  /-- fp32 maximum -/
  fmax : F32
  /-- pending tag-2 records, piece and value -/
  pending : List (Nat × F32)
  poison : Bool
  deriving DecidableEq, Repr

/-- A reservation of merge-store words (R152). -/
structure Reserve where
  step : Nat
  op : Nat
  words : Nat
  deriving DecidableEq, Repr

/-- A level-2 seam node (R145). -/
structure Node2 where
  entries : List MergeEntry
  reserves : List Reserve
  deriving DecidableEq, Repr

/-- An empty level-2 node. -/
def Node2.none : Node2 := ⟨[], []⟩

/-- A selected tile of a piece (R124): column, row group, and its index in the piece's run, which places its data (R121). -/
structure Tile where
  col : Nat
  rg : Nat
  index : Nat
  deriving DecidableEq, Repr

/-- A piece in a stitcher: one run of it (R83, R87), with the tiles its zipper selected. -/
structure StRun where
  piece : Piece
  /-- the low-plane run of R87 -/
  low : Bool
  /-- the panel whose queue gave the piece, and how it was taken: 0 own, 1 near, 2 far (R108) -/
  source : Nat
  how : Nat
  tiles : List Tile
  /-- the zipper flagged the tile list as faulted, a list entry arrived poisoned, or a segment unwound poisoned (R93, R130, R131, R294) -/
  faulted : Bool
  poisoned : Bool
  /-- chunk columns streamed so far -/
  done : Nat
  /-- consecutive failing runs (R91) -/
  fails : Nat
  /-- segments whose codec fault has been recorded, and its kind (R294) -/
  segs : List (Nat × Nat)
  deriving DecidableEq, Repr

/-- A word of the table store (R73): the entry at one index for every lane of the half, and the even parity bit of each 16-bit segment. -/
structure TableWord where
  bits : BitVec 128
  parity : BitVec 8
  deriving DecidableEq, Repr

/-- A word nothing was written to. -/
def TableWord.zero : TableWord := ⟨0, 0⟩

/-- One half of the table store (R54, R72, R73): its 512 words, bank k holding entries 128k to 128k + 127; one such table for each query row of the slot. -/
structure Half where
  valid : Bool
  poison : Bool
  words : List (List TableWord)
  deriving DecidableEq, Repr

/-- An unwritten half. -/
def Half.none : Half := ⟨false, false, []⟩

/-- What the row stream of a stitcher waits for (R81, R82, R84, R125). -/
inductive Stall where
  | none
  | zip
  | feed
  | build
  | drain
  deriving DecidableEq, Repr

/-- A stitcher (R72, R83). -/
structure Stitcher where
  cur : Option StRun
  ahead : Option StRun
  draining : Bool
  /-- the half of the next chunk to stream -/
  half : Nat
  half0 : Half
  half1 : Half
  /-- the activation stage, 2 × 256 bytes -/
  stage0 : List Byte
  stage1 : List Byte
  /-- the weight FIFO, at most 256 bytes -/
  fifo : List Byte
  stall : Stall
  /-- accumulating bank: by 64 × (row × 16 + lane) + query row -/
  acc : Sparse Int
  /-- records of the draining bank waiting at the record port -/
  port : List Record
  /-- a chunk has been streamed to its last accumulator write -/
  swapDue : Bool
  deriving DecidableEq, Repr

/-- An idle stitcher. -/
def Stitcher.none : Stitcher := ⟨Option.none, Option.none, false, 0, Half.none, Half.none, [], [], [], Stall.none, [], [], false⟩

/-- A partial census a finisher stages for one scale point (R162, R166). -/
structure Partial where
  step : Nat
  attempt : Nat
  layer : Nat
  point : Nat
  maxmag : F32
  values : Nat
  clips : Nat
  nans : Nat
  bins : List Nat
  sat : Bool
  poison : Bool
  deriving DecidableEq, Repr

/-- A partial census a finisher has staged in the census staging part of its area (R97, R166): whose it is, and the place it stands at. -/
structure StagedCensus where
  step : Nat
  attempt : Nat
  layer : Nat
  point : Nat
  place : Nat
  deriving DecidableEq, Repr

/-- The vector engine of a panel (R191, R192): registers, scalars, the phase, and the lane and block it works on. -/
structure VecEngine where
  v : Sparse (List F32)
  vPoison : List Nat
  scal : Sparse F32
  sPoison : List Nat
  /-- scalars phase 1 has written for the lane at hand -/
  sLive : List Nat
  phase2 : Bool
  lane : Nat
  row : Nat
  block : Nat
  cmd : Option MatCmd
  deriving DecidableEq, Repr

/-- The vector engine before any program: every register reads +0. -/
def VecEngine.none : VecEngine := ⟨[], [], [], [], [], false, 0, 0, 0, Option.none⟩

/-- A panel (R96). -/
structure Panel where
  queue : List QEntry
  mq : List MatCmd
  stitchers : Sparse Stitcher
  /-- records of the finisher's input into the seam node (R145, R187, R140) -/
  finIn : List Record
  /-- the level-1 sort window -/
  window : List Record
  partials : List StagedCensus
  vec : VecEngine
  deriving DecidableEq, Repr

/-- A panel with nothing in it. -/
def Panel.none : Panel := ⟨[], [], [], [], [], [], VecEngine.none⟩

/-- One lane of a slot: its elements as codes of the slot's format, which of them are poisoned, and its dynamic scale (R62). -/
structure SlotLane where
  codes : List Nat
  poison : List Nat
  scale : F32
  deriving DecidableEq, Repr

/-- A lane nothing was written to. -/
def SlotLane.none : SlotLane := ⟨[], [], one32⟩

/-- An activation or output slot (R44, R58, R100; log entry 99): format code, elements per query row, lanes. -/
structure Slot where
  fmt : Nat
  dim : Nat
  rows : Nat
  dyn : Bool
  lanes : Sparse SlotLane
  /-- address of the finisher-written block list, 0 for none (R123) -/
  list : Nat
  deriving DecidableEq, Repr

/-- An empty slot. -/
def Slot.none : Slot := ⟨0, 0, 0, false, [], 0⟩

/-- A listed output of a plan entry (R123): template-local slot, the consumer's weight format, where the lists go. -/
structure Listed where
  slot : Nat
  fmt : Nat
  addr : Nat
  deriving DecidableEq, Repr

/-- A plan list entry (R18, R109): a model, the layer range, the lane groups with each sequence's new positions, the slots. -/
structure PlanEntry where
  model : Nat
  lo : Nat
  hi : Nat
  /-- lane groups: sequence numbers in lane order with the positions each writes -/
  groups : List (List (Nat × Nat))
  /-- first runtime slot; a lane group takes one runtime slot per template-local slot -/
  slotBase : Nat
  slotsPer : Nat
  /-- first lane-group table entry -/
  lgBase : Nat
  /-- page-list tables, 512 bytes per lane group (R209) -/
  pltab : Nat
  listed : List Listed
  /-- the step whose micro-batch advances a stage (R33) -/
  advances : Option Nat
  deriving DecidableEq, Repr

/-- The predicted cost of a step (R30, R31, R177). -/
structure Cost where
  stitch : Nat
  stream : Nat
  matrix : Nat
  barrier : Nat
  deriving DecidableEq, Repr

/-- A scale point of a step's scale table (R62, R161, R168, R170): the carried scale and its reciprocal r_out. R62 gives the table and the word beside the output slot no address, so the model keeps both here, outside addressed memory (log entry 108). -/
structure PointState where
  scale : F32
  rout : F32
  split : Bool
  dyn : Bool
  fails : Nat
  /-- census entry index (R165) -/
  entry : Nat
  deriving DecidableEq, Repr

/-- An absent scale point. -/
def PointState.none : PointState := ⟨one32, one32, false, false, 0, 0⟩

/-- What an input position of a step is (R234). -/
inductive InKind where
  | fedBack
  | intake
  | draft
  deriving DecidableEq, Repr

/-- A sequence's part in a step (R214, R234, R237, R245). -/
structure StepSeq where
  seq : Nat
  /-- lane-group index within the step, and lane -/
  group : Nat
  lane : Nat
  first : Nat
  inputs : List (Nat × InKind)
  /-- draws tokens at all (R234) -/
  draws : Bool
  /-- query rows drawn so far, and the tokens -/
  drawn : List Nat
  /-- drawing has ended, with the accepted count of R214 -/
  accepted : Option Nat
  gstate : Nat
  stops : Nat
  reason : Nat
  status : Nat
  /-- a poisoned logit row was met (R239) -/
  poisoned : Bool
  /-- lane cleared from every LANEMASK (R389, R437) -/
  cleared : Bool
  deriving DecidableEq, Repr

/-- One operation of a step (R110, R475). -/
structure OpRun where
  layer : Nat
  index : Nat
  level : Nat
  /-- the 512 bits of the template entry -/
  bits : Nat
  /-- KIND of R475 -/
  kind : Nat
  reserved : Bool
  released : Bool
  closed : Bool
  /-- its piece numbers: from piece0 up to pieceEnd -/
  piece0 : Nat
  pieceEnd : Nat
  /-- its pieces or commands have been expanded (R18, R138) -/
  expanded : Bool
  /-- the experts' outputs have been weighted and sent on to the home slots (R140) -/
  combining : Bool
  deriving DecidableEq, Repr

/-- A token's routing (R134, R135): home key, experts with their gate weights, poison. -/
structure Routed where
  home : Nat
  experts : List (Nat × F32)
  poison : Bool
  deriving DecidableEq, Repr

/-- A dispatch group (R136): expert, lane-group index within the step's dispatch groups, home keys in lane order. -/
structure Dispatch where
  gateOp : Nat
  expert : Nat
  lgroup : Nat
  homes : List Nat
  deriving DecidableEq, Repr

/-- One lane of a slot that a micro-batch keeps between its stages (R33): lane-group index and template-local slot, lane, the slot's format and size, and its elements. -/
structure CarryLane where
  group : Nat
  loc : Nat
  lane : Nat
  fmt : Nat
  dim : Nat
  rows : Nat
  dyn : Bool
  list : Nat
  data : SlotLane
  deriving DecidableEq, Repr

/-- A micro-batch's carry slots (R33): the base of their block of the scratchpad once the shuttle has moved them there, and the lanes in order. -/
structure Carry where
  addr : Option Nat
  /-- the move waits for RESUME (R311) -/
  waits : Bool
  lanes : List CarryLane
  deriving DecidableEq, Repr

/-- Where a step stands (R21, R168). -/
inductive StepPhase where
  | running
  | sampling
  | stageDone
  deriving DecidableEq, Repr

/-- An open step (R21, R26, R34, R155, R161, R168). -/
structure Step where
  num : Nat
  model : Nat
  lo : Nat
  hi : Nat
  entry : PlanEntry
  /-- tape of the edge that admitted it, and of the edge that admitted the stage it runs -/
  edge : Nat
  runEdge : Nat
  attempt : Nat
  phase : StepPhase
  seqs : List StepSeq
  ops : List OpRun
  points : Sparse PointState
  routed : List (Nat × Routed)
  dispatch : List Dispatch
  /-- error-log TAIL when the attempt was issued (R437) -/
  logMark : Nat
  /-- lines named by the log are read from here even when the ring was full -/
  cost : Cost
  split : Nat
  /-- pieces are held because an open step agrees in the low 14 bits (R144) -/
  heldBack : Bool
  /-- copies not yet complete (R224) -/
  cow : Nat
  /-- census replays are marked stretched, unfinished at a guard -/
  unfinished : Bool
  /-- breaches found in the attempt: layer, tile-list address (R127) -/
  breaches : List Nat
  /-- first stage started at this layer; the stages of a micro-batch share the step -/
  stage : Nat
  /-- active panels when the attempt was issued, which fix the home finishers (R146) -/
  actives : List Nat
  /-- model settings in force at admission (R160) -/
  clipShift : Nat
  headroom : Nat
  /-- the carry slots that the stage it runs, or waits for, takes its activations from (R33, R34) -/
  carry : Option Carry
  /-- bases of the blocks that hold the block lists gathered for its dispatch groups (R139) -/
  gathered : List Nat
  deriving DecidableEq, Repr

end Sys2Proof.Machine
end

