-- ==== Sys2Proof/Syntax.lean ====
section
/-! DEFINITION. The commands of the T2448 block: one constructor per row of spec/opcode_table.json, with what arrives with it. -/

namespace Sys2Proof

open Sys2Proof.Machine

/-- The twelve straps as the pins read them (R377, R458). -/
structure Straps where
  thimble : Nat
  portmode : Nat
  cap : Nat
  profile : Nat
  bootport : Nat
  tick : Nat
  deriving DecidableEq, Repr

/-- What channel training found on one channel (R269, R270): the lanes that failed, and whether it locked. -/
structure Trained where
  ch : Nat
  failed : List Nat
  locked : Bool
  deriving DecidableEq, Repr

/-- Where the firmware sets its regions after the zero fill (R378 step 7): the addresses it writes to the region registers. -/
structure Regions where
  mbox : Nat
  freeList : Nat
  refcnt : Nat
  pdir : Nat
  grammar : Nat
  census : Nat
  hem : Nat
  errlog : Nat
  save : Nat
  arena : Nat
  arenaEnd : Nat
  deriving DecidableEq, Repr

/-- The bits a read finds in error (R98, R253, R254, R261): each beat of a stack line, or word of an on-die store, that has any, with the places of its bits. A beat's places are the lanes 0 to 81. -/
abbrev LineError := List (Nat × List Nat)

/-- What a line access does (R252, R265). -/
inductive LineOp where
  | read
  | write (bytes : List Byte)
  deriving DecidableEq, Repr

/-- A storage error an engine meets while it works. -/
inductive SramError where
  | clean
  | corrected
  | uncorrectable
  deriving DecidableEq, Repr

/-- The storage errors a stitcher meets while it streams a chunk (R81, R90, R92, R98): a parity failure of a table word, errors its accumulator file corrects, one it cannot correct, an error in a staged weight word; and whether the weight FIFO ran empty, so that no row issued. -/
structure StreamErrors where
  parity : Bool
  corrected : Nat
  uncorrectable : Bool
  staged : SramError
  empty : Bool
  /-- the zipper has not selected the next column yet (R125) -/
  unzipped : Bool
  deriving DecidableEq, Repr

/-- Storage errors of the spool codec (R295), by the segment that a winder or unwinder works on: a word of a winder's buffer or of a decode table. -/
abbrev CodecErrors := List (Nat × SramError)

/-- The storage errors a transfer of the shuttle meets: lines of which a word of the read-ahead buffer is uncorrectable, by line number (spec/13 registers), and those of the codec. -/
structure MoveErrors where
  lost : List Nat
  codec : CodecErrors
  deriving DecidableEq, Repr

/-- A transfer without an error. -/
def MoveErrors.clean : MoveErrors := ⟨[], []⟩

/-- A stream without an error. -/
def StreamErrors.clean : StreamErrors := ⟨false, 0, false, .clean, false, false⟩

/-- A Kralyn message as received (R361 to R363): its header fields, payload as plaintext, and tag; with the identifiers of the device that owns its source address and of the one it is addressed to. -/
structure KrMsg where
  level : Nat
  src : Nat
  dst : Nat
  conn : Nat
  channel : Nat
  csn : Nat
  aux : Nat
  flags : Nat
  tape : Nat
  payload : List Byte
  tag : List Byte
  /-- interface the message came in on -/
  port : Nat
  iface : Nat
  deriving DecidableEq, Repr

/-- A Tape exchange as it ends at a member (R356, R357): the four times and the corrections, in 2^-16 ns. -/
structure Exchange where
  t1 : Int
  t2 : Int
  t3 : Int
  t4 : Int
  corrS : Int
  corrD : Int
  /-- from the standby rather than the primary timekeeper -/
  standby : Bool
  icvOk : Bool
  /-- sequenceIds of the Sync, its Follow_Up, the Delay_Req and its Delay_Resp -/
  syncId : Nat
  followId : Nat
  reqId : Nat
  respId : Nat
  deriving DecidableEq, Repr

/-- What the thimble reads for a sample (R421, R460): the sensors of channels 0 to 9, and what each device of the board-sensor bus that acknowledges reports, by its 7-bit address: a regulator its READ_PIN in 1/8 W, a sensor its value. A read may be displaced past the end of its round by a write of VCORE (R464): its address stands in late. -/
structure ThReads where
  die : List (Option Int)
  bus : List (Nat × Int)
  late : List Nat
  deriving DecidableEq, Repr

/-- A frame as the thimble sees it on interface 0 of F0 (R431): its destination, its EtherType and its MAC client data. -/
structure MacFrame where
  dest : Nat
  etherType : Nat
  data : List Byte
  deriving DecidableEq, Repr

/-- What the Falcon-1024 standard says of the signatures that a command meets (R394; log entry 3): public key, message and signature of each that verifies. -/
abbrev Verified := List (List Byte × List Byte × List Byte)

/-- A received Ethernet frame as the MAC sees it (R317, R318). -/
structure Frame where
  back : Bool
  port : Nat
  iface : Nat
  size : Nat
  fcsOk : Bool
  fecCorrected : Nat
  fecOk : Bool
  /-- VLAN tag, none when untagged -/
  vid : Option Nat
  kind : Nat
  fragment : Bool
  checksumOk : Bool
  udpPort : Nat
  /-- the address a Neighbour Solicitation or ARP request asks for, least byte first -/
  target : Nat
  deriving DecidableEq, Repr

/-- The commands. -/
inductive Instr where
  | resetNAssert
  | coldBoot (straps : Straps)
  | railFailure (rail : Nat)
  | railRetry (failing : Option Nat)
  | clk100Loss
  | refclkLoss (back : Bool)
  | linkStateChange (back : Bool) (port iface : Nat) (up : Bool)
  | memTrainingComplete (results : List Trained)
  | zeroFillComplete (regions : Regions)
  | bootSolicit
  | bootOffer (d : Datagram) (a : Arrival)
  | bootRequestTimeout (offset : Nat)
  | bootBlock (d : Datagram) (a : Arrival) (sigOk : Verified) (recordOk : Bool)
  | warmReset (recordOk : Bool)
  | controllerRestart
  | watchdogExpiry
  | privateMemoryUncorrectable
  | tickEdge
  | planSeal
  | planCommitWrite (entries : List PlanEntry)
  | planFreezeTimeout
  | missedTickLimit
  | executionBegin
  | cowCopyComplete (seq layer : Nat) (e : MoveErrors)
  | emissionGuard
  | stitcherTakePiece (panel stitcher : Nat) (table : CodecErrors)
  | tableBuild (panel stitcher : Nat) (staged : SramError)
  | chunkStreamStart (panel stitcher : Nat) (e : StreamErrors)
  | accBankSwap (panel stitcher : Nat) (badRecords fixedRecords : List Nat)
  | queueStoreUncorrectable (panel : Nat)
  | seamRecordL1 (panel : Nat) (port : Option Nat) (windowBad : Bool)
  | seamRecordL2 (panel : Nat) (storeBad : Bool)
  | seamReserve (step : Nat)
  | barrierRelease (step : Nat)
  | seamOperationClose (step : Nat) (censusBad : Option Nat) (storeBad : List (Nat × Nat × Nat))
  | stepCommit (step : Nat)
  | samplerDraw (step seq : Nat) (grammarBad : Bool)
  | gateRouting (step : Nat)
  | expertPieceExpansion (step : Nat)
  | denseCommand (panel : Nat) (err : SramError)
  | attentionCommand (panel : Nat) (err : SramError) (e : MoveErrors)
  | embeddingGather (panel : Nat) (err : SramError)
  | vectorProgram (panel : Nat) (err : SramError)
  | vNop (panel : Nat)
  | vAdd (panel d a b : Nat)
  | vSub (panel d a b : Nat)
  | vMul (panel d a b : Nat)
  | vFma (panel d a b c : Nat)
  | vMax (panel d a b : Nat)
  | vMin (panel d a b : Nat)
  | vExp (panel d a : Nat)
  | vRcp (panel d a : Nat)
  | vRsq (panel d a : Nat)
  | vDiv (panel d a b : Nat)
  | vLd (panel d a : Nat)
  | vSt (panel d a : Nat)
  | vRsum (panel d a : Nat)
  | vRmax (panel d a : Nat)
  | vPhase (panel : Nat)
  | pageWrite (e : MoveErrors)
  | hemWriteComplete
  | pageWaitLimit (seq : Nat)
  | shuttleDescHead (ch : Nat)
  | shuttleTriggerFire (ch : Nat)
  | shuttleCopy (ch : Nat) (e : MoveErrors)
  | shuttleFill (ch : Nat)
  | shuttleCompare (ch : Nat) (e : MoveErrors)
  | pageListGather (ch : Nat) (e : MoveErrors)
  | reduceInto (ch : Nat) (e : MoveErrors)
  | shuttleWind (ch : Nat) (e : MoveErrors)
  | shuttleUnwind (ch : Nat) (e : MoveErrors)
  | shuttleDescComplete (ch : Nat)
  | shuttleBusError (ch : Nat) (addr : Nat)
  | shuttleResume
  | addI32 (who : Requester) (addr v : Nat)
  | addF32 (who : Requester) (addr v : Nat)
  | minI32 (who : Requester) (addr v : Nat)
  | maxI32 (who : Requester) (addr v : Nat)
  | minF32 (who : Requester) (addr v : Nat)
  | maxF32 (who : Requester) (addr v : Nat)
  | andOp (who : Requester) (wide : Bool) (addr v : Nat)
  | orOp (who : Requester) (wide : Bool) (addr v : Nat)
  | cas (who : Requester) (wide : Bool) (addr compare v : Nat)
  | refInc (who : Requester) (addr : Nat)
  | refDec (who : Requester) (addr : Nat)
  | memoryAccess (who : Requester) (addr ctx : Nat) (op : LineOp) (err : LineError) (step : Option (Nat × Nat))
  | patrolScrub (line : Nat) (err : LineError)
  | laneFailing (ch lane : Nat) (lockLost : Bool)
  | retrain (ch : Nat)
  | retrainComplete (ch : Nat)
  | marginRunEnd (ch beats mismatches : Nat)
  | marginRotation (dir toff voff dwell : Nat)
  | ethernetFrameReceive (f : Frame)
  | obushDatagramReceive (d : Datagram) (a : Arrival) (table : SramError)
  | obushRetransmitTimeout (mailbox session : Nat)
  | bootMessageReceive (d : Datagram) (a : Arrival)
  | wakeFrame (f : MacFrame)
  | sleepEntryComplete
  | thimbleSample (r : ThReads)
  | thermalTrip (die : Nat)
  | powerMonitorSample (watts : Nat)
  | droopTrip
  | droopEnd
  | monitorSample (m : Nat) (event : Nat)
  | quarantinePauseExpire (model : Nat)
  | kralynTxDesc (ring : Nat)
  | kralynConnectReceive (k : KrMsg)
  | kralynAcceptReceive (k : KrMsg)
  | kralynRefuseReceive (k : KrMsg)
  | kralynDataReceive (k : KrMsg) (table : SramError)
  | kralynAckReceive (k : KrMsg)
  | kralynCloseReceive (k : KrMsg)
  | kralynCapReceive (k : KrMsg)
  | kralynRetransmitTimeout (conn : Nat)
  | kralynConnectionLoss (conn : Nat)
  | tapeSyncSend
  | tapeSyncReceive (x : Exchange)
  | tapeDelayReqReceive (member seq : Nat) (icvOk : Bool)
  | tapeExchangeComplete (x : Exchange)
  | joinStep
  | timekeeperSwitch
  | firmwareUpdatePauseEnd
  | deviceInfo (r : Req)
  | deviceTick (r : Req)
  | devicePlan (r : Req)
  | devicePort (r : Req)
  | deviceAddr (r : Req)
  | deviceReset (r : Req)
  | deviceStatus (r : Req)
  | tenantCreate (r : Req)
  | tenantDestroy (r : Req)
  | tenantReset (r : Req)
  | tenantSet (r : Req)
  | tenantQuery (r : Req)
  | budgetSet (r : Req)
  | budgetQuery (r : Req)
  | noticeRoute (r : Req)
  | noticeQuery (r : Req)
  | modelStage (r : Req)
  | modelPut (r : Req)
  | modelLoad (r : Req) (sigOk : Verified)
  | modelUnload (r : Req)
  | modelScale (r : Req)
  | modelQuery (r : Req)
  | modelRestore (r : Req)
  | modelReplica (r : Req)
  | grammarLoad (r : Req) (sigOk : Verified)
  | grammarUnload (r : Req)
  | seqOpen (r : Req)
  | seqFeed (r : Req) (flags : Nat)
  | seqCancel (r : Req)
  | seqQuery (r : Req)
  | seqAllow (r : Req)
  | prefixPin (r : Req)
  | prefixUnpin (r : Req)
  | prefixQuery (r : Req)
  | powerCap (r : Req)
  | powerCoord (r : Req)
  | powerSleep (r : Req)
  | powerQuery (r : Req)
  | powerEnergy (r : Req)
  | memorySlice (r : Req)
  | memoryHem (r : Req)
  | memoryMargin (r : Req)
  | memoryQuery (r : Req)
  | fabricJoin (r : Req)
  | fabricLeave (r : Req)
  | fabricQuery (r : Req)
  | monitorSet (r : Req)
  | monitorRead (r : Req)
  | monitorClear (r : Req)
  | monitorRegs (r : Req)
  | firmwarePut (r : Req)
  | firmwareUpdate (r : Req) (sigOk : Verified)
  | attestCerts (r : Req)
  | attestQuote (r : Req)
  | attestSession (r : Req) (certOk : Verified)
  | maintRow (r : Req)
  | maintFuse (r : Req)
  | maintRread (r : Req)
  | maintDebug (r : Req)
  | tickPeriodNextWrite (value : Word)
  | memRetrainStart (value : Word)
  | chMarginStart (slice ch : Nat) (value : Word)
  | chCtrlEnable (ch : Nat) (value : Word)
  | chCtrlResume (ch : Nat) (value : Word)
  | chTailWrite (ch : Nat) (value : Word)
  | krTxCtrlEnable (ring : Nat) (value : Word)
  | krTxTailWrite (ring : Nat) (value : Word)
  | krRxCtrlEnable (channel : Nat) (value : Word)
  | krRxHeadWrite (channel : Nat) (value : Word)
  | mboxRelease (mailbox : Nat) (value : Word)
  | errlogHeadWrite (value : Word)
  | bucketLevelWrite (tenant : Nat) (value : Word)
  | monCfgWrite (monitor : Nat) (value : Word)
  | thWdogPet (value : Word)
  | regionEnableWrite (addr : Nat) (value : Word)
  | counterCtrlClear (addr : Nat) (value : Word)
  | registerWrite (addr : Nat) (value : Word)
  | tapInstruction (op : Nat)
  | modeChangeComplete (back : Bool) (port : Nat)
  | unknownCommand (r : Req) (code : Nat)
  | core2PlannerHelp
  deriving DecidableEq, Repr

end Sys2Proof
end

