-- ==== Sys2Proof/Decode.lean ====
section
/-! DEFINITION. The command a word of the opcode table spells. No row of this block's table gives bits: its commands are register accesses, messages, events and pins, so no word spells one. -/

namespace Sys2Proof

/-- The command that the low nbits bits of w spell: none, as the table gives no row any bits. -/
def decodeTableWord (_nbits _w : Nat) : Option Instr := none

end Sys2Proof
end

