-- ==== Sys2Proof/Config.lean ====
section
/-! DEFINITION. What the T2448 specification leaves free: values it does not give, and functions it takes from outside standards. Each is an opaque constant without a body, so no proof can rest on a value of it. -/

namespace Sys2Proof

/-- A value the specification does not state, one for each count of the state's free-value counter (log entry 2). -/
opaque Config.freeValue : Nat → Word

/-- SHAKE256 (R393, R399, R333): the digest of a byte string; the standard is outside the specification (log entry 3). -/
opaque Config.shake256 : List Byte → List Byte

/-- The AES-256-GCM tag (R321, R362, R404) of a key, a nonce, additional authenticated data and a plaintext (log entry 3). -/
opaque Config.gcmTag : List Byte → List Byte → List Byte → List Byte → List Byte

/-- What a 16-byte block of AES-256-XTS reads as when it was encrypted under one key context and is decrypted under another (R405, R406): writer's context, reader's context, the block's address, the block (log entry 4). -/
opaque Config.xtsMix : Nat → Nat → Nat → BitVec 128 → BitVec 128

/-- The IPv6 link-local address derived from a MAC address (R317), least byte first: the derivation is not given (log entry 111). -/
opaque Config.linkLocal : Nat → BitVec 128

/-- The bytes of a tape-exchange message with correctionField and ICV zero (R356, R404), of its sender, receiver, messageType, sequenceId and time: IEEE 1588-2019 lays them out, outside the specification (log entry 3). -/
opaque Config.tapeMessage : Nat → Nat → Nat → Nat → Nat → List Byte

/-- A Falcon-1024 signature (R394, R400, R402): of the key generated from a seed, over a message, with a draw of the random source (log entry 3). -/
opaque Config.falconSign : List Byte → List Byte → Word → List Byte

/-- ML-KEM-1024 encapsulation (R402): the encapsulation key and a draw of the on-die random source give a ciphertext (log entry 3). -/
opaque Config.kemCiphertext : List Byte → Word → List Byte

/-- ML-KEM-1024 encapsulation (R402): the shared secret (log entry 3). -/
opaque Config.kemShared : List Byte → Word → List Byte

/-- ML-KEM-1024 decapsulation (R398): by the key of a d and z, the shared secret of a ciphertext (log entry 3). -/
opaque Config.kemOpen : List Byte → List Byte → List Byte

/-- The ML-KEM-1024 encapsulation key of a d and z (R393, R395; log entry 3). -/
opaque Config.kemKey : List Byte → List Byte

/-- The contents of the boot ROM (R399, M0), which no rule gives (log entry 3). -/
opaque Config.romContents : List Byte

/-- Spare rows of a bank as it leaves manufacture, banks counted over the device (R278): the number is not given (log entry 67). -/
opaque Config.spareRows : Nat → Nat

/-- The 256 bytes that report spare rows left and lane-fuse records (maint.rread of spec/15_obush_commands.md): their layout is not given (log entry 67). -/
opaque Config.repairReport : List Nat → List (List Nat) → List Byte

/-- What reading an internal test register gives from the maintenance mailbox (R341, R390): the specification describes no register there (log entry 5). -/
opaque Config.testRegister : Nat → Word

end Sys2Proof
end

