-- ==== Sys2Proof/Machine/RegMap.lean ====
section
/-! DEFINITION. The register map: every register of the T2448, its address as an offset from 0x3000_0000_0000 (R390), its fields, their access codes (R8), their reset values and the limits a write of the field obeys. -/

namespace Sys2Proof.Machine

/-- Access codes of R8. -/
inductive Access where
  | ro   -- read only
  | rw   -- read and write
  | w1c  -- a 1 written clears the bit
  | wo   -- reads as zero; the write acts as the field's Meaning defines
  deriving DecidableEq, Repr

/-- What a write of an RW field outside its stated values does. -/
inductive WRule where
  | any                  -- every value is taken
  | within (lo hi : Nat) -- a value outside lo to hi is ignored
  | zeroAsOne            -- a write of 0 is taken as 1
  | ladder               -- a value off the frequency ladder of R412 is ignored
  deriving DecidableEq, Repr

/-- One field of a register, bits hi down to lo. -/
structure Field where
  hi : Nat
  lo : Nat
  acc : Access
  reset : Nat
  rule : WRule
  deriving DecidableEq, Repr

/-- One register, or an array of registers: n1 copies at stride s1, each with n2 copies at stride s2. -/
structure RegDesc where
  name : String
  off : Nat
  s1 : Nat
  n1 : Nat
  s2 : Nat
  n2 : Nat
  fields : List Field
  deriving DecidableEq, Repr

/-- A read-only field. -/
def fRO (hi lo reset : Nat) : Field := ⟨hi, lo, .ro, reset, .any⟩
/-- A read-write field that takes every value. -/
def fRW (hi lo reset : Nat) : Field := ⟨hi, lo, .rw, reset, .any⟩
/-- A read-write field that ignores values outside a range. -/
def fRWr (hi lo reset a b : Nat) : Field := ⟨hi, lo, .rw, reset, .within a b⟩
/-- A read-write field that takes 0 as 1. -/
def fRWz (hi lo reset : Nat) : Field := ⟨hi, lo, .rw, reset, .zeroAsOne⟩
/-- A read-write field that takes ladder values only. -/
def fRWl (hi lo reset : Nat) : Field := ⟨hi, lo, .rw, reset, .ladder⟩
/-- A write-one-to-clear field. -/
def fW1C (hi lo : Nat) : Field := ⟨hi, lo, .w1c, 0, .any⟩
/-- A write-only field. -/
def fWO (hi lo : Nat) : Field := ⟨hi, lo, .wo, 0, .any⟩

/-- A single register. -/
def reg1 (name : String) (off : Nat) (fields : List Field) : RegDesc := ⟨name, off, 1, 1, 1, 1, fields⟩
/-- An array of registers. -/
def regN (name : String) (off s n : Nat) (fields : List Field) : RegDesc := ⟨name, off, s, n, 1, 1, fields⟩
/-- A 64-bit counter field, read-only, reset 0. -/
def ctr : List Field := [fRO 63 0 0]
/-- A counter-control register with n overflow bits. -/
def ctrl (n : Nat) : List Field := [fWO 63 63, fW1C (n - 1) 0]

/-- The distance between register blocks (R390). -/
def blockSize : Nat := 0x100000

/-- Block 0x00: system registers, spec/17_controller_boot_tenants.md. -/
def regsSystem : List RegDesc := [
  reg1 "SYS_ID" 0x000 [fRO 63 0 0],
  reg1 "SYS_STATUS" 0x008 [fRO 63 61 0, fRO 60 59 0],
  reg1 "SYS_STRAPS" 0x010 [fRO 11 11 0, fRO 10 9 0, fRO 8 6 4, fRO 5 4 0, fRO 3 2 0, fRO 1 0 0],
  reg1 "RESET_CAUSE" 0x018 [fRO 63 61 0, fRO 60 57 0],
  reg1 "CTL_LOAD" 0x020 [fRO 63 56 0, fRO 55 48 0, fRO 47 40 0],
  reg1 "FW_VERSION" 0x028 [fRO 39 32 0, fRO 31 0 0],
  regN "SYS_COUNTERS" 0x030 8 4 ctr,
  reg1 "SYS_COUNTER_CTRL" 0x050 (ctrl 4)]

/-- Block 0x00: level-2 seam nodes, spec/06_seam_tree.md. -/
def regsSeam2 : List RegDesc := [
  regN "L2_RECORDS_COUNT" 0x20000 0x1000 8 ctr,
  regN "L2_RESERVED" 0x20008 0x1000 8 [fRO 19 0 0],
  ⟨"L2_COUNTERS", 0x20010, 0x1000, 8, 8, 4, ctr⟩,
  regN "L2_COUNTER_CTRL" 0x20030 0x1000 8 (ctrl 6),
  regN "L2_SEAM_FAULT" 0x20038 0x1000 8 [fW1C 63 63, fRO 62 59 0, fRO 58 47 0, fRO 46 43 0, fRO 23 0 0]]

/-- Block 0x00: census combiner, spec/07_census_and_replay.md. -/
def regsCensus : List RegDesc := [
  reg1 "CENSUS_BASE" 0x30000 [fRW 63 63 0, fRW 47 12 0],
  reg1 "CENSUS_DEFAULTS" 0x30008 [fRWr 12 8 12 4 20, fRWr 7 0 18 16 32],
  reg1 "CENSUS_INUSE" 0x30010 [fRO 11 0 0],
  regN "CENSUS_COUNTERS" 0x30018 8 4 ctr,
  reg1 "CENSUS_COUNTER_CTRL" 0x30038 (ctrl 4)]

/-- Block 0x00: pages, reference counts and hem pool, spec/09_kv_cache.md. PAGE_LOW resets to 1% of the installed pages of a T2448-64Q; COLD_BOOT writes the part's own figure. -/
def regsPages : List RegDesc := [
  reg1 "PAGE_FREELIST" 0x40000 [fRW 63 63 0, fRW 47 12 0],
  reg1 "REFCNT_BASE" 0x40008 [fRW 63 63 0, fRW 47 12 0],
  reg1 "PAGE_STATE" 0x40010 [fRO 56 32 0, fRO 24 0 0],
  reg1 "PAGE_LOW" 0x40018 [fRW 24 0 251658],
  reg1 "HEM_POOL" 0x40020 [fRW 63 63 0, fRWr 56 48 64 16 256, fRW 47 20 0],
  reg1 "HEM_STATE" 0x40028 [fRO 18 0 0],
  regN "HEM_COUNTERS" 0x40030 8 7 ctr,
  reg1 "HEM_COUNTER_CTRL" 0x40068 (ctrl 7),
  reg1 "HEM_ERROR" 0x40070 [fW1C 63 63, fRO 62 60 0, fRO 59 48 0, fRO 31 0 0]]

/-- Block 0x00: memory-wide registers, spec/11_memory_system.md. -/
def regsMemory : List RegDesc := [
  reg1 "MEM_PART" 0x50000 [fRO 63 63 0, fRW 3 0 14],
  reg1 "MEM_STATUS" 0x50008 [fRO 63 63 0, fRO 62 62 0, fRO 61 61 0, fRO 17 9 0, fRO 8 0 0],
  reg1 "MEM_SCRUB" 0x50010 [fRW 63 63 1, fRWz 7 0 24],
  reg1 "MEM_RETRAIN" 0x50018 [fWO 63 63, fRO 62 62 0, fRWr 8 0 0 0 383],
  reg1 "MEM_LANE" 0x50020 [fRW 63 32 2000, fRWz 15 0 64],
  reg1 "OOR_COUNT" 0x50028 ctr,
  reg1 "MEM_COUNTER_CTRL" 0x50030 (ctrl 1)]

/-- Block 0x01: tick and plan engine, spec/01_tick_and_step_plan.md. -/
def regsTick : List RegDesc := [
  reg1 "TICK_PERIOD" 0x100000 [fRO 21 0 250000],
  reg1 "TICK_PERIOD_NEXT" 0x100008 [fRW 63 63 0, fRW 21 0 0],
  reg1 "TICK_INDEX" 0x100010 [fRO 63 0 0],
  reg1 "PLAN_BUDGET" 0x100018 [fRWr 55 48 15 0 40, fRO 31 0 0],
  reg1 "PLAN_CTRL" 0x100020 [fWO 63 63, fRW 15 0 0],
  reg1 "TICK_STATUS" 0x100028 [fRO 5 5 0, fRO 4 4 0, fRO 3 3 0, fRO 2 2 0, fRO 1 1 0, fRO 0 0 0],
  regN "TICK_COUNTERS" 0x100030 8 3 ctr,
  reg1 "COUNTER_CTRL" 0x100048 (ctrl 3)]

/-- Block 0x02: tape, spec/16_fabric.md. -/
def regsTape : List RegDesc := [
  reg1 "TAPE_NS" 0x200000 [fRO 63 0 0],
  reg1 "TAPE_FRAC" 0x200008 [fRO 15 0 0],
  reg1 "TAPE_STATUS" 0x200010 [fRO 63 63 0, fRO 62 62 0, fRO 61 61 0, fRO 60 60 0, fRO 59 59 0],
  reg1 "TAPE_OFFSET" 0x200018 [fRO 63 0 0],
  reg1 "TAPE_CFG" 0x200020 [fRWz 63 48 1000, fRWr 7 0 16 1 64],
  regN "TAPE_COUNTERS" 0x200028 8 2 ctr,
  reg1 "TAPE_COUNTER_CTRL" 0x200038 (ctrl 2)]

/-- Block 0x03: shuttle, spec/13_shuttle.md. Rings exist for channels 56 to 63 only. -/
def regsShuttle : List RegDesc := [
  reg1 "SHUTTLE_STATUS" 0x300000 [fRO 63 63 0, fRO 6 0 0],
  reg1 "SHUTTLE_ERROR" 0x300008 [fW1C 63 63, fRO 62 60 0, fRO 47 0 0],
  regN "SHUTTLE_COUNTERS" 0x300010 8 4 ctr,
  reg1 "SHUTTLE_COUNTER_CTRL" 0x300030 (ctrl 4),
  regN "CH_CTRL" 0x301700 0x20 8 [fRW 63 63 0, fWO 62 62, fRW 50 48 0, fRW 47 6 0],
  regN "CH_TAIL" 0x301708 0x20 8 [fRW 7 0 0],
  regN "CH_CQ" 0x301710 0x20 8 [fRW 47 5 0],
  regN "SH_CH_STATUS" 0x301018 0x20 64 [fRO 63 61 0, fRO 47 40 0, fRO 31 0 0]]

/-- Block 0x04: device codec, spec/12_spool_codec.md. -/
def regsCodec : List RegDesc := [
  reg1 "CODEC_STATUS" 0x400000 [fRO 20 16 0, fRO 4 0 0],
  reg1 "CODEC_PDIR" 0x400008 [fRW 63 63 0, fRW 47 12 0],
  regN "CODEC_COUNTERS" 0x400010 8 7 ctr,
  reg1 "CODEC_COUNTER_CTRL" 0x400048 (ctrl 7),
  reg1 "CODEC_FAULT" 0x400050 [fW1C 63 63, fRO 62 59 0, fRO 58 52 0, fRO 31 0 0]]

/-- Block 0x05: sampler and buckets, spec/10_serving.md. -/
def regsSampler : List RegDesc := [
  reg1 "SAMPLER_STATUS" 0x500000 [fRO 12 1 0, fRO 0 0 0],
  reg1 "GRAMMAR_BASE" 0x500008 [fRW 63 63 0, fRW 47 13 0],
  regN "SAMPLER_COUNTERS" 0x500010 8 7 ctr,
  reg1 "SAMPLER_COUNTER_CTRL" 0x500048 (ctrl 7),
  reg1 "SAMPLER_ERROR" 0x500050 [fW1C 63 63, fRO 62 60 0, fRO 59 48 0, fRO 47 40 0],
  regN "BUCKET_LEVEL" 0x501000 0x10 64 [fRW 39 0 0],
  regN "BUCKET_CFG" 0x501008 0x10 64 [fRWr 63 55 64 0 256, fRW 54 24 0, fRW 23 0 0]]

/-- Block 0x06: gate engine, spec/05_block_sparsity_and_routing.md. -/
def regsGate : List RegDesc := [
  reg1 "GATE_STATUS" 0x600000 [fRO 7 1 0, fRO 0 0 0],
  regN "GATE_COUNTERS" 0x600008 8 3 ctr,
  reg1 "GATE_COUNTER_CTRL" 0x600020 (ctrl 3),
  regN "GATE_LOAD" 0x601000 8 256 [fRO 31 0 0]]

/-- Block 0x07: monitors and error log, spec/20_errors_monitors_counters.md. -/
def regsMonitor : List RegDesc := [
  reg1 "ERR_CFG" 0x700000 [fRWr 47 32 2000 0 60000],
  reg1 "ERRLOG_BASE" 0x700008 [fRW 63 63 0, fRW 47 17 0],
  reg1 "ERRLOG_PTR" 0x700010 [fRO 43 32 0, fRW 11 0 0],
  regN "ERR_COUNTERS" 0x700018 8 4 ctr,
  reg1 "ERR_COUNTER_CTRL" 0x700038 (ctrl 4),
  reg1 "MON_ENABLE" 0x700040 [fRO 31 0 0],
  regN "MON_CFG" 0x701000 0x100 32 [fRW 63 63 0, fRW 55 48 0, fRW 47 32 0, fRW 31 16 0, fRW 15 8 0, fRW 1 1 0, fRW 0 0 0],
  regN "MON_LOW" 0x701008 0x100 32 [fRW 63 0 0],
  regN "MON_WIDTH" 0x701010 0x100 32 [fRW 63 0 0],
  regN "MON_FLAGS" 0x701018 0x100 32 [fRO 2 0 0],
  regN "MON_MIN" 0x701020 0x100 32 [fRO 63 0 0x7FFFFFFFFFFFFFFF],
  regN "MON_MAX" 0x701028 0x100 32 [fRO 63 0 0x8000000000000000],
  regN "MON_SAMPLES" 0x701030 0x100 32 ctr,
  regN "MON_SUM" 0x701038 0x100 32 ctr,
  ⟨"MON_BIN", 0x701040, 0x100, 32, 8, 16, [fRO 63 32 0, fRO 31 0 0]⟩]

/-- Block 0x08: power, spec/19_power_thermal_thimble.md. -/
def regsPower : List RegDesc := [
  reg1 "PWR_CAP" 0x800000 [fRO 63 63 0, fRW 47 32 1000, fRW 10 0 950],
  reg1 "PWR_FREQ" 0x800008 [fRO 47 32 800, fRWl 31 16 1800, fRO 15 0 1800],
  reg1 "PWR_MEAN" 0x800010 [fRO 31 0 0],
  reg1 "PWR_GATE" 0x800018 [fRO 63 63 0, fRWr 2 0 4 1 7],
  reg1 "PWR_PERF" 0x800020 [fRO 7 0 0],
  reg1 "PWR_SAVE" 0x800028 [fRW 63 63 0, fRW 47 20 0],
  regN "PWR_COUNTERS" 0x800030 8 5 ctr,
  reg1 "PWR_COUNTER_CTRL" 0x800058 (ctrl 5),
  regN "COEF" 0x800100 8 10 [fRO 31 0 0],
  regN "TENANT_ENERGY" 0x800200 8 64 ctr,
  reg1 "DEVICE_ENERGY" 0x800400 ctr]

/-- Block 0x09: security, spec/18_security.md. -/
def regsSecurity : List RegDesc := [
  reg1 "SEC_STATUS" 0x900000 [fRO 63 63 0, fRO 62 62 0, fRO 57 56 0, fRO 31 0 0],
  reg1 "SEC_FUSE" 0x900008 [fRO 63 32 0, fRO 31 0 0],
  reg1 "DEVICE_ID" 0x900010 [fRO 63 0 0],
  reg1 "KEY_PRESENT" 0x900018 [fRO 63 0 0],
  regN "SEC_COUNTERS" 0x900020 8 3 ctr,
  reg1 "SEC_COUNTER_CTRL" 0x900038 (ctrl 3),
  ⟨"MEASURE", 0x900100, 0x40, 4, 8, 8, [fRO 63 0 0]⟩,
  ⟨"TENANT_MEASURE", 0x900200, 0x40, 64, 8, 8, [fRO 63 0 0]⟩]

/-- The per-port registers of blocks 0x0A and 0x0B, spec/14_ports_and_obush_transport.md. -/
def regsPorts (base : Nat) : List RegDesc := [
  regN "PORT_CFG" (base + 0x2000) 0x100 4 [fRO 63 63 0, fRW 57 56 0, fRW 43 32 0],
  regN "PORT_STATUS" (base + 0x2008) 0x100 4 [fRO 7 0 0],
  ⟨"PORT_COUNTERS", base + 0x2010, 0x100, 4, 8, 6, ctr⟩,
  regN "PORT_COUNTER_CTRL" (base + 0x2040) 0x100 4 (ctrl 6)]

/-- Block 0x0A: Obush and front ports, spec/14_ports_and_obush_transport.md. -/
def regsObush : List RegDesc := [
  reg1 "OB_CTRL" 0xA00000 [fRW 63 63 0, fRW 62 62 0, fRWr 15 0 47120 1 65535],
  reg1 "MBOX_BASE" 0xA00008 [fRW 63 63 0, fRW 47 20 0],
  reg1 "OB_TIMERS" 0xA00010 [fRWz 55 48 8, fRW 47 32 1000, fRWr 23 0 50000 5000 10000000],
  regN "OB_COUNTERS" 0xA00018 8 10 ctr,
  reg1 "OB_COUNTER_CTRL" 0xA00068 (ctrl 10),
  regN "MBOX_STATE" 0xA01000 0x10 66 [fRO 40 32 0, fRO 24 16 0, fRO 8 0 256],
  regN "MBOX_CFG" 0xA01008 0x10 66 [fRW 63 63 0, fWO 62 62, fWO 23 16, fRWr 8 0 192 0 256]]

/-- Block 0x0B: Kralyn, spec/16_fabric.md. -/
def regsKralyn : List RegDesc := [
  reg1 "KR_CTRL" 0xB00000 [fRW 63 63 0, fRW 62 62 0, fRWr 15 0 47121 1 65535],
  reg1 "KR_TIMERS" 0xB00008 [fRWz 63 56 8, fRWr 55 40 2000 500 65535, fRWr 23 0 20000 5000 10000000],
  reg1 "FAB_STATUS" 0xB00010 [fRO 63 63 0, fRO 62 62 0, fRO 47 40 0, fRO 39 32 0, fRO 14 0 0],
  regN "KR_COUNTERS" 0xB00018 8 13 ctr,
  reg1 "KR_COUNTER_CTRL" 0xB00080 (ctrl 13),
  regN "KR_TX_CTRL" 0xB01000 0x20 8 [fRW 63 63 0, fRW 50 48 0, fRW 47 5 0],
  regN "KR_TX_TAIL" 0xB01008 0x20 8 [fRW 7 0 0],
  regN "KR_TX_CQ" 0xB01010 0x20 8 [fRW 47 4 0],
  regN "KR_TX_STATUS" 0xB01018 0x20 8 [fRO 63 61 0, fRO 7 0 0],
  regN "KR_RX_CTRL" 0xB01800 0x10 64 [fRW 63 63 0, fRW 50 48 0, fRW 47 10 0, fRO 7 0 0],
  regN "KR_RX_HEAD" 0xB01808 0x10 64 [fRW 7 0 0]]

/-- Block 0x0C: thimble mailbox, spec/19_power_thermal_thimble.md. TH_DT's default table is dtReset. -/
def regsThimble : List RegDesc := [
  reg1 "TH_STATUS" 0xC00000 [fRO 63 61 0, fRO 60 45 0],
  reg1 "TH_WDOG" 0xC00008 [fWO 63 63, fRWr 15 0 50 10 1000],
  reg1 "TH_THROTTLE" 0xC00010 [fRWl 11 0 1200],
  reg1 "TH_WAKE" 0xC00018 [fRO 63 0 0],
  reg1 "TH_CH15_ADDR" 0xC00020 [fRW 8 8 0, fRW 6 0 0],
  regN "TH_COUNTERS" 0xC00028 8 4 ctr,
  reg1 "TH_COUNTER_CTRL" 0xC00048 (ctrl 4),
  regN "TH_CH" 0xC00100 8 16 [fRO 63 48 0, fRO 47 32 0, fRO 31 31 0, fRW 2 0 3],
  regN "TH_DT" 0xC00200 8 16 [fRW 63 63 0, fRW 62 61 0, fRW 60 58 0, fRW 57 57 0, fRW 56 41 0, fRW 40 25 0, fRW 24 9 0]]

/-- Blocks 0x10 to 0x27: slices, spec/11_memory_system.md. -/
def regsSlice : List RegDesc := [
  regN "SLICE_STATUS" 0x1000000 blockSize 24 [fRO 63 63 0, fRO 8 4 2, fRO 3 0 14],
  ⟨"SLICE_COUNTERS", 0x1000008, blockSize, 24, 8, 6, ctr⟩,
  regN "SLICE_COUNTER_CTRL" 0x1000038 blockSize 24 (ctrl 6),
  regN "SLICE_ERROR" 0x1000040 blockSize 24 [fW1C 63 63, fRO 62 60 0, fRO 41 0 0],
  ⟨"CH_STATUS", 0x1001000, blockSize, 24, 0x20, 16, [fRO 63 63 0, fRO 62 62 0, fRO 61 61 0, fRO 60 60 0, fRO 59 58 0, fRO 57 51 127, fRO 50 44 127]⟩,
  ⟨"CH_MARGIN_CTRL", 0x1001008, blockSize, 24, 0x20, 16, [fWO 63 63, fRO 62 62 0, fRW 61 61 0, fRW 60 54 0, fRW 53 48 0, fRW 47 42 0, fRW 15 0 0]⟩,
  ⟨"CH_MARGIN_RESULT", 0x1001010, blockSize, 24, 0x20, 16, [fW1C 63 63, fRO 62 62 0, fRO 61 32 0, fRO 31 0 0]⟩]

/-- Blocks 0x40 to 0x6F: panels. Panel registers (chapter 04), zipper (05), level-1 seam node (06), finisher (07), stitchers (03), engines (08), unwinder (12). -/
def regsPanel : List RegDesc := [
  regN "PANEL_STATUS" 0x4000000 blockSize 48 [fRO 63 63 0, fRO 62 59 0, fRO 20 13 0],
  regN "QUEUE_STATE" 0x4000008 blockSize 48 [fRO 28 16 0, fRO 12 0 0],
  regN "STEAL_CTRL" 0x4000010 blockSize 48 [fRW 25 25 1, fRW 24 24 1, fRWz 15 8 8, fRWz 7 0 2],
  ⟨"PANEL_COUNTERS", 0x4000018, blockSize, 48, 8, 9, ctr⟩,
  regN "PANEL_COUNTER_CTRL" 0x4000060 blockSize 48 (ctrl 9),
  regN "PANEL_ERROR" 0x4000068 blockSize 48 [fW1C 63 63, fRO 55 52 0, fRO 20 0 0],
  ⟨"ZIP_COUNTERS", 0x4010000, blockSize, 48, 8, 6, ctr⟩,
  regN "ZIP_COUNTER_CTRL" 0x4010030 blockSize 48 (ctrl 6),
  regN "ZIP_FAULT" 0x4010038 blockSize 48 [fW1C 63 63, fRO 62 60 0, fRO 59 59 0, fRO 58 48 0, fRO 47 38 0, fRO 23 0 0],
  ⟨"SEAM_COUNTERS", 0x4020000, blockSize, 48, 8, 6, ctr⟩,
  regN "SEAM_COUNTER_CTRL" 0x4020030 blockSize 48 (ctrl 6),
  regN "SEAM_FAULT" 0x4020038 blockSize 48 [fW1C 63 63, fRO 62 59 0, fRO 58 47 0, fRO 46 43 0, fRO 23 0 0],
  ⟨"FIN_COUNTERS", 0x4030000, blockSize, 48, 8, 4, ctr⟩,
  regN "FIN_COUNTER_CTRL" 0x4030020 blockSize 48 (ctrl 4),
  regN "FIN_STATUS" 0x4030028 blockSize 48 [fRO 43 42 0, fRO 41 40 0, fRO 39 30 0, fRO 29 19 0, fRO 2 2 0, fRO 1 1 0, fRO 0 0 0],
  regN "STITCH_FAILED_LO" 0x4040000 blockSize 48 [fRO 63 0 0],
  regN "STITCH_FAILED_HI" 0x4040008 blockSize 48 [fRO 63 0 0],
  ⟨"STITCH_COUNTERS", 0x4040010, blockSize, 48, 8, 7, ctr⟩,
  regN "STITCH_COUNTER_CTRL" 0x4040048 blockSize 48 (ctrl 7),
  ⟨"STITCH_STATUS", 0x4041000, blockSize, 48, 0x10, 128, [fRO 39 16 0, fRO 6 6 0, fRO 5 5 0, fRO 4 4 0, fRO 3 3 0, fRO 2 0 0]⟩,
  ⟨"STITCH_ERROR", 0x4041008, blockSize, 48, 0x10, 128, [fW1C 63 63, fRO 39 16 0, fRO 5 4 0, fRO 3 0 0]⟩,
  regN "MX_STATUS" 0x4050000 blockSize 48 [fRO 40 32 0, fRO 31 8 0, fRO 7 4 0, fRO 1 1 0, fRO 0 0 0],
  ⟨"MXV_COUNTERS", 0x4050008, blockSize, 48, 8, 9, ctr⟩,
  regN "MXV_COUNTER_CTRL" 0x4050050 blockSize 48 (ctrl 9),
  regN "MX_ERROR" 0x4050058 blockSize 48 [fW1C 63 63, fRO 62 60 0, fRO 47 44 0, fRO 23 0 0],
  regN "UNW_STATUS" 0x4070000 blockSize 48 [fRO 1 1 0, fRO 0 0 0],
  ⟨"UNW_COUNTERS", 0x4070008, blockSize, 48, 8, 8, ctr⟩,
  regN "UNW_COUNTER_CTRL" 0x4070048 blockSize 48 (ctrl 8),
  regN "UNW_FAULT" 0x4070050 blockSize 48 [fW1C 63 63, fRO 62 59 0, fRO 58 52 0, fRO 31 0 0]]

/-- Every register of the device. -/
def regTable : List RegDesc :=
  regsSystem ++ regsSeam2 ++ regsCensus ++ regsPages ++ regsMemory ++ regsTick ++ regsTape ++ regsShuttle
    ++ regsCodec ++ regsSampler ++ regsGate ++ regsMonitor ++ regsPower ++ regsSecurity ++ regsObush
    ++ regsPorts 0xA00000 ++ regsKralyn ++ regsPorts 0xB00000 ++ regsThimble ++ regsSlice ++ regsPanel

/-- Does the register array hold the register at offset a? -/
def RegDesc.holds (d : RegDesc) (a : Nat) : Bool :=
  decide (d.off ≤ a) && decide ((a - d.off) / d.s1 < d.n1)
    && decide (((a - d.off) % d.s1) / d.s2 < d.n2) && decide (((a - d.off) % d.s1) % d.s2 = 0)

/-- The description of the register at offset a; none where the offset is reserved (R7). -/
def regAt (a : Nat) : Option RegDesc := regTable.find? (fun d => d.holds a)

/-- The bits of one field's reset value, in place. -/
def Field.resetBits (f : Field) : Nat := f.reset * 2 ^ f.lo

/-- The mask of one field. -/
def Field.mask (f : Field) : Nat := (2 ^ (f.hi + 1 - f.lo) - 1) * 2 ^ f.lo

/-- The default decision table of R425: entry, mask, SET and CLEAR in eighths of a degree, ACTION, WHEN, DIR 0. -/
def dtReset (e : Nat) : Nat :=
  let row (when_ act mask set clr : Nat) : Nat :=
    2 ^ 63 + when_ * 2 ^ 61 + act * 2 ^ 58 + mask * 2 ^ 41 + set * 2 ^ 25 + clr * 2 ^ 9
  match e with
  | 0 => row 0 1 0x00FF 800 760
  | 1 => row 0 3 0x00FF 880 720
  | 2 => row 0 1 0x0300 760 720
  | 3 => row 0 3 0x0300 840 680
  | 4 => row 1 4 0x0400 360 320
  | 5 => row 0 3 0x0400 440 360
  | _ => 0

/-- The reset value of the register at offset a; 0 where the offset is reserved (R7). -/
def regReset (a : Nat) : Word :=
  if 0xC00200 ≤ a ∧ a < 0xC00280 ∧ a % 8 = 0 then BitVec.ofNat 64 (dtReset ((a - 0xC00200) / 8))
  else match regAt a with
    | some d => BitVec.ofNat 64 (d.fields.foldl (fun acc f => acc + f.resetBits) 0)
    | none => 0

/-- A group of counters with its control register: the k-th counter stands at first + 8k and its overflow bit is bit k. -/
structure CtrGroup where
  first : Nat
  n : Nat
  ctrl : Nat
  stride : Nat
  copies : Nat
  skip : Option Nat
  deriving DecidableEq, Repr

/-- Every group of counters (R42, R94, R117, R142, R158, R179, R204, R229, R251, R280, R297, R313, R334, R373, R391, R409, R433, R450). -/
def ctrGroups : List CtrGroup := [
  ⟨0x30, 4, 0x50, 1, 1, none⟩,
  ⟨0x20000, 6, 0x20030, 0x1000, 8, some 1⟩,
  ⟨0x30018, 4, 0x30038, 1, 1, none⟩,
  ⟨0x40030, 7, 0x40068, 1, 1, none⟩,
  ⟨0x50028, 1, 0x50030, 1, 1, none⟩,
  ⟨0x100030, 3, 0x100048, 1, 1, none⟩,
  ⟨0x200028, 2, 0x200038, 1, 1, none⟩,
  ⟨0x300010, 4, 0x300030, 1, 1, none⟩,
  ⟨0x400010, 7, 0x400048, 1, 1, none⟩,
  ⟨0x500010, 7, 0x500048, 1, 1, none⟩,
  ⟨0x600008, 3, 0x600020, 1, 1, none⟩,
  ⟨0x700018, 4, 0x700038, 1, 1, none⟩,
  ⟨0x800030, 5, 0x800058, 1, 1, none⟩,
  ⟨0x900020, 3, 0x900038, 1, 1, none⟩,
  ⟨0xA00018, 10, 0xA00068, 1, 1, none⟩,
  ⟨0xA02010, 6, 0xA02040, 0x100, 4, none⟩,
  ⟨0xB00018, 13, 0xB00080, 1, 1, none⟩,
  ⟨0xB02010, 6, 0xB02040, 0x100, 4, none⟩,
  ⟨0xC00028, 4, 0xC00048, 1, 1, none⟩,
  ⟨0x1000008, 6, 0x1000038, blockSize, 24, none⟩,
  ⟨0x4000018, 9, 0x4000060, blockSize, 48, none⟩,
  ⟨0x4010000, 6, 0x4010030, blockSize, 48, none⟩,
  ⟨0x4020000, 6, 0x4020030, blockSize, 48, none⟩,
  ⟨0x4030000, 4, 0x4030020, blockSize, 48, none⟩,
  ⟨0x4040010, 7, 0x4040048, blockSize, 48, none⟩,
  ⟨0x4050008, 9, 0x4050050, blockSize, 48, none⟩,
  ⟨0x4070008, 8, 0x4070048, blockSize, 48, none⟩]

/-- The copy and index of counter a within its group. -/
def CtrGroup.index (g : CtrGroup) (a : Nat) : Option (Nat × Nat) :=
  if a < g.first then none
  else
    let i := (a - g.first) / g.stride
    let r := (a - g.first) - i * g.stride
    let i' := if g.copies = 1 then 0 else i
    let r' := if g.copies = 1 then a - g.first else r
    if i' < g.copies ∧ r' % 8 = 0 ∧ r' / 8 < g.n ∧ g.skip ≠ some (r' / 8) then some (i', r' / 8) else none

/-- The control register and the overflow bit of the counter at offset a. -/
def ctrlOf (a : Nat) : Option (Nat × Nat) :=
  ctrGroups.findSome? (fun g => (g.index a).map (fun ik => (g.ctrl + ik.1 * g.stride, ik.2)))

/-- The group and copy whose control register stands at offset c. -/
def groupOfCtrl (c : Nat) : Option (CtrGroup × Nat) :=
  ctrGroups.findSome? (fun g =>
    if c < g.ctrl then none
    else if g.copies = 1 then (if c = g.ctrl then some (g, 0) else none)
    else if (c - g.ctrl) % g.stride = 0 ∧ (c - g.ctrl) / g.stride < g.copies then some (g, (c - g.ctrl) / g.stride) else none)

/-- The counters that copy i of a group holds. -/
def CtrGroup.addrs (g : CtrGroup) (i : Nat) : List Nat :=
  ((List.range g.n).filter (fun k => decide (g.skip ≠ some k))).map (fun k => g.first + i * g.stride + 8 * k)

/-- The two ranges in which a copy of a group stands: its block number (R390). -/
def blockOf (a : Nat) : Nat := a / blockSize

end Sys2Proof.Machine
end

