-- ==== Sys2Proof/Machine/SysTypes.lean ====
section
/-! DEFINITION. Plain data of the boot, the security state, the fabric, Kralyn, power, the thimble, the pins and the operations that wait for an edge. -/

namespace Sys2Proof.Machine

/-- An outstanding REQUEST of the boot fetch (R379). -/
structure BootAsk where
  offset : Nat
  want : Nat
  /-- tape of the last sending -/
  sent : Nat
  resends : Nat
  deriving DecidableEq, Repr

/-- The boot fetch (R333, R378, R379, R381). -/
structure Boot where
  /-- the straps have been sampled and the ROM runs -/
  started : Bool
  /-- the service whose OFFER was taken -/
  service : Option Peer
  imageBytes : Nat
  blockBytes : Nat
  /-- offset the next REQUEST names -/
  nextOffset : Nat
  asked : List BootAsk
  /-- blocks received, by offset -/
  blocks : Sparse (List Byte)
  /-- tape from which SOLICIT may be sent -/
  solicitAt : Nat
  /-- a service ignored after a rejected image, until a tape -/
  ignored : List (Peer × Nat)
  /-- MSN of the next boot message the device sends -/
  txMsn : Nat
  /-- MSNs of boot messages taken (R333) -/
  seen : List Nat
  /-- the image was accepted and the firmware entered (step 6 of R378) -/
  entered : Bool
  deriving DecidableEq, Repr

/-- No fetch. -/
def Boot.none : Boot := ⟨false, Option.none, 0, 0, 0, [], [], 0, [], 0, [], false⟩

/-- What the controller's private memory and the security hardware hold (R374, R381, R392, R397 to R399). -/
structure Secure where
  /-- firmware image in the private memory, header included, before the trailer -/
  firmware : List Byte
  /-- write protection of the firmware region (R374) -/
  protected_ : Bool
  /-- the four measurements of R399 -/
  m0 : List Byte
  m1 : List Byte
  m2 : List Byte
  m3 : List Byte
  signerCert : List Byte
  ownerCert : List Byte
  fabricSecret : List Byte
  /-- shared secret of the owner record (R398) -/
  shared : List Byte
  /-- draw of the random source for the KEM certificate of this cold reset (R396) -/
  certDraw : Word
  /-- the unique device secret still reads as fused (R392) -/
  secretOpen : Bool
  /-- seed of the device identity key (R393) -/
  idSeed : List Byte
  /-- d and z of the device KEM key (R393) -/
  kemSeed : List Byte
  /-- an uncorrectable word stands in the firmware region, so step 2 of R383 fails -/
  damaged : Bool
  deriving DecidableEq, Repr

/-- Nothing bound. -/
def Secure.none : Secure := ⟨[], false, [], [], [], [], [], [], [], [], 0, true, [], [], false⟩

/-- A frequency a member has announced (R372), in kHz, and the edge it applies from. -/
structure CapNote where
  member : Nat
  khz : Nat
  index : Nat
  deriving DecidableEq, Repr

/-- A CONNECT that waits for a cache entry (R364): the peer, its connection id, random value, level agreed and highest level. -/
structure ConnWait where
  peer : Nat
  conn : Nat
  random : List Byte
  level : Nat
  highest : Nat
  deriving DecidableEq, Repr

/-- The partition and the time exchanges (R351 to R360, R372). -/
structure Fabric where
  id : Nat
  members : List Nat
  /-- the standby timekeeper that the first fabric.join named (R353) -/
  standby : Option Nat
  /-- partition period in ns -/
  period : Nat
  /-- the last valid exchanges, newest first: offset and delay in 2^-16 ns -/
  last : List (Int × Int)
  /-- valid exchanges since the join -/
  valid : Nat
  /-- consecutive exchanges whose filtered offset exceeds 100,000 ns -/
  wide : Nat
  /-- tape of the last valid exchange with the timekeeper in use -/
  seenAt : Nat
  /-- tape of the last valid exchange with either timekeeper -/
  anyAt : Nat
  /-- valid exchanges with the primary while on the standby -/
  back : Nat
  /-- tape rate correction: the rate is nominal × (1 + rho / (65,536 × 10^9)) (R357) -/
  rho : Int
  /-- what the rate has given beyond whole 2^-16 ns, in 10^-8 of one -/
  rest : Int
  /-- sequenceId of the next Sync -/
  syncSeq : Nat
  /-- a tape step waits for an edge (R354) -/
  stepDue : Bool
  /-- the tick that takes the step runs (R354) -/
  stepping : Bool
  /-- edges at or before this tape are skipped after a backward step (R354) -/
  skipTo : Nat
  /-- back interface the next connection is tried on first (R361): 8 × port + interface -/
  nextIf : Nat
  notes : List CapNote
  /-- the CAP last sent named this frequency in kHz -/
  sentCap : Nat
  /-- CONNECTs that wait for an entry that is being freed (R364, R365) -/
  waiting : List ConnWait
  /-- setups of the firmware's that wait for one: partition, peer, and what is to be sent -/
  wants : List (Nat × Nat × List (Nat × List Byte))
  deriving DecidableEq, Repr

/-- No partition. -/
def Fabric.none : Fabric := ⟨0, [], Option.none, 0, [], 0, 0, 0, 0, 0, 0, 0, 0, false, false, 0, 0, [], 0, [], []⟩

/-- Where a connection stands (R364, R365). -/
inductive ConnPhase where
  | free
  /-- CONNECT sent, no ACCEPT yet -/
  | connecting
  | open_
  /-- the device sent CLOSE -/
  | closing
  deriving DecidableEq, Repr

/-- A sequenced Kralyn message sent and unacknowledged, with the ring and slot of its descriptor (R366, R368). -/
structure KrSent where
  mtype : Nat
  csn : Nat
  header : List Byte
  payload : List Byte
  /-- tag as sent -/
  tag : List Byte
  origin : Option (Nat × Nat)
  deriving DecidableEq, Repr

/-- A connection-cache entry (R362 to R366). -/
structure Conn where
  phase : ConnPhase
  gen : Nat
  peer : Nat
  initiator : Bool
  /-- the peer's connection id, in full -/
  peerConn : Nat
  level : Nat
  random : List Byte
  key : List Byte
  salt : List Byte
  txNext : Nat
  rxNext : Nat
  ackNext : Nat
  ackSeen : Option Nat
  unacked : List KrSent
  /-- the peer's CLOSE has been delivered; it is acknowledged once nothing is unacknowledged -/
  closeDue : Bool
  timer : Nat
  /-- tape of the last advance of the acknowledgement -/
  advanced : Nat
  /-- retransmission timeout now in force -/
  rto : Nat
  used : Nat
  port : Nat
  iface : Nat
  /-- what the firmware sends to this peer as soon as the connection takes it: type and payload (R372, R441) -/
  due : List (Nat × List Byte)
  /-- the closing side's CLOSE has been sent -/
  closeSent : Bool
  /-- tape of the last acknowledgement sent, and whether one is owed (R326, R366) -/
  ackTape : Option Nat
  ackDue : Bool
  /-- highest level the peer speaks (R363, R370) -/
  peerLevel : Nat
  /-- the partition it was set up in (R363, R404) -/
  part : Nat
  deriving DecidableEq, Repr

/-- A free cache entry. -/
def Conn.none : Conn :=
  ⟨.free, 0, 0, false, 0, 0, [], [], [], 0, 0, 0, Option.none, [], false, 0, 0, 0, 0, 0, 0, [], false, Option.none, false, 0, 0⟩

/-- An entry given up: its generation rises for the next use of its index (R362). -/
def Conn.freed (c : Conn) : Conn := { Conn.none with gen := (c.gen + 1) % 2 ^ 18 }

/-- A Kralyn transmit ring beyond its registers (R368): the head slot, and the slots behind the head that have already completed. -/
structure TxRing where
  head : Nat
  done : List Nat
  deriving DecidableEq, Repr

/-- A ring at reset. -/
def TxRing.none : TxRing := ⟨0, []⟩

/-- The thimble beyond its registers (R421 to R432). -/
structure Thimble where
  /-- channels whose filter has taken its first sample (R422) -/
  primed : List Nat
  /-- the wake key it holds (R431) -/
  wakeKey : Option (List Byte)
  /-- frames held until sleep entry completes (R432) -/
  heldFrames : List MacFrame
  /-- CAUSE that the wake from sleep with memory off writes (R430) -/
  offCause : Nat
  /-- tape at which the watchdog expires -/
  wdogAt : Option Nat
  /-- a wake has started whose thermal notice is owed (R424) -/
  wakeNotice : Option (Nat × Nat)
  /-- tape times of the restarts since the first of four (R383) -/
  restarts : List Nat
  /-- tape of the last warm reset by escalation (R383) -/
  escalated : Option Nat
  /-- the restarted firmware has yet to write SEAL at an edge (R383) -/
  sealDue : Bool
  /-- the decision table as the last sample took it: TH_DT of each entry (R423) -/
  table : List Word
  deriving DecidableEq, Repr

/-- The thimble at reset. -/
def Thimble.none : Thimble := ⟨[], Option.none, [], 0, Option.none, Option.none, [], Option.none, false, (List.range 16).map (fun e => BitVec.ofNat 64 (dtReset e))⟩

/-- Pins and rails (R458 to R469). Rails in the order they are turned on: 0 VSTK1, 1 VSTK2, 2 VMIO, 3 VSRAM, 4 VCORE, 5 VSER_LO, 6 VSER_HI. -/
structure Pins where
  /-- RESET_N is low -/
  resetLow : Bool
  /-- FAULT_N is low -/
  faultLow : Bool
  rails : List Nat
  /-- consecutive rail failures (R463) -/
  failures : Nat
  /-- tape of the next power-up retry -/
  retryAt : Option Nat
  /-- the next cold boot follows a rail failure -/
  railCause : Bool
  /-- CLK100 was lost: every domain is held until RESET_N (R466) -/
  clockLost : Bool
  /-- reference clocks of the port dies run: front, back -/
  refFront : Bool
  refBack : Bool
  /-- instruction the TAP holds: 0 BYPASS, 1 IDCODE, 2 SAMPLE/PRELOAD, 3 EXTEST, 4 EXTEST_PULSE, 5 EXTEST_TRAIN, 6 and above private -/
  tap : Nat
  deriving DecidableEq, Repr

/-- A cap that waits for its edge (R412). -/
structure CapPending where
  cap : Nat
  window : Nat
  /-- tape of the edge -/
  edge : Nat
  deriving DecidableEq, Repr

/-- Power state beyond the registers (R411 to R417). -/
structure Power where
  cap : Option CapPending
  /-- consecutive estimates above P (R414) -/
  above : Nat
  droop : Bool
  /-- samples of measured input power in the window in force: tape and mW, newest first -/
  samples : List (Nat × Nat)
  /-- tapes at which gating and a droop began -/
  gateSince : Nat
  droopSince : Nat
  /-- lengthened clocks of the droop that runs, counted so far (R416) -/
  droopClk : Nat
  /-- tape of the last write of NEXT_MHZ (R464) -/
  nextAt : Nat
  deriving DecidableEq, Repr

/-- No cap pending, no samples. -/
def Power.none : Power := ⟨Option.none, 0, false, [], 0, 0, 0, 0⟩

/-- A warm reset that has been ordered (R342, R383): the cause, when it starts at the latest, and the response whose acknowledgement starts it. -/
structure WarmDue where
  cause : Nat
  by_ : Nat
  session : Nat
  msn : Nat
  /-- the response has been acknowledged (R342) -/
  acked : Bool
  deriving DecidableEq, Repr

/-- A firmware update in progress (R385): the image length, and whether the pause has begun. -/
structure Update where
  bytes : Nat
  paused : Bool
  deriving DecidableEq, Repr

/-- A global address of a front interface (device.addr). -/
structure IfAddr where
  port : Nat
  iface : Nat
  family : Nat
  prefix_ : Nat
  addr : List Byte
  deriving DecidableEq, Repr

end Sys2Proof.Machine
end

