-- ==== Sys2Proof/Machine/State.lean ====
section
/-! DEFINITION. The state of the T2448: every register, memory, queue, engine, table and pin, and the queue of waiting commands; its reset value. -/

namespace Sys2Proof.Machine

/-- Reasons the block stops with a fault. Nothing raises one: every error of the T2448 is state (R434). -/
inductive Fault where
  /-- Raised by nothing: kept so that the type is inhabited. Safe. -/
  | unreachable
  deriving DecidableEq, Repr

/-- Reasons a command is refused by the model itself. -/
inductive Refusal where
  /-- Raised by an arm of exec for a command that has no meaning yet. Safe. -/
  | notModelled (mnemonic : String)
  deriving DecidableEq, Repr

/-- What an atomic returned (R266, R267). -/
structure AtomicResult where
  old : Nat
  zero : Bool
  underflow : Bool
  poisoned : Bool
  /-- the atomic was out of range (R259) -/
  busError : Bool
  deriving DecidableEq, Repr

/-- The response of a memory access. -/
structure Resp where
  bytes : List Byte
  poison : Bool
  busError : Bool
  deriving DecidableEq, Repr

/-- A monitor's capture beyond its registers (R445, R446). -/
structure MonExtra where
  prev : Option Int
  first : Nat
  last : Nat
  maxTape : Nat
  deriving DecidableEq, Repr

/-- A monitor with no capture. -/
def MonExtra.none : MonExtra := ⟨Option.none, 0, 0, 0⟩

/-- A line in a slice's cache (R264, R406). -/
structure CacheLine where
  held : Bool
  ctx : Nat
  dirty : Bool
  deriving DecidableEq, Repr

/-- A line the cache does not hold. -/
def CacheLine.none : CacheLine := ⟨false, 0, false⟩

/-- A margin run in progress on a channel (R275 to R277). -/
structure MarginRun where
  lane : Nat
  rotation : Bool
  ends : Nat
  waiter : Option Waiter
  deriving DecidableEq, Repr

/-- A centred sampling point that the margin rotation found for a lane (R277): direction, timing offset, voltage offset. -/
structure LaneOffset where
  lane : Nat
  dir : Nat
  toff : Nat
  voff : Nat
  deriving DecidableEq, Repr

/-- A notice that carries a count for its tick (R157, R294): its type and source, the tape of the first event, the first event's fields, the last event's kind, and the events so far. It goes out at the next edge. -/
structure Tally where
  ntype : Nat
  source : Nat
  cause : Nat
  kind : Nat
  node : Nat
  slot : Nat
  piece : Nat
  count : Nat
  deriving DecidableEq, Repr

/-- The density breaches of one model in the tick: how many, and the tape and the model's owner at the first of them (R127). -/
structure Breach where
  count : Nat
  cause : Nat
  owner : Nat
  deriving DecidableEq, Repr

/-- No breach. -/
def Breach.none : Breach := ⟨0, 0, 0⟩

/-- The state. -/
structure State where
  /-- commands waiting, first in first out -/
  pending : List Instr
  fuse : Fuse
  straps : Straps
  /-- counter of free values used -/
  free : Nat
  /-- the tape in nanoseconds, and its fraction (R351) -/
  tape : Nat
  frac : Nat
  /-- registers by offset from 0x3000_0000_0000 -/
  regs : Sparse Word
  /-- memory of the device physical map, by address -/
  mem : List Host.Cell
  /-- poisoned units: lines of the stacks, 8-byte words on die, by first address, rising (R255, R435) -/
  poison : List Nat
  /-- key context each stack line was written under, by line address (R405) -/
  lineKey : Sparse Nat
  /-- generation of the device memory key (R392, R408) -/
  devKey : Nat
  cache : Sparse CacheLine
  lastAtomic : AtomicResult
  /-- margin runs by global channel -/
  margins : Sparse (Option MarginRun)
  /-- lanes marked failing that a spare will replace, as 128 × channel + lane, in the order they failed (R273) -/
  failing : List Nat
  /-- lanes failing in service because no spare was left, as 128 × channel + lane (R274) -/
  unspared : List Nat
  /-- corrected bits that the decoder attributed to lanes in the last 1,000,000 tape ns: 128 × channel + lane and tape, newest first (R273) -/
  laneBits : List (Nat × Nat)
  /-- centred offsets found by the rotation that wait for the channel's next retrain, by channel (R277) -/
  centred : Sparse (List LaneOffset)
  /-- centred offsets applied, by channel (R277) -/
  offsets : Sparse (List LaneOffset)
  /-- lines the patrol scrubber has read in this pass, and the tape at which the pass began (R257) -/
  scrubbed : List Nat
  scrubSince : Nat
  /-- requests that wait for a channel in retrain, in the order they came (R271) -/
  stalled : List Instr
  /-- sessions by 16 × mailbox index + session -/
  sessions : Sparse Session
  /-- mailbox slots by 256 × mailbox index + slot -/
  slotKinds : Sparse SlotKind
  /-- what left the device, newest first -/
  out : List Sent
  /-- NSN by source (R349) -/
  nsn : Sparse Nat
  /-- notices limited to one per tick already sent in this tick: type × 65,536 + key -/
  noticed : List Nat
  /-- density breaches of the tick by model: count, and tape and owner at the first (R127) -/
  breaches : Sparse Breach
  /-- seam-fault and codec-fault notices of the tick -/
  tallies : List Tally
  routes : Sparse Route
  tenants : Sparse Tenant
  stages : Sparse Stage
  models : Sparse Model
  grammars : Sparse Grammar
  seqs : Sparse Seq
  prefixes : Sparse Prefix
  /-- blocks the firmware has allotted, base and size, rising -/
  allotted : List (Nat × Nat)
  /-- the arena it allots from -/
  arena : Nat × Nat
  /-- the free list as runs of pages, first page and count -/
  freePages : List (Nat × Nat)
  /-- the deferred list: page and tag (R225) -/
  deferred : List (Nat × Nat)
  /-- pages that an uncorrectable reference count has leaked, until a warm reset recovers them (R228) -/
  leaked : List Nat
  kvJobs : List KvJob
  cowJobs : List CowJob
  /-- the plan list, and whether it is frozen -/
  plan : List PlanEntry
  frozen : Bool
  sealed : Bool
  /-- the tick is open to admission (R20) -/
  admits : Bool
  /-- edge of the current tick -/
  edge : Nat
  stepNext : Nat
  /-- panel after the last dealt to (R103) -/
  dealNext : Nat
  steps : List Step
  /-- tape at which the planning interval of the tick ended and execution began (R17, R40) -/
  execAt : Nat
  missedRun : Nat
  /-- predicted end E of the tick in core clocks from the edge (R172) -/
  predicted : Nat
  /-- admitted cost of the tick -/
  admitted : Cost
  /-- split threshold T (R109) -/
  split : Nat
  /-- lane-group table (R100) -/
  laneGroups : Sparse (List (Option Nat))
  slots : Sparse Slot
  panels : Sparse Panel
  nodes : Sparse Node2
  /-- routing requests waiting: step and operation -/
  gateQueue : List (Nat × Nat)
  /-- pieces and matrix commands that wait for room in a queue, in the order the plan engine expanded them (R103, R191) -/
  undealt : List QEntry
  undealtMat : List MatCmd
  /-- pieces whose next plan must be re-divided: models (R35) -/
  redivide : List Nat
  monitors : Sparse MonExtra
  /-- cancels whose sequence was freed before the edge that answers them, with the status to answer (R249) -/
  lateCancels : List (Waiter × Nat)
  /-- tenant the planner served last (R388) -/
  turn : Nat
  /-- tenant mailbox whose request the controller handled last (R337) -/
  boxTurn : Nat
  /-- models whose replay the planner predicted not to fit in this tick (R36) -/
  stretchModels : List Nat
  /-- models with admitted or continuing work in this tick (R38) -/
  worked : List Nat
  /-- tenants of the sequences of each step that ran in this tick, for R420 -/
  stepTenants : List (List Nat)
  /-- stack lines of firmware transfers and bits of Obush messages in this tick, by tenant, 64 for the device account (R420) -/
  caused : Sparse (Nat × Nat)
  /-- the emission guard of this tick has begun -/
  guarded : Bool
  /-- the tick's edge was skipped: it has no emission guard (R22, R39, R354) -/
  skipped : Bool
  /-- core 2 works for the planner (R375) -/
  core2 : Bool
  channels : Sparse Channel
  /-- edge and line of the last all-channel stop (R312) -/
  lastStop : Option (Nat × Nat)
  /-- response of the last MEMORY_ACCESS (R256, R259) -/
  lastResp : Resp
  /-- channels a retrain is ordered for and has not begun -/
  retrainDue : List Nat
  /-- tape of each channel's last training or retrain (R272) -/
  trainedAt : Sparse Nat
  /-- filtered temperature of its stack then, in 1/8 °C (R272, R421) -/
  trainedTemp : Sparse Int
  /-- tape at which the planner last ordered a scheduled retrain (R272) -/
  retrainLast : Nat
  /-- this tick's scheduled retrain has begun (R40) -/
  retrained : Bool
  /-- next channel of the margin rotation (R277) -/
  rotation : Nat
  /-- tape of the rotation's last visit to each channel, and the lane of its next one (R277) -/
  rotAt : Sparse Nat
  rotLane : Sparse Nat
  /-- lane-fuse records by global channel (R269, R278) -/
  laneFuse : Sparse (List Nat)
  /-- rows repaired, by 16 × global channel + bank (R278) -/
  repaired : Sparse Nat
  /-- a slice split waits for its edge (R263), and the tick in which it is applied runs -/
  slicePending : Option Nat
  repart : Bool
  boot : Boot
  /-- the zero fill is complete: the regions the firmware sets (R378 step 7) -/
  zeroRegions : Option Regions
  secure : Secure
  fabric : Fabric
  /-- connections by cache index -/
  conns : Sparse Conn
  txRings : Sparse TxRing
  /-- KR_RX_CTRL.TAIL counts by channel: slots delivered and not released -/
  rxHeld : Sparse Nat
  thimble : Thimble
  pins : Pins
  power : Power
  warmDue : Option WarmDue
  update : Option Update
  /-- base of the firmware stage (R385) -/
  fwStage : Option Nat
  /-- sleep state asked for, 0 none (R428) -/
  sleepTo : Nat
  addrs : List IfAddr
  deriving DecidableEq, Repr

/-- Channels have no margin run at reset. -/
def noMargin : Nat → Option MarginRun := fun _ => Option.none

/-- Fuse values of the modelled part: a T2448-64Q of class 2 whose OWNER_ID binds any owner (log entry 7). The coefficients are the nominal ones of R419 in fJ and mW; the voltages are those of the ladder of R412, 650 mV at 800 MHz and 800 mV at 1,800 MHz. -/
def fuseReset : Fuse :=
  { stackGiB := 64, perfClass := 2, ownerId := 0, romVersion := 1, deviceId := 1, macBase := 0,
    coef := [1126000, 11300, 790, 1200, 249, 996, 3640, 5000, 30000, 120000],
    ladder := (List.range 21).map (fun i => 650 + 15 * i / 2), identityCert := List.replicate 3137 0, manufacturingCert := List.replicate 3137 0, secret := List.replicate 32 0, rootDigest := List.replicate 64 0 }

/-- Pins as RESET_N is held low with the board's supplies up (R467): rails off, clocks running, the TAP in IDCODE as IEEE 1149.1 resets it (log entry 8). -/
def Pins.reset : Pins := ⟨true, false, [], 0, Option.none, false, false, true, true, 1⟩

/-- The machine at reset: RESET_N low, before the deassertion that COLD_BOOT is (R378, R382, R467). Every register holds its reset value, memory lists nothing, every queue and table is empty. -/
def State.reset : State :=
  { pending := [], fuse := fuseReset, straps := ⟨0, 0, 4, 0, 0, 0⟩, free := 0, tape := 0, frac := 0, regs := [], mem := [],
    poison := [], lineKey := [], devKey := 0, cache := [], lastAtomic := ⟨0, false, false, false, false⟩, margins := [], failing := [],
    unspared := [], laneBits := [], centred := [], offsets := [], scrubbed := [], scrubSince := 0, stalled := [], sessions := [], slotKinds := [], out := [], nsn := [], noticed := [], breaches := [], tallies := [], routes := [],
    tenants := [], stages := [], models := [], grammars := [], seqs := [], prefixes := [], allotted := [], arena := (0, 0),
    freePages := [], deferred := [], leaked := [], kvJobs := [], cowJobs := [], plan := [], frozen := false, sealed := false, admits := false,
    edge := 0, stepNext := 0, dealNext := 0, steps := [], execAt := 0, missedRun := 0, predicted := 0, admitted := ⟨0, 0, 0, 0⟩, split := 64,
    laneGroups := [], slots := [], panels := [], nodes := [], gateQueue := [], undealt := [], undealtMat := [], redivide := [], monitors := [], lateCancels := [],
    turn := 63, boxTurn := 63, stretchModels := [], worked := [], stepTenants := [], caused := [], guarded := false, skipped := false, core2 := false, channels := [],
    lastStop := none, lastResp := ⟨[], false, false⟩, retrainDue := [], trainedAt := [], trainedTemp := [], retrainLast := 0, retrained := false, rotation := 0, rotAt := [], rotLane := [], laneFuse := [], repaired := [],
    slicePending := none, repart := false, boot := Boot.none, zeroRegions := none, secure := Secure.none, fabric := Fabric.none, conns := [],
    txRings := [], rxHeld := [], thimble := Thimble.none, pins := Pins.reset, power := Power.none, warmDue := none,
    update := none, fwStage := none, sleepTo := 0, addrs := [] }

end Sys2Proof.Machine
end

