-- ==== Sys2Proof/Machine/Ops.lean ====
section
/-! DEFINITION. Named operations over registers and memory: reading and writing register fields, counters, the regions of the device physical map, reads and writes with poison and key contexts, the error log. -/

namespace Sys2Proof.Machine

/-- Take a free value (log entry 2). -/
def fresh (s : State) : Word × State := (Config.freeValue s.free, { s with free := s.free + 1 })

/-- Replace the registers. -/
def State.setRegs (s : State) (r : Sparse Word) : State := { s with regs := r }

/-- The stored value of the register at offset a. -/
def rd (s : State) (a : Nat) : Word := sget regReset s.regs a

/-- Store a register's value. -/
def wr (a : Nat) (v : Word) (s : State) : State := s.setRegs (sput regReset s.regs a v)

/-- A field of a register. -/
def rdF (s : State) (a hi lo : Nat) : Nat := getBits (rd s a) hi lo

/-- Set a field of a register. -/
def wrF (a hi lo v : Nat) (s : State) : State := wr a (setBits (rd s a) hi lo v) s

/-- A one-bit field. -/
def rdB (s : State) (a i : Nat) : Bool := getBit (rd s a) i

/-- Set a one-bit field. -/
def wrB (a i : Nat) (b : Bool) (s : State) : State := wr a (setBit (rd s a) i b) s

/-- Set a counter's overflow bit. -/
def setOverflow (a : Nat) (s : State) : State :=
  match ctrlOf a with
  | some (c, k) => wrB c k true s
  | none => s

/-- Count n events in the 64-bit counter at offset a: it saturates, and at 2^64 − 1 sets its overflow bit (R42, R447). -/
def bump (a n : Nat) (s : State) : State :=
  if n = 0 then s
  else if (rd s a).toNat + n < max64 then wr a (BitVec.ofNat 64 ((rd s a).toNat + n)) s
  else setOverflow a (wr a (BitVec.ofNat 64 max64) s)

/-- Block 0x40 + p. -/
def panelReg (p off : Nat) : Nat := 0x4000000 + p * blockSize + off
/-- Block 0x10 + n. -/
def sliceReg (n off : Nat) : Nat := 0x1000000 + n * blockSize + off
/-- Level-2 node n. -/
def node2Reg (n off : Nat) : Nat := 0x20000 + n * 0x1000 + off

/-- Installed stack capacity in bytes (R3). -/
def capacity (s : State) : Nat := 2 ^ 30 * (24 * s.fuse.stackGiB)
/-- Installed pages (R205). -/
def pageCount (s : State) : Nat := capacity s / 65536
/-- k of R262 in force. -/
def scratchMiB (s : State) : Nat := rdF s (sliceReg 0 0) 3 0
/-- First address of the scratchpad window. -/
def scratchBase : Nat := 0x200000000000
/-- Bytes of the scratchpad window at split k (R262). -/
def scratchSize (k : Nat) : Nat := 24 * k * 2 ^ 20
/-- First address of the panel buffers. -/
def panelBufBase : Nat := 0x210000000000
/-- First address of the registers. -/
def regBase : Nat := 0x300000000000

/-- Regions of the device physical map. -/
inductive Region where
  | stack
  | scratch
  | panelBuf (p off : Nat)
  | registers
  | none
  deriving DecidableEq, Repr

/-- The region an address lies in (R258, R259, R262, R390). -/
def regionOf (s : State) (a : Nat) : Region :=
  if a < capacity s then .stack
  else if scratchBase ≤ a ∧ a < scratchBase + scratchSize (scratchMiB s) then .scratch
  else if panelBufBase ≤ a ∧ a < panelBufBase + 48 * 0x200000 then
    .panelBuf ((a - panelBufBase) / 0x200000) ((a - panelBufBase) % 0x200000)
  else if regBase ≤ a ∧ a < regBase + 0x80 * blockSize then .registers
  else .none

/-- Is an address range wholly inside the scratchpad window? -/
def inScratch (s : State) (a n : Nat) : Bool :=
  decide (scratchBase ≤ a) && decide (a + n ≤ scratchBase + scratchSize (scratchMiB s))

/-- Is an address range wholly inside installed stack capacity? -/
def inStack (s : State) (a n : Nat) : Bool := decide (a + n ≤ capacity s)

/-- Is every byte of a range inside the stacks, the scratchpad or a panel buffer? -/
def inMemory (s : State) (a n : Nat) : Bool :=
  inStack s a n || inScratch s a n || (decide (panelBufBase ≤ a) && decide (a + n ≤ panelBufBase + 48 * 0x200000))

/-- Is a range wholly inside the registers (R390)? -/
def inRegisters (a n : Nat) : Bool := decide (regBase ≤ a) && decide (a + n ≤ regBase + 0x80 * blockSize)

/-- Is every byte of a range in a region of the device physical map (R259)? -/
def inMap (s : State) (a n : Nat) : Bool := inMemory s a n || inRegisters a n

/-- The global channel of a stack address (R258). -/
def channelOf (a : Nat) : Nat :=
  let g := a / 256
  (g % 384 + g / 384) % 384

/-- The channel-local address L of a stack address (R258). -/
def localOf (a : Nat) : Nat := a / 256 / 384 * 256 + a % 256
/-- The column of a stack address: L[10:0] (R258). -/
def columnOf (a : Nat) : Nat := localOf a % 2 ^ 11
/-- The bank of a stack address: L[14:11] XOR L[18:15] (R258). -/
def bankOf (a : Nat) : Nat := localOf a / 2 ^ 11 % 16 ^^^ localOf a / 2 ^ 15 % 16
/-- The row of a stack address: L from bit 15 up, 17 bits for the T2448-64Q and 16 for the T2448-32Q (R258). -/
def rowOf (s : State) (a : Nat) : Nat := localOf a / 2 ^ 15 % (if s.fuse.stackGiB = 64 then 2 ^ 17 else 2 ^ 16)

/-- The slice that serves an address (R258, R262). -/
def sliceOf (a : Nat) : Nat := if a < scratchBase then channelOf a / 16 else ((a - scratchBase) / 256) % 24

/-- The slice-local offset of a scratchpad address (R262). -/
def sliceOffset (a : Nat) : Nat := (a - scratchBase) / 256 / 24 * 256 + (a - scratchBase) % 256

/-- The unit that carries poison (R435): the 64-byte line of the stacks, the 8-byte word elsewhere. -/
def poisonUnit (a : Nat) : Nat := if a < scratchBase then a / 64 * 64 else a / 8 * 8

/-- The size of the unit that carries poison. -/
def poisonSize (a : Nat) : Nat := if a < scratchBase then 64 else 8

/-- A memory byte, unlisted bytes reading as zero (log entry 6). -/
def zeroByte : Nat → Byte := fun _ => 0

/-- The stored byte at an address. -/
def getByte (s : State) (a : Nat) : Byte := sget zeroByte s.mem a

/-- Store one byte. -/
def putByte (a : Nat) (b : Byte) (s : State) : State := { s with mem := sput zeroByte s.mem a b }

/-- Store bytes from an address on. -/
def putBytes : Nat → List Byte → State → State
  | _, [], s => s
  | a, b :: bs, s => putBytes (a + 1) bs (putByte a b s)

/-- The stored bytes of a range. -/
def getBytes (s : State) (a n : Nat) : List Byte := (List.range n).map (fun i => getByte s (a + i))

/-- The little-endian number stored in n bytes at an address (R6). -/
def peekLe (s : State) (a n : Nat) : Nat := ofLe (getBytes s a n)

/-- The device key context (R405). -/
def deviceCtx (s : State) : Nat := 128 * s.devKey

/-- The key context of tenant t; 64 is the shared owner, which is the device context (R405). -/
def tenantCtx (s : State) (t : Nat) : Nat :=
  if t ≥ 64 then deviceCtx s
  else 128 * (sget (fun _ => Tenant.none) s.tenants t).keyGen + 1 + t

/-- The context a stack line was last written under. -/
def ctxOf (s : State) (a : Nat) : Nat := sget (fun _ => 0) s.lineKey (a / 64 * 64)

/-- The 16-byte block that holds an address: the unit that XTS mixes (R405). -/
def xtsBlock (s : State) (a : Nat) : BitVec 128 := BitVec.ofNat 128 (peekLe s (a / 16 * 16) 16)

/-- A byte as a requester of key context ctx reads it (R405, R406). -/
def byteAs (s : State) (ctx a : Nat) : Byte :=
  if a < capacity s ∧ ctxOf s a ≠ ctx then (Config.xtsMix (ctxOf s a) ctx (a / 16 * 16) (xtsBlock s a)).extractLsb' (8 * (a % 16)) 8
  else getByte s a

/-- Bytes as a requester of key context ctx reads them. -/
def bytesAs (s : State) (ctx a n : Nat) : List Byte := (List.range n).map (fun i => byteAs s ctx (a + i))

/-- The little-endian number of n bytes as a requester of key context ctx reads it (R6, R405). -/
def peekAs (s : State) (ctx a n : Nat) : Nat := ofLe (bytesAs s ctx a n)

/-- Is the byte's unit poisoned? -/
def poisonedAt (s : State) (a : Nat) : Bool := s.poison.contains (poisonUnit a)

/-- The units of poison a range touches. -/
def unitsOf (a n : Nat) : List Nat :=
  if n = 0 then [] else
    let u := poisonSize a
    (List.range ((poisonUnit (a + n - 1) - poisonUnit a) / u + 1)).map (fun i => poisonUnit a + u * i)

/-- Is any byte of a range poisoned? -/
def anyPoison (s : State) (a n : Nat) : Bool := (unitsOf a n).any (fun u => s.poison.contains u)

/-- Mark a unit poisoned. -/
def poisonAt (a : Nat) (s : State) : State := { s with poison := insNat s.poison (poisonUnit a) }

/-- Clear a unit's poison. -/
def unpoisonAt (a : Nat) (s : State) : State := { s with poison := s.poison.erase (poisonUnit a) }

/-- The lines a range touches. -/
def linesOf (a n : Nat) : List Nat :=
  if n = 0 then [] else (List.range ((a + n - 1) / 64 - a / 64 + 1)).map (fun i => (a / 64 + i) * 64)

/-- Does a requester's access allocate in the cache (R264)? Shuttle channels 0 to 47 carry the attention gathers (R298), which do not. -/
def allocates : Requester → Bool
  | .controller => true
  | .shuttle ch => decide (48 ≤ ch)
  | _ => false

/-- Lines that the cache of one slice holds at split k (R261, R262). -/
def cacheLines (k : Nat) : Nat := (16 - k) * 2 ^ 14

/-- The stack lines slice n holds. -/
def linesHeld (s : State) (n : Nat) : List Nat := (s.cache.filter (fun e => e.2.held && sliceOf e.1 == n)).map (fun e => e.1)

/-- Make room for one more line in a slice's cache: a full cache gives up a line, which one the specification does not say (log entry 2). -/
def makeRoom (n : Nat) (s : State) : State :=
  let held := linesHeld s n
  if held.length < cacheLines (scratchMiB s) then s
  else
    let f := fresh s
    { f.2 with cache := serase f.2.cache (held.getD (f.1.toNat % held.length) 0) }

/-- One access of a stack line in its slice's cache (R264, R406): a hit under another context is written back, invalidated and served as a miss. -/
def touchLine (alloc : Bool) (ctx : Nat) (write : Bool) (line : Nat) (s : State) : State :=
  let c := sget (fun _ => CacheLine.none) s.cache line
  let mismatch := c.held && decide (c.ctx ≠ ctx)
  let s := if mismatch then bump 0x900020 1 s else s
  let hit := c.held && !mismatch
  let c' :=
    if hit then { c with dirty := c.dirty || write }
    else if alloc then ⟨true, ctx, write⟩ else CacheLine.none
  let s := if alloc && !c.held then makeRoom (sliceOf line) s else s
  { s with cache := sput (fun _ => CacheLine.none) s.cache line c' }

/-- A read of n bytes meets the lines that the caches of their slices hold (R264, R406). -/
def touchRange (alloc : Bool) (ctx a n : Nat) (s : State) : State :=
  if inStack s a n then (linesOf a n).foldl (fun s l => touchLine alloc ctx false l s) s else s

/-- Rewrite a line whose bytes stand under another context as its writer now reads them: a partial write reads the line, merges and writes it whole (R253, R406). -/
def rekeyLine (ctx line : Nat) (s : State) : State :=
  if ctxOf s line = ctx then s
  else
    let bs := (List.range 64).map (fun i => byteAs s ctx (line + i))
    let s := putBytes line bs s
    { s with lineKey := sput (fun _ => 0) s.lineKey line ctx }

/-- An out-of-range access (R259): counted, zeros marked poisoned, a bus error. -/
def outOfRange (n : Nat) (s : State) : Resp × State :=
  (⟨List.replicate n 0, true, true⟩, bump 0x50028 1 s)

/-- May an agent write at an offset of panel p's buffer (R97)? The panel's own units may; of the agents outside, the shuttle, in the upper half MiB. -/
def outsideWritable (p : Nat) (who : Requester) (off : Nat) : Bool :=
  match who with
  | .shuttle _ => decide (0x180000 ≤ off)
  | .panel q => decide (q = p)
  | _ => false

/-- Does a write to the scratchpad fall in the hem pool (R211)? -/
def inHemPool (s : State) (a n : Nat) : Bool :=
  rdB s 0x40020 63 && decide (a < rdF s 0x40020 47 20 * 2 ^ 20 + rdF s 0x40020 56 48 * 2 ^ 20)
    && decide (rdF s 0x40020 47 20 * 2 ^ 20 < a + n)

/-- Record a hem error (R228, R229). -/
def hemError (kind seq page : Nat) (s : State) : State :=
  wr 0x40070 (BitVec.ofNat 64 (2 ^ 63 + kind * 2 ^ 60 + seq * 2 ^ 48 + page)) s

/-- Record a panel error (R117). -/
def panelError (p kind off : Nat) (s : State) : State :=
  wr (panelReg p 0x68) (BitVec.ofNat 64 (2 ^ 63 + kind * 2 ^ 52 + off)) s

/-- Clear the poison of every unit a write covers whole; poisoned data poisons every unit it touches. -/
def settlePoison (a n : Nat) (poison : Bool) (s : State) : State :=
  (unitsOf a n).foldl (fun s u =>
    if poison then poisonAt u s
    else if a ≤ u ∧ u + poisonSize u ≤ a + n then unpoisonAt u s else s) s

/-- The whole lines of the source a chunk reads, for poison (R302: a poisoned source line is written poisoned). -/
def linePoison (s : State) (a n : Nat) : Bool :=
  anyPoison s (a / 64 * 64) ((a + n + 63) / 64 * 64 - a / 64 * 64)

/-- Lines of a range of which a word of the read-ahead buffer is uncorrectable (spec/13 registers). -/
def lostLines (e : MoveErrors) (a n : Nat) : List Nat := (linesOf a n).filter (fun l => e.lost.contains (l / 64))

/-- Record an uncorrectable word of the read-ahead buffer: KIND 3 with its line's address; the shuttle goes on (spec/13 registers). -/
def noteLost (ls : List Nat) (s : State) : State :=
  ls.foldl (fun s l => wr 0x300008 (BitVec.ofNat 64 (2 ^ 63 + 3 * 2 ^ 60 + l % 2 ^ 48)) s) s

/-- Is a word of the decode table of segment k uncorrectable (R295)? -/
def tableBad (e : CodecErrors) (k : Nat) : Bool := e.any (fun x => x.1 == k && decide (x.2 = .uncorrectable))

/-- Words that a winder or an unwinder corrects while it works on segment k (R295). -/
def tableFixed (e : CodecErrors) (k : Nat) : Nat := (e.filter (fun x => x.1 == k && decide (x.2 = .corrected))).length

/-- Store bytes under a key context, keeping poison of units only partly covered (R253, R256, R405, R435). -/
def storeBytes (alloc : Bool) (ctx a : Nat) (bytes : List Byte) (poison : Bool) (s : State) : State :=
  let n := bytes.length
  let s := if inStack s a n then
      (linesOf a n).foldl (fun s l => rekeyLine ctx l (touchLine alloc ctx true l s)) s
    else s
  settlePoison a n poison (putBytes a bytes s)

/-- The chunks of a range, each within one 64-byte line: offset and length. -/
def chunksFrom (a len : Nat) : List (Nat × Nat) :=
  if len = 0 then []
  else (List.range ((a + len - 1) / 64 - a / 64 + 1)).map (fun i =>
    let lo := max a ((a / 64 + i) * 64)
    let hi := min (a + len) ((a / 64 + i + 1) * 64)
    (lo - a, hi - lo))

/-- Copy n bytes within memory: a line that takes bytes of a poisoned line is poisoned (R255, R435). -/
def copyStored (ctx src dst n : Nat) (s : State) : State :=
  (chunksFrom dst n).foldl (fun t k =>
    storeBytes true ctx (dst + k.1) (getBytes s (src + k.1) k.2) (linePoison s (src + k.1) k.2) t) s

/-- What a write to a region does (R97, R211): the shared half of a panel buffer takes the shuttle's writes only, the hem pool takes none. -/
def writeIn (g : Region) (who : Requester) (ctx a : Nat) (bytes : List Byte) (poison : Bool) (s : State) : State :=
  match g with
  | .panelBuf p off =>
    if outsideWritable p who off then storeBytes false ctx a bytes poison s
    else panelError p 3 off (bump (panelReg p 0x50) 1 s)
  | .scratch =>
    if inHemPool s a bytes.length then hemError 5 0 0xFFFFFFFF s
    else storeBytes (allocates who) ctx a bytes poison s
  | .registers => s
  | _ => storeBytes (allocates who) ctx a bytes poison s

/-- Write bytes (R97, R211, R253, R256, R259); the answer says whether it met a bus error. A write that falls on the registers changes nothing (log entry 76). -/
def writeMem (who : Requester) (ctx a : Nat) (bytes : List Byte) (poison : Bool) (s : State) : Bool × State :=
  let n := bytes.length
  if n = 0 then (false, s)
  else if !(inMap s a n) then (true, bump 0x50028 1 s)
  else
    (false, writeIn (regionOf s a) who ctx a bytes poison s)

/-- Record an error of a slice (R256, R266, R280). -/
def sliceError (n kind a : Nat) (s : State) : State :=
  wr (sliceReg n 0x40) (BitVec.ofNat 64 (2 ^ 63 + kind * 2 ^ 60 + a / 64 % 2 ^ 42)) s

/-- The step number and attempt of an error-log entry when the unit holds no step (R436). -/
def noStep : Nat × Nat := (0xFFFFFFFF, 0)

/-- The 32 bytes of an error-log entry (R436). -/
def logEntry (tape source cls : Nat) (addr : Option Nat) (step : Nat × Nat) : List Byte :=
  leBytes 8 tape ++ leBytes 2 source ++ leBytes 1 cls ++ leBytes 1 (if addr.isSome then 1 else 0)
    ++ leBytes 4 step.1 ++ leBytes 1 step.2 ++ leBytes 7 0 ++ leBytes 6 (addr.getD 0) ++ leBytes 2 0

/-- Write an error-log entry for an uncorrectable event, or count it lost (R436, R450). -/
def logError (source cls : Nat) (addr : Option Nat) (step : Nat × Nat) (s : State) : State :=
  let s := bump 0x700018 1 s
  let tail := rdF s 0x700010 43 32
  let head := rdF s 0x700010 11 0
  if !(rdB s 0x700008 63) || decide ((tail + 1) % 4096 = head) then bump 0x700020 1 s
  else
    let a := rdF s 0x700008 47 17 * 2 ^ 17 + 32 * tail
    wrF 0x700010 43 32 ((tail + 1) % 4096) (settlePoison a 32 false (putBytes a (logEntry s.tape source cls addr step) s))

/-- An uncorrectable word of panel p's buffer (R98, R117, R436). -/
def panelWordLost (p a : Nat) (step : Nat × Nat) (s : State) : State :=
  logError (1 + p) 2 (some a) step (panelError p 2 ((a - panelBufBase) % 0x200000) (bump (panelReg p 0x48) 1 (poisonAt a s)))

/-- A word of panel p's buffer corrected on read (R98, R117). -/
def panelWordFixed (p a : Nat) (s : State) : State := panelError p 1 ((a - panelBufBase) % 0x200000) (bump (panelReg p 0x40) 1 s)

/-- The tick period in tape nanoseconds. -/
def period (s : State) : Nat := rdF s 0x100000 21 0
/-- TICK_INDEX as it stands. -/
def tickIndex (s : State) : Nat := (rd s 0x100010).toNat
/-- The core frequency in MHz. -/
def coreMHz (s : State) : Nat := rdF s 0x800008 15 0
/-- Core clocks of a tape duration at the frequency in force. -/
def clocks (s : State) (ns : Nat) : Nat := ns * coreMHz s / 1000

/-- CH_STATUS of a global channel. -/
def chStatus (c : Nat) : Nat := sliceReg (c / 16) (0x1000 + 0x20 * (c % 16))

/-- The global channel whose CH_STATUS a register is. -/
def channelOfReg (a : Nat) : Option Nat :=
  let n := (a - 0x1000000) / blockSize
  let k := (a - 0x1000000) % blockSize - 0x1000
  if 0x1001000 ≤ a ∧ n < 24 ∧ k < 0x200 ∧ k % 0x20 = 0 then some (16 * n + k / 0x20) else none

/-- The channels in retrain (R271). -/
def retraining (s : State) : List Nat := s.regs.filterMap (fun e => if getBit e.2 61 then channelOfReg e.1 else none)

/-- Does a range of the stacks touch a channel: within two rounds of the interleave every granule is looked at, and a longer range touches every channel (R258)? -/
def onChannel (s : State) (c : Nat) (r : Nat × Nat) : Bool :=
  decide (r.1 < capacity s) && decide (0 < r.2)
    && (decide (2 * 98304 ≤ r.2) || (List.range ((r.1 + r.2 - 1) / 256 - r.1 / 256 + 1)).any (fun i => channelOf (256 * (r.1 / 256 + i)) == c))

/-- Does work that touches these ranges wait for a channel in retrain (R271)? -/
def heldUp (s : State) (ranges : List (Nat × Nat)) : Bool := (retraining s).any (fun c => ranges.any (onChannel s c))

/-- Do a command's work, or hold the command while a channel that its work touches retrains (R271). -/
def takeWork (c : Instr) (ranges : List (Nat × Nat)) (f : State → State) (s : State) : State :=
  if heldUp s ranges then { s with stalled := s.stalled ++ [c] } else f s

/-- TH_CH of a channel. -/
def thCh (c : Nat) : Nat := 0xC00100 + 8 * c
/-- Filtered value of a channel (R422). -/
def filt (s : State) (c : Nat) : Int := toSigned 16 (rdF s (thCh c) 47 32)
/-- Temperature of a stack in 1/8 °C as the thimble knows it (R421): the hottest of its twelve. -/
def stackTemp (s : State) (n : Nat) : Int := filt s (8 + n / 12)

/-- A panel. -/
def panelOf (s : State) (p : Nat) : Panel := sget (fun _ => Panel.none) s.panels p
/-- Replace a panel. -/
def setPanel (p : Nat) (x : Panel) (s : State) : State :=
  { s with panels := sput (fun _ => Panel.none) s.panels p x }
/-- Is a panel isolated (R114)? -/
def isolated (s : State) (p : Nat) : Bool := rdB s (panelReg p 0) 63
/-- The active panels in ascending order. -/
def activePanels (s : State) : List Nat := (List.range 48).filter (fun p => !(isolated s p))
/-- A stitcher. -/
def stitcherOf (s : State) (p i : Nat) : Stitcher := sget (fun _ => Stitcher.none) (panelOf s p).stitchers i
/-- Replace a stitcher. -/
def setStitcher (p i : Nat) (x : Stitcher) (s : State) : State :=
  setPanel p { panelOf s p with stitchers := sput (fun _ => Stitcher.none) (panelOf s p).stitchers i x } s
/-- Has a stitcher failed (R91)? -/
def stitcherFailed (s : State) (p i : Nat) : Bool := rdB s (panelReg p (0x40000 + 8 * (i / 64))) (i % 64)
/-- The failed stitchers of a panel. -/
def failedCount (s : State) (p : Nat) : Nat := ((List.range 128).filter (fun i => stitcherFailed s p i)).length

/-- A slot. -/
def slotOf (s : State) (n : Nat) : Slot := sget (fun _ => Slot.none) s.slots n
/-- Replace a slot. -/
def setSlot (n : Nat) (x : Slot) (s : State) : State := { s with slots := sput (fun _ => Slot.none) s.slots n x }
/-- A sequence context. -/
def seqOf (s : State) (n : Nat) : Seq := sget (fun _ => Seq.none) s.seqs n
/-- Is a sequence open: neither free nor ended (R233, R249)? -/
def isOpen (x : Seq) : Bool := decide (x.state ≠ .free) && decide (x.state ≠ .ending)
/-- Replace a sequence context. -/
def setSeq (n : Nat) (x : Seq) (s : State) : State := { s with seqs := sput (fun _ => Seq.none) s.seqs n x }
/-- A model. -/
def modelOf (s : State) (n : Nat) : Model := sget (fun _ => Model.none) s.models n
/-- Replace a model. -/
def setModel (n : Nat) (x : Model) (s : State) : State := { s with models := sput (fun _ => Model.none) s.models n x }
/-- A tenant. -/
def tenantOf (s : State) (n : Nat) : Tenant := sget (fun _ => Tenant.none) s.tenants n
/-- Replace a tenant. -/
def setTenant (n : Nat) (x : Tenant) (s : State) : State := { s with tenants := sput (fun _ => Tenant.none) s.tenants n x }
/-- A session. -/
def sessionOf (s : State) (k : Nat) : Session := sget (fun _ => Session.none) s.sessions k
/-- Replace a session. -/
def setSession (k : Nat) (x : Session) (s : State) : State := { s with sessions := sput (fun _ => Session.none) s.sessions k x }
/-- A level-2 node. -/
def nodeOf (s : State) (n : Nat) : Node2 := sget (fun _ => Node2.none) s.nodes n
/-- Replace a level-2 node. -/
def setNode (n : Nat) (x : Node2) (s : State) : State := { s with nodes := sput (fun _ => Node2.none) s.nodes n x }
/-- The open step of a number. -/
def stepOf (s : State) (n : Nat) : Option Step := s.steps.find? (fun t => t.num == n)
/-- Replace an open step. -/
def setStep (t : Step) (s : State) : State :=
  { s with steps := s.steps.map (fun u => if u.num = t.num then t else u) }
/-- Close an open step; its carry slots and gathered lists are free (R33, R139). -/
def dropStep (n : Nat) (s : State) : State :=
  { s with steps := s.steps.filter (fun t => !(t.num == n)),
           allotted := s.allotted.filter (fun b => !(s.steps.any (fun t => t.num == n && (t.carry.bind (fun c => c.addr) == some b.1 || t.gathered.contains b.1)))) }

/-- Has the tape reached a tape value? Every comparison of tape values is one of 64-bit serial numbers (R351). -/
def tapePast (s : State) (t : Nat) : Bool := serialAtLeast 64 s.tape t

/-- The tape once a tape value has come: that value, or where the tape stands when it has passed (R351). -/
def tapeTo (t : Nat) (s : State) : Nat := if tapePast s t then s.tape else t % 2 ^ 64

/-- Run state of the device: SYS_STATUS.STATE. -/
def runState (s : State) : Nat := rdF s 0x8 63 61

/-- A tape value that is no more than 64 bits: past its last value the tape stands at 0 (R351). -/
def wrapEdge (n : Nat) : Nat := if n < 2 ^ 64 then n else 0

/-- The edge at which the tape next stands at a multiple of the period (R10, R351). -/
def nextEdge (s : State) : Nat := wrapEdge ((s.tape / period s + 1) * period s)

/-- Is an edge one that a backward step of the tape repeats (R354)? Such an edge is skipped. -/
def repeats (s : State) (e : Nat) : Bool := decide (s.fabric.skipTo ≠ 0) && serialAtLeast 64 s.fabric.skipTo e

/-- The next edge that no backward step repeats (R354). -/
def ordinaryEdge (s : State) : Nat :=
  if repeats s (nextEdge s) then wrapEdge ((s.fabric.skipTo / period s + 1) * period s) else nextEdge s

/-- Stack lines and port bits for which a tenant's account, or the device's at 64, is charged at the next edge (R420). -/
def charge (account lines bits : Nat) (s : State) : State :=
  let k := min account 64
  let x := sget (fun _ => (0, 0)) s.caused k
  { s with caused := sput (fun _ => (0, 0)) s.caused k (x.1 + lines, x.2 + bits) }

/-- Append to the record of what left the device. -/
def emitOut (x : Sent) (s : State) : State := { s with out := x :: s.out }

end Sys2Proof.Machine
end

