-- ==== Sys2Proof/Machine/Allot.lean ====
section
/-! DEFINITION. Rings of the shuttle and of Kralyn (R307, R367, R368), the regions in use in the scratchpad window (R263), and how the firmware allots a block of it (R33, R346). -/

namespace Sys2Proof.Machine

/-- CH_CTRL, CH_TAIL and CH_CQ of channel c (spec/13). -/
def chCtrl (c : Nat) : Nat := 0x301000 + 0x20 * c
/-- Is a firmware channel enabled? -/
def chEnabled (s : State) (c : Nat) : Bool := rdB s (chCtrl c) 63
/-- Entries of a channel's rings (R307). -/
def chEntries (s : State) (c : Nat) : Nat := 2 ^ (rdF s (chCtrl c) 50 48 + 1)
/-- KR_TX_CTRL of a ring. -/
def txCtrl (r : Nat) : Nat := 0xB01000 + 0x20 * r
/-- Descriptors of a ring (R368). -/
def txEntries (s : State) (r : Nat) : Nat := 2 ^ (rdF s (txCtrl r) 50 48 + 1)
/-- KR_RX_CTRL of a channel. -/
def rxCtrl (c : Nat) : Nat := 0xB01800 + 0x10 * c
/-- Slots of a receive channel (R367). -/
def rxEntries (s : State) (c : Nat) : Nat := 2 ^ (rdF s (rxCtrl c) 50 48 + 1)

/-- The rings of a firmware shuttle channel: descriptors and completions (R307). -/
def chRings (s : State) (c : Nat) : List (Nat × Nat) :=
  [(rdF s (chCtrl c) 47 6 * 64, 64 * chEntries s c), (rdF s (chCtrl c + 0x10) 47 5 * 32, 32 * chEntries s c)]
/-- The rings of a Kralyn transmit ring: descriptors and completions (R368). -/
def txRings (s : State) (r : Nat) : List (Nat × Nat) :=
  [(rdF s (txCtrl r) 47 5 * 32, 32 * txEntries s r), (rdF s (txCtrl r + 0x10) 47 4 * 16, 16 * txEntries s r)]
/-- The slot ring of a Kralyn receive channel (R367). -/
def rxRing (s : State) (c : Nat) : Nat × Nat := (rdF s (rxCtrl c) 47 10 * 1024, 9216 * rxEntries s c)

/-- The rings that are enabled. -/
def ringsInUse (s : State) : List (Nat × Nat) :=
  (((List.range 8).map (fun i => 56 + i)).filter (chEnabled s)).flatMap (chRings s)
    ++ ((List.range 8).filter (fun r => rdB s (txCtrl r) 63)).flatMap (txRings s)
    ++ ((List.range 64).filter (fun c => rdB s (rxCtrl c) 63)).map (rxRing s)

/-- Do two ranges, first and count, overlap? -/
def overlaps (a b : Nat × Nat) : Bool := decide (a.1 < b.1 + b.2) && decide (b.1 < a.1 + a.2)

/-- Round up to a multiple. -/
def roundUp (n a : Nat) : Nat := ceilDiv n a * a

/-- The first place of n bytes from lo on and before hi, at 4 KiB alignment, that overlaps no block. -/
def placeIn (lo hi n : Nat) (blocks : List (Nat × Nat)) : Option Nat :=
  let starts := (lo :: blocks.map (fun b => b.1 + b.2)).map (fun a => roundUp a 4096)
  (sortBy (fun a => a) starts).find? (fun a => decide (lo ≤ a) && decide (a + n ≤ hi) && !(blocks.any (fun b => overlaps (a, n) b)))

/-- Record a block. -/
def keepBlock (a n : Nat) (s : State) : State := { s with allotted := insBy (fun b => b.1) (a, n) s.allotted }

/-- Regions in use in the scratchpad window (R263): the census table, the hem pool, the error log, the rings placed there, the page-list tables of open steps, and what the firmware has allotted, slice-resident models and carry slots among it. -/
def scratchUsed (s : State) : List (Nat × Nat) :=
  ((if rdB s 0x30000 63 then [(rdF s 0x30000 47 12 * 4096, 327680)] else [])
    ++ (if rdB s 0x40020 63 then [(rdF s 0x40020 47 20 * 2 ^ 20, rdF s 0x40020 56 48 * 2 ^ 20)] else [])
    ++ (if rdB s 0x700008 63 then [(rdF s 0x700008 47 17 * 2 ^ 17, 131072)] else [])
    ++ ringsInUse s ++ s.steps.map (fun (t : Step) => (t.entry.pltab, 512 * t.entry.groups.length))
    ++ s.allotted).filter (fun b => decide (scratchBase ≤ b.1) && decide (b.1 < panelBufBase))

/-- Allot n bytes of the scratchpad window (R33, R346). -/
def allotScratch (n : Nat) (s : State) : Option (Nat × State) :=
  let m := roundUp (max 1 n) 4096
  (placeIn scratchBase (scratchBase + scratchSize (scratchMiB s)) m (scratchUsed s)).map (fun a => (a, keepBlock a m s))

end Sys2Proof.Machine
end

