-- ==== Sys2Proof/Machine/View.lean ====
section
/-! DEFINITION. What a register reads as (R7, R8): most hold what was stored, and the rest show state that stands elsewhere. A field that describes work in progress reads 0 while no work is in progress (log entry 66). And reading memory and registers by address. -/

namespace Sys2Proof.Machine

/-- Protocol level of the running firmware (R370). -/
def ownLevel (s : State) : Nat := rdF s 0xB00010 47 40

/-- A connection-cache entry. -/
def connOf (s : State) (i : Nat) : Conn := sget (fun _ => Conn.none) s.conns i

/-- The entry a peer's connection stands in. -/
def connOfPeer (s : State) (peer : Nat) : Option Nat := (s.conns.find? (fun e => decide (e.2.phase ≠ .free) && e.2.peer == peer)).map (fun e => e.1)

/-- A transmit ring beyond its registers. -/
def ringOf (s : State) (r : Nat) : TxRing := sget (fun _ => TxRing.none) s.txRings r

/-- TAIL with the bits above RSIZE ignored. -/
def txTail (s : State) (r : Nat) : Nat := rdF s (txCtrl r + 8) 7 0 % txEntries s r

/-- Where the descriptor of a slot stands. -/
def txDescAt (s : State) (r slot : Nat) : Nat := rdF s (txCtrl r) 47 5 * 32 + 32 * slot

/-- The 32 bytes of a descriptor. -/
def txDesc (s : State) (r slot : Nat) : Nat :=
  peekAs s (deviceCtx s) (txDescAt s r slot) 32

/-- Slots posted and not completed, in order from the head. -/
def txQueued (s : State) (r : Nat) : List Nat :=
  if !(rdB s (txCtrl r) 63) then []
  else
    let n := txEntries s r
    let x := ringOf s r
    ((List.range ((txTail s r + n - x.head % n) % n)).map (fun k => (x.head + k) % n)).filter (fun k => !(x.done.contains k))

/-- A channel's state. -/
def chanOf (s : State) (c : Nat) : Channel := sget (fun _ => Channel.none) s.channels c

/-- A firmware channel's number (R298). -/
def firmwareCh (c : Nat) : Bool := decide (56 ≤ c) && decide (c < 64)

/-- Is the all-channel stop in progress? -/
def stopped (s : State) : Bool := rdB s 0x300000 63

/-- Does a part still draw? -/
def stillDraws (q : StepSeq) : Bool := q.draws && !q.cleared && q.accepted.isNone

/-- Free pages (R205, PAGE_STATE). -/
def freeCount (s : State) : Nat := (s.freePages.map (fun r => r.2)).sum

/-- Free 1 KiB granules of the hem pool (R211, HEM_STATE). -/
def hemFree (s : State) : Nat :=
  if rdB s 0x40020 63 then
    rdF s 0x40020 56 48 * 1024 - (s.seqs.map (fun e => (e.2.segs.map (fun g => g.granules)).sum)).sum
  else 0

/-- Free census entries (R165). -/
def freeCensus (s : State) : List Nat :=
  let used := (s.steps.map (fun t => (t.points.map (fun e => e.2.entry)))).flatten
  (List.range 2048).filter (fun i => !(used.contains i))

/-- Mailbox index: 0 to 63, operator 64, maintenance 65 (R327). A mailbox number is its index. -/
def slotKind (s : State) (m i : Nat) : SlotKind := sget (fun _ => SlotKind.free) s.slotKinds (256 * m + i)
/-- Mark a slot. -/
def setSlotKind (m i : Nat) (k : SlotKind) (s : State) : State :=
  { s with slotKinds := sput (fun _ => SlotKind.free) s.slotKinds (256 * m + i) k }
/-- Slots of a mailbox held as a kind (MBOX_STATE). -/
def heldSlots (s : State) (m : Nat) (k : SlotKind) : Nat := (s.slotKinds.filter (fun e => e.1 / 256 == m && decide (e.2 = k))).length

/-- Put fields together: value and lowest bit of each. -/
def fieldsWord (l : List (Nat × Nat)) : Word := BitVec.ofNat 64 ((l.map (fun x => x.1 * 2 ^ x.2)).sum)

/-- One bit of a Bool. -/
def bit1 (b : Bool) : Nat := if b then 1 else 0

/-- QUEUE_STATE (R104). -/
def queueWord (s : State) (p : Nat) : Word :=
  let q := (panelOf s p).queue
  fieldsWord [((q.filter (fun e => !e.ready)).length, 16), ((q.filter (fun e => e.ready)).length, 0)]

/-- STATE of STITCH_STATUS (registers of spec/03_stitcher_cores.md): a failed stitcher; a wait of its stream; a run again; a stream, or the first build before it. -/
def stitchState (x : Stitcher) (failed : Bool) : Nat :=
  match failed, x.cur with
  | true, _ => 7
  | false, none => 0
  | false, some r =>
    match x.stall with
    | .feed => 3
    | .drain => 5
    | s => if r.done = 0 ∧ r.fails = 0 ∧ !(x.half0.valid || x.half1.valid) then 1
      else if s = .build then 4
      else if r.fails = 0 then 2 else 6

/-- STITCH_STATUS (R83, R87, registers of spec/03_stitcher_cores.md): HALF is the half of the chunk whose stream has begun, before it the half of the first. -/
def stitchWord (s : State) (p i : Nat) : Word :=
  let x := stitcherOf s p i
  let at_ := match x.cur with
    | none => [(x.half, 4)]
    | some r => [(r.piece.piece, 16), (if r.done = 0 then x.half else 1 - x.half, 4), (bit1 r.low, 3)]
  fieldsWord (at_ ++ [(bit1 x.ahead.isSome, 6), (bit1 x.draining, 5), (stitchState x (stitcherFailed s p i), 0)])

/-- MX_STATUS: the array's commands run to their end in one step; only the vector engine keeps one at hand. -/
def mxWord (s : State) (p : Nat) : Word :=
  let x := panelOf s p
  match x.vec.cmd with
  | none => fieldsWord [(x.mq.length, 32)]
  | some c => fieldsWord [(x.mq.length, 32), (c.piece, 8), (c.opc, 4), (1, 1)]

/-- Rows that wait to be drawn (R237, R245). -/
def rowsWaiting (s : State) : Nat :=
  ((s.steps.filter (fun t => decide (t.phase = .sampling))).map (fun t =>
    ((t.seqs.filter stillDraws).map (fun q => 1 + (q.inputs.filter (fun x => decide (x.2 = .draft))).length - q.drawn.length)).sum)).sum

/-- The protocol level fabric.query reports (R370): the lowest of the device's own and those of its open connections. -/
def levelInForce (s : State) : Nat := (s.conns.filter (fun e => decide (e.2.phase = .open_))).foldl (fun m e => min m e.2.level) (ownLevel s)

/-- KR_TX_STATUS (R368). -/
def txWord (s : State) (r : Nat) : Word :=
  let st :=
    if !(rdB s (txCtrl r) 63) then 0
    else match txQueued s r with
      | [] => 1
      | k :: _ => match connOfPeer s (natBits (txDesc s r k) 63 0) with
        | some i => if (connOf s i).phase = .open_ then 3 else 2
        | none => 2
  fieldsWord [(st, 61), ((ringOf s r).head, 0)]

/-- A word of a digest. -/
def digestWord (d : List Byte) (w : Nat) : Word := BitVec.ofNat 64 (leAt d (8 * w) 8)

/-- A digest of R399: M0 to M3. -/
def measureOf (s : State) (i : Nat) : List Byte := [s.secure.m0, s.secure.m1, s.secure.m2, s.secure.m3].getD i []

/-- The channels moving lines (R300). -/
def movingChannels (s : State) : Nat := (s.channels.filter (fun e => decide (e.2.phase = .moving))).length

/-- CH_STATUS of a shuttle channel (registers of spec/13_shuttle.md): STATE, HEAD and LAST_CSEQ. A channel of the plan engine has no ring: it is idle, or paused while a stop is in progress (log entry 95). -/
def chStatusWord (s : State) (c : Nat) : Word :=
  if !(firmwareCh c) then fieldsWord [(if stopped s then 4 else 1, 61)]
  else
    let x := chanOf s c
    let state := if x.paused then 4 else match x.phase with
      | .waiting => 2
      | .moving => 3
      | .moved => 3
      | .idle => if chEnabled s c then 1 else 0
    fieldsWord [(state, 61), (x.head, 40), (x.last, 0)]

/-- What the register of a description reads as; i and j are its places in the array. -/
def viewReg (s : State) (d : RegDesc) (a i j : Nat) : Word :=
  match d.name with
  | "SYS_ID" => fieldsWord [(0x2448, 48), (s.fuse.stackGiB, 40), (s.fuse.perfClass, 32)]
  | "CTL_LOAD" => setBits (rd s a) 47 40 (min 4 s.missedRun)
  | "L2_RESERVED" => fieldsWord [((((nodeOf s i).reserves).map (fun r => r.words)).sum, 0)]
  | "CENSUS_INUSE" => fieldsWord [(2048 - (freeCensus s).length, 0)]
  | "PAGE_STATE" => fieldsWord [(s.deferred.length, 32), (freeCount s, 0)]
  | "HEM_STATE" => fieldsWord [(hemFree s, 0)]
  | "TAPE_NS" => BitVec.ofNat 64 s.tape
  | "SHUTTLE_STATUS" => setBits (rd s a) 6 0 (movingChannels s)
  | "SAMPLER_STATUS" => fieldsWord [(rowsWaiting s, 1)]
  | "GATE_STATUS" => fieldsWord [(min 127 s.gateQueue.length, 1)]
  | "MON_ENABLE" => fieldsWord ((List.range 32).map (fun m => (bit1 (rdB s (0x701000 + 0x100 * m) 63), m)))
  | "PWR_PERF" => fieldsWord [(s.fuse.perfClass, 0)]
  | "COEF" => fieldsWord [(s.fuse.coef.getD i 0, 0)]
  | "SEC_FUSE" => fieldsWord [(s.fuse.ownerId, 32), (s.fuse.romVersion, 0)]
  | "DEVICE_ID" => s.fuse.deviceId
  | "MEASURE" => digestWord (measureOf s i) j
  | "TENANT_MEASURE" => digestWord (tenantOf s i).measure j
  | "MBOX_STATE" => fieldsWord [(heldSlots s i .data + heldSlots s i .late, 32), (heldSlots s i .control, 16), (256 - heldSlots s i .data - heldSlots s i .late - heldSlots s i .control, 0)]
  | "FAB_STATUS" => setBits (setBits (rd s a) 39 32 (levelInForce s)) 14 0 s.fabric.members.length
  | "KR_TX_STATUS" => txWord s i
  | "SH_CH_STATUS" => chStatusWord s i
  | "QUEUE_STATE" => queueWord s i
  | "STITCH_STATUS" => stitchWord s i j
  | "MX_STATUS" => mxWord s i
  | _ => rd s a

/-- The value of the register at an offset; a reserved offset reads as zero (R7). -/
def readReg (s : State) (a : Nat) : Word :=
  match regAt a with
  | none => 0
  | some d => viewReg s d a ((a - d.off) / d.s1) (((a - d.off) % d.s1) / d.s2)

/-- Reading TAPE_NS latches the fraction into TAPE_FRAC (R351, registers of spec/16_fabric.md). -/
def latchFrac (a : Nat) (s : State) : State := if a = 0x200000 then wrF 0x200008 15 0 s.frac s else s

/-- A byte of the registers as an access by address reads it (R6, R390; log entry 76). -/
def regByte (s : State) (a : Nat) : Byte := (readReg s ((a - regBase) / 8 * 8)).extractLsb' (8 * ((a - regBase) % 8)) 8

/-- What reading n bytes of the registers does besides: an access that takes in TAPE_NS latches the fraction. -/
def latchOver (a n : Nat) (s : State) : State :=
  if a < regBase + 0x200008 ∧ regBase + 0x200000 < a + n then latchFrac 0x200000 s else s

/-- Read n bytes under a key context (R255, R258, R259, R262, R405). -/
def readMem (who : Requester) (ctx a n : Nat) (s : State) : Resp × State :=
  if inRegisters a n then (⟨(List.range n).map (fun i => regByte s (a + i)), false, false⟩, latchOver a n s)
  else if !(inMemory s a n) then outOfRange n s
  else
    (⟨bytesAs s ctx a n, anyPoison s a n, false⟩, touchRange (allocates who) ctx a n s)

end Sys2Proof.Machine
end

