-- ==== Sys2Proof/Machine/Atomic.lean ====
section
/-! DEFINITION. Atomics of the slices (R264, R266, R267), and the reference counts, page lists and free list they serve (R205, R208, R219, R223, R225). -/

namespace Sys2Proof.Machine

/-- What an atomic makes of the old value: the new one, ZERO and UNDERFLOW. -/
structure AtomicNew where
  value : Nat
  zero : Bool
  underflow : Bool
  deriving DecidableEq, Repr

/-- Is a requester the shuttle or the controller, whose writes the hem pool takes none of (R211)? -/
def outsideHem : Requester → Bool
  | .controller => true
  | .shuttle _ => true
  | _ => false

/-- One atomic on a naturally aligned word of n bytes under a key context (R211, R259, R266, R267): a misaligned one is an out-of-range access, a poisoned word is not modified and returns poisoned, and one of the shuttle or the controller in the hem pool is dropped and recorded. -/
def atomicAt (who : Requester) (ctx a n : Nat) (f : Nat → AtomicNew) (s : State) : AtomicResult × State :=
  if a % n ≠ 0 ∨ !(inStack s a n || inScratch s a n) then
    let r := outOfRange n s
    (⟨0, false, false, true, true⟩, r.2)
  else
    let old := ofLe ((List.range n).map (fun i => byteAs s ctx (a + i)))
    let s := bump (sliceReg (sliceOf a) 0x18) 1 (if inStack s a n then touchLine true ctx false (a / 64 * 64) s else s)
    if anyPoison s a n then (⟨old, false, false, true, false⟩, s)
    else if outsideHem who && inScratch s a n && inHemPool s a n then (⟨old, false, false, false, false⟩, hemError 5 0 0xFFFFFFFF s)
    else
      let x := f old
      let s := if x.underflow then sliceError (sliceOf a) 2 a (bump (sliceReg (sliceOf a) 0x20) 1 s) else s
      let s := if x.value = old then s else storeBytes (allocates who || inStack s a n) ctx a (leBytes n x.value) false s
      (⟨old, x.zero, x.underflow, false, false⟩, s)

/-- REF_INC of R266. -/
def incWord (m : Nat) : AtomicNew := ⟨if m + 1 < 2 ^ 32 then m + 1 else 2 ^ 32 - 1, false, false⟩
/-- REF_DEC of R266. -/
def decWord (m : Nat) : AtomicNew := if m = 0 then ⟨0, false, true⟩ else ⟨m - 1, decide (m = 1), false⟩

/-- Address of a page's reference count (R223). -/
def refAddr (s : State) (page : Nat) : Nat := rdF s 0x40008 47 12 * 4096 + 4 * page

/-- The reference count of a page as the plan engine reads it. -/
def refCount (s : State) (page : Nat) : Nat := ofLe ((List.range 4).map (fun i => byteAs s (deviceCtx s) (refAddr s page + i)))

/-- No page (R205). -/
def noPage : Nat := 0xFFFFFFFF

/-- Put a page back in the free list, joining it to its neighbours. -/
def freePut : List (Nat × Nat) → Nat → List (Nat × Nat)
  | [], p => [(p, 1)]
  | (a, n) :: r, p =>
    if p + 1 < a then (p, 1) :: (a, n) :: r
    else if p + 1 = a then (p, n + 1) :: r
    else if p < a + n then (a, n) :: r
    else if p = a + n then
      match r with
      | (b, m) :: r' => if b = p + 1 then (a, n + 1 + m) :: r' else (a, n + 1) :: r
      | [] => [(a, n + 1)]
    else (a, n) :: freePut r p

/-- Take the lowest page of the free list. -/
def freeTake : List (Nat × Nat) → Option (Nat × List (Nat × Nat))
  | [] => none
  | (a, n) :: r => if n ≤ 1 then some (a, r) else some (a, (a + 1, n - 1) :: r)

/-- Address of the page-list entry of layer l and page index i (R208). -/
def listEntryAt (q : Seq) (mp l i : Nat) : Nat := q.listAddr + 4 * (l * mp + i)

end Sys2Proof.Machine
end

