-- ==== Sys2Proof/Machine/Image.lean ====
section
/-! DEFINITION. The model image (R346, R475, R476): its fields, template entries and their levels, matrices, page geometry, and the checks of model.load. An image is given as a reader: offset and size to a little-endian number. -/

namespace Sys2Proof.Machine

/-- An image as a reader: the little-endian number in n bytes at an offset. -/
abbrev Reader := Nat → Nat → Nat

/-- The image of a resident model, as its owner's key context reads it (R405). -/
def imageOf (s : State) (m : Model) : Reader := fun off n => peekAs s (tenantCtx s m.owner) (m.base + off) n

def imgLayers (r : Reader) : Nat := r 4 2
def imgPoints (r : Reader) : Nat := r 6 2
def imgVocab (r : Reader) : Nat := r 8 4
def imgContext (r : Reader) : Nat := r 12 4
def imgDensity (r : Reader) : Nat := r 16 4
def imgRatio (r : Reader) : Nat := r 20 2
def imgMicro (r : Reader) : Nat := r 22 2
def imgCacheWound (r : Reader) : Bool := r 24 1 % 2 == 1
def imgKvHeads (r : Reader) : Nat := r 25 1
def imgHdimCode (r : Reader) : Nat := r 26 1 % 8
def imgHdim (r : Reader) : Nat := 64 * imgHdimCode r
def imgKfmt (r : Reader) : Nat := r 27 1 % 16
def imgVfmt (r : Reader) : Nat := r 27 1 / 16
def imgCacheScales (r : Reader) : Nat := r 32 8
def imgEmbed (r : Reader) : Nat := r 40 8

/-- Offset of layer l's entry. -/
def layerAt (l : Nat) : Nat := 256 + 128 * l
def layerInDim (r : Reader) (l : Nat) : Nat := r (layerAt l) 4
def layerFmt (r : Reader) (l : Nat) : Nat := r (layerAt l + 4) 1 % 16
def layerAct (r : Reader) (l : Nat) : Nat := r (layerAt l + 5) 1 % 16
def layerK (r : Reader) (l : Nat) : Nat := r (layerAt l + 7) 1 % 16
def layerE (r : Reader) (l : Nat) : Nat := if layerK r l = 0 then 0 else r (layerAt l + 6) 1 + 1
def layerGate (r : Reader) (l : Nat) : Nat := r (layerAt l + 7) 1 / 16 % 4
def layerMats (r : Reader) (l : Nat) : Nat := r (layerAt l + 8) 8
def layerTiles (r : Reader) (l : Nat) : Nat := r (layerAt l + 16) 8
def layerSegDir (r : Reader) (l : Nat) : Nat := r (layerAt l + 24) 8
def layerScales (r : Reader) (l : Nat) : Nat := r (layerAt l + 32) 8
def layerBias (r : Reader) (l : Nat) : Nat := r (layerAt l + 40) 8
def layerInit (r : Reader) (l p : Nat) : F32 := BitVec.ofNat 32 (r (layerAt l + 48 + 4 * p) 4)
def layerOps (r : Reader) (l : Nat) : Nat := r (layerAt l + 64) 2
def layerOpsAt (r : Reader) (l : Nat) : Nat := r (layerAt l + 66) 6
def layerF (r : Reader) (l : Nat) : Nat := r (layerAt l + 72) 4
def layerA (r : Reader) (l : Nat) : Nat := r (layerAt l + 76) 4
/-- Are the layer's weights stitcher weights (R43)? -/
def layerStitch (r : Reader) (l : Nat) : Bool := decide (layerFmt r l ≤ 2)
/-- Lanes of a lane group for a layer's activation format. -/
def layerLanes (r : Reader) (l : Nat) : Nat := if layerStitch r l && decide (layerAct r l = 5) then 16 else 8
/-- RB of R476, and ROWS of R146. -/
def layerRB (r : Reader) (l : Nat) : Nat := if layerStitch r l && decide (layerAct r l = 5) then 128 else 256

/-- The template entries of a layer, 512 bits each. -/
def templateOf (r : Reader) (l : Nat) : List Nat := (List.range (layerOps r l)).map (fun i => r (layerOpsAt r l + 64 * i) 64)

/-- KIND of R475: 0 piece, 1 matrix command, 2 gate entry. -/
def entKind (b : Nat) : Nat := natBits b 57 56
/-- OPC of R185. -/
def entOpc (b : Nat) : Nat := natBits b 63 60
/-- TMARK of R475. -/
def entTmark (b : Nat) : Nat :=
  if entKind b = 0 then natBits b 143 137 else if entKind b = 1 then natBits b 126 120 else 0
def entCache (b : Nat) : Nat := entTmark b % 4
def entPT (b : Nat) : Bool := entTmark b / 4 % 2 == 1
def entPoint (b : Nat) : Nat := entTmark b / 8 % 4
def entExpert (b : Nat) : Bool := entTmark b / 32 % 2 == 1
def entCombine (b : Nat) : Bool := entTmark b / 64 % 2 == 1
/-- MATRIX of a piece entry. -/
def entMatrix (b : Nat) : Nat := natBits b 127 96

/-- The four 12-bit slot fields from a bit on, without those that read 0xFFF. -/
def slotFields (b lo : Nat) : List Nat :=
  ((List.range 4).map (fun i => natBits b (lo + 12 * i + 11) (lo + 12 * i))).filter (fun x => decide (x ≠ 0xFFF))

/-- The template-local slots an entry reads (R110). The embedding gather reads none. -/
def entInputs (b : Nat) : List Nat :=
  match entKind b with
  | 0 => [natBits b 187 176]
  | 1 => match entOpc b with
    | 0 => [natBits b 139 128]
    | 1 => [natBits b 139 128]
    | 3 => slotFields b 128
    | _ => []
  | _ => [natBits b 139 128, natBits b 163 152]

/-- The template-local slots an entry writes (R110). -/
def entOutputs (b : Nat) : List Nat :=
  match entKind b with
  | 0 => [natBits b 199 188]
  | 1 => if entOpc b = 3 then slotFields b 176 else [natBits b 151 140]
  | _ => [natBits b 151 140]

/-- Is an entry an attention command? -/
def entAttention (b : Nat) : Bool := decide (entKind b = 1) && decide (entOpc b = 1)

/-- Does entry j consume the earlier entry i (R110)? -/
def consumes (j i : Nat) : Bool :=
  (entInputs j).any (fun x => (entOutputs i).contains x) || (entAttention j && decide (entCache i = 1 ∨ entCache i = 2))

/-- The levels of a template's entries, in order (R110): done holds the earlier entries with their levels. -/
def levelsFrom : List (Nat × Nat) → List Nat → List Nat
  | _, [] => []
  | done, b :: bs =>
    let l := done.foldl (fun acc e => if consumes b e.1 then max acc (e.2 + 1) else acc) 0
    l :: levelsFrom (done ++ [(b, l)]) bs

/-- The levels of a template. -/
def levels (bs : List Nat) : List Nat := levelsFrom [] bs

/-- Offset of record w of layer l's matrix table. -/
def matAt (r : Reader) (l w : Nat) : Nat := layerMats r l + 16 + 32 * w
def matCount (r : Reader) (l : Nat) : Nat := r (layerMats r l) 2
def matIn (r : Reader) (l w : Nat) : Nat := r (matAt r l w) 4
def matOut (r : Reader) (l w : Nat) : Nat := r (matAt r l w + 4) 4
def matNB (r : Reader) (l w : Nat) : Nat := r (matAt r l w + 8) 4
def matBlocks (r : Reader) (l w : Nat) : Nat := r (matAt r l w + 16) 8
/-- Image offset of row block k's tile list, and of its tile data. -/
def blockList (r : Reader) (l w k : Nat) : Nat := r (matBlocks r l w + 16 * k) 8
def blockData (r : Reader) (l w k : Nat) : Nat := r (matBlocks r l w + 16 * k + 8) 8
/-- S_w of R476: output rows of the matrices before w. -/
def matRowsBefore (r : Reader) (l w : Nat) : Nat := ((List.range w).map (matOut r l)).sum

/-- s_w of row e of matrix w (R476). -/
def weightScale (r : Reader) (l w e : Nat) : F32 :=
  if layerScales r l = 0 then one32 else BitVec.ofNat 32 (r (layerScales r l + 4 * (matRowsBefore r l w + e)) 4)
/-- The bias of row e of matrix w as fp32, none when the layer has no bias (R476). -/
def biasOf (r : Reader) (l w e : Nat) : Option F32 :=
  if layerBias r l = 0 then none else some (fOfBf16 (r (layerBias r l + 2 * (matRowsBefore r l w + e)) 2))

/-- Inputs per tile column (R118). -/
def colInputs (fmt : Nat) : Nat := if fmt = 0 then 20 else if fmt = 1 then 32 else 16
/-- Chunk columns per tile column (R118). -/
def chunksPerCol (fmt : Nat) : Nat := if fmt = 2 then 2 else 1
/-- Inputs per chunk (R46, R49, R51). -/
def chunkInputs (fmt : Nat) : Nat := if fmt = 0 then 20 else if fmt = 1 then 32 else 8
/-- Bytes of a row's chunk. -/
def chunkBytes (fmt : Nat) : Nat := if fmt = 2 then 2 else 4
/-- Inputs per weight byte (R45, R49, R50). -/
def byteInputs (fmt : Nat) : Nat := if fmt = 0 then 5 else if fmt = 1 then 8 else 4

/-- Bits of an element of a format (R43). -/
def fmtBits (f : Nat) : Nat :=
  match f with
  | 4 => 8
  | 5 => 4
  | 6 => 16
  | 8 => 8
  | 9 => 8
  | 0xA => 16
  | 0xB => 32
  | _ => 8

/-- B_k or B_v of R206 for a format. -/
def recordBytes (r : Reader) (f : Nat) : Nat :=
  imgKvHeads r * imgHdim r * fmtBits f / 8 + (if f = 5 then imgKvHeads r * imgHdim r / 8 else 0)
def keyBytes (r : Reader) : Nat := recordBytes r (imgKfmt r)
def valBytes (r : Reader) : Nat := recordBytes r (imgVfmt r)
/-- Scale block size S of R206. -/
def scaleBytes (r : Reader) : Nat :=
  4 * imgKvHeads r * ((if imgKfmt r = 4 then 1 else 0) + (if imgVfmt r = 4 then 1 else 0))
/-- Positions per page P of R206. -/
def pagePositions (r : Reader) : Nat := (65536 - scaleBytes r) / (keyBytes r + valBytes r)
/-- MAXPAGES of R208. -/
def maxPages (r : Reader) : Nat := ceilDiv (imgContext r) (pagePositions r)
/-- Granules of a hem segment (R211). -/
def segGranules (r : Reader) : Nat := ceilDiv (8 * (keyBytes r + valBytes r) + scaleBytes r) 1024
/-- The cache scale of layer l, kv head h, side 0 key or 1 value (R346). -/
def cacheScale (r : Reader) (l h side : Nat) : F32 :=
  BitVec.ofNat 32 (r (imgCacheScales r + 4 * (2 * (l * imgKvHeads r + h) + side)) 4)

/-- The integer format of a scale point of layer l that a stitcher operation, a dense command or an embedding gather writes (R43, R57, R68): the layer's activation width, int8 for a layer without stitcher weights; no field of R475 names it (log entry 85). -/
def pointFormat (r : Reader) (l : Nat) : Nat := if layerStitch r l && decide (layerAct r l = 5) then 5 else 4

/-- The format of the scale point a template entry of layer l writes: OFMT of an attention command or a vector program's first output, else the layer's (R194, R200, R473). -/
def entPointFormat (r : Reader) (l b : Nat) : Nat :=
  if entAttention b then natBits b 167 164
  else if entKind b = 1 ∧ entOpc b = 3 then natBits b 275 272
  else pointFormat r l

/-- The format of scale point k: point k % 4 of layer k / 4 (R475). -/
def formatOfPoint (r : Reader) (k : Nat) : Nat :=
  match (templateOf r (k / 4)).find? (fun b => entPT b && decide (entPoint b = k % 4)) with
  | some b => entPointFormat r (k / 4) b
  | none => pointFormat r (k / 4)

/-- The attention entries of a model. -/
def attentionEntries (r : Reader) : List Nat :=
  ((List.range (imgLayers r)).map (templateOf r)).flatten.filter entAttention
/-- QPOS of R194 and R218: 1 for a model without attention. -/
def qposOf (r : Reader) : Nat :=
  match attentionEntries r with
  | [] => 1
  | b :: _ => natBits b 197 192

/-- The longest span of inputs a dense command takes (R188; log entry 21). -/
def spanMax : Nat := 131072

/-- The spans of a dense operation's inputs: first input and length. -/
def spansOf (inlen : Nat) : List (Nat × Nat) :=
  (List.range (max 1 (ceilDiv inlen spanMax))).map (fun j => (j * spanMax, min spanMax (inlen - j * spanMax)))

/-- A status and the image offset of the field at fault. -/
structure ImageFault where
  status : Nat
  offset : Nat
  deriving DecidableEq, Repr

/-- The first fault of a list of checks: each is a condition that must hold, a status and an offset. -/
def firstFault : List (Bool × Nat × Nat) → Option ImageFault
  | [] => none
  | (ok, st, off) :: cs => if ok then firstFault cs else some ⟨st, off⟩

/-- Is a value in a range? -/
def within (v a b : Nat) : Bool := decide (a ≤ v) && decide (v ≤ b)

/-- A cache or query element format of R194. -/
def kvFormat (f : Nat) : Bool := [4, 5, 8, 9, 0xA].contains f

/-- A usable scale: finite, positive and nonzero (R159, R207). -/
def goodScale (x : F32) : Bool := fUsable x && !(fSign x)

/-- The checks of the header (R346, R194, R208). -/
def headerChecks (r : Reader) (size : Nat) : List (Bool × Nat × Nat) := [
  (decide (256 ≤ size), 0x0209, 0),
  (decide (r 0 4 = 0x4C444F4D), 0x0209, 0),
  (within (imgLayers r) 1 1024, 0x0209, 4),
  (within (imgPoints r) 1 4, 0x0209, 6),
  (within (imgVocab r) 1 262144, 0x0209, 8),
  (within (imgContext r) 1 1048576, 0x0209, 12),
  (within (imgRatio r) 1 65535, 0x0209, 20),
  (within (imgMicro r) 1 64, 0x0209, 22),
  (within (imgKvHeads r) 1 64, 0x0209, 25),
  (within (imgHdimCode r) 1 4, 0x0209, 26),
  (kvFormat (imgKfmt r) && kvFormat (imgVfmt r), 0x0209, 27),
  (decide (256 + 128 * imgLayers r ≤ size), 0x0209, 4)]

/-- Are bit fields of an entry all zero? -/
def zeroIn (b : Nat) (fields : List (Nat × Nat)) : Bool := fields.all (fun f => decide (natBits b f.1 f.2 = 0))

/-- The fields that are zero in a template's piece entry (R99, R475): STEP, PIECE, ROWS, LANEMASK, LGROUP, HOME, COL_FIRST, COL_END, WADDR, TCOUNT, TLIST, SUB and SUBS. -/
def pieceZeros : List (Nat × Nat) :=
  [(31, 0), (55, 32), (136, 128), (159, 144), (169, 160), (205, 200), (225, 208), (244, 226), (303, 256), (319, 304), (367, 320), (455, 448), (464, 456)]

/-- Those of a matrix-queue command (R185, R475): STEP, PIECE, LGROUP and LANEMASK. -/
def commandZeros : List (Nat × Nat) := [(31, 0), (55, 32), (97, 88), (119, 104)]

/-- Those of a gate entry (R475): all of bits 0 to 127 but KIND and what may hold MODEL and LAYER, and its other bits beyond HSLOT but LOADTAB (log entry 101). -/
def gateZeros : List (Nat × Nat) := [(55, 0), (63, 58), (127, 93), (303, 164), (511, 352)]

/-- The checks of a piece entry (R99, R152, R475, R476). NB is that of the largest of an expert operation's matrices. A COMBINE operation is taken at the 16 words R148 gives its own OP 2 and tag 2, every other stitcher operation at 2 (log entry 107). -/
def pieceChecks (r : Reader) (l b at_ : Nat) : List (Bool × Nat × Nat) :=
  let last := entMatrix b + (if entExpert b then layerE r l - 1 else 0)
  let out := ((List.range (last + 1 - entMatrix b)).map (fun e => matOut r l (entMatrix b + e))).foldl max 0
  let nb := ceilDiv out (layerRB r l)
  [(layerStitch r l && decide (layerMats r l ≠ 0), 0x0209, at_),
   (decide (entOpc b = layerFmt r l), 0x0209, at_ + 7),
   (decide (natBits b 67 64 = (if layerAct r l = 5 then 1 else 0)), 0x0209, at_ + 8),
   (zeroIn b pieceZeros, 0x0209, at_),
   (decide (last < matCount r l), 0x0209, at_ + 12),
   (decide (6 * ceilDiv nb 37 * layerRB r l * layerLanes r l * (if entCombine b then 16 else 2) ≤ 262144), 0x0306, at_)]

/-- The address of a dense command's weight scales, 0 for none (R186). -/
def entScales (b : Nat) : Nat := natBits b 399 352

/-- The checks of a dense command entry of layer l (R63, R186, R188, R475, R152). -/
def denseChecks (r : Reader) (l b at_ : Nat) : List (Bool × Nat × Nat) :=
  [([4, 8, 9, 0xA].contains (natBits b 155 152), 0x0209, at_ + 19),
   (kvFormat (natBits b 159 156), 0x0209, at_ + 19),
   (decide (1 ≤ natBits b 191 160), 0x0209, at_ + 20),
   (decide (natBits b 200 192 = 0) && decide (natBits b 255 224 = 0), 0x0209, at_ + 24),
   (within (natBits b 287 256) 1 1048576, 0x0209, at_ + 32),
   (decide (6 * ceilDiv (ceilDiv (natBits b 191 160) (layerRB r l)) 37 * layerRB r l * layerLanes r l * 16 ≤ 262144), 0x0306, at_)]
  ++ (if entScales b = 0 then [] else
      (List.range (natBits b 191 160)).map (fun e => (fIsFinite (BitVec.ofNat 32 (r (entScales b + 4 * e) 4)), 0x0209, entScales b + 4 * e)))

/-- The checks of an attention command entry (R194). -/
def attentionChecks (r : Reader) (q0 : Nat) (b at_ : Nat) : List (Bool × Nat × Nat) :=
  let heads := natBits b 175 168
  let kvh := natBits b 183 176
  let ofmt := natBits b 167 164
  [([4, 8, 9, 0xA].contains (natBits b 155 152), 0x0209, at_ + 19),
   (decide (natBits b 159 156 = imgKfmt r), 0x0209, at_ + 19),
   (decide (natBits b 163 160 = imgVfmt r), 0x0209, at_ + 20),
   ([4, 5, 0xA].contains ofmt, 0x0209, at_ + 20),
   (within heads 1 128, 0x0209, at_ + 21),
   (decide (kvh = imgKvHeads r) && decide (heads % kvh = 0), 0x0209, at_ + 22),
   (decide (natBits b 186 184 = imgHdimCode r), 0x0209, at_ + 23),
   (decide (natBits b 189 187 ≤ 2), 0x0209, at_ + 23),
   (within (natBits b 197 192) 1 63 && decide (natBits b 197 192 = q0), 0x0209, at_ + 24),
   (fUsable (BitVec.ofNat 32 (natBits b 255 224)), 0x0209, at_ + 28),
   (decide (1 ≤ natBits b 287 256), 0x0209, at_ + 32),
   (decide (entPT b = (ofmt == 4 || ofmt == 5)), 0x0209, at_ + 15),
   (!(entPT b) || decide (entPoint b = natBits b 191 190), 0x0209, at_ + 23)]

/-- The opcode and fields of a vector instruction (R192). -/
def vOpcode (w : Nat) : Nat := natBits w 31 26
def vD (w : Nat) : Nat := natBits w 25 21
def vA (w : Nat) : Nat := natBits w 20 16
def vB (w : Nat) : Nat := natBits w 15 11
def vC (w : Nat) : Nat := natBits w 10 6

/-- The words of a vector program entry's program, read at a base. -/
def vProgram (r : Reader) (b base : Nat) : List Nat :=
  (List.range (natBits b 296 288)).map (fun i => r (base + natBits b 351 304 + 4 * i) 4)

/-- The input or output slot field a of a vector entry. -/
def vSlot (b lo a : Nat) : Nat := natBits b (lo + 12 * a + 11) (lo + 12 * a)
/-- The format of input or output a. -/
def vFmt (b lo a : Nat) : Nat := natBits b (lo + 4 * a + 3) (lo + 4 * a)

/-- The checks of a vector program entry (R192, R473). -/
def vectorChecks (r : Reader) (b at_ : Nat) : List (Bool × Nat × Nat) :=
  let prog := vProgram r b 0
  let uses (op a : Nat) : Bool := prog.any (fun w => vOpcode w == op && vA w == a)
  let outFmtOk (a : Nat) : Bool :=
    vSlot b 176 a == 0xFFF || [8, 9, 0xA, 0xB].contains (vFmt b 272 a) || (a == 0 && [4, 5].contains (vFmt b 272 a))
  [(within (natBits b 255 224) 1 1048576, 0x0209, at_ + 28),
   (within (natBits b 296 288) 1 256, 0x0209, at_ + 36),
   (prog.all (fun w => decide (vOpcode w ≤ 15)), 0x0209, at_ + 38),
   (prog.all (fun w => !(vOpcode w == 11 || vOpcode w == 12) || decide (vA w ≤ 3)), 0x0209, at_ + 38),
   ((List.range 4).all (fun a => !(uses 11 a) || vSlot b 128 a != 0xFFF), 0x0209, at_ + 16),
   ((List.range 4).all (fun a => !(uses 12 a) || vSlot b 176 a != 0xFFF), 0x0209, at_ + 22),
   ((List.range 4).all (fun a => vSlot b 128 a == 0xFFF || [4, 5, 8, 9, 0xA, 0xB].contains (vFmt b 256 a)), 0x0209, at_ + 32),
   ((List.range 4).all outFmtOk, 0x0209, at_ + 34),
   (!([4, 5].contains (vFmt b 272 0) && vSlot b 176 0 != 0xFFF) || entPT b, 0x0209, at_ + 15)]

/-- The checks of one template entry of layer l at an offset (R475). -/
def entryChecks (r : Reader) (q0 l b at_ : Nat) : List (Bool × Nat × Nat) :=
  [(decide (entKind b ≠ 3), 0x0209, at_ + 7),
   (decide (entCache b ≠ 3), 0x0209, at_ + 15),
   (!(entCombine b) || entExpert b, 0x0209, at_ + 15),
   (!(entExpert b) || decide (layerK r l ≠ 0), 0x0209, at_ + 15)]
  ++ (match entKind b with
    | 0 => pieceChecks r l b at_
    | 1 => (zeroIn b commandZeros, 0x0209, at_) :: match entOpc b with
      | 0 => denseChecks r l b at_
      | 1 => attentionChecks r q0 b at_
      | 2 => [(decide (imgEmbed r ≠ 0), 0x0209, at_)]
      | 3 => vectorChecks r b at_
      | _ => [(false, 0x0209, at_ + 7)]
    | 2 => [(decide (layerK r l ≠ 0), 0x0209, at_),
        (zeroIn b gateZeros, 0x0209, at_)]
    | _ => [])

/-- Which scale points a template names, in order. -/
def pointsNamed (bs : List Nat) : List Nat := (bs.filter entPT).map entPoint

/-- The checks of layer l's matrix table (R476, R55, R63). -/
def matrixChecks (r : Reader) (l : Nat) : List (Bool × Nat × Nat) :=
  if layerMats r l = 0 then []
  else
    (within (matCount r l) 1 1024, 0x0209, layerMats r l)
    :: ((List.range (min (matCount r l) 1024)).map (fun w =>
        [(within (matIn r l w) 1 1048576, 0x0209, matAt r l w),
         (decide (1 ≤ matOut r l w), 0x0209, matAt r l w + 4),
         (decide (matNB r l w = ceilDiv (matOut r l w) (layerRB r l)), 0x0209, matAt r l w + 8)]
        ++ (if layerScales r l = 0 then [] else
            (List.range (matOut r l w)).map (fun e =>
              (fIsFinite (weightScale r l w e), 0x0209, layerScales r l + 4 * (matRowsBefore r l w + e))))
        ++ (if layerBias r l = 0 then [] else
            (List.range (matOut r l w)).map (fun e =>
              (fIsFinite ((biasOf r l w e).getD 0#32), 0x0209, layerBias r l + 2 * (matRowsBefore r l w + e)))))).flatten

/-- The tag-2 records an entry of layer l gives each element-lane it writes: one for each span of a dense operation, one for each routed expert of a combination (R140, R150, R188). -/
def floatRecords (r : Reader) (l b : Nat) : Nat :=
  if entKind b = 1 ∧ entOpc b = 0 then (spansOf (natBits b 287 256)).length
  else if entCombine b then layerK r l
  else 0

/-- The tag-2 records that the entries of one level give a slot's element-lanes together (R150). -/
def levelRecords (r : Reader) (l : Nat) (bs : List Nat) (lv slot : Nat) : Nat :=
  (((levels bs).zip bs).map (fun e => if e.1 = lv ∧ (entOutputs e.2).contains slot then floatRecords r l e.2 else 0)).sum

/-- Does no level of a template give an element-lane more than 8 tag-2 records (R150)? -/
def recordsFit (r : Reader) (l : Nat) (bs : List Nat) : Bool :=
  ((levels bs).zip bs).all (fun e => (entOutputs e.2).all (fun slot => decide (levelRecords r l bs e.1 slot ≤ 8)))

/-- The first expert operation of a template reads the DSLOT of a gate entry (R475). -/
def dispatchNamed (bs : List Nat) : Bool :=
  match bs.find? entExpert with
  | none => true
  | some e => bs.any (fun g => decide (entKind g = 2) && (entInputs e).contains (natBits g 151 140))

/-- The operation that COMBINE marks is the last expert operation of its template (R475). -/
def combineLast (bs : List Nat) : Bool :=
  match (bs.filter entExpert).reverse with
  | [] => true
  | e :: rest => entCombine e && rest.all (fun x => !(entCombine x))

/-- No later operation of a template consumes what a key or value write names as its OSLOT (R475). -/
def cacheUnread : List Nat → Bool
  | [] => true
  | b :: bs => (decide (entCache b = 0) || bs.all (fun j => (entOutputs b).all (fun x => !((entInputs j).contains x)))) && cacheUnread bs

/-- The checks of layer l (R346, R43, R55, R110, R133, R150, R159, R475). -/
def layerChecks (r : Reader) (q0 l : Nat) : List (Bool × Nat × Nat) :=
  let at_ := layerAt l
  let bs := templateOf r l
  let att := bs.any entAttention
  [(within (layerInDim r l) 1 1048576, 0x0209, at_),
   ([0, 1, 2, 4, 8, 9, 0xA].contains (layerFmt r l), 0x0209, at_ + 4),
   (!(layerStitch r l) || [4, 5].contains (layerAct r l), 0x0209, at_ + 5),
   (decide (layerK r l ≠ 0) || decide (r (at_ + 6) 1 = 0), 0x0209, at_ + 6),
   (decide (layerK r l = 0) || (decide (layerK r l ≤ 8) && decide (layerK r l ≤ layerE r l)), 0x0209, at_ + 7),
   (within (layerOps r l) 1 64, 0x0209, at_ + 64)]
  ++ (List.range (imgPoints r)).map (fun p => (goodScale (layerInit r l p), 0x0209, at_ + 48 + 4 * p))
  ++ matrixChecks r l
  ++ ((List.range bs.length).map (fun i => entryChecks r q0 l (bs.getD i 0) (layerOpsAt r l + 64 * i))).flatten
  ++ [((levels bs).all (fun x => decide (x ≤ 5)), 0x0209, layerOpsAt r l),
      (recordsFit r l bs, 0x0209, layerOpsAt r l),
      (dispatchNamed bs && combineLast bs && cacheUnread bs, 0x0209, layerOpsAt r l),
      (decide (sortBy (fun x => x) (pointsNamed bs) = List.range (imgPoints r)), 0x0209, layerOpsAt r l),
      (decide ((bs.filter (fun b => entCache b == 1)).length = (if att then 1 else 0))
        && decide ((bs.filter (fun b => entCache b == 2)).length = (if att then 1 else 0)) || (!att && bs.all (fun b => entCache b == 0)), 0x0209, layerOpsAt r l)]

/-- The checks of the embedding table (R346). -/
def embedChecks (r : Reader) : List (Bool × Nat × Nat) :=
  if imgEmbed r = 0 then []
  else [(decide (r (imgEmbed r) 4 = layerInDim r 0), 0x0209, imgEmbed r),
    ([4, 8, 9].contains (r (imgEmbed r + 4) 1), 0x0209, imgEmbed r + 4)]

/-- The checks of the cache scales of int8 sides (R207). -/
def cacheChecks (r : Reader) : List (Bool × Nat × Nat) :=
  ((List.range (imgLayers r)).map (fun l => ((List.range (imgKvHeads r)).map (fun h =>
    [(decide (imgKfmt r ≠ 4) || goodScale (cacheScale r l h 0), 0x0209, imgCacheScales r + 8 * (l * imgKvHeads r + h)),
     (decide (imgVfmt r ≠ 4) || goodScale (cacheScale r l h 1), 0x0209, imgCacheScales r + 8 * (l * imgKvHeads r + h) + 4)])).flatten)).flatten

/-- The first fault model.load finds in an image (R346, R475, R476); an image without attention has no cache to check. -/
def imageFault (r : Reader) (size : Nat) : Option ImageFault :=
  (firstFault (headerChecks r size)).or
    ((firstFault (((List.range (imgLayers r)).map (layerChecks r (qposOf r))).flatten)).or
      ((firstFault (embedChecks r)).or
        (if (attentionEntries r).isEmpty then none else firstFault (cacheChecks r))))

end Sys2Proof.Machine
end

