-- ==== Sys2Proof/Machine/Flags.lean ====
section
/-! DEFINITION. Sum tables and the zipper (R45 to R56, R73 to R80, R118 to R131), and the per-value computations of the finisher and its census (R62 to R69, R162 to R164). -/

namespace Sys2Proof.Machine

/-- The weight of input i of a group under byte value v (R45, R49, R50). -/
def patternWeight (fmt v i : Nat) : Int :=
  match fmt with
  | 0 => ((v / 3 ^ i % 3 : Nat) : Int) - 1
  | 1 => if v / 2 ^ i % 2 = 1 then 1 else -1
  | _ => toSigned 2 (v / 4 ^ i % 4)

/-- The sum of a group's activations under a byte value (R53). -/
def patternSum (fmt v : Nat) (xs : List Int) : Int :=
  ((List.range (byteInputs fmt)).map (fun i => patternWeight fmt v i * xs.getD i 0)).sum

/-- The byte value whose sum entry e of a half holds, with its group; none where the entry is never written (R54). -/
def entryPattern (fmt e : Nat) : Option (Nat × Nat) :=
  match fmt with
  | 0 => if e % 128 < 122 then some (e / 128, e % 128) else none
  | 1 => some (e / 128, e % 128)
  | _ => some (e / 256, e % 256)

/-- Build one half from the chunk's activations, one list of inputs for each lane; unused entries keep what they held (R53, R54, R76). -/
def buildEntries (fmt : Nat) (lanes : List (List Int)) (old : List (List Int)) : List (List Int) :=
  (List.range 512).map (fun e =>
    match entryPattern fmt e with
    | some (g, v) => lanes.map (fun xs => patternSum fmt v (xs.drop (g * byteInputs fmt)))
    | none => old.getD e [])

/-- What a weight byte reads (R47, R48, R49, R50, R74): the entry and whether it is negated; none for a void code. -/
def byteEntry (fmt j v : Nat) : Option (Nat × Bool) :=
  match fmt with
  | 0 => if v ≤ 121 then some (128 * j + v, false) else if v ≤ 242 then some (128 * j + (242 - v), true) else none
  | 1 => if v ≤ 127 then some (128 * j + v, false) else some (128 * j + (255 - v), true)
  | _ => some (256 * j + v, false)

/-- What byte j of value v adds in one lane (R74, R78). -/
def byteAdds (fmt : Nat) (entries : List (List Int)) (lane j v : Nat) : Int :=
  match byteEntry fmt j v with
  | some (e, neg) => let x := (entries.getD e []).getD lane 0; if neg then -x else x
  | none => 0

/-- What a row's chunk bytes add in one lane. -/
def rowAdds (fmt : Nat) (entries : List (List Int)) (lane : Nat) (bytes : List Byte) : Int :=
  ((List.range (chunkBytes fmt)).map (fun j => byteAdds fmt entries lane j (bytes.getD j 0).toNat)).sum

/-- Pack int4 codes two to a byte, the lower-indexed element in the low half (R56). -/
def packNibbles : List Nat → List Byte
  | [] => []
  | [a] => [BitVec.ofNat 8 (a % 16)]
  | a :: b :: r => BitVec.ofNat 8 (a % 16 + 16 * (b % 16)) :: packNibbles r

/-- Bits of a lane's entry in a table word: 16 with 8 lanes, 8 with 16 (R73). -/
def tableBits (lanes : Nat) : Nat := if lanes = 16 then 8 else 16

/-- A table word from the entries of its lanes, lane 0 lowest (R73). -/
def packLanes (lanes : Nat) (vs : List Int) : BitVec 128 :=
  BitVec.ofNat 128 (((List.range lanes).map (fun l => ofSigned (tableBits lanes) (vs.getD l 0) * 2 ^ (tableBits lanes * l))).sum)

/-- A lane's entry of a table word (R73). -/
def tableEntry (lanes : Nat) (w : BitVec 128) (l : Nat) : Int :=
  toSigned (tableBits lanes) (w.toNat / 2 ^ (tableBits lanes * l) % 2 ^ tableBits lanes)

/-- The even parity bits of a word's eight 16-bit segments: each with its segment holds an even count of ones (R73). -/
def segmentParity (w : BitVec 128) : BitVec 8 :=
  let y := w.toNat
  let y := y ^^^ (y >>> 8)
  let y := y ^^^ (y >>> 4)
  let y := y ^^^ (y >>> 2)
  let y := y ^^^ (y >>> 1)
  BitVec.ofNat 8 (((List.range 8).map (fun g => y / 2 ^ (16 * g) % 2 * 2 ^ g)).sum)

/-- Write a chunk's table into the 512 words of a half, one word for all lanes of an entry; unused words keep what they held (R73, R76). -/
def buildWords (fmt lanes : Nat) (xs : List (List Int)) (old : List TableWord) : List TableWord :=
  List.zipWith (fun e row =>
    if (entryPattern fmt e).isSome then let w := packLanes lanes row; ⟨w, segmentParity w⟩ else old.getD e TableWord.zero)
    (List.range 512) (buildEntries fmt xs [])

/-- What byte j of value v adds in one lane, read from the words of a half (R74, R78). -/
def byteReads (fmt lanes : Nat) (ws : List TableWord) (lane j v : Nat) : Int :=
  match byteEntry fmt j v with
  | some (e, neg) => let x := tableEntry lanes (ws.getD e TableWord.zero).bits lane; if neg then -x else x
  | none => 0

/-- What a row's chunk bytes add in one lane, read from the words of a half. -/
def rowReads (fmt lanes : Nat) (ws : List TableWord) (lane : Nat) (bytes : List Byte) : Int :=
  ((List.range (chunkBytes fmt)).map (fun j => byteReads fmt lanes ws lane j (bytes.getD j 0).toNat)).sum

/-- Void codes among a row's chunk bytes (R47). -/
def voidCodes (fmt : Nat) (bytes : List Byte) : Nat :=
  if fmt = 0 then ((bytes.take 4).filter (fun b => decide (243 ≤ b.toNat))).length else 0

/-- The planes of a split int16 value (R58). -/
def splitLow (x : Int) : Int := (x + 128) % 256 - 128
/-- The high plane (R58). -/
def splitHigh (x : Int) : Int := (x - splitLow x) / 256

/-- A code as the integer a stitcher or an integer product takes (R56, R58). -/
def codeInt (fmt : Nat) (low : Bool) (c : Nat) : Int :=
  match fmt with
  | 5 => toSigned 4 c
  | 6 => let x := toSigned 16 c; if low then splitLow x else splitHigh x
  | _ => toSigned 8 c

/-- A code widened to fp32, exactly (R60, R61). -/
def codeF32 (fmt c : Nat) : F32 :=
  match fmt with
  | 4 => fOfInt (toSigned 8 c)
  | 5 => fOfInt (toSigned 4 c)
  | 6 => fOfInt (toSigned 16 c)
  | 8 => fOfE4M3 c
  | 9 => fOfE5M2 c
  | 0xA => fOfBf16 c
  | _ => BitVec.ofNat 32 c

/-- The code of a format an fp32 value is written as, unscaled (R67, R69); fp32 itself for code 0xB (R189). -/
def floatCode (fmt : Nat) (y : F32) : Nat :=
  match fmt with
  | 8 => e4m3Of y
  | 9 => e5m2Of y
  | 0xB => y.toNat
  | _ => bf16Of y

/-- Q of R162 and R169. -/
def qOf (fmt : Nat) : Nat := if fmt = 5 then 7 else if fmt = 6 then 32639 else 127

/-- The width a quantised code is kept in. -/
def qWidth (fmt : Nat) : Nat := if fmt = 5 then 4 else if fmt = 6 then 16 else 8

/-- The reciprocal the planner or the pass forms from a scale (R64). -/
def routOf (s : F32) : F32 := fDiv one32 s

/-- A scale M ÷ Q rounded toward +infinity; none where it is not finite and nonzero (R160, R169, R170). -/
def scaleOf (m : F32) (q : Nat) : Option F32 :=
  if fIsZero m then none
  else
    let s := fDivR .towardPosInf m (fOfInt q)
    if fUsable s then some s else none

/-- A quantised result: its code and whether R68 counts it as a clip. -/
def quantCode (fmt : Nat) (y rout : F32) : Nat × Bool :=
  let q := quantise (qOf fmt) (fMul y rout)
  (ofSigned (qWidth fmt) q.v, q.clip)

/-- An empty partial census. -/
def Partial.start (step attempt layer point : Nat) : Partial :=
  ⟨step, attempt, layer, point, 0#32, 0, 0, 0, List.replicate 32 0, false, false⟩

/-- Add one to a count that saturates (R164). -/
def satInc (lim n : Nat) : Nat × Bool := if n + 1 ≥ lim then (lim, true) else (n + 1, false)

/-- Enter one converted result in a partial census (R162, R163, R164). -/
def Partial.enter (p : Partial) (split : Bool) (y z : F32) (clip : Bool) : Partial :=
  let (v, s1) := satInc max64 p.values
  let (c, s2) := if clip then satInc max64 p.clips else (p.clips, false)
  let (n, s3) := if fIsNaN y then satInc (2 ^ 32 - 1) p.nans else (p.nans, false)
  let zz := if split then fDiv z (fOfInt 256) else z
  let b := censusBin zz
  let (x, s4) := if fIsNaN z then (0, false) else satInc (2 ^ 32 - 1) (p.bins.getD b 0)
  { p with
    maxmag := if fIsFinite y then fMax p.maxmag (fAbs y) else p.maxmag
    values := v, clips := c, nans := n
    bins := if fIsNaN z then p.bins else p.bins.set b x
    sat := p.sat || s1 || s2 || s3 || s4 }

/-- Does a census fail (R167)? -/
def censusFails (clips values k : Nat) : Bool := decide (values ≠ 0) && decide (values < clips * 2 ^ k)

/-- A fault the zipper finds (R129): kind, and the block list rather than the tile list. -/
structure ZipFault where
  kind : Nat
  block : Bool
  deriving DecidableEq, Repr

/-- What the zipper makes of a piece's tile list (R124, R129): tiles in order before the first fault, and that fault. -/
structure ZipScan where
  tiles : List Tile
  fault : Option ZipFault
  deriving DecidableEq, Repr

/-- Walk tile-list entries (index and key; none where the entry is poisoned), in order (R129): of one entry the lowest kind is recorded (log entry 92). -/
def scanTiles (ncols ngroups : Nat) : Option Nat → List (Nat × Option Nat) → List Tile → ZipScan
  | _, [], acc => ⟨acc.reverse, none⟩
  | prev, (_, none) :: es, acc => scanTiles ncols ngroups prev es acc
  | prev, (i, some key) :: es, acc =>
    let col := key / 8 % 2 ^ 18
    let rg := key % 8
    if col ≥ ncols then ⟨acc.reverse, some ⟨1, false⟩⟩
    else if rg ≥ ngroups then ⟨acc.reverse, some ⟨2, false⟩⟩
    else if (prev.map (fun q => decide (key ≤ q))).getD false then ⟨acc.reverse, some ⟨3, false⟩⟩
    else scanTiles ncols ngroups (some key) es (⟨col, rg, i⟩ :: acc)

/-- Walk block-list columns, in order (R129): the columns before the first fault, and that fault. -/
def scanBlocks (ncols : Nat) : Option Nat → List Nat → List Nat → List Nat × Option ZipFault
  | _, [], acc => (acc.reverse, none)
  | prev, c :: cs, acc =>
    if c ≥ ncols then (acc.reverse, some ⟨1, true⟩)
    else if (prev.map (fun q => decide (c ≤ q))).getD false then (acc.reverse, some ⟨3, true⟩)
    else scanBlocks ncols (some c) cs (c :: acc)

/-- Intersect the two streams (R124): tiles whose column the block list holds, up to the first fault of either stream, the one the walk meets first (log entry 92). -/
def intersect (t : ZipScan) (blocks : Option (List Nat × Option ZipFault)) : ZipScan :=
  match blocks with
  | none => t
  | some (cols, bf) =>
    let last := cols.getLastD 0
    let reach := match bf with
      | none => t.tiles
      | some _ => t.tiles.filter (fun x => decide (x.col ≤ last))
    let sel := reach.filter (fun x => cols.contains x.col)
    let fault := match bf, t.fault with
      | none, f => f
      | some b, none => some b
      | some b, some f => if (t.tiles.getLast?.map (fun x => decide (x.col ≤ last))).getD true then some f else some b
    ⟨sel, fault⟩

/-- The chunks a list of tiles streams, in order: tile column and chunk within it (R79, R119). -/
def chunksOf (fmt : Nat) (tiles : List Tile) : List (Nat × Nat) :=
  let cols := tiles.foldl (fun acc t => if acc.getLast? = some t.col then acc else acc ++ [t.col]) []
  (cols.map (fun c => (List.range (chunksPerCol fmt)).map (fun k => (c, k)))).flatten

/-- Codes of b bits each as one number, the first lowest. -/
def packCodes (b : Nat) : List Nat → Nat
  | [] => 0
  | c :: cs => c % 2 ^ b + 2 ^ b * packCodes b cs

/-- n codes of b bits from a number. -/
def unpackCodes (b : Nat) : Nat → Nat → List Nat
  | 0, _ => []
  | n + 1, v => v % 2 ^ b :: unpackCodes b n (v / 2 ^ b)

/-- The exact real value of a code times a scale. -/
def exactCode (fmt c : Nat) (scale : F32) : Dy := (fExact (codeF32 fmt c)).mul (fExact scale)

/-- The block rule of R182 over products of fp32 pairs already widened: one block's exact sum rounded once. -/
def blockSum (xs : List ((F32 × F32) × (F32 × F32))) : F32 :=
  let val (p : F32 × F32) : F32 := p.1
  if xs.any (fun x => fIsNaN (val x.1) || fIsNaN (val x.2) || fIsNaN x.1.2 || fIsNaN x.2.2) then qNaN
  else
    let infs := xs.filter (fun x => fIsInf (val x.1) || fIsInf (val x.2) || fIsInf x.1.2 || fIsInf x.2.2)
    let zero (x : (F32 × F32) × (F32 × F32)) : Bool := fIsZero (val x.1) || fIsZero (val x.2) || fIsZero x.1.2 || fIsZero x.2.2
    let sgn (x : (F32 × F32) × (F32 × F32)) : Bool := (fSign (val x.1) != fSign x.1.2) != (fSign (val x.2) != fSign x.2.2)
    if infs.any zero then qNaN
    else match infs with
      | [] => fOfDy (Dy.sum (xs.map (fun x =>
          ((fExact (val x.1)).mul (fExact x.1.2)).mul ((fExact (val x.2)).mul (fExact x.2.2)))))
      | i :: is => if is.all (fun x => sgn x == sgn i) then fWithSign (sgn i) 0x7F800000 else qNaN

/-- Cut a list into runs of n, with fuel. -/
def chop {α : Type} (n : Nat) : Nat → List α → List (List α)
  | 0, _ => []
  | _ + 1, [] => []
  | f + 1, xs => xs.take n :: chop n f (xs.drop n)

/-- The dot product of R182: blocks of 64 in ascending order, each added by one fp32 addition. Each operand is a value with its scale. -/
def blockDot (a b : List (F32 × F32)) : F32 :=
  match (chop 64 a.length (a.zip b)).map blockSum with
  | [] => 0#32
  | x :: xs => xs.foldl fAdd x

/-- The integer dot product of R183, converted once. -/
def intDot (a b : List Int) : F32 := fOfInt ((List.zipWith (fun x y => x * y) a b).sum)

/-- The exact sum of fp32 terms, rounded once (R192 RSUM, R198, R237). -/
def exactSum (xs : List F32) : F32 :=
  if xs.any fIsNaN then qNaN
  else match xs.filter fIsInf with
    | [] => fOfDy (Dy.sum (xs.map fExact))
    | i :: is => if is.all (fun x => fSign x == fSign i) then i else qNaN

end Sys2Proof.Machine
end

