-- ==== Sys2Proof/Machine/Expand.lean ====
section
/-! DEFINITION. Plan expansion (R18, R101, R103, R109, R121, R128, R137, R138, R188, R191, R195): the operations of a step, its pieces and matrix commands, their numbers, and dealing them to the panels. -/

namespace Sys2Proof.Machine

/-- The lane groups of a step: lane-group index, and for each lane its sequence; a cleared sequence leaves its lane empty. -/
def groupLanes (t : Step) (g : Nat) : List (Option Nat) :=
  (t.entry.groups.getD g []).map (fun x =>
    if t.seqs.any (fun q => q.seq == x.1 && q.cleared) then none else some x.1)

/-- The lane mask of a list of lanes. -/
def maskOf (lanes : List (Option Nat)) : Nat :=
  ((List.range lanes.length).map (fun i => if (lanes.getD i none).isSome then 2 ^ i else 0)).sum

/-- The lanes a mask names, of 16. -/
def lanesOf (mask : Nat) : List Nat := (List.range 16).filter (fun i => decide (mask / 2 ^ i % 2 = 1))

/-- The runtime slot of a template-local slot for a lane-group index (log entry 20). -/
def slotFor (t : Step) (lg loc : Nat) : Nat := t.entry.slotBase + (lg - t.entry.lgBase) * t.entry.slotsPer + loc

/-- The last operation before op i whose outputs hold a template-local slot. -/
def producerOf (ops : List OpRun) (i loc : Nat) : Option OpRun :=
  (ops.take i).reverse.find? (fun o => (entOutputs o.bits).contains loc)

/-- The scale point a template-local slot holds when operation i of a list reads it, when it is one; a dispatch slot stands for the gate entry's home activation slot (R139, R475). -/
def slotPoint (ops : List OpRun) (i loc : Nat) : Option Nat :=
  let point (o : OpRun) : Option Nat := if entPT o.bits then some (4 * o.layer + entPoint o.bits) else none
  match producerOf ops i loc with
  | none => none
  | some o => if o.kind = 2 then (producerOf ops i (natBits o.bits 163 152)).bind point else point o

/-- The scale point an operation's activation slot is, when it is one. -/
def inputPoint (t : Step) (i : Nat) : Option Nat :=
  ((t.ops[i]?).bind (fun o => (entInputs o.bits).head?)).bind (slotPoint t.ops i)

/-- The operations of a layer, levels filled, not yet numbered. -/
def layerOpRuns (r : Reader) (l : Nat) : List OpRun :=
  let bs := templateOf r l
  let ls := levels bs
  (List.range bs.length).map (fun i =>
    ⟨l, i, ls.getD i 0, bs.getD i 0, entKind (bs.getD i 0), false, false, false, 0, 0, false, false⟩)

/-- The operations of layers lo to hi of a model. -/
def layersOps (r : Reader) (lo hi : Nat) : List OpRun := ((List.range (hi + 1 - lo)).map (fun k => layerOpRuns r (lo + k))).flatten

/-- The operations of a model from layer lo to its last: a stage's output is read by the stages after it (R33). -/
def opsFrom (r : Reader) (lo : Nat) : List OpRun := layersOps r lo (imgLayers r - 1)

/-- Do only stitcher operations consume scale point k of a model (R168, R170), in its stage and in the later ones? A gate entry's home activation slot is consumed by the expert operation that gathers from it. -/
def onlyStitchers (r : Reader) (k : Nat) : Bool :=
  let ops := opsFrom r (k / 4)
  (List.range ops.length).all (fun j => match ops[j]? with
    | none => true
    | some o =>
      let ins := if o.kind = 2 then [natBits o.bits 139 128] else entInputs o.bits
      o.kind == 0 || !(ins.any (fun loc => slotPoint ops j loc == some k)))

/-- A scale point of the step's scale table. -/
def pointOf (t : Step) (k : Nat) : PointState := sget (fun _ => PointState.none) t.points k

/-- Does operation i read a split-mode slot (R87, R170)? A slot an earlier stage wrote says so by its format. -/
def inputSplit (s : State) (t : Step) (i : Nat) : Bool :=
  match inputPoint t i with
  | some k => (pointOf t k).split
  | none => match (t.ops[i]?).bind (fun o => (entInputs o.bits).head?) with
    | some loc => (producerOf t.ops i loc).isNone && (slotOf s (slotFor t t.entry.lgBase loc)).fmt == 6
    | none => false

/-- The lanes of a lane group that the pieces of operation i name: all in one, or for a split point of an int4 layer two halves of 8 lanes (R453). -/
def halfMasks (s : State) (t : Step) (r : Reader) (i l : Nat) : List Nat :=
  if layerLanes r l = 16 && inputSplit s t i then [0xFF, 0xFF00] else [0xFFFF]

/-- Room for a lane group's list. -/
def listStride (dim fmt : Nat) : Nat := ceilDiv (8 + 4 * ceilDiv dim (colInputs fmt)) 64 * 64

/-- SUBS of R109. -/
def subsOf (n d t : Nat) : Nat := max 1 (min 256 (ceilDiv (min n d) t))

/-- First entry and length of run i of a list of n entries cut into subs runs (R109). -/
def runOf (n subs i : Nat) : Nat × Nat :=
  (i * (n / subs) + min i (n % subs), n / subs + (if i < n % subs then 1 else 0))

/-- One row block of a matrix: its tile list and data addresses, header n, first row and row count. -/
structure RowBlock where
  list : Nat
  data : Nat
  n : Nat
  elem0 : Nat
  rows : Nat
  deriving DecidableEq, Repr

/-- The row blocks of matrix w of layer l of a placed image. -/
def rowBlocks (r : Reader) (base l w : Nat) : List RowBlock :=
  (List.range (matNB r l w)).map (fun k =>
    let rb := layerRB r l
    ⟨base + blockList r l w k, base + blockData r l w k, r (blockList r l w k) 4, rb * k, min rb (matOut r l w - rb * k)⟩)

/-- Is a row block's header n out of range (R128)? -/
def headerBad (r : Reader) (l w : Nat) (b : RowBlock) (subs : Nat) : Bool :=
  decide (ceilDiv (matIn r l w) (colInputs (layerFmt r l)) * ceilDiv b.rows 32 < b.n) || decide (65535 * subs < b.n)

/-- The tile column of a tile-list entry of model m. -/
def entryCol (s : State) (m : Nat) (a : Nat) : Nat := peekAs s (tenantCtx s (modelOf s m).owner) a 4 / 8 % 2 ^ 18

/-- The matrices of a stitcher operation: one, or for an expert operation one for each expert (R475). -/
def opMatrices (r : Reader) (l b : Nat) : List Nat := if entExpert b then (List.range (layerE r l)).map (fun e => entMatrix b + e) else [entMatrix b]

/-- The elements per query row of an operation's output (R177, R475, R476); for an expert operation those of its largest expert. -/
def opOutDim (r : Reader) (o : OpRun) : Nat :=
  match o.kind with
  | 0 => ((opMatrices r o.layer o.bits).map (matOut r o.layer)).foldl max 0
  | 1 => match entOpc o.bits with
    | 0 => natBits o.bits 191 160
    | 1 => natBits o.bits 175 168 * imgHdim r
    | 2 => r (imgEmbed r) 4
    | _ => natBits o.bits 255 224
  | _ => layerE r o.layer

/-- The elements per query row that expert e of an operation writes: the output dimension of its own matrix (R475, R476). -/
def expertOut (r : Reader) (o : OpRun) (e : Nat) : Nat := if o.kind = 0 && entExpert o.bits then matOut r o.layer (entMatrix o.bits + e) else opOutDim r o

/-- Is the list at an address one of a weight format's blocks: the inputs per block in its header agree (R122)? -/
def listOf (s : State) (a fmt : Nat) : Nat := if a ≠ 0 ∧ (getByte s (a + 4)).toNat = colInputs fmt then a else 0

/-- ABLK of operation i's pieces for a lane group (R99, R123, R139, R453): where the finishers of this step write the list of the slot it reads, when the plan entry lists that slot for this weight format; the union list of a dispatch slot, whatever its inputs per block; the list a slot of an earlier stage has; else 0. The TMARK of R475 has no field for the listed mark or the consuming layer's weight format, so the model takes both from the plan entry (log entry 99). -/
def blockListAt (s : State) (t : Step) (r : Reader) (o : OpRun) (i lg : Nat) : Nat :=
  let loc := natBits o.bits 187 176
  let fmt := layerFmt r o.layer
  match producerOf t.ops i loc with
  | some q =>
    if q.kind = 2 then (slotOf s (slotFor t lg loc)).list
    else if !(entPT q.bits) then 0
    else match t.entry.listed.find? (fun z => z.slot == loc && z.fmt == fmt) with
      | some z => z.addr + (lg - t.entry.lgBase) * listStride (opOutDim r q) fmt
      | none => 0
  | none => listOf s (slotOf s (slotFor t lg loc)).list fmt

/-- The pieces of one row block for the lanes of one lane group (R109, R121), numbered from a first number. -/
def blockPieces (s : State) (t : Step) (r : Reader) (o : OpRun) (i lg mask : Nat) (w : Nat) (b : RowBlock) (num : Nat) : List Piece :=
  let subs := subsOf b.n (imgDensity r) t.split
  if b.n = 0 || headerBad r o.layer w b subs then []
  else (List.range subs).map (fun k =>
    let run := runOf b.n subs k
    let tl := b.list + 16 + 4 * run.1
    let split := inputSplit s t i
    { step := t.num, piece := num + k, attempt := t.attempt, wound := natBits o.bits 58 58 == 1,
      fmt := layerFmt r o.layer, ptag := if split then 3 else natBits o.bits 67 64,
      model := t.model, layer := o.layer, elem0 := b.elem0, rows := b.rows, lanemask := mask, lgroup := lg,
      aslot := slotFor t lg (natBits o.bits 187 176), oslot := slotFor t lg (natBits o.bits 199 188),
      home := 0, colFirst := entryCol s t.model tl, colEnd := entryCol s t.model (tl + 4 * (run.2 - 1)) + 1,
      waddr := b.data + 128 * run.1, tcount := run.2, tlist := tl,
      ablk := blockListAt s t r o i lg, sub := k, subs := subs, op := i })

/-- Pieces one lane group of a matrix expands to, when one piece names all its lanes. -/
def matrixPieces (t : Step) (r : Reader) (base l w : Nat) : Nat :=
  ((rowBlocks r base l w).map (fun b =>
    let subs := subsOf b.n (imgDensity r) t.split
    if b.n = 0 || headerBad r l w b subs then 0 else subs)).sum

/-- Lay out pieces: row blocks outermost, then lane groups, then half pieces, then sub-pieces (R101, R453). -/
def layPieces (s : State) (t : Step) (r : Reader) (o : OpRun) (i w : Nat) (groups : List (Nat × Nat)) : Nat → List RowBlock → List Piece
  | _, [] => []
  | num, b :: bs =>
    let per := subsOf b.n (imgDensity r) t.split
    let here := if b.n = 0 || headerBad r o.layer w b per then 0 else per
    let halves := halfMasks s t r i o.layer
    ((List.range groups.length).map (fun g => ((List.range halves.length).map (fun h =>
      blockPieces s t r o i (groups.getD g (0, 0)).1 ((groups.getD g (0, 0)).2 &&& halves.getD h 0) w b (num + (g * halves.length + h) * here))).flatten)).flatten
    ++ layPieces s t r o i w groups (num + groups.length * halves.length * here) bs

/-- The lane groups of a step as pairs of lane-group index and lane mask. -/
def stepGroups (t : Step) : List (Nat × Nat) :=
  (List.range t.entry.groups.length).map (fun g => (t.entry.lgBase + g, maskOf (groupLanes t g)))

/-- The dispatch groups of an expert as pairs of lane-group index and lane mask (R136). -/
def expertGroups (t : Step) (gate e : Nat) : List (Nat × Nat) :=
  (t.dispatch.filter (fun d => d.gateOp == gate && d.expert == e)).map (fun d => (d.lgroup, 2 ^ d.homes.length - 1))

/-- The gate operation whose routing operation i uses: the last gate entry before it in its layer. -/
def gateOf (t : Step) (i : Nat) : Nat :=
  (((List.range i).filter (fun j => match t.ops[j]? with
    | some o => o.kind == 2 && (t.ops[i]?.map (fun x => x.layer == o.layer)).getD false
    | none => false)).getLast?).getD 0

/-- The pieces of a stitcher operation (R101); an expert operation's come expert by expert (R138). -/
def opPieces (s : State) (t : Step) (r : Reader) (base i : Nat) (o : OpRun) : List Piece :=
  let w := entMatrix o.bits
  if entExpert o.bits then
    ((List.range (layerE r o.layer)).foldl (fun (acc : Nat × List Piece) e =>
      let gs := expertGroups t (gateOf t i) e
      let ps := layPieces s t r o i (w + e) gs acc.1 (rowBlocks r base o.layer (w + e))
      (acc.1 + ps.length, acc.2 ++ ps)) (o.piece0, [])).2
  else layPieces s t r o i w (stepGroups t) o.piece0 (rowBlocks r base o.layer w)

/-- A matrix command with the common fields filled. -/
def matBase (t : Step) (i lg mask num : Nat) (o : OpRun) : MatCmd :=
  { step := t.num, piece := num, attempt := t.attempt, opc := entOpc o.bits, model := t.model, layer := o.layer,
    lgroup := lg, lanemask := mask, inSlots := (entInputs o.bits).map (slotFor t lg),
    outSlots := (entOutputs o.bits).map (slotFor t lg), elem0 := 0, rows := 0, in0 := 0, inlen := 0, part := 0,
    pltab := t.entry.pltab + 512 * (lg - t.entry.lgBase), bits := o.bits, op := i, clocks := 1, rerun := false, ready := false }

/-- The part of a step's sequence on a lane of a lane group: of a dispatch group, the one on the home lane (R136). -/
def partAt (t : Step) (lg lane : Nat) : Option StepSeq :=
  let key := match t.dispatch.find? (fun d => d.lgroup == lg) with
    | some d => d.homes.getD lane (16 * lg + lane)
    | none => 16 * lg + lane
  t.seqs.find? (fun q => q.group == key / 16 - t.entry.lgBase && q.lane == key % 16 && !q.cleared)

/-- Engine clocks of a count of multiply-accumulates, with bf16 on either side or without (R180). -/
def macClocks (bf : Bool) (macs : Nat) : Nat := ceilDiv macs (if bf then 1024 else 4096)

/-- Clocks of a vector instruction (R192). -/
def vClocks (w : Nat) : Nat := if 7 ≤ vOpcode w ∧ vOpcode w ≤ 10 then 4 else 1

/-- The engine clocks the plan engine predicts for one command or part of an operation, over the lanes of one lane group, at the rates of R180 and R192 (R191; log entry 91): for a dense command of rows and inlen over every query row, else of the whole operation or part. -/
def predictedClocks (t : Step) (r : Reader) (o : OpRun) (lg : Nat) (lanes : List Nat) (rows inlen : Nat) : Nat :=
  let b := o.bits
  let n := lanes.length
  1 + match entOpc b with
    | 0 => macClocks (natBits b 155 152 == 0xA || natBits b 159 156 == 0xA) (n * qposOf r * rows * inlen)
    | 1 =>
      let keys := ((lanes.filterMap (partAt t lg)).map (fun q => q.first + q.inputs.length)).sum
      let macs := keys * imgHdim r * (natBits b 175 168 / max 1 (natBits b 183 176)) * natBits b 197 192
      macClocks (natBits b 155 152 == 0xA || imgKfmt r == 0xA) macs + macClocks true macs
    | 2 => ceilDiv (n * qposOf r * r (imgEmbed r) 4) 64
    | _ => n * qposOf r * ceilDiv (natBits b 255 224) 64 * ((vProgram r b 0).map vClocks).sum

/-- The commands of a matrix operation over some lane groups, numbered from a first number (R101, R185, R188, R195). -/
def groupCommands (t : Step) (r : Reader) (i : Nat) (o : OpRun) (num : Nat) (gs : List (Nat × Nat)) : List MatCmd :=
  let base (g num rows inlen : Nat) : MatCmd :=
    let x := gs.getD g (0, 0)
    { matBase t i x.1 x.2 num o with clocks := predictedClocks t r o x.1 (lanesOf x.2) rows inlen }
  match entOpc o.bits with
  | 0 =>
    let out := natBits o.bits 191 160
    let spans := spansOf (natBits o.bits 287 256)
    let n := spans.length
    ((List.range (ceilDiv out 256)).map (fun k => ((List.range gs.length).map (fun g => (List.range n).map (fun j =>
      let sp := spans.getD j (0, 0)
      let rows := min 256 (out - 256 * k)
      { base g (num + (k * gs.length + g) * n + j) rows sp.2 with elem0 := 256 * k, rows := rows, in0 := sp.1, inlen := sp.2 }))).flatten)).flatten
  | 1 =>
    let kvh := imgKvHeads r
    ((List.range gs.length).map (fun g => (List.range kvh).map (fun k =>
      { base g (num + g * kvh + k) 0 0 with part := k }))).flatten
  | _ => (List.range gs.length).map (fun g => base g (num + g) 0 0)

/-- The commands of a matrix operation; one that the template marks EXPERT runs once per routed expert, over its dispatch groups, expert by expert (R136, R138, R475). -/
def opCommands (t : Step) (r : Reader) (i : Nat) (o : OpRun) : List MatCmd :=
  if entExpert o.bits then
    ((List.range (layerE r o.layer)).foldl (fun (acc : Nat × List MatCmd) e =>
      let cs := groupCommands t r i o acc.1 (expertGroups t (gateOf t i) e)
      (acc.1 + cs.length, acc.2 ++ cs)) (o.piece0, [])).2
  else groupCommands t r i o o.piece0 (stepGroups t)

/-- G of R137. -/
def dispatchMax (k l e w : Nat) : Nat := min (k * l) ((k * l + (w - 1) * min e (k * l)) / w)

/-- Piece numbers operation i takes (R101, R137, R185, R453). -/
def opCount (s : State) (t : Step) (r : Reader) (base i : Nat) (o : OpRun) : Nat :=
  let g := t.entry.groups.length
  match o.kind with
  | 0 =>
    let halves := (halfMasks s t r i o.layer).length
    if entExpert o.bits then
      let q := ((List.range (layerE r o.layer)).map (fun e => matrixPieces t r base o.layer (entMatrix o.bits + e))).foldl max 0
      dispatchMax (layerK r o.layer) t.seqs.length (layerE r o.layer) (layerLanes r o.layer) * q * halves
    else matrixPieces t r base o.layer (entMatrix o.bits) * g * halves
  | 1 =>
    let g := if entExpert o.bits then dispatchMax (layerK r o.layer) t.seqs.length (layerE r o.layer) (layerLanes r o.layer) else g
    match entOpc o.bits with
    | 0 => ceilDiv (natBits o.bits 191 160) 256 * g * (spansOf (natBits o.bits 287 256)).length
    | 1 => g * imgKvHeads r
    | _ => g
  | _ => 0

/-- Number operations in order (R101): the count of operation i is what operation i takes. -/
def numberOps (counts : Nat → OpRun → Nat) : Nat → Nat → List OpRun → List OpRun
  | _, _, [] => []
  | i, n, o :: os =>
    let c := counts i o
    { o with piece0 := n, pieceEnd := n + c } :: numberOps counts (i + 1) (n + c) os

/-- The operations of a step over its layers. -/
def stepOps (s : State) (t : Step) : List OpRun :=
  let m := modelOf s t.model
  let r := imageOf s m
  let ops := layersOps r t.lo t.hi
  numberOps (opCount s { t with ops := ops } r m.base) 0 0 ops

/-- Row blocks of a matrix whose header n is out of range (R128). -/
def badBlocks (s : State) (t : Step) (o : OpRun) (w : Nat) : Nat :=
  let m := modelOf s t.model
  let r := imageOf s m
  ((rowBlocks r m.base o.layer w).filter (fun b => headerBad r o.layer w b (subsOf b.n (imgDensity r) t.split))).length

/-- The index faults of kind 5 that the expansion at the freeze or at a new attempt meets (R128): an operation for each row block. Expert operations are expanded later. -/
def expansionFaults (s : State) (t : Step) : List OpRun :=
  t.ops.flatMap (fun o => if o.kind = 0 && !(entExpert o.bits) then List.replicate (badBlocks s t o (entMatrix o.bits)) o else [])

/-- Those that the expansion of an expert operation meets (R128, R138): only the experts with a routed token are expanded. -/
def expertFaults (s : State) (t : Step) (i : Nat) (o : OpRun) : List OpRun :=
  if o.kind ≠ 0 then []
  else List.replicate ((((t.dispatch.filter (fun d => d.gateOp == gateOf t i)).map (fun d => d.expert)).eraseDups.map (fun e => badBlocks s t o (entMatrix o.bits + e))).sum) o

/-- The next active panel from n on, cyclically, whose queue has room (R103). -/
def nextRoom (s : State) (n : Nat) : Option Nat :=
  ((List.range 48).map (fun i => (n + i) % 48)).find? (fun p => !(isolated s p) && decide ((panelOf s p).queue.length < 4096))

/-- Deal one piece to the next active panel's queue that has room among its 4,096 places (R103); with room in none it waits to be dealt (log entry 82). -/
def dealPiece (ready : Bool) (s : State) (x : Piece) : State :=
  match nextRoom s s.dealNext with
  | none => { s with undealt := s.undealt ++ [⟨x, ready⟩] }
  | some p =>
    let s := setPanel p { panelOf s p with queue := (panelOf s p).queue ++ [⟨{ x with home := p }, ready⟩] } s
    { s with dealNext := (p + 1) % 48 }

/-- Predicted clocks waiting in a panel's matrix queue. -/
def queueClocks (s : State) (p : Nat) : Nat := ((panelOf s p).mq.map (fun c => c.clocks)).sum

/-- The active panels whose matrix queue has room among its 256 places (R191). -/
def roomyPanels (s : State) : List Nat := (activePanels s).filter (fun p => decide ((panelOf s p).mq.length < 256))

/-- Of the panels with room, the one with the fewest predicted clocks, the lower number on a tie (R191). -/
def lightestPanel (s : State) : Option Nat :=
  match roomyPanels s with
  | [] => none
  | p :: ps => some (ps.foldl (fun b q => if queueClocks s q < queueClocks s b then q else b) p)

/-- Deal one matrix command or part (R191); with room in no panel's queue it waits to be dealt (log entry 82). -/
def dealCommand (s : State) (c : MatCmd) : State :=
  match lightestPanel s with
  | none => { s with undealtMat := s.undealtMat ++ [c] }
  | some p => setPanel p { panelOf s p with mq := (panelOf s p).mq ++ [c] } s

/-- Deal the pieces and commands that wait for room, in order, as far as there is room. -/
def dealWaiting (s : State) : State :=
  let s := s.undealt.foldl (fun s q => dealPiece q.ready s q.piece) { s with undealt := [] }
  s.undealtMat.foldl dealCommand { s with undealtMat := [] }

/-- Expand operation i of a step into the queues. -/
def expandOp (ready : Bool) (t : Step) (i : Nat) (s : State) : State :=
  match t.ops[i]? with
  | none => s
  | some o =>
    let m := modelOf s t.model
    let r := imageOf s m
    if o.kind = 0 then (opPieces s t r m.base i o).foldl (dealPiece ready) s
    else if o.kind = 1 then (opCommands t r i o).foldl (fun s c => dealCommand s { c with ready := ready }) s
    else s

/-- Expand every operation of a step but the expert ones, with ready bits clear (R18, R110). -/
def expandStep (t : Step) (s : State) : State :=
  let idx := (List.range t.ops.length).filter (fun i => (t.ops[i]?.map (fun o => !(entExpert o.bits) || o.kind == 2)).getD false)
  let s := idx.foldl (fun s i => expandOp false t i s) s
  setStep { t with ops := t.ops.map (fun o => { o with expanded := !(entExpert o.bits) || o.kind == 2 }) } s

/-- Is a piece one of a step's current attempt? -/
def pieceOf (t : Step) (x : Piece) : Bool := x.step == t.num

/-- Purge a step's untaken pieces and commands from every queue (R112). -/
def purgeStep (n : Nat) (s : State) : State :=
  (List.range 48).foldl (fun s p =>
    let x := panelOf s p
    setPanel p { x with queue := x.queue.filter (fun q => !(q.piece.step == n)), mq := x.mq.filter (fun c => !(c.step == n)) } s)
    { s with undealt := s.undealt.filter (fun q => !(q.piece.step == n)), undealtMat := s.undealtMat.filter (fun c => !(c.step == n)) }

/-- Is any piece or command of operation i of a step still queued or in an engine? -/
def opBusy (s : State) (t : Step) (i : Nat) : Bool :=
  let inRun (x : Option StRun) : Bool := (x.map (fun q => q.piece.step == t.num && q.piece.attempt == t.attempt && q.piece.op == i)).getD false
  s.undealt.any (fun q => q.piece.step == t.num && q.piece.op == i) || s.undealtMat.any (fun c => c.step == t.num && c.op == i) || (List.range 48).any (fun p =>
    let x := panelOf s p
    x.queue.any (fun q => q.piece.step == t.num && q.piece.op == i)
      || x.mq.any (fun c => c.step == t.num && c.op == i)
      || x.stitchers.any (fun e => inRun e.2.cur || inRun e.2.ahead))

/-- Does a record belong to operation i of the step's current attempt? -/
def recordOf (t : Step) (o : OpRun) (r : Record) : Bool :=
  r.step == t.num % 2 ^ 14 && r.attempt == t.attempt && decide (o.piece0 ≤ r.piece) && decide (r.piece < o.pieceEnd)

/-- Does a record port, a finisher input or a level-1 node hold a record of the operation (R153)? -/
def recordsHeld (s : State) (t : Step) (o : OpRun) : Bool :=
  (List.range 48).any (fun p =>
    let x := panelOf s p
    x.finIn.any (recordOf t o) || x.window.any (recordOf t o)
      || x.stitchers.any (fun e => e.2.port.any (recordOf t o)))

/-- The position in a step's order of its next operations to release: layer and level of the first one not released. -/
def nextLevel (t : Step) : Option (Nat × Nat) :=
  let open_ := t.ops.filter (fun o => !o.released)
  match open_ with
  | [] => none
  | o :: os => some (os.foldl (fun b x => if x.layer < b.1 ∨ (x.layer = b.1 ∧ x.level < b.2) then (x.layer, x.level) else b) (o.layer, o.level))

/-- Is operation o of the level given? -/
def atLevel (k : Nat × Nat) (o : OpRun) : Bool := o.layer == k.1 && o.level == k.2

/-- Have all operations before a level closed (R110)? -/
def levelReady (t : Step) (k : Nat × Nat) : Bool :=
  t.ops.all (fun o => o.closed || !(decide (o.layer < k.1) || (o.layer == k.1 && decide (o.level < k.2))))

/-- Does an operation send seam records? -/
def sendsRecords (o : OpRun) : Bool := o.kind == 0 || (o.kind == 1 && entOpc o.bits == 0)

/-- The home finisher's panel of an element of a slot (R146). -/
def homePanel (t : Step) (rows slot elem : Nat) : Nat :=
  t.actives.getD ((slot + elem / rows) % max 1 t.actives.length) 0

/-- The panel whose finisher works on an element: its home, or while that is isolated, and writes nothing more (R114), the next active panel (log entry 86). -/
def workingHome (s : State) (t : Step) (rows slot elem : Nat) : Nat :=
  let p := homePanel t rows slot elem
  (((List.range 48).map (fun i => (p + i) % 48)).find? (fun q => !(isolated s q))).getD p

/-- The level-2 node that feeds a panel's finisher (R145). -/
def nodeFor (p : Nat) : Nat := p / 6

/-- Merge-store words of one element-lane of an operation (R148). -/
def wordsPer (s : State) (t : Step) (i : Nat) (o : OpRun) : Nat :=
  if o.kind = 1 then 16 else if inputSplit s t i then 2 else 1

/-- The words one slot of a lane group needs in a level-2 node, at w words an element-lane (R146, R152). -/
def slotWords (s : State) (t : Step) (o : OpRun) (node lg mask loc w : Nat) : Nat :=
  let r := imageOf s (modelOf s t.model)
  let dim := opOutDim r o * qposOf r
  let rb := layerRB r o.layer
  let slot := slotFor t lg loc
  ((List.range (ceilDiv dim rb)).map (fun k =>
    if nodeFor (homePanel t rb slot (rb * k)) = node then min rb (dim - rb * k) * (lanesOf mask).length * w else 0)).sum

/-- Words for the combination of an expert operation's results in the home slots (R140, R148). -/
def combineWords (s : State) (t : Step) (o : OpRun) (node : Nat) : Nat :=
  if entCombine o.bits then
    ((stepGroups t).map (fun g => ((entOutputs o.bits).map (fun loc => slotWords s t o node g.1 g.2 loc 16)).sum)).sum
  else 0

/-- The words an operation needs in a level-2 node (R152): its output slots' element-lanes homed there. -/
def reserveWords (s : State) (t : Step) (i : Nat) (o : OpRun) (node : Nat) : Nat :=
  let w := wordsPer s t i o
  let groups := if entExpert o.bits then
      (t.dispatch.filter (fun d => d.gateOp == gateOf t i)).map (fun d => (d.lgroup, 2 ^ d.homes.length - 1))
    else stepGroups t
  (groups.map (fun g => ((entOutputs o.bits).map (fun loc => slotWords s t o node g.1 g.2 loc w)).sum)).sum
    + combineWords s t o node

/-- Words reserved in a node. -/
def reservedIn (s : State) (n : Nat) : Nat := ((nodeOf s n).reserves.map (fun x => x.words)).sum

end Sys2Proof.Machine
end

