-- ==== Sys2Proof/Machine/Cost.lean ====
section
/-! DEFINITION. The cost model (R27 to R31, R52, R116, R137, R172, R177, R202) and the admission budget. -/

namespace Sys2Proof.Machine

/-- Bytes of a matrix at the density the model declares (R30): each row block holds at most D tiles, and no more than it has places for. -/
def matBytes (r : Reader) (l w : Nat) : Nat :=
  let cols := ceilDiv (matIn r l w) (colInputs (layerFmt r l))
  ((List.range (matNB r l w)).map (fun k =>
    let rb := layerRB r l
    128 * min (imgDensity r) (cols * ceilDiv (min rb (matOut r l w - rb * k)) 32))).sum

/-- The largest matrix of an expert operation. -/
def largestExpert (r : Reader) (l w : Nat) : Nat :=
  ((List.range (layerE r l)).map (fun e => matBytes r l (w + e))).foldl max 0

/-- The bytes of the n largest experts of an operation. -/
def largestExperts (r : Reader) (l w n : Nat) : Nat :=
  let all := (List.range (layerE r l)).map (fun e => matBytes r l (w + e))
  ((sortBy (fun x => x) all).reverse.take n).sum

/-- Lane groups an expert operation is charged for: G of R137. -/
def chargedGroups (t : Step) (r : Reader) (l : Nat) : Nat :=
  dispatchMax (layerK r l) t.seqs.length (layerE r l) (layerLanes r l)

/-- Weight bytes an operation adds to the stitcher term: over its lane groups, D4 bytes twice (R52), a split-mode consumer twice (R172), and one of an int4 layer for each of its half pieces (R453). -/
def stitchBytes (s : State) (t : Step) (r : Reader) (i : Nat) (o : OpRun) : Nat :=
  if o.kind ≠ 0 then 0
  else
    let w := entMatrix o.bits
    let base := if entExpert o.bits then chargedGroups t r o.layer * largestExpert r o.layer w
      else t.entry.groups.length * matBytes r o.layer w
    let twice := if layerFmt r o.layer = 2 then 2 else 1
    let split := if inputSplit s t i then 2 else 1
    base * twice * split * (halfMasks s t r i o.layer).length

/-- The declared compression ratio, in 1/256 (R30). -/
def ratioOf (r : Reader) : Nat := max 1 (imgRatio r)

/-- Weights an operation fetches from the stacks, once per step, in units of 1 / (8 × ratio) byte, so that the whole term is rounded once (R30): a wound layer's bytes at the declared ratio, in 1/256. -/
def streamParts (t : Step) (r : Reader) (o : OpRun) : Nat :=
  match o.kind with
  | 0 =>
    let w := entMatrix o.bits
    let raw := if entExpert o.bits then largestExperts r o.layer w (min (layerE r o.layer) (layerK r o.layer * t.seqs.length))
      else matBytes r o.layer w
    if layerSegDir r o.layer = 0 then raw * 8 * ratioOf r else raw * 8 * 256
  | 1 => if entOpc o.bits = 0 then natBits o.bits 191 160 * natBits o.bits 287 256 * fmtBits (natBits o.bits 155 152) * ratioOf r else 0
  | _ => 0

/-- Bytes the stacks deliver per core clock: 92% of 15.36 TB/s (R30). -/
def streamRate (mhz : Nat) : Nat := max 1 (14131200 / max 1 mhz)

/-- Bytes the stitchers take per core clock: 512 for each active panel (R30, R116). -/
def stitchRate (s : State) : Nat := max 1 (512 * (activePanels s).length)

/-- Key blocks of a lane group's longest lane (R202). -/
def keyBlocks (s : State) (g : List (Nat × Nat)) : Nat :=
  ceilDiv ((g.map (fun x => (seqOf s x.1).committed + x.2)).foldl max 0) 64

/-- The matrix term before copies (R202). -/
def matrixTerm (s : State) (t : Step) (r : Reader) : Nat :=
  let raw := ((List.range (t.hi + 1 - t.lo)).map (fun k =>
    (t.entry.groups.map (fun g => layerF r (t.lo + k) + layerA r (t.lo + k) * keyBlocks s g)).sum)).sum
  let a := (activePanels s).length
  if a = 48 then raw else ceilDiv (raw * 48) (max 1 a)

/-- The predicted cost of a step (R30, R31), its copies of R224 left out. -/
def stepCost (s : State) (t : Step) : Cost :=
  let m := modelOf s t.model
  let r := imageOf s m
  let st := ((List.range t.ops.length).map (fun i => (t.ops[i]?.map (stitchBytes s t r i)).getD 0)).sum
  let sb := if m.sliceRes then 0 else (t.ops.map (streamParts t r)).sum
  ⟨ceilDiv st (stitchRate s), ceilDiv sb (8 * ratioOf r * streamRate (coreMHz s)), matrixTerm s t r, 500 * (t.hi + 1 - t.lo)⟩

/-- Add two costs term by term. -/
def Cost.add (a b : Cost) : Cost := ⟨a.stitch + b.stitch, a.stream + b.stream, a.matrix + b.matrix, a.barrier + b.barrier⟩

/-- No cost. -/
def Cost.zero : Cost := ⟨0, 0, 0, 0⟩

/-- The core clocks of a cost (R31). -/
def Cost.clocks (c : Cost) : Nat := max c.stitch c.stream + c.matrix + c.barrier

/-- The dynamic term of R177. -/
def dynamicTerm (s : State) (t : Step) : Nat :=
  let r := imageOf s (modelOf s t.model)
  let a := max 1 (activePanels s).length
  (t.ops.map (fun o =>
    if entPT o.bits && (pointOf t (4 * o.layer + entPoint o.bits)).dyn
    then t.entry.groups.length * (50 + ceilDiv (2 * opOutDim r o * 16) (64 * a)) else 0)).sum

/-- The cost of a step with its copies and its dynamic term (R29, R31, R177, R224). -/
def fullCost (s : State) (t : Step) : Cost :=
  let c := stepCost s t
  { c with matrix := c.matrix + dynamicTerm s t + ceilDiv (t.cow * 65536) 4096 }

/-- N_guard in core clocks (R27). -/
def guardClocks (s : State) : Nat := clocks s 5000

/-- B of R27. -/
def budgetOf (s : State) (retrain : Bool) : Nat :=
  let n := clocks s (period s)
  let pct := rdF s 0x100018 55 48
  n - clocks s 6000 - guardClocks s - pct * n / 100 - (if retrain then clocks s 8000 else 0)

/-- BUDGET_CLK shows B of the tick (R27). -/
def showBudget (s : State) : State := wrF 0x100018 31 0 (budgetOf s (rdB s 0x100028 1)) s

/-- G of R172: the first clock of the emission guard. -/
def guardStart (s : State) : Nat := clocks s (period s) - guardClocks s

/-- Mark the current tick stretched (R36, R37); a tick whose edge was skipped is not stretched (R39). -/
def markStretched (s : State) : State := if rdB s 0x100028 3 || s.skipped then s else bump 0x100030 1 (wrB 0x100028 3 true s)

/-- The cost of one more attempt of a step or stage (R29, R31, R172): its copy allowance and its dynamic term stand in the matrix term. -/
def attemptCost (s : State) (t : Step) : Nat := (fullCost s t).clocks + 2000

/-- The fit test of R172: an attempt that does not fit marks the tick stretched before it is issued. -/
def fitAttempt (t : Step) (s : State) : State :=
  let c := attemptCost s t
  let s' := if s.predicted + c ≤ guardStart s || s.skipped then s else markStretched { s with stretchModels := insNat s.stretchModels t.model }
  { s' with predicted := s.predicted + c }

end Sys2Proof.Machine
end

