-- ==== Sys2Proof/Machine/Codec.lean ====
section
/-! DEFINITION. The spool codec (R282, R283, R285 to R288, R291, R292): code lengths, canonical codes, the stored form of a segment, its directory entry, and expansion with its faults. -/

namespace Sys2Proof.Machine

/-- The histogram of a segment: how often each byte value occurs. -/
def byteCount (bs : List Byte) (v : Nat) : Nat := (bs.filter (fun b => b.toNat == v)).length

/-- A node of the construction: weight, rank and the leaves below it. -/
structure HuffNode where
  weight : Nat
  rank : Nat
  leaves : List Nat
  deriving DecidableEq, Repr

/-- Does node a come before node b by (weight, rank)? -/
def HuffNode.before (a b : HuffNode) : Bool :=
  decide (a.weight < b.weight) || (a.weight == b.weight && decide (a.rank < b.rank))

/-- Insert a node in ascending order. -/
def huffInsert (n : HuffNode) : List HuffNode → List HuffNode
  | [] => [n]
  | m :: ms => if n.before m then n :: m :: ms else m :: huffInsert n ms

/-- Add one to the length of each leaf of a node. -/
def deepen (lens : List Nat) (leaves : List Nat) : List Nat :=
  leaves.foldl (fun ls v => ls.set v (ls.getD v 0 + 1)) lens

/-- The joining loop of R285, with fuel: lengths grow by one for every leaf under a join. -/
def huffJoin : Nat → Nat → List HuffNode → List Nat → List Nat
  | 0, _, _, lens => lens
  | f + 1, rank, a :: b :: rest, lens =>
    let c : HuffNode := ⟨a.weight + b.weight, rank, a.leaves ++ b.leaves⟩
    huffJoin f (rank + 1) (huffInsert c rest) (deepen lens c.leaves)
  | _, _, _, lens => lens

/-- K of R285 and R291 over a table of lengths. -/
def kraft (lens : List Nat) : Nat := (lens.map (fun l => if l = 0 then 0 else 2 ^ (12 - l))).sum

/-- The symbol the limiting loop lengthens: largest length below 12, then least count, then highest symbol. -/
def limitPick (counts lens : List Nat) : Option Nat :=
  (List.range 256).foldl (fun best v =>
    let l := lens.getD v 0
    if l = 0 ∨ l ≥ 12 then best
    else match best with
      | none => some v
      | some b =>
        if lens.getD b 0 < l then some v
        else if lens.getD b 0 = l ∧ counts.getD v 0 ≤ counts.getD b 0 then some v else best) none

/-- The limiting loop of R285, with fuel. -/
def limitLoop (counts : List Nat) : Nat → List Nat → List Nat
  | 0, lens => lens
  | f + 1, lens =>
    if kraft lens ≤ 4096 then lens
    else match limitPick counts lens with
      | none => lens
      | some v => limitLoop counts f (lens.set v (lens.getD v 0 + 1))

/-- The code lengths of a histogram (R285). -/
def codeLengths (counts : List Nat) : List Nat :=
  let present := (List.range 256).filter (fun v => decide (0 < counts.getD v 0))
  match present with
  | [] => List.replicate 256 0
  | [v] => (List.replicate 256 0).set v 1
  | _ =>
    let nodes := present.foldl (fun ns v => huffInsert ⟨counts.getD v 0, v, [v]⟩ ns) []
    let lens := huffJoin 256 256 nodes (List.replicate 256 0)
    limitLoop counts 4096 (lens.map (fun l => min l 12))

/-- The present symbols in ascending (length, value) order. -/
def codeOrder (lens : List Nat) : List Nat :=
  ((List.range 12).map (fun k => (List.range 256).filter (fun v => lens.getD v 0 == k + 1))).flatten

/-- Assign canonical codes (R286): symbol, length, code. -/
def assignCodes (lens : List Nat) : Option (Nat × Nat) → List Nat → List (Nat × Nat × Nat)
  | _, [] => []
  | none, v :: vs => (v, lens.getD v 0, 0) :: assignCodes lens (some (lens.getD v 0, 0)) vs
  | some (pl, pc), v :: vs =>
    let l := lens.getD v 0
    let c := (pc + 1) * 2 ^ (l - pl)
    (v, l, c) :: assignCodes lens (some (l, c)) vs

/-- The canonical codes of a table of lengths. -/
def canonicalCodes (lens : List Nat) : List (Nat × Nat × Nat) := assignCodes lens none (codeOrder lens)

/-- The bits of a code, most significant first. -/
def codeBits : Nat → Nat → List Bool
  | 0, _ => []
  | l + 1, c => (c / 2 ^ l % 2 == 1) :: codeBits l c

/-- Pack bits into bytes from bit 7 down, the last padded with zeros, with fuel. -/
def packBits : Nat → List Bool → List Byte
  | 0, _ => []
  | _ + 1, [] => []
  | f + 1, bs =>
    let v := (List.range 8).foldl (fun acc i => 2 * acc + (if bs.getD i false then 1 else 0)) 0
    BitVec.ofNat 8 v :: packBits f (bs.drop 8)

/-- The bits of bytes, bit 7 first. -/
def unpackBits (bs : List Byte) : List Bool := (bs.map (fun b => codeBits 8 b.toNat)).flatten

/-- The wound stored form of a segment (R285 to R287). -/
def woundForm (raw : List Byte) : List Byte :=
  let counts := (List.range 256).map (byteCount raw)
  let lens := codeLengths counts
  let codes := canonicalCodes lens
  let bits := (raw.map (fun b => match codes.find? (fun c => c.1 == b.toNat) with
    | some (_, l, c) => codeBits l c
    | none => [])).flatten
  let nsym := (lens.filter (fun l => decide (0 < l))).length
  leBytes 1 1 ++ leBytes 1 12 ++ leBytes 2 nsym ++ leBytes 4 bits.length ++ leBytes 8 0
    ++ (List.range 128).map (fun i => BitVec.ofNat 8 (lens.getD (2 * i) 0 + 16 * lens.getD (2 * i + 1) 0))
    ++ packBits (bits.length + 1) bits

/-- The segment's stored form when the winder stores it wound; none when it is stored raw (R288). -/
def windSegment (raw : List Byte) : Option (List Byte) :=
  if raw.length < 165 then none
  else
    let w := woundForm raw
    if 8 * w.length < 7 * raw.length then some w else none

/-- A segment directory entry (R283). -/
def dirEntry (raw : Bool) (stored rawlen : Nat) : Nat :=
  2 ^ 35 + (if raw then 2 ^ 34 else 0) + stored * 2 ^ 17 + rawlen

/-- A payload as R323 winds it: the directory entry followed by the stored form; none when it goes raw. -/
def windPayload (raw : List Byte) : Option (List Byte) :=
  (windSegment raw).map (fun w => leBytes 8 (dirEntry false w.length raw.length) ++ w)

/-- Decode symbols from bits with a code table: the bytes, and whether bits were left over without a code. -/
def decodeBits (codes : List (Nat × Nat × Nat)) (limit : Nat) : List Bool → Nat → Nat → Nat → List Byte → List Byte × Option Nat
  | [], _, len, n, acc =>
    if len ≠ 0 then (acc.reverse, some 3) else if n < limit then (acc.reverse, some 5) else (acc.reverse, none)
  | b :: bs, code, len, n, acc =>
    let code := 2 * code + (if b then 1 else 0)
    let len := len + 1
    match codes.find? (fun c => c.2.1 == len && c.2.2 == code) with
    | some (v, _, _) =>
      if n ≥ limit then (acc.reverse, some 4) else decodeBits codes limit bs 0 0 (n + 1) (BitVec.ofNat 8 v :: acc)
    | none => if len ≥ 12 then (acc.reverse, some 3) else decodeBits codes limit bs code len n acc

/-- What an unwinder makes of a segment: its bytes, the kind of the fault it met, whether the segment is raw and so passes every unwinder by, and whether the whole output is poisoned. -/
structure Unwound where
  bytes : List Byte
  fault : Option Nat
  raw : Bool
  poison : Bool
  deriving DecidableEq, Repr

/-- Are the directory entry's fields in range for a slot of n raw bytes (kind 1 of R291)? -/
def entryGood (e n : Nat) : Bool :=
  let valid := natBits e 35 35 == 1
  let raw := natBits e 34 34 == 1
  let stored := natBits e 33 17
  let rawlen := natBits e 16 0
  valid && decide (0 < rawlen) && decide (rawlen ≤ 65536) && decide (rawlen = n)
    && (if raw then decide (stored = rawlen) else decide (145 ≤ stored) && decide (8 * stored < 7 * rawlen))

/-- The lengths of a stored form's header (R287). -/
def headerLens (stored : List Byte) : List Nat :=
  (List.range 256).map (fun v => let b := (stored.getD (16 + v / 2) 0).toNat; if v % 2 = 0 then b % 16 else b / 16)

/-- Are a wound segment's header fields good (kind 2 of R291)? -/
def headerGood (stored : List Byte) : Bool :=
  let lens := headerLens stored
  leAt stored 0 1 == 1 && leAt stored 1 1 == 12 && lens.all (fun l => decide (l ≤ 12))
    && leAt stored 2 2 == (lens.filter (fun l => decide (0 < l))).length
    && 144 + ceilDiv (leAt stored 4 4) 8 == stored.length && decide (kraft lens ≤ 4096)

/-- Decode a stored form whose header is good: its bytes to the raw length, and the first condition met (R292). -/
def decodeStored (stored : List Byte) (n : Nat) : List Byte × Option Nat :=
  let r := decodeBits (canonicalCodes (headerLens stored)) n ((unpackBits (stored.drop 144)).take (leAt stored 4 4)) 0 0 0 []
  (slice r.1 0 n, r.2)

/-- Expand one segment without poison (R290 to R292, R295): its directory entry, the bytes of its slot, the raw bytes the slot holds, and whether a word of its decode table is uncorrectable. -/
def unwindClean (e : Nat) (slot : List Byte) (n : Nat) (tableBad : Bool) : Unwound :=
  let raw := natBits e 34 34 == 1
  let rawlen := natBits e 16 0
  let stored := slice slot 0 (natBits e 33 17)
  let whole (bytes : List Byte) (fault : Option Nat) : Unwound := ⟨bytes, fault, false, fault.isSome⟩
  if !(entryGood e n) then
    whole (if raw ∧ natBits e 33 17 ≠ rawlen then slice slot 0 rawlen else List.replicate rawlen 0) (some 1)
  else if raw then ⟨slice slot 0 n, none, true, false⟩
  else if !(headerGood stored) then whole (List.replicate n 0) (some 2)
  else
    let r := decodeStored stored n
    whole r.1 (if tableBad then some 6 else r.2)

/-- Expand one segment (R290 to R295). Poison is no fault: a poisoned entry, or any poisoned stored line of a wound segment, delivers the whole output poisoned; the entry is checked before the lines are read. -/
def unwindSegment (e : Nat) (slot : List Byte) (n : Nat) (entryBad linesBad tableBad : Bool) : Unwound :=
  let u := unwindClean e slot n tableBad
  if entryBad || (linesBad && !u.raw && u.fault != some 1) then ⟨slice u.bytes 0 n, none, false, true⟩ else u

/-- Expand a wound payload (R323): its directory entry and stored form; its raw length is at most 9,120. -/
def unwindPayload (p : List Byte) (tableBad : Bool) : Unwound :=
  let e := leAt p 0 8
  let n := natBits e 16 0
  unwindSegment e (p.drop 8) (min n 9120) false false tableBad

/-- The stored bytes of a slot that an unwinder reads: those of the whole lines of the stored form, or of the raw bytes (R282, R291). -/
def storedSpan (e n : Nat) : Nat :=
  let k := if natBits e 34 34 = 1 then natBits e 16 0 else natBits e 33 17
  min n (64 * ceilDiv k 64)

end Sys2Proof.Machine
end

