-- ==== Sys2Proof/Machine/Send.lean ====
section
/-! DEFINITION. Sending on Obush (R319 to R324, R326, R329, R332, R336) and notices (R349, R350). -/

namespace Sys2Proof.Machine

/-- Mailbox index: tenants 0 to 63, the operator 64 for 0x0040, maintenance 65 for 0x0041 (R319, R327). -/
def operatorBox : Nat := 0x40
/-- The maintenance mailbox. -/
def maintenanceBox : Nat := 0x41
/-- Key of a session in the state. -/
def sessionKey (mailbox session : Nat) : Nat := 16 * mailbox + session % 16

/-- Zeros. -/
def zeros (n : Nat) : List Byte := List.replicate n 0

/-- Mode of a port: front 0 to 3, back 4 to 7. -/
def portCfg (p : Nat) : Nat := (if p < 4 then 0xA02000 else 0xB02000) + 0x100 * (p % 4)
/-- PORT_STATUS of a port. -/
def portStatus (p : Nat) : Nat := portCfg p + 8

/-- The MAC address of interface i of port p, F0 to F3 and B0 to B3 in order: fixed whatever the mode (R316). -/
def macOf (s : State) (p i : Nat) : Nat := (s.fuse.macBase + 8 * p + i) % 2 ^ 48

/-- The IPv6 link-local address of an interface (R317), least byte first. -/
def linkLocal (s : State) (p i : Nat) : Nat := (Config.linkLocal (macOf s p i)).toNat

/-- The addresses of an interface in a family, 6 or 4 (R317): its link-local address and those device.addr has set. -/
def ifaceAddrs (s : State) (p i family : Nat) : List Nat :=
  (if family = 6 then [linkLocal s p i] else []) ++
    ((s.addrs.filter (fun x => x.port == p && x.iface == i && x.family == family)).map (fun x => leAt x.addr 0 16))

/-- What a frame sent by interface i of port p carries (R316 to R318): with VID set, its tag and priority 0. -/
def wireOf (s : State) (p i : Nat) (ipv6 : Bool) (udpFrom udpTo : Nat) : Wire :=
  let vid := rdF s (portCfg p) 43 32
  ⟨p, i, macOf s p i, if vid = 0 then none else some (vid, 0), ipv6, udpFrom, udpTo⟩

/-- Is a peer's address an IPv4-mapped one (R327)? -/
def mappedV4 (addr : Nat) : Bool := decide (addr % 2 ^ 96 = 0xFFFF * 2 ^ 80)

/-- OB_CTRL.UDP_PORT. -/
def obushPort (s : State) : Nat := rdF s 0xA00000 15 0

/-- The 32 header bytes of a datagram (R319). -/
def headerBytes (d : Datagram) : List Byte :=
  leBytes 2 d.magic ++ leBytes 1 d.version ++ leBytes 1 d.type ++ leBytes 2 d.mailbox ++ leBytes 2 d.flags
    ++ leBytes 4 d.msn ++ leBytes 4 d.length ++ leBytes 8 d.tape ++ leBytes 2 d.command ++ leBytes 2 d.status
    ++ leBytes 4 d.correlation

/-- The nonce of R321: salt, direction byte, session, mailbox, number. -/
def obushNonce (salt : List Byte) (dir session mailbox number : Nat) : List Byte :=
  padTo salt 4 ++ leBytes 1 dir ++ leBytes 1 session ++ leBytes 2 mailbox ++ leBytes 4 number

/-- Is the acknowledgement flag set (R320)? -/
def flagAck (flags : Nat) : Bool := flags / 16 % 2 == 1
/-- Is WOUND set? -/
def flagWound (flags : Nat) : Bool := flags / 32 % 2 == 1
/-- Is DRAFT set? -/
def flagDraft (flags : Nat) : Bool := flags / 64 % 2 == 1
/-- Is NORESP set? -/
def flagNoresp (flags : Nat) : Bool := flags / 128 % 2 == 1
/-- Is CLEAR set? -/
def flagClear (flags : Nat) : Bool := flags / 256 % 2 == 1

/-- Put the GCM tag on a datagram the device sends (R321). -/
def sealOut (x : Session) (d : Datagram) : Datagram :=
  let ack := flagAck d.flags
  { d with
    tag := Config.gcmTag x.key (obushNonce x.salt (if ack then 3 else 1) (d.flags % 16) d.mailbox (if ack then d.correlation else d.msn)) (headerBytes d) d.payload }

/-- The payload and flags a message goes out with: wound where the session allows it and R288 selects it (R323). -/
def outgoing (x : Session) (payload : List Byte) : Nat × List Byte :=
  if x.windOk && decide (165 ≤ payload.length) then
    match windPayload payload with
    | some w => (32, w)
    | none => (0, payload)
  else (0, payload)

/-- Count a payload a device winder took (R297): one segment, raw or wound. -/
def countPayload (raw : Nat) (wound : Bool) (out : Nat) (s : State) : State :=
  bump 0x400028 out (bump 0x400020 raw (bump 0x400018 (if wound then 0 else 1) (bump 0x400010 1 s)))

/-- Make a message of a session: header fields, MSN still to be given. -/
def mkMsg (type mailbox session command status correlation tape : Nat) (payload : List Byte) : Datagram :=
  { magic := 0x4F42, version := 1, type := type, mailbox := mailbox, flags := session % 16, msn := 0, length := payload.length,
    tape := tape, command := command, status := status, correlation := correlation, payload := payload, tag := [] }

/-- Add to the counter of discarded outgoing messages (R322, R332). -/
def undelivered (n : Nat) (s : State) : State := bump 0xA00060 n s

/-- Does a front interface have link? -/
def frontUp (s : State) (p i : Nat) : Bool := decide (p < 4) && decide (i < 8) && rdB s (0xA02008 + 0x100 * p) i

/-- The interface a session's messages leave by (R324): the one its last message came in on, or the lowest-numbered front interface that is up. None before a peer is known or while no interface is up. -/
def leavesBy (s : State) (p : Option Peer) : Option Peer :=
  p.bind (fun q =>
    if frontUp s q.port q.iface then some q
    else ((List.range 32).find? (fun k => frontUp s (k / 8) (k % 8))).map (fun k => { q with port := k / 8, iface := k % 8 }))

/-- Bits of a frame that carries a UDP datagram of a length: Ethernet header, tag and FCS, IP header. -/
def frameBits (ipv6 tagged : Bool) (udpLength : Nat) : Nat := 8 * (udpLength + (if ipv6 then 40 else 20) + 18 + (if tagged then 4 else 0))

/-- Send one datagram from the Obush port, and count it (R318, R324). -/
def transmit (x : Session) (d : Datagram) (s : State) : State :=
  let dest := leavesBy s x.peer
  let frame := dest.map (fun p => wireOf s p.port p.iface (!(mappedV4 p.addr)) (obushPort s) p.udp)
  let s := match frame with
    | some w => bump (0xA02018 + 0x100 * w.port) 1 (charge d.mailbox 0 (frameBits w.ipv6 w.tag.isSome (d.payload.length + 56)) s)
    | none => s
  emitOut (.obush d dest frame) (bump 0xA00020 1 s)

/-- A notice payload's head (R349). -/
def noticeHead (s : State) (ntype source nsn tenant model cause : Nat) : List Byte :=
  leBytes 2 ntype ++ leBytes 2 source ++ leBytes 4 nsn ++ leBytes 8 cause ++ leBytes 8 (tickIndex s)
    ++ leBytes 2 tenant ++ leBytes 2 model ++ leBytes 4 0

/-- End a session without a notice: its queued and unacknowledged messages are discarded and counted. -/
def endSession (k : Nat) (s : State) : State :=
  let x := sessionOf s k
  if x.live then setSession k { Session.none with peer := x.peer } (undelivered (x.unacked.length + x.queue.length) s) else s

/-- Number a message and put it on the wire, or behind the 256 unacknowledged ones (R332). The session keeps the message sealed, so a retransmission repeats it byte for byte. -/
def enqueueRaw (k : Nat) (d : Datagram) (s : State) : State :=
  let x := sessionOf s k
  let d := sealOut x { d with msn := x.txNext % 4294967296 }
  if x.unacked.length < 256 ∧ x.queue = [] then
    let t := if x.unacked = [] then s.tape else x.timer
    transmit x d (setSession k { x with txNext := x.txNext + 1, unacked := x.unacked ++ [d], timer := t } s)
  else setSession k { x with txNext := x.txNext + 1, queue := x.queue ++ [d] } s

/-- Routes of a notice: the operator's when its mask enables the type or the type is always delivered, then each tenant named (R343, R350). Mailbox and session. -/
def noticeRoutes (s : State) (ntype : Nat) (tenants : List Nat) : List (Nat × Nat) :=
  let route (i : Nat) : Route := sget (fun _ => Route.all) s.routes i
  let on (i : Nat) : Bool := (route i).mask / 2 ^ ntype % 2 == 1
  (if [7, 15, 16, 22].contains ntype || on operatorBox then [(operatorBox, (route operatorBox).session)] else [])
    ++ ((tenants.filter (fun t => decide (t < 64) && on t)).map (fun t => (t, (route t).session)))

/-- Put a message in a session's transmit queue; a session that is not established discards it (R332). A queue that would exceed 1,024 loses the session, and one that has used its last number ends (R322); what the loss or the end notifies is told by the caller's answer. -/
inductive Sending where
  | sent
  | lost (messages : Nat)
  | ended
  | discarded
  deriving DecidableEq, Repr

/-- Queue a message (R322, R332). -/
def enqueue (d : Datagram) (s : State) : Sending × State :=
  let k := sessionKey d.mailbox d.flags
  let x := sessionOf s k
  if !x.live then (.discarded, undelivered 1 s)
  else if x.queue.length ≥ 1024 then
    (.lost (x.unacked.length + x.queue.length + 1), endSession k (undelivered 1 s))
  else
    let (fl, p) := outgoing x d.payload
    let s := if x.windOk && decide (165 ≤ d.payload.length) then countPayload d.payload.length (fl == 32) p.length s else s
    let s := enqueueRaw k { d with flags := d.flags + fl, payload := p, length := p.length } s
    if x.txNext = 2 ^ 32 - 1 ∧ (sessionOf s k).queue = [] then (.ended, endSession k s) else (.sent, s)

/-- Send one notice to its routes without following losses up (used for the notices of sessions themselves). -/
def noticeOnce (ntype source : Nat) (tenants : List Nat) (tenant model cause : Nat) (body : List Byte) (s : State) : List (Nat × Nat × Nat × Nat) × State :=
  let n := sget (fun _ => 0) s.nsn source
  let payload := noticeHead s ntype source (n % 2 ^ 32) tenant model cause ++ body
  let s := { s with nsn := sput (fun _ => 0) s.nsn source ((n + 1) % 2 ^ 32) }
  (noticeRoutes s ntype tenants).foldl (fun (acc : List (Nat × Nat × Nat × Nat) × State) r =>
    match enqueue (mkMsg 3 r.1 r.2 0 0 0 cause payload) acc.2 with
    | (.lost m, s) => (acc.1 ++ [(16, r.1, r.2, m)], s)
    | (.ended, s) => (acc.1 ++ [(15, r.1, r.2, 0)], s)
    | (_, s) => (acc.1, s)) ([], s)

/-- The body of a session-end or session-lost notice (R350). -/
def sessionBody (ntype mailbox session messages : Nat) : List Byte :=
  leBytes 2 mailbox ++ leBytes 1 session ++ (if ntype = 16 then leBytes 1 0 ++ leBytes 4 messages else [])

/-- Tell the operator of sessions that ended or were lost, following the chain with fuel (R322, R332). -/
def noticeSessions : Nat → List (Nat × Nat × Nat × Nat) → State → State
  | 0, _, s => s
  | _ + 1, [], s => s
  | f + 1, (ty, mb, se, m) :: rest, s =>
    let r := noticeOnce ty 52 [] (if mb < 64 then mb else 0xFFFF) 0xFFFF s.tape (sessionBody ty mb se m) s
    noticeSessions f (rest ++ r.1) r.2

/-- The body of a notice is padded to nothing: it goes out as the table of R350 gives it. -/
def notifyAt (ntype source : Nat) (tenants : List Nat) (tenant model cause : Nat) (body : List Byte) (s : State) : State :=
  let r := noticeOnce ntype source tenants tenant model cause body s
  noticeSessions 8 r.1 r.2

/-- Send an acknowledgement now (R326): the highest number delivered, and the session's next serial; the session ends after the last serial (R322). -/
def sendAck (mailbox session : Nat) (s : State) : State :=
  let k := sessionKey mailbox session
  let x := sessionOf s k
  let d : Datagram := { mkMsg 2 mailbox session 0 0 (x.ackNext % 2 ^ 32) s.tape [] with flags := session % 16 + 16, msn := (x.rxNext + 2 ^ 32 - 1) % 2 ^ 32 }
  let s := transmit x (sealOut x d) (setSession k { x with ackNext := x.ackNext + 1, ackTape := some s.tape, ackDue := false } s)
  if x.ackNext = 2 ^ 32 - 1 then noticeSessions 8 [(15, mailbox, session, 0)] (endSession k s) else s

/-- Owe an acknowledgement: it goes at once unless one went within the last 1,000 tape ns (R326). -/
def oweAck (mailbox session : Nat) (s : State) : State :=
  let k := sessionKey mailbox session
  let x := sessionOf s k
  if !x.live then s
  else match x.ackTape with
    | some t => if tapePast s (t + 1000) then sendAck mailbox session s else setSession k { x with ackDue := true } s
    | none => sendAck mailbox session s

/-- The tape from which an acknowledgement that is owed may go: 1,000 tape ns after the last one (R326). -/
def ackFrom (last : Option Nat) : Nat := last.getD 0 + 1000

/-- Send every acknowledgement that may go by tape t, each at the tape from which it may (R326). -/
def flushAcks (t : Nat) (s : State) : State :=
  (s.sessions.filter (fun e => e.2.live && e.2.ackDue && serialAtLeast 64 t (ackFrom e.2.ackTape))).foldl
    (fun s e => sendAck (e.1 / 16) (e.1 % 16) { s with tape := tapeTo (ackFrom e.2.ackTape) s }) s

/-- Send a message and follow up a session's end or loss. -/
def sendMsg (d : Datagram) (s : State) : State :=
  match enqueue d s with
  | (.lost m, s) => noticeSessions 8 [(16, d.mailbox, d.flags % 16, m)] s
  | (.ended, s) => noticeSessions 8 [(15, d.mailbox, d.flags % 16, 0)] s
  | (_, s) => s

end Sys2Proof.Machine
end

