-- ==== Sys2Proof/Machine/KrSend.lean ====
section
/-! DEFINITION. Key derivation, and sending on Kralyn (R361 to R368, R372, R393, R399, R404): headers, connections, setups, transmit rings. -/

namespace Sys2Proof.Machine

/-- KDF of R393: SHAKE256 over the label and the data, n bytes of it. -/
def kdf (label : String) (x : List Byte) (n : Nat) : List Byte := padTo (Config.shake256 (ascii label ++ x)) n

/-- The 64-byte digest of R399. -/
def digest (x : List Byte) : List Byte := padTo (Config.shake256 x) 64

/-- Extension of a digest (R399). -/
def extend (m : List Byte) (kind : Nat) (d : List Byte) : List Byte := digest (ascii "TUITH-EXT" ++ m ++ leBytes 1 kind ++ d)

/-- The device identifier's bytes. -/
def idBytes (s : State) : List Byte := leBytes 8 s.fuse.deviceId.toNat

/-- Exclusive or of byte lists. -/
def xorBytes (a b : List Byte) : List Byte := List.zipWith (fun x y => x ^^^ y) a b

/-- Is a back interface up? -/
def backUp (s : State) (p i : Nat) : Bool := decide (p < 4) && decide (i < 8) && rdB s (portStatus (4 + p)) i

/-- The next back interface that is up, from a place on (R361). -/
def nextBack (s : State) (from_ : Nat) : Option Nat :=
  ((List.range 32).map (fun k => (from_ + k) % 32)).find? (fun k => backUp s (k / 8) (k % 8))

/-- Identifier of this device. -/
def ownId (s : State) : Nat := s.fuse.deviceId.toNat

/-- Does Kralyn accept and send (KR_CTRL.ENABLE)? -/
def krOn (s : State) : Bool := rdB s 0xB00000 63

/-- Replace a connection-cache entry. -/
def setConn (i : Nat) (c : Conn) (s : State) : State := { s with conns := sput (fun _ => Conn.none) s.conns i c }
/-- A connection id (R362): cache index and generation. -/
def connId (i : Nat) (c : Conn) : Nat := i % 2 ^ 14 + c.gen % 2 ^ 18 * 2 ^ 14
/-- Entries of the cache (R365). -/
def cacheSize : Nat := 16384

/-- The first free index from i on. -/
def freeFrom (s : State) : Nat → Nat → Option Nat
  | 0, _ => none
  | f + 1, i => if (connOf s i).phase = .free then some i else freeFrom s f (i + 1)

/-- The Kralyn header (R362). -/
def krHeader (level mtype flags channel csn length tape conn aux : Nat) : List Byte :=
  leBytes 2 0x4B52 ++ leBytes 1 level ++ leBytes 1 mtype ++ leBytes 2 flags ++ leBytes 2 channel ++ leBytes 4 csn ++ leBytes 4 length
    ++ leBytes 8 tape ++ leBytes 4 conn ++ leBytes 4 aux

/-- The nonce of a connection message (R362): kind 0 and 1 sequenced from initiator and acceptor, 2 and 3 their acknowledgements. -/
def krNonce (salt : List Byte) (kind number : Nat) : List Byte := padTo salt 4 ++ leBytes 1 kind ++ leBytes 3 0 ++ leBytes 4 number

/-- The partition key of an id (R404). -/
def partitionKey (s : State) (id : Nat) : List Byte := kdf "TUITH-PART" (s.secure.fabricSecret ++ leBytes 8 id) 32

/-- The tag of CONNECT, ACCEPT and REFUSE (R404): empty plaintext, the nonce from the data itself. -/
def setupTag (key header payload : List Byte) : List Byte := Config.gcmTag key (padTo (Config.shake256 (header ++ payload)) 12) (header ++ payload) []

/-- Key and salt of a connection (R404). -/
def connKey (s : State) (part : Nat) (initRandom accRandom : List Byte) (initId accId : Nat) : List Byte :=
  kdf "TUITH-CONN" (partitionKey s part ++ initRandom ++ accRandom ++ leBytes 4 initId ++ leBytes 4 accId) 36

/-- KR_CTRL.UDP_PORT. -/
def krPort (s : State) : Nat := rdF s 0xB00000 15 0

/-- Put a message on the wire over IPv6 by an interface, or by the next back interface that is up (R361); none up, nothing leaves. -/
def krTransmit (dest port iface mtype : Nat) (header payload : List Byte) (s : State) : State :=
  match nextBack s (8 * port + iface) with
  | none => s
  | some k =>
    let frame := wireOf s (4 + k / 8) (k % 8) true (krPort s) (krPort s)
    bump (0xB02018 + 0x100 * (k / 8)) 1 (bump 0xB00018 1 (emitOut (.kralyn dest mtype header payload frame) s))

/-- Answer with a REFUSE (R363 to R365), authenticated under the key of a partition id. -/
def refuseTo (dest id conn status : Nat) (port iface : Nat) (s : State) : State :=
  let payload := leBytes 2 status ++ leBytes 1 (ownLevel s) ++ leBytes 1 0 ++ leBytes 8 (ownId s)
  let h := krHeader (ownLevel s) 3 0 0 0 payload.length s.tape conn 0
  krTransmit dest port iface 3 h (payload ++ setupTag (partitionKey s id) h payload) (bump 0xB00060 1 s)

/-- RTO_NS. -/
def krRto (s : State) : Nat := rdF s 0xB00008 23 0
/-- LOSS_MS in ns. -/
def krLossNs (s : State) : Nat := rdF s 0xB00008 55 40 * 1000000

/-- Keep a message as unacknowledged; the first one starts the timers (R366). -/
def holdSent (m : KrSent) (s : State) (c : Conn) : Conn :=
  let c' := { c with unacked := c.unacked ++ [m], used := s.tape }
  if c.unacked.isEmpty then { c' with timer := s.tape, advanced := s.tape, rto := krRto s } else c'

/-- Send one sequenced message on a connection (R362, R366); one that uses the number before 0xFFFF_FFFF closes the connection (R365). -/
def sendSeq (i mtype channel flags : Nat) (payload : List Byte) (origin : Option (Nat × Nat)) (s : State) : State :=
  let c := connOf s i
  let h := krHeader c.level mtype flags channel (c.txNext % 2 ^ 32) payload.length s.tape c.peerConn 0
  let tag := Config.gcmTag c.key (krNonce c.salt (if c.initiator then 0 else 1) (c.txNext % 2 ^ 32)) h payload
  let c' := holdSent ⟨mtype, c.txNext, h, payload, tag, origin⟩ s { c with txNext := c.txNext + 1 }
  let c' := if c'.txNext = 2 ^ 32 - 1 ∧ c'.phase = .open_ then { c' with phase := .closing } else c'
  krTransmit c.peer c.port c.iface mtype h (payload ++ tag) (setConn i c' s)

/-- Send the CLOSE a closing entry owes, as soon as fewer than 256 messages are unacknowledged (R365, R366). -/
def closeIfDue (i reason : Nat) (s : State) : State :=
  let c := connOf s i
  if c.phase = .closing ∧ !c.closeSent ∧ c.unacked.length < 256 then sendSeq i 6 0 0 (leBytes 2 reason) none (setConn i { c with closeSent := true } s) else s

/-- The reason of a CLOSE that no rule names a status for: free. -/
def closeFreely (i : Nat) (s : State) : State :=
  let c := connOf s i
  if c.phase = .closing ∧ !c.closeSent ∧ c.unacked.length < 256 then
    let f := fresh s
    closeIfDue i (f.1.toNat % 65536) f.2
  else s

/-- Send an acknowledgement on a connection (R326, R362, R366); the last serial closes the connection (R365). -/
def krAck (i : Nat) (s : State) : State :=
  let c := connOf s i
  let h := krHeader c.level 5 0 0 ((c.rxNext + 2 ^ 32 - 1) % 2 ^ 32) 0 s.tape c.peerConn (c.ackNext % 2 ^ 32)
  let tag := Config.gcmTag c.key (krNonce c.salt (if c.initiator then 2 else 3) (c.ackNext % 2 ^ 32)) h []
  let c' := { c with ackNext := c.ackNext + 1, ackTape := some s.tape, ackDue := false }
  let c' := if c'.ackNext = 2 ^ 32 - 1 ∧ c'.phase = .open_ then { c' with phase := .closing } else c'
  closeFreely i (krTransmit c.peer c.port c.iface 5 h tag (setConn i c' s))

/-- Owe an acknowledgement: at once, but for one within the last 1,000 tape ns (R326, R366). -/
def krOweAck (i : Nat) (s : State) : State :=
  let c := connOf s i
  match c.ackTape with
  | some t => if tapePast s (t + 1000) then krAck i s else setConn i { c with ackDue := true } s
  | none => krAck i s

/-- Send every Kralyn acknowledgement that may go by tape t, each at the tape from which it may (R326, R366). -/
def flushKrAcks (t : Nat) (s : State) : State :=
  (s.conns.filter (fun e => e.2.ackDue && serialAtLeast 64 t (ackFrom e.2.ackTape))).foldl
    (fun s e => krAck e.1 { s with tape := tapeTo (ackFrom e.2.ackTape) s }) s

/-- Time runs on to tape t, unless it is past it: the acknowledgements owed leave on the way (R326, R366). -/
def runTo (t : Nat) (s : State) : State :=
  let s := flushKrAcks t (flushAcks t s)
  { s with tape := tapeTo t s }

/-- Replace it. -/
def setRing (r : Nat) (x : TxRing) (s : State) : State := { s with txRings := sput (fun _ => TxRing.none) s.txRings r x }
/-- Is a descriptor queued for a peer? -/
def queuedFor (s : State) (peer : Nat) : Bool := (List.range 8).any (fun r => (txQueued s r).any (fun k => natBits (txDesc s r k) 63 0 == peer))

/-- Write the completion record of a slot (R368). -/
def krRecord (r slot csn status : Nat) (s : State) : State :=
  let a := rdF s (txCtrl r + 0x10) 47 4 * 16 + 16 * slot
  if inMemory s a 16 then storeBytes true (deviceCtx s) a (leBytes 4 csn ++ leBytes 2 status ++ leBytes 2 0 ++ leBytes 8 s.tape) false s else s

/-- Move a ring's head past the slots that have completed. -/
def skipDone (n : Nat) : Nat → TxRing → TxRing
  | 0, x => x
  | f + 1, x => if x.done.contains x.head then skipDone n f { x with head := (x.head + 1) % n, done := x.done.erase x.head } else x

/-- The head descriptor of a ring is disposed of. -/
def advanceRing (r : Nat) (s : State) : State :=
  let n := txEntries s r
  let x := ringOf s r
  setRing r (skipDone n 256 { x with head := (x.head + 1) % n}) s

/-- Complete a descriptor that has not been sent. -/
def failSlot (r slot status : Nat) (s : State) : State :=
  let s := krRecord r slot 0 status s
  let x := ringOf s r
  if x.head = slot then advanceRing r s else setRing r { x with done := insNat x.done slot } s

/-- Complete every descriptor queued for a peer with a status (R364, R366). -/
def failQueued (p : Nat → Bool) (status : Nat) (s : State) : State :=
  (List.range 8).foldl (fun s r => ((txQueued s r).filter (fun k => p (natBits (txDesc s r k) 63 0))).foldl (fun s k => failSlot r k status s) s) s

/-- Complete the descriptors of a connection's unacknowledged messages (R366). -/
def failUnacked (i status : Nat) (s : State) : State :=
  let c := connOf s i
  let s := c.unacked.foldl (fun s m => match m.origin with
    | some o => krRecord o.1 o.2 m.csn status s
    | none => s) s
  setConn i { connOf s i with unacked := c.unacked.map (fun m => { m with origin := none }) } s

/-- Entries that can be freed (R365): nothing of theirs is unacknowledged, and nothing waits to be sent on them. -/
def idleConns (s : State) : Sparse Conn :=
  s.conns.filter (fun e => decide (e.2.phase = .open_) && e.2.unacked.isEmpty && e.2.due.isEmpty && !(queuedFor s e.2.peer))

/-- Close the least recently used entry that can be freed (R365); tapes compare as serial numbers (R351). -/
def evict (s : State) : State :=
  match sortBy (fun e => 2 ^ 64 - (s.tape + 2 ^ 64 - e.2.used % 2 ^ 64) % 2 ^ 64) (idleConns s) with
  | [] => s
  | e :: _ => closeFreely e.1 (bump 0xB00058 1 (setConn e.1 { e.2 with phase := .closing } s))

/-- Payload of CONNECT and ACCEPT in a partition (R363). -/
def setupPayload (s : State) (part : Nat) (random : List Byte) : List Byte :=
  leBytes 8 (ownId s) ++ leBytes 8 part ++ leBytes 1 (max 1 (ownLevel s - 1)) ++ leBytes 1 (ownLevel s) ++ leBytes 2 0 ++ random

/-- A random value of the on-die source (R363, R393). -/
def random32 (s : State) : List Byte × State :=
  let f := fresh s
  (padTo (Config.shake256 (leBytes 8 f.1.toNat)) 32, f.2)

/-- The back interface of the next connection, round robin among those up (R361). -/
def nextPlace (s : State) : Nat := (nextBack s s.fabric.nextIf).getD 0

/-- Send a CONNECT from free entry i (R364). What the firmware has to send waits in the entry. -/
def startAt (i part peer : Nat) (due : List (Nat × List Byte)) (s : State) : State :=
  let r := random32 s
  let s := r.2
  let place := nextPlace s
  let c := { Conn.none with phase := .connecting, gen := (connOf s i).gen, peer := peer, initiator := true, random := r.1, port := place / 8, iface := place % 8, due := due, part := part }
  let payload := setupPayload s part r.1
  let h := krHeader (ownLevel s) 1 0 0 0 payload.length s.tape 0 (connId i c)
  let tag := setupTag (partitionKey s part) h payload
  let c := holdSent ⟨1, 0, h, payload, tag, none⟩ s c
  krTransmit peer c.port c.iface 1 h (payload ++ tag) (setConn i c { s with fabric := { s.fabric with nextIf := (place + 1) % 32 } })

/-- Start a setup with a peer (R364): in a free entry, or once an idle one that is closed now has been freed; what waits to be sent is kept till then. -/
def startSetup (part peer : Nat) (due : List (Nat × List Byte)) (s : State) : State :=
  match freeFrom s cacheSize 0 with
  | some i => startAt i part peer due s
  | none => evict (if due.isEmpty then s else { s with fabric := { s.fabric with wants := s.fabric.wants ++ [(part, peer, due)] } })

/-- Send what the firmware has waiting on a connection. -/
def flushDue (i : Nat) : Nat → State → State
  | 0, s => s
  | f + 1, s =>
    let c := connOf s i
    match c.due with
    | [] => s
    | d :: rest =>
      if c.phase ≠ .open_ ∨ 256 ≤ c.unacked.length then s
      else flushDue i f (sendSeq i d.1 (if d.1 = 4 then 63 else 0) 0 d.2 none (setConn i { c with due := rest } s))

/-- Open an entry under its key (R364); one of a partition the device has left meanwhile only carries what was due, and closes (R355). -/
def openConn (i peerConn level : Nat) (ks : List Byte) (s : State) : State :=
  let c := connOf s i
  let c := { c with phase := .open_, peerConn := peerConn, level := level, key := ks.take 32, salt := (ks.drop 32).take 4, txNext := 0, rxNext := 0, ackNext := 0, ackSeen := none, unacked := [] }
  let s := flushDue i 16 (bump 0xB00050 1 (setConn i { c with used := s.tape, advanced := s.tape } s))
  if c.part = s.fabric.id then s else closeIfDue i 0x0207 (setConn i { connOf s i with phase := .closing } s)

/-- Send an ACCEPT from an entry (R364). -/
def sendAccept (i : Nat) (s : State) : State :=
  let c := connOf s i
  let payload := setupPayload s c.part c.random
  let h := krHeader c.level 2 0 0 0 payload.length s.tape c.peerConn (connId i c)
  krTransmit c.peer c.port c.iface 2 h (payload ++ setupTag (partitionKey s c.part) h payload) s

/-- Accept a CONNECT in free entry i (R364). -/
def acceptAt (i : Nat) (w : ConnWait) (due : List (Nat × List Byte)) (s : State) : State :=
  let r := random32 s
  let s := r.2
  let place := nextPlace s
  let part := s.fabric.id
  let c := { Conn.none with phase := .open_, gen := (connOf s i).gen, peer := w.peer, random := r.1, port := place / 8, iface := place % 8, due := due, peerLevel := w.highest, part := part }
  let ks := connKey s part w.random r.1 w.conn (connId i c)
  let s := setConn i { c with peerConn := w.conn, level := w.level } { s with fabric := { s.fabric with nextIf := (place + 1) % 32 } }
  openConn i w.conn w.level ks (sendAccept i s)

/-- The firmware sends a message to a peer over a connection, setting one up where there is none (R372, R441). CAP still goes on a connection that is closing. -/
def firmwareSend (peer mtype : Nat) (payload : List Byte) (s : State) : State :=
  match connOfPeer s peer with
  | none => startSetup s.fabric.id peer [(mtype, payload)] s
  | some i =>
    let c := connOf s i
    if c.phase = .closing ∧ mtype = 7 ∧ c.unacked.length < 256 then sendSeq i 7 0 0 payload none s
    else flushDue i 16 (setConn i { c with due := c.due ++ [(mtype, payload)] } s)

/-- An entry has been freed: the first setup, or else the first CONNECT, that waits for one takes it (R364, R365). -/
def fillEntry (i : Nat) (s : State) : State :=
  match s.fabric.wants with
  | w :: rest =>
    let s := { s with fabric := { s.fabric with wants := rest } }
    match connOfPeer s w.2.1 with
    | none => startAt i w.1 w.2.1 w.2.2 s
    | some j => flushDue j 16 (setConn j { connOf s j with due := (connOf s j).due ++ w.2.2 } s)
  | [] =>
    match s.fabric.waiting.filter (fun w => (connOfPeer s w.peer).isNone) with
    | w :: rest => acceptAt i w [] { s with fabric := { s.fabric with waiting := rest } }
    | [] => s

/-- Give a connection-cache entry up; what the firmware still has to send starts a new setup, of a partition that the device has left only its withdrawal (R355). -/
def freeConn (i : Nat) (s : State) : State :=
  let c := connOf s i
  let due := if c.part = s.fabric.id then c.due else c.due.filter (fun d => d.1 == 7)
  let s := setConn i c.freed s
  if due.isEmpty then fillEntry i s else startSetup c.part c.peer due s

/-- A connection is lost (R365, R366). -/
def loseConn (i : Nat) (s : State) : State :=
  let p := (connOf s i).peer
  let s := failQueued (fun k => k == p) 0x0103 (failUnacked i 0x0103 s)
  fillEntry i (setConn i (connOf s i).freed (bump 0xB00068 1 s))

/-- Send a CAP to every other member (R372). -/
def announce (khz watts index : Nat) (s : State) : State :=
  let payload := leBytes 4 khz ++ leBytes 4 watts ++ leBytes 8 index
  let others := s.fabric.members.filter (fun m => decide (m ≠ ownId s))
  others.foldl (fun s m => firmwareSend m 7 payload s) { s with fabric := { s.fabric with sentCap := khz } }

/-- Ask a model's replica peer for a block (R441); the form of the request is the model's (log entry 61): image digest and offset. -/
def askReplica (m : Model) (block : Nat) (s : State) : State :=
  if m.replica = 0 then s else firmwareSend m.replica 4 (padTo m.digest 64 ++ leBytes 8 (block - m.base)) s

end Sys2Proof.Machine
end

