-- ==== Sys2Proof/Machine/Attempt.lean ====
section
/-! DEFINITION. Attempts, rollback and what ends a step (R112, R114 to R116, R130, R155, R156, R174, R176, R213, R233, R437 to R439): shared by the engine and planning commands. -/

namespace Sys2Proof.Machine

/-- Send a notice whose cause is now. -/
def notify (ntype source : Nat) (tenants : List Nat) (tenant model : Nat) (body : List Byte) (s : State) : State :=
  notifyAt ntype source tenants tenant model s.tape body s

/-- Send a notice at most once in a tick for a key. -/
def notifyOnce (key ntype source : Nat) (tenants : List Nat) (tenant model : Nat) (body : List Byte) (s : State) : State :=
  let k := ntype * 65536 + key
  if s.noticed.contains k then s
  else notify ntype source tenants tenant model body { s with noticed := insNat s.noticed k }

/-- Count a fault in the tick's notice of its type and source: one seam-fault notice per tick for the device, one codec-fault notice per unit (R157, R294). -/
def tally (ntype source kind node slot piece : Nat) (s : State) : State :=
  let same (x : Tally) : Bool := x.ntype == ntype && (ntype == 8 || (x.source == source && (ntype == 13 || x.node == node)))
  if s.tallies.any same then
    { s with tallies := s.tallies.map (fun x => if same x then { x with count := x.count + 1, kind := if ntype = 13 then kind else x.kind } else x) }
  else { s with tallies := s.tallies ++ [⟨ntype, source, s.tape, kind, node, slot, piece, 1⟩] }

/-- A device-fault notice (R350 type 7). -/
def deviceFault (source kind detail : Nat) (s : State) : State :=
  notify 7 source [] 0xFFFF 0xFFFF (leBytes 1 kind ++ leBytes 3 0 ++ leBytes 8 detail) s

/-- The owner's tenant of a model as a notice route list; a shared model has none. -/
def ownerRoute (s : State) (m : Nat) : List Nat := if (modelOf s m).owner < 64 then [(modelOf s m).owner] else []

/-- The open sequences of a model. -/
def seqsOfModel (s : State) (m : Nat) : List Nat :=
  (s.seqs.filter (fun e => isOpen e.2 && e.2.par.model == m)).map (fun e => e.1)

/-- A page's count was met uncorrectable (R228): the error is recorded each time; the page leaks, is counted and reported once, until a warm reset recovers it. seq is the sequence concerned, 0 where none is. -/
def leakPage (seq page : Nat) (s : State) : State :=
  let s := hemError 3 seq page s
  if s.leaked.contains page then s else deviceFault 0 3 page (bump 0x40060 1 { s with leaked := insNat s.leaked page })

/-- Add one to a page's count (R223, R228). -/
def incPage (seq page : Nat) (s : State) : State :=
  let r := atomicAt .planEngine (deviceCtx s) (refAddr s page) 4 incWord s
  if r.1.poisoned then leakPage seq page r.2 else r.2

/-- Give up one reference to a page (R223, R225, R228): at zero it enters the deferred list with the tape of the tick's edge; a poisoned count leaks the page. -/
def decPage (seq page : Nat) (s : State) : State :=
  let r := atomicAt .planEngine (deviceCtx s) (refAddr s page) 4 decWord s
  if r.1.poisoned then leakPage seq page r.2
  else if r.1.zero then { r.2 with deferred := r.2.deferred ++ [(page, s.edge)] }
  else r.2

/-- A page-list entry as its sequence's context reads it (R208). -/
def listEntry (s : State) (q : Seq) (mp l i : Nat) : Nat :=
  ofLe ((List.range 4).map (fun b => byteAs s (tenantCtx s q.tenant) (listEntryAt q mp l i + b)))

/-- Write a page-list entry. -/
def setListEntry (q : Seq) (mp l i page : Nat) (s : State) : State :=
  storeBytes false (tenantCtx s q.tenant) (listEntryAt q mp l i) (leBytes 4 page) false s

/-- A sequence gives up its pages and its hem (R213, R223, R226): what no commit covers is truncated, each named page loses a reference, and a copy still running gives up its source. -/
def releaseSeq (n : Nat) (s : State) : State :=
  let q := seqOf s n
  let r := imageOf s (modelOf s q.par.model)
  let mp := maxPages r
  let gone := (q.held.filter (fun h => decide (h.epoch ≠ .committed))).length
  let s := bump 0x40048 gone s
  let s := (List.range (imgLayers r)).foldl (fun s l => (List.range mp).foldl (fun s i =>
    let e := listEntry s q mp l i
    if e = noPage then s else setListEntry q mp l i noPage (if e < pageCount s then decPage n e s else s)) s) s
  let s := (s.cowJobs.filter (fun c => c.seq == n)).foldl (fun s c => decPage n c.src s) s
  let s := { s with cowJobs := s.cowJobs.filter (fun c => !(c.seq == n)), kvJobs := s.kvJobs.filter (fun j => !(j.seq == n && j.gen == q.gen)) }
  setSeq n { seqOf s n with held := [], segs := [], pending := none } s

/-- End a sequence: it goes to ENDING with a reason and a status; pending input and drafts are dropped, those a discarded step carried as rejected (R245), and its pages and hem are given up (R213, R233, R247, R249). A sequence already ending keeps its first ending. -/
def endSeq (n reason status stops : Nat) (s : State) : State :=
  let q := seqOf s n
  if q.state = .free ∨ q.state = .ending then s
  else
    let s := bump 0x500030 q.carried (releaseSeq n s)
    setSeq n { seqOf s n with state := .ending, endReason := reason, endStatus := status, stops := stops, ringCount := 0, drafts := [], carried := 0, fed := none, eligible := false } s

/-- Truncate every hem position a sequence holds under an epoch, counting each position of each layer (R213, R174). Layers below lo keep theirs (R34). -/
def truncateHem (n step attempt lo hi : Nat) (s : State) : State :=
  let q := seqOf s n
  let gone (h : HeldPos) : Bool := h.epoch == .step step attempt && decide (lo ≤ h.layer) && decide (h.layer ≤ hi)
  let k := (q.held.filter gone).length
  bump 0x40048 k (setSeq n { q with held := q.held.filter (fun h => !(gone h)) } s)

/-- Positions per page of a sequence's model (R206). -/
def pagePosOf (s : State) (q : Seq) : Nat := max 1 (pagePositions (imageOf s (modelOf s q.par.model)))

/-- Does a hem segment cover a held position (R211)? Its base is a multiple of 8 within the page. -/
def inSeg (per : Nat) (g : HemSeg) (h : HeldPos) : Bool :=
  h.layer == g.layer && decide (h.pos / per = g.base / per) && decide (h.pos % per / 8 = g.base % per / 8)

/-- The segments that still hold a position. -/
def keptSegs (per : Nat) (segs : List HemSeg) (held : List HeldPos) : List HemSeg :=
  segs.filter (fun g => held.any (inSeg per g))

/-- May a pending step still write to a segment (R213)? The segments allotted to it are kept: those that reach beyond the committed positions. -/
def segAwaits (per : Nat) (q : Seq) (g : HemSeg) : Bool := q.pending.isSome && decide (q.committed < min (g.base + 8) ((g.base / per + 1) * per))

/-- Drafts among a part's positions (R234). -/
def draftsIn (q : StepSeq) : Nat := (q.inputs.filter (fun i => i.2 = .draft)).length

/-- Drafts that a step carries for a sequence. -/
def draftsOf (t : Step) (n : Nat) : Nat := ((t.seqs.filter (fun q => q.seq == n)).map draftsIn).sum

/-- The drafts that a part carries and that no commit takes are rejected, each once (R245). -/
def rejectDrafts (q : StepSeq) (s : State) : State := bump 0x500030 (draftsIn q) s

/-- Truncate every position of every attempt of a step (a step that ends without commit). -/
def dropEpoch (n step : Nat) (s : State) : State :=
  let q := seqOf s n
  let gone (h : HeldPos) : Bool := match h.epoch with
    | .step k _ => k == step
    | .committed => false
  let k := (q.held.filter gone).length
  let keep := q.held.filter (fun h => !(gone h))
  bump 0x40048 k (setSeq n { q with held := keep, segs := keptSegs (pagePosOf s q) q.segs keep, pending := none } s)

/-- The level-1 nodes drop the records of a step that stand in their windows, and count them (R155). -/
def clearWindows (step : Nat) (s : State) : State :=
  (List.range 48).foldl (fun s p =>
    let x := panelOf s p
    let gone := x.window.filter (fun r => r.step == step % 2 ^ 14)
    if gone.isEmpty then s
    else bump (panelReg p 0x20010) gone.length (setPanel p { x with window := x.window.filter (fun r => r.step != step % 2 ^ 14) } s)) s

/-- Clear a step's merge-store entries and reservations, and its records in the level-1 windows (R155). -/
def clearNodes (step : Nat) (s : State) : State :=
  (List.range 8).foldl (fun s n =>
    let x := nodeOf s n
    setNode n ⟨x.entries.filter (fun e => !(e.step == step)), x.reserves.filter (fun r => !(r.step == step))⟩ s) (clearWindows step s)

/-- Record a sampler error (R251). -/
def samplerError (kind seq grammar : Nat) (s : State) : State :=
  wr 0x500050 (BitVec.ofNat 64 (2 ^ 63 + kind * 2 ^ 60 + seq * 2 ^ 48 + grammar * 2 ^ 40)) s

/-- Drop a step's routing requests. -/
def clearGate (step : Nat) (s : State) : State := { s with gateQueue := s.gateQueue.filter (fun g => !(g.1 == step)) }

/-- Where a census entry stands. -/
def censusAt (s : State) (i : Nat) : Nat := rdF s 0x30000 47 12 * 4096 + 160 * i

/-- The 160 bytes of a census entry (R164). -/
def censusBytes (step layer point attempt model : Nat) (fail sat poison split dyn : Bool) (fails : Nat) (p : Partial) : List Byte :=
  let b (x : Bool) (k : Nat) : Nat := if x then 2 ^ k else 0
  leBytes 4 p.maxmag.toNat ++ leBytes 4 step
    ++ leBytes 4 (layer + point * 2 ^ 10 + attempt * 2 ^ 12 + model * 2 ^ 14 + b fail 25 + b sat 26 + b poison 27 + b split 28 + b dyn 29 + fails * 2 ^ 30)
    ++ leBytes 4 p.nans ++ leBytes 8 p.values ++ leBytes 8 p.clips ++ (p.bins.map (leBytes 4)).flatten

/-- Write a step's census entry afresh for its current attempt: empty counts, FAILS carried over (R165, R168 step 7). -/
def resetCensus (t : Step) (k : Nat) (s : State) : State :=
  let x := pointOf t k
  let bytes := censusBytes t.num (k / 4) (k % 4) t.attempt t.model false false false x.split x.dyn x.fails (Partial.start t.num t.attempt (k / 4) (k % 4))
  storeBytes false (deviceCtx s) (censusAt s x.entry) bytes false s

/-- The tape position in the error log now: TAIL (R437). -/
def logTail (s : State) : Nat := rdF s 0x700010 43 32

/-- The sequences of a step whose lanes stand (R389, R437). -/
def laneSeqs (t : Step) : List StepSeq := t.seqs.filter (fun q => !q.cleared)

/-- Free the lists gathered for a step's dispatch groups (R139). -/
def freeGathered (t : Step) (s : State) : State := { s with allotted := s.allotted.filter (fun b => !(t.gathered.contains b.1)) }

/-- The runtime slots of a step's own lane groups, first and count. -/
def ownSlots (t : Step) : Nat × Nat := (t.entry.slotBase, t.entry.slotsPer * t.entry.groups.length)

/-- A lane's codes as the slot's bytes hold them, with the bits of one: a split lane is its h plane and then its l plane, two int8 arrays of equal size (R58; log entry 80). -/
def slotPlanes (fmt : Nat) (codes : List Nat) : Nat × List Nat :=
  if fmt = 6 then (8, codes.map (fun c => ofSigned 8 (splitHigh (toSigned 16 c))) ++ codes.map (fun c => ofSigned 8 (splitLow (toSigned 16 c))))
  else (fmtBits fmt, codes)

/-- The n codes of a lane from its planes. -/
def fromPlanes (fmt n : Nat) (planes : List Nat) : List Nat :=
  if fmt = 6 then (List.range n).map (fun i => ofSigned 16 (256 * toSigned 8 (planes.getD i 0) + toSigned 8 (planes.getD (n + i) 0)))
  else planes

/-- Bytes of a lane's codes in its slot. -/
def codeBytes (fmt n : Nat) : Nat := ceilDiv (fmtBits fmt * n) 8

/-- Bytes of a lane in a carry slot: its codes, then its scale, to a multiple of 8. -/
def laneBytes (fmt : Nat) (l : SlotLane) : List Byte :=
  let p := slotPlanes fmt l.codes
  let body := leBytes (codeBytes fmt l.codes.length) (packCodes p.1 p.2) ++ leBytes 4 l.scale.toNat
  padTo body (ceilDiv body.length 8 * 8)

/-- The lanes of the slots that a micro-batch keeps between its stages (R33). -/
def carriedLanes (s : State) (t : Step) : List CarryLane :=
  (s.slots.filter (fun e => overlaps (ownSlots t) (e.1, 1))).flatMap (fun e =>
    let k := e.1 - t.entry.slotBase
    e.2.lanes.map (fun l => ⟨k / max 1 t.entry.slotsPer, k % max 1 t.entry.slotsPer, l.1, e.2.fmt, e.2.dim, e.2.rows, e.2.dyn, e.2.list, l.2⟩))

/-- Free the block of a step's carry slots. -/
def freeCarry (t : Step) (s : State) : State := { s with allotted := s.allotted.filter (fun b => !(t.carry.bind (fun c => c.addr) == some b.1)) }

/-- A lane that is poisoned poisons its words of the carry slot (R435). -/
def storeLane (a : Nat) (x : CarryLane) (s : State) : State :=
  let bytes := laneBytes x.fmt x.data
  storeBytes false (deviceCtx s) a bytes (!x.data.poison.isEmpty) s

/-- The shuttle moves a micro-batch's lanes into carry slots of a block that the firmware allots; with no room for it they have none (R33; log entry 80). -/
def moveCarry (t : Step) (lanes : List CarryLane) (s : State) : State :=
  match allotScratch ((lanes.map (fun x => (laneBytes x.fmt x.data).length)).sum) s with
  | none => setStep { t with carry := some ⟨none, false, lanes⟩ } s
  | some z =>
    let n := (lanes.map (fun x => (laneBytes x.fmt x.data).length)).sum
    bump 0x300018 n (lanes.foldl (fun (w : Nat × State) x => (w.1 + (laneBytes x.fmt x.data).length, storeLane w.1 x w.2)) (z.1, setStep { t with carry := some ⟨some z.1, false, lanes⟩ } z.2)).2

/-- The micro-batch waits for its next stage: its activations go to carry slots, and those its last stage was fed from are free (R33). While the shuttle is stopped the move waits (R311). -/
def keepCarry (t : Step) (s : State) : State :=
  let lanes := carriedLanes s t
  let t' := { t with phase := .stageDone }
  if stopped s then setStep { t' with carry := some ⟨none, true, lanes⟩ } (freeCarry t s) else moveCarry t' lanes (freeCarry t s)

/-- The moves of carry slots that waited while the shuttle was stopped (R33, R311). -/
def movesResumed (s : State) : State :=
  (s.steps.filter (fun t => (t.carry.map (fun c => c.waits)).getD false)).foldl (fun s t => moveCarry t ((t.carry.map (fun c => c.lanes)).getD []) s) s

/-- A carried lane as its carry slot at an address holds it: a poisoned word of it poisons the lane (R33, R435, R437). -/
def readLane (s : State) (a : Nat) (x : CarryLane) : SlotLane :=
  let bytes := getBytes s a (laneBytes x.fmt x.data).length
  let n := x.data.codes.length
  let k := codeBytes x.fmt n
  let p := slotPlanes x.fmt x.data.codes
  { codes := fromPlanes x.fmt n (unpackCodes p.1 p.2.length (ofLe (bytes.take k))), scale := BitVec.ofNat 32 (leAt bytes k 4),
    poison := if anyPoison s a bytes.length then List.range n else x.data.poison }

/-- Put one carried lane into its slot of the entry that a step runs under. -/
def restoreLane (t : Step) (x : CarryLane) (l : SlotLane) (s : State) : State :=
  let n := t.entry.slotBase + x.group * t.entry.slotsPer + x.loc
  setSlot n ⟨x.fmt, x.dim, x.rows, x.dyn, sput (fun _ => SlotLane.none) (slotOf s n).lanes x.lane l, x.list⟩ s

/-- The slots of a range are empty. -/
def clearSlots (r : Nat × Nat) (s : State) : State := { s with slots := s.slots.filter (fun e => !(overlaps r (e.1, 1))) }

/-- A stage's attempt starts from its micro-batch's carry slots, which keep their activations for a further attempt (R33, R34). -/
def restoreCarry (t : Step) (s : State) : State :=
  match t.carry with
  | none => s
  | some c =>
    (c.lanes.foldl (fun (z : Nat × State) x =>
      let l := match c.addr with
        | some _ => readLane z.2 z.1 x
        | none => x.data
      (z.1 + (laneBytes x.fmt x.data).length, restoreLane t x l z.2)) (c.addr.getD 0, clearSlots (ownSlots t) s)).2

/-- Take a step out of the machine without commit (R213): its positions are truncated, its pieces purged, its census entries freed. -/
def leaveStep (t : Step) (s : State) : State :=
  let s := clearGate t.num (clearNodes t.num (purgeStep t.num s))
  dropStep t.num ((laneSeqs t).foldl (fun s q => dropEpoch q.seq t.num s) s)

/-- A step ends without commit, and its drafts are rejected (R213, R245). -/
def endStep (t : Step) (s : State) : State := leaveStep t ((laneSeqs t).foldl (fun s q => rejectDrafts q s) s)

/-- A step is discarded, and its sequences are READY again with their input still pending, drafts among it, which count once they are settled (R245, R437, R439). -/
def backToReady (t : Step) (s : State) : State :=
  (laneSeqs t).foldl (fun s q =>
    let x := seqOf s q.seq
    if x.state = .inStep then setSeq q.seq { x with state := .ready, carried := x.carried + draftsIn q } s else rejectDrafts q s) (leaveStep t s)

/-- An index fault in ZIP_FAULT and INDEX_FAULT_COUNT of a panel (R129, R130). -/
def zipRecord (p kind : Nat) (block : Bool) (model layer piece : Nat) (s : State) : State :=
  wr (panelReg p 0x10038) (BitVec.ofNat 64 (2 ^ 63 + kind * 2 ^ 60 + (if block then 1 else 0) * 2 ^ 59 + model * 2 ^ 48 + layer * 2 ^ 38 + piece % 2 ^ 24))
    (bump (panelReg p 0x10020) 1 s)

/-- End a step with a status for every sequence of it (R115, R130, R438). -/
def failStep (t : Step) (status : Nat) (s : State) : State :=
  (laneSeqs t).foldl (fun s q => endSeq q.seq 7 status 0 s) (endStep t s)

/-- Mark a model descriptor-faulted (R130 to R132, R442): the untaken pieces of its steps are purged, the faulted step's sequences end with 0x0401, and one notice per model per tick goes out. The model's other sequences end with the tick, at the edge. A quarantine pause of the model ends at once. -/
def indexFault (step model layer piece kind stream : Nat) (s : State) : State :=
  let m := modelOf s model
  let owner := if m.owner < 64 then m.owner else 0xFFFF
  let paused := m.quarantined && m.pause.isSome
  let s := setModel model { m with faulted := true, pause := none } s
  let s := (s.steps.filter (fun t => t.model == model)).foldl (fun s t => purgeStep t.num s) s
  let s := (s.steps.filter (fun t => t.model == model && t.num == step)).foldl (fun s t => failStep t 0x0401 s) s
  let s := notifyOnce model 4 0 (ownerRoute s model) owner model
    (leBytes 2 layer ++ leBytes 1 kind ++ leBytes 1 stream ++ leBytes 4 piece) s
  if paused then
    let who := (seqsOfModel s model).foldl (fun l n => insNat l (seqOf s n).tenant) (ownerRoute s model)
    let s := (seqsOfModel s model).foldl (fun s n => endSeq n 7 0x0401 0 s) s
    notify 18 54 who owner model (leBytes 1 1) s
  else s

/-- The plan engine meets headers out of range as it expands a step or an operation (R128 to R130): no piece of those row blocks; each is a fault that counts, recorded at the panel that its first piece would have been dealt to, with the first piece number of its operation (log entry 79), and the model is descriptor-faulted. -/
def expandFaults (t : Step) (os : List OpRun) (s : State) : State :=
  match os with
  | [] => s
  | o :: _ =>
    let p := (nextRoom s s.dealNext).getD 0
    indexFault t.num t.model o.layer o.piece0 5 0 (os.foldl (fun s o => zipRecord p 5 false t.model o.layer o.piece0 s) s)

/-- Expand a step at the freeze or for a new attempt, or raise the faults of kind 5 that its row blocks meet (R18, R128, R130, R131). -/
def dispatchStep (t : Step) (s : State) : State :=
  let os := expansionFaults s t
  if os.isEmpty then expandStep t s else expandFaults t os s

/-- Issue a new attempt of a step (R111, R112, R155, R174, R176): the old one's pieces are purged, its merge entries cleared, its hem state rolled back, its census restarted, a later stage's activations brought back from its carry slots (R33, R34); the pieces are queued again, or the expansion meets a header out of range (R128, R131). -/
def newAttempt (t : Step) (s : State) : State :=
  let s := freeGathered t (clearGate t.num (clearNodes t.num (purgeStep t.num s)))
  let s := (laneSeqs t).foldl (fun s q => truncateHem q.seq t.num t.attempt t.lo t.hi s) s
  let s := (laneSeqs t).foldl (fun s q => let x := seqOf s q.seq; setSeq q.seq { x with pending := some (t.num, t.attempt + 1) } s) s
  let fresh := t.seqs.map (fun q => { q with drawn := [], accepted := none, stops := 0, reason := 0, status := 0, poisoned := false, gstate := (seqOf s q.seq).gstate })
  let t' : Step := { t with attempt := t.attempt + 1, phase := .running, seqs := fresh, routed := [], dispatch := [], breaches := [], actives := activePanels s, logMark := logTail s, gathered := [] }
  let t' := { t' with ops := stepOps s t' }
  let s := restoreCarry t' (setStep t' s)
  let s := t'.points.foldl (fun s e => if t'.lo ≤ e.1 / 4 ∧ e.1 / 4 ≤ t'.hi then resetCensus t' e.1 s else s) s
  dispatchStep t' s

/-- Run a step again as a new attempt, which draws on the tick's headroom and may stretch it (R36, R37, R90, R111, R114); or end it by device fault where the attempt would be beyond 3 (R115). -/
def rerunStep (t : Step) (s : State) : State :=
  if t.attempt + 1 > 3 then
    failStep t 0x0404 (deviceFault 0 5 t.num s)
  else newAttempt t (fitAttempt t s)

/-- Run again, one by one, the steps that satisfy a test. -/
def rerunWhere (p : Step → Bool) (s : State) : State :=
  (s.steps.filter p).foldl (fun s t => match stepOf s t.num with
    | some u => rerunStep u s
    | none => s) s

/-- Isolate a panel (R113, R114, R116): cause is the CAUSE field. The steps run again are those of which the panel holds a piece, a record or a command; what it has retired counts no more (log entry 86). -/
def isolatePanel (p cause : Nat) (s : State) : State :=
  if isolated s p then s
  else
    let x := panelOf s p
    let inPanel (t : Step) : Bool :=
      let hasRun (r : Option StRun) : Bool := (r.map (fun q => q.piece.step == t.num)).getD false
      let hasRec (r : Record) : Bool := r.step == t.num % 2 ^ 14
      x.stitchers.any (fun e => hasRun e.2.cur || hasRun e.2.ahead || e.2.port.any hasRec)
        || x.window.any hasRec || x.finIn.any hasRec || x.mq.any (fun c => c.step == t.num)
    let affected := (s.steps.filter inPanel).map (fun t => t.num)
    let s := wrB (panelReg p 0) 63 true (wrF (panelReg p 0) 62 59 cause s)
    let queued := x.queue
    let s := setPanel p { Panel.none with vec := x.vec } s
    let s := dealWaiting (queued.foldl (fun s q => dealPiece q.ready s q.piece) s)
    let s := rerunWhere (fun t => affected.contains t.num) s
    let s := notify 6 (1 + p) [] 0xFFFF 0xFFFF (leBytes 1 p ++ leBytes 1 cause) s
    let s := { s with redivide := s.models.foldl (fun l e => if e.2.live && decide (1 < e.2.stages.length) then insNat l e.1 else l) s.redivide }
    if (activePanels s).length = 36 then deviceFault 0 1 (48 - (activePanels s).length) s else s

/-- A run's piece as it goes back to a queue of panel p: one whose low-plane run failed has drained its high plane, and its descriptor's tag 4 says that the low plane alone is left (R71, R87, R90, R151; log entry 84). -/
def returned (p : Nat) (r : StRun) : QEntry :=
  ⟨{ r.piece with home := p, ptag := if r.low && r.piece.ptag == 3 then 4 else r.piece.ptag }, true⟩

/-- Fail a stitcher (R91): its pieces go back to the head of its panel's queue, which may then hold two beyond its 4,096 places (log entry 84); the 16th failure is a fatal panel fault. -/
def failStitcher (p i : Nat) (piece : Nat) (s : State) : State :=
  let st := stitcherOf s p i
  let back := (st.cur.map (returned p)).toList ++ (st.ahead.map (returned p)).toList
  let s := wrB (panelReg p (0x40000 + 8 * (i / 64))) (i % 64) true s
  let s := wrF (panelReg p 0) 20 13 (failedCount s p) s
  let s := setStitcher p i { Stitcher.none with draining := st.draining, port := st.port } s
  let s := setPanel p { panelOf s p with queue := back ++ (panelOf s p).queue } s
  let s := notify 5 (1 + p) [] 0xFFFF 0xFFFF (leBytes 1 i ++ leBytes 3 0 ++ leBytes 4 piece) s
  if failedCount s p ≥ 16 then isolatePanel p 1 s else s

/-- Is a model's quarantine pause running? -/
def pauseOn (m : Model) : Bool := m.quarantined && m.pause.isSome

/-- The tenants with open sequences of a model. -/
def tenantsOnModel (s : State) (model : Nat) : List Nat :=
  (seqsOfModel s model).foldl (fun l n => insNat l (seqOf s n).tenant) (ownerRoute s model)

/-- End a quarantine pause with outcome 1: every paused sequence ends with 0x0401 (R440, R442). -/
def failPause (model : Nat) (s : State) : State :=
  let m := modelOf s model
  if !(pauseOn m) then s
  else
    let who := tenantsOnModel s model
    let s := (seqsOfModel s model).foldl (fun s n => endSeq n 7 0x0401 0 s) (setModel model { m with pause := none } s)
    notify 18 54 who (if m.owner < 64 then m.owner else 0xFFFF) model (leBytes 1 1) s

/-- Has a quarantine's pause run out with lines still listed (R440, R442)? -/
def pauseOver (s : State) (m : Model) : Bool := !m.lift && m.pause.any (tapePast s)

/-- A pause that has run out ends before anything that comes later, such as a restore (R442). -/
def expirePause (model : Nat) (s : State) : State := if pauseOver s (modelOf s model) then failPause model s else s

/-- Ask the replica peer for the block of a line that joins the list, unless another listed line of the block asked already (R441). -/
def askNew (m : Model) (line : Nat) (s : State) : State :=
  if m.quarantined && m.quar.any (fun l => l / 4096 == line / 4096) then s else askReplica m (line / 4096 * 4096) s

/-- Quarantine a model for an uncorrectable line, or add the line to its list (R439, R440); the pause of a descriptor-faulted model ends at once (R442). -/
def quarantine (model line : Nat) (s : State) : State :=
  let m := modelOf s model
  if m.quarantined then
    if m.quar.contains line then s
    else if m.quar.length ≥ 1024 then failPause model s
    else askNew m line (setModel model { m with quar := insNat m.quar line, lift := false } s)
  else
    let ms := rdF s 0x700000 47 32
    let who := tenantsOnModel s model
    let s := setModel model { m with quarantined := true, quar := [line], pause := some (s.tape + ms * 1000000), lift := false } (bump 0x700028 1 s)
    let s := (s.steps.filter (fun t => t.model == model)).foldl (fun s t => backToReady t s) s
    let s := askNew m line (notify 17 54 who (if m.owner < 64 then m.owner else 0xFFFF) model (leBytes 8 line ++ leBytes 4 ms) s)
    if m.faulted then failPause model s else s

/-- The resident model one of whose regions holds an address (R437). -/
def modelAt (s : State) (a : Nat) : Option Nat :=
  (s.models.find? (fun e => e.2.live && decide (e.2.base ≤ a) && decide (a < e.2.base + e.2.size))).map (fun e => e.1)

end Sys2Proof.Machine
end

