-- ==== Sys2Proof/Machine/Answer.lean ====
section
/-! DEFINITION. How the controller takes a request and answers it: roles, refusals and details (R335, R336, R338, R344, R403, R435), shared by every control command. -/

namespace Sys2Proof.Machine

/-- Send a response (R336); its TAPE is the tape of queueing (R329). -/
def respond (mailbox session correlation command status : Nat) (payload : List Byte) (s : State) : State :=
  sendMsg (mkMsg 2 mailbox session command status correlation s.tape payload) s

/-- Answer one who waits. -/
def respondTo (w : Waiter) (status : Nat) (payload : List Byte) (s : State) : State :=
  respond w.mailbox w.session w.correlation w.command status payload s

/-- The 8-byte detail of a refusal (R336). -/
def detail (field value : Nat) : List Byte := leBytes 2 field ++ leBytes 2 0 ++ leBytes 4 value

/-- The detail of a refusal for which the specification names no limit and no value in force: VALUE is free (log entry 32). -/
def openDetail (field : Nat) (s : State) : List Byte × State :=
  let f := fresh s
  (detail field (f.1.toNat % 2 ^ 32), f.2)

/-- Refuse at a field with an open VALUE; 0xFFFF where no single field is at fault (R336). -/
def refuseAt (mailbox session correlation command status field tape : Nat) (s : State) : State :=
  let d := openDetail field s
  sendMsg (mkMsg 2 mailbox session command status correlation tape d.1) d.2

/-- The detail that names an offset within a staged image (R336). -/
def imageDetail (offset : Nat) : List Byte := leBytes 2 0xFFFE ++ leBytes 2 (offset / 2 ^ 32) ++ leBytes 4 offset

/-- Answer one who waits with a refusal; success carries nothing. -/
def settle (w : Waiter) (status : Nat) (s : State) : State :=
  if status = 0 then respondTo w 0 [] s else refuseAt w.mailbox w.session w.correlation w.command status 0xFFFF s.tape s

/-- Settle every one of a list. -/
def settleAll (ws : List Waiter) (status : Nat) (s : State) : State := ws.foldl (fun s w => settle w status s) s

/-- The role a mailbox gives (R344): 0 tenant, 1 operator, 2 maintenance; 3 for a reserved mailbox, which gives none. -/
def roleOf (mailbox : Nat) : Nat :=
  if mailbox < 64 then 0 else if mailbox = operatorBox then 1 else if mailbox = maintenanceBox then 2 else 3

/-- Where the answer to a request goes when it is deferred. -/
def waiterOf (r : Req) (command : Nat) : Waiter := ⟨r.mailbox, r.session, r.correlation, command⟩

/-- What handling a request comes to. -/
inductive Reply where
  /-- success with a response payload and the changed state -/
  | done (payload : List Byte) (s : State)
  /-- refusal with STATUS, FIELD and VALUE: nothing changes (R336) -/
  | refuse (status field value : Nat)
  /-- refusal with STATUS and FIELD for which no limit and no value in force is named -/
  | refuseOpen (status field : Nat)
  /-- refusal of a staged image at an offset -/
  | badImage (status offset : Nat)
  /-- refusal that a counter records -/
  | counted (status field value : Nat) (s : State)
  /-- busy until a tape time: nothing changes (R328, R340) -/
  | busy (retry : Nat)
  /-- the effect is under way and the answer comes later -/
  | later (s : State)

/-- Code, roles and needs of a command (R270, R341). -/
structure CmdSpec where
  code : Nat
  roles : List Nat
  /-- it needs stack memory (R270) -/
  stack : Bool

/-- Address of a mailbox slot (R327). -/
def slotAddr (s : State) (mailbox slot : Nat) : Nat := rdF s 0xA00008 47 20 * 2 ^ 20 + 9216 * (256 * mailbox + slot % 256)

/-- Is the slot a request stands in poisoned where the request lies (R435)? -/
def slotPoisoned (s : State) (r : Req) : Bool :=
  rdB s 0xA00008 63 && anyPoison s (slotAddr s r.mailbox r.slot) (32 + r.payload.length)

/-- Does the controller take requests: does the firmware run (R378, R385), and has sleep not begun? -/
def serving (s : State) : Bool := decide (runState s = 4)

/-- Payload field of n bytes at an offset. -/
def pay (r : Req) (off n : Nat) : Nat := leAt r.payload off n

/-- Does the controller hear a command: while it serves, and inside an update pause the two that R386 and R428 refuse there, but not while core 2 works for the planner (R375, R376; log entry 103). -/
def heard (c : CmdSpec) (s : State) : Bool := !s.core2 && (serving s || (decide (runState s = 5) && [0x0903, 0x0D02].contains c.code))

/-- Where a mailbox stands among those the controller takes from (R337): the operator's, the maintenance mailbox, then the tenants' in turn after the one served last. -/
def boxRank (s : State) (m : Nat) : Nat := if m = operatorBox then 0 else if m = maintenanceBox then 1 else 2 + (m + 63 - s.boxTurn) % 64

/-- MSN and session of the request in a slot (R319, R327). -/
def slotRequest (s : State) (m i : Nat) : Nat × Nat :=
  (peekAs s (deviceCtx s) (slotAddr s m i + 8) 4, peekAs s (deviceCtx s) (slotAddr s m i + 6) 1 % 16)

/-- Is a delivered request the next that the controller takes (R337)? No unreleased control slot of a mailbox that comes before its own, and none with an earlier MSN of its session. A request that stands in no slot comes as the queue has it (log entry 58). -/
def inTurn (r : Req) (s : State) : Bool :=
  let own := slotRequest s r.mailbox r.slot
  decide (slotKind s r.mailbox r.slot ≠ .control) || s.slotKinds.all (fun e =>
    let m := e.1 / 256
    let x := slotRequest s m (e.1 % 256)
    decide (e.2 ≠ .control) || (decide (boxRank s r.mailbox ≤ boxRank s m) && !(m == r.mailbox && x.2 == own.2 && serialLater 32 own.1 x.1)))

/-- Does an earlier request for the sequence, model or tenant that a command names still wait for its end (R337)? The command then completes after it. -/
def behind (c : CmdSpec) (r : Req) (s : State) : Bool :=
  let x := seqOf s (pay r 0 2)
  let same := decide (x.gen = pay r 2 2)
  let unloads (off : Nat) : Bool := !((modelOf s (pay r off 2)).unload.isEmpty)
  if c.code = 0x0404 ∨ c.code = 0x0405 then same && !(x.cancel.isEmpty && x.pin.isEmpty)
  else if c.code = 0x0501 then same && !(x.cancel.isEmpty)
  else if c.code = 0x0401 then unloads 0
  else if c.code = 0x0303 then unloads 2
  else if 0x0304 ≤ c.code ∧ c.code ≤ 0x0308 then unloads 0
  else if [0x0201, 0x0202, 0x0204, 0x0205, 0x0701, 0x0702, 0x0801, 0x0802].contains c.code then !((tenantOf s (pay r 0 1)).resetting.isEmpty)
  else false

/-- Turn what handling came to into messages. -/
def conclude (c : CmdSpec) (r : Req) (s : State) (x : Reply) : State :=
  match x with
  | .done p t => respond r.mailbox r.session r.correlation c.code 0 p t
  | .refuse st f v => respond r.mailbox r.session r.correlation c.code st (detail f v) s
  | .badImage st o => respond r.mailbox r.session r.correlation c.code st (imageDetail o) s
  | .counted st f v t => respond r.mailbox r.session r.correlation c.code st (detail f v) t
  | .refuseOpen st f => refuseAt r.mailbox r.session r.correlation c.code st f s.tape s
  | .busy t => refuseAt r.mailbox r.session r.correlation c.code 0x0101 0xFFFF t s
  | .later t => t

/-- The controller takes a request in its turn and answers it (R335 to R337, R343, R344, R270, R435); until then it waits in its slot. Role, credential, a reset of the sender's tenant, length, poisoned slot, failed memory, then the command's own handling. The order of these tests is the model's (log entry 30). -/
def control (c : CmdSpec) (lenOk : Bool) (body : State → Reply) (r : Req) (s : State) : Host.Outcome State Fault Refusal :=
  if !(heard c s) || !(inTurn r s) then .next s
  else
    let role := roleOf r.mailbox
    let tell (st tape : Nat) : State := refuseAt r.mailbox r.session r.correlation c.code st 0xFFFF tape s
    if !(c.roles.contains role) then .next (tell 0x0501 s.tape)
    else if role = 2 ∧ !(sessionOf s (sessionKey r.mailbox r.session)).cred then .next (tell 0x0504 s.tape)
    else if role = 0 ∧ !((tenantOf s r.mailbox).resetting.isEmpty) then .next (tell 0x0101 (ordinaryEdge s))
    else if !lenOk then .next (tell 0x0205 s.tape)
    else if slotPoisoned s r then .next (respond r.mailbox r.session r.correlation c.code 0x0404 [] s)
    else if c.stack && rdB s 0x50008 61 then .next (tell 0x0404 s.tape)
    else if behind c r s then .next s
    else .next (conclude c r s (body s))

/-- Fixed-length layout: LENGTH must equal it (R335). -/
def exactly (r : Req) (n : Nat) : Bool := decide (r.payload.length = n)

/-- Is the device drained (R278): no model resident, no sequence open, no prefix pinned, no hem segment held? -/
def drained (s : State) : Bool :=
  s.models.all (fun e => !e.2.live) && s.seqs.all (fun e => !(isOpen e.2) && e.2.segs.isEmpty) && s.prefixes.all (fun e => !e.2.live)

end Sys2Proof.Machine
end

