-- ==== Sys2Proof/Machine/Guard.lean ====
section
/-! DEFINITION. The emission guard (R17, R22, R36 to R38, R246 to R248): unfinished work, the emit messages, and the state in which work completes. -/

namespace Sys2Proof.Machine

/-- Steps whose work is not complete (R36): a micro-batch between stages has none, and of a model that an index fault has stopped no further work is due (R130; log entry 102). -/
def unfinishedSteps (s : State) : List Step := s.steps.filter (fun t => decide (t.phase ≠ .stageDone) && !(modelOf s t.model).faulted)

/-- Cut a list into runs of at most n. -/
def runsOf (n : Nat) (l : List Nat) : List (List Nat) := if l.isEmpty then [] else chop n l.length l

/-- The tick-stretch notices (R37, R350). -/
def stretchNotices (models tenants : List Nat) (s : State) : State :=
  (runsOf 8 models).foldl (fun s ms =>
    let body := leBytes 1 ms.length ++ leBytes 3 0 ++ padTo ((ms.map (leBytes 2)).flatten) 16
    notify 1 0 tenants 0xFFFF (if ms.length = 1 then ms.headD 0 else 0xFFFF) body s) s

/-- Count a model's stretch, and switch it to dynamic scales at the third in a row and at each further one while it is on carried scales (R38). -/
def countStretch (unfinished : List Nat) (m : Nat) (s : State) : State :=
  let x := modelOf s m
  if unfinished.contains m then
    let x' := { x with stretchRun := x.stretchRun + 1 }
    if 3 ≤ x'.stretchRun ∧ !x.dynamic then
      notify 2 0 (ownerRoute s m) (if x.owner < 64 then x.owner else 0xFFFF) m (leBytes 1 1 ++ leBytes 1 (min x'.stretchRun 255)) (setModel m { x' with dynamic := true } s)
    else setModel m x' s
  else if x.live then setModel m { x with stretchRun := 0 } s
  else s

/-- An emit record (R247): the sequence, its first token's position, its tokens. -/
def emitRecord (n pos : Nat) (tokens : List Nat) (x : Seq) : List Byte :=
  let ending := decide (x.state = .ending)
  let fl := (if ending then 1 else 0) + (if x.esn = 0 then 2 else 0)
  let body := leBytes 2 n ++ leBytes 2 x.gen ++ leBytes 4 x.esn ++ leBytes 8 x.par.tag ++ leBytes 4 pos ++ leBytes 2 tokens.length
    ++ leBytes 1 fl ++ leBytes 1 (if ending then x.endReason else 0) ++ leBytes 2 (if ending then x.endStatus else 0)
    ++ leBytes 1 (if ending then x.stops else 0) ++ leBytes 5 0 ++ (tokens.map (leBytes 4)).flatten
  padTo body (ceilDiv body.length 8 * 8)

/-- Pack records into payload parts of at most 9,120 bytes with the header, each record whole in one part (R246). -/
def packRecords : List (List Byte) → List (Nat × List Byte)
  | [] => []
  | r :: rs =>
    match packRecords rs with
    | [] => [(1, r)]
    | (n, p) :: ps => if r.length + p.length + 16 ≤ 9120 then (n + 1, r ++ p) :: ps else (1, r) :: (n, p) :: ps

/-- Sequences with a record in this guard, in ascending number (R246, R248). -/
def emitting (s : State) : List Nat := (s.seqs.filter (fun e => decide (e.2.state = .ending) || e.2.emit.isSome)).map (fun e => e.1)

/-- Free a block the firmware allotted. -/
def freeBlock (base : Nat) (s : State) : State := { s with allotted := s.allotted.filter (fun b => !(b.1 == base)) }

/-- Free a sequence context whose final record has left (R233); a cancel not yet answered keeps the status it will be answered with (R249), and a pin finds no open sequence. The context's next use has the next generation (R230). -/
def freeSeq (n : Nat) (s : State) : State :=
  let x := seqOf s n
  let st := if x.endReason ≤ 5 then 0x0402 else x.endStatus
  let s := { s with lateCancels := s.lateCancels ++ x.cancel.map (fun w => (w, st)) ++ x.pin.map (fun p => (p.1, 0x0207)) }
  freeBlock x.listAddr (freeBlock x.ringAddr (setSeq n { Seq.none with gen := (x.gen + 1) % 65536 } s))

/-- Take a sequence's record for this guard: the bytes, and the sequence moved on. A record without tokens carries a free position: the specification gives none. -/
def takeRecord (n : Nat) (s : State) : List Byte × State :=
  let x := seqOf s n
  match x.emit with
  | some e => (emitRecord n e.first e.tokens x, setSeq n { x with emit := none, esn := (x.esn + 1) % 2 ^ 32 } s)
  | none =>
    let f := fresh s
    (emitRecord n (f.1.toNat % 2 ^ 32) [] x, setSeq n { x with esn := (x.esn + 1) % 2 ^ 32 } f.2)

/-- Send the emit messages of one destination (R246). -/
def emitTo (tenant dest : Nat) (seqs : List Nat) (s : State) : State :=
  let r := seqs.foldl (fun (acc : List (List Byte) × State) n =>
    let z := takeRecord n acc.2
    (acc.1 ++ [z.1], z.2)) ([], s)
  let parts := packRecords r.1
  (List.range parts.length).foldl (fun s i =>
    let p := parts.getD i (0, [])
    let head := leBytes 1 tenant ++ leBytes 1 dest ++ leBytes 1 i ++ leBytes 1 parts.length ++ leBytes 4 p.1 ++ leBytes 8 (tickIndex s)
    sendMsg (mkMsg 4 tenant dest 0 0 0 s.tape (head ++ p.2)) s) r.2

/-- Send every emit message of a guard, and free the sequences whose final record left (R22, R233, R246 to R248). -/
def emitAll (s : State) : State :=
  let ns := emitting s
  let dests := (ns.map (fun n => 16 * (seqOf s n).tenant + (seqOf s n).par.dest)).foldl insNat []
  let ending := ns.filter (fun n => (seqOf s n).state = .ending)
  let s := dests.foldl (fun s d => emitTo (d / 16) (d % 16) (ns.filter (fun n => 16 * (seqOf s n).tenant + (seqOf s n).par.dest == d)) s) s
  ending.foldl (fun s n => freeSeq n s) s

/-- Unfinished work marks the tick stretched, and every model's consecutive stretches are counted (R36 to R38). -/
def closeWork (s : State) : State :=
  let open_ := unfinishedSteps s
  let models := open_.foldl (fun l t => insNat l t.model) []
  let tenants := open_.foldl (fun l t => t.seqs.foldl (fun l q => if q.cleared then l else insNat l (seqOf s q.seq).tenant) l) []
  let s := if open_.isEmpty then s else markStretched s
  let s := if rdB s 0x100028 3 then stretchNotices (s.stretchModels.foldl insNat models) tenants s else s
  (models.foldl insNat s.worked).foldl (fun s m => countStretch models m s) s

/-- When the emission guard of the tick begins: 5,000 tape ns before the next edge (R17). -/
def guardTape (s : State) : Nat := s.edge + period s - 5000

/-- The emission guard begins, once in a tick whose edge is not skipped: unfinished work marks the tick stretched, and the emit messages leave (R22, R36 to R38, R246 to R248). -/
def beginGuard (s : State) : State :=
  if s.guarded || s.skipped then s
  else emitAll (closeWork { runTo (guardTape s) s with guarded := true })

/-- The state in which a step completes: the tape has perhaps reached the guard's start, and then the guard stands first, so that work complete at that instant or later is incomplete at it (R17). -/
def atCompletion (s : State) : State := if tapePast s (guardTape s) then beginGuard s else s

end Sys2Proof.Machine
end

