-- ==== Sys2Proof/Machine/Seam.lean ====
section
/-! DEFINITION. The seam tree: records through the level-1 window and into the level-2 merge stores (R143 to R150, R154 to R157), reservations (R152) and barrier releases (R110, R144). -/

namespace Sys2Proof.Machine

/-- The open step a record belongs to, by the low 14 bits of its number (R143, R144). -/
def stepOfRecord (s : State) (r : Record) : Option Step := s.steps.find? (fun t => t.num % 2 ^ 14 == r.step)

/-- Is a record to be dropped: its step is not open, or it carries another attempt (R155)? -/
def dropped (s : State) (r : Record) : Bool :=
  match stepOfRecord s r with
  | none => true
  | some t => t.attempt != r.attempt

/-- The sort key of a record (R143). -/
def recordKey (r : Record) : Nat := ((r.slot * 2 ^ 32 + r.elem) * 16 + r.lane) * 2 ^ 24 + r.piece

/-- Do two records combine in the window (R147)? -/
def combines (a b : Record) : Bool :=
  a.step == b.step && a.attempt == b.attempt && a.slot == b.slot && a.elem == b.elem && a.lane == b.lane
    && a.ptag == b.ptag && a.op == 0 && b.op == 0 && a.ptag != 2

/-- int32 addition of two 32-bit codes. -/
def add32 (a b : Nat) : Nat := (a + b) % 2 ^ 32

/-- A record in the window: combined with one it agrees with, or inserted in sort order (R147); says whether it combined. -/
def intoWindow (w : List Record) (r : Record) : List Record × Bool :=
  match w.find? (combines r) with
  | some o =>
    let m := { o with value := add32 o.value r.value, piece := min o.piece r.piece, poison := o.poison || r.poison }
    (insBy recordKey m (w.erase o), true)
  | none => (insBy recordKey r w, false)

/-- Record a seam fault in a node's register (R157, R158). -/
def seamFaultReg (a kind : Nat) (r : Record) (s : State) : State :=
  wr a (BitVec.ofNat 64 (2 ^ 63 + kind * 2 ^ 59 + r.slot * 2 ^ 47 + r.lane * 2 ^ 43 + r.piece % 2 ^ 24)) s

/-- A fault of a level-1 node: counted, recorded, tallied for the tick's notice. -/
def seamFault1 (p kind : Nat) (r : Record) (s : State) : State :=
  tally 8 (1 + p) kind 0xFF r.slot r.piece (seamFaultReg (panelReg p 0x20038) kind r (bump (panelReg p 0x20020) 1 s))

/-- A fault of a level-2 node. -/
def seamFault2 (n kind : Nat) (r : Record) (s : State) : State :=
  tally 8 0 kind n r.slot r.piece (seamFaultReg (node2Reg n 0x38) kind r (bump (node2Reg n 0x20) 1 s))

/-- The operation a record belongs to. -/
def opOfRecord (t : Step) (r : Record) : Option OpRun := t.ops.find? (fun o => recordOf t o r)

/-- The level-2 node a record goes to (R145, R146). -/
def nodeOfRecord (s : State) (t : Step) (r : Record) : Nat :=
  let rows := match opOfRecord t r with
    | some o => layerRB (imageOf s (modelOf s t.model)) o.layer
    | none => 256
  nodeFor (homePanel t rows r.slot r.elem)

/-- The order merge entries are kept in. -/
def entryKey (e : MergeEntry) : Nat := ((e.step * 4096 + e.slot) * 2 ^ 32 + e.elem) * 16 + e.lane

/-- Is an entry the element-lane of a record of step n? -/
def entryFor (n : Nat) (r : Record) (e : MergeEntry) : Bool :=
  e.step == n && e.slot == r.slot && e.elem == r.elem && e.lane == r.lane

/-- An element-lane no record has reached yet, with the combination of the record that reaches it. -/
def entryStart (n : Nat) (r : Record) : MergeEntry :=
  { step := n, slot := r.slot, elem := r.elem, lane := r.lane, op := r.op, ptag := r.ptag, acc := if r.op = 1 then toSigned 32 r.value else 0,
    low := 0, fmax := BitVec.ofNat 32 r.value, pending := [], poison := false }

/-- The PTAG of an element-lane that only faulty records have reached: no tag of R70, so that the first good record still sets its own. -/
def noTag : Nat := 7

/-- The element-lane of a record of a step: as the node holds it, or as the record starts it; the first good record after faulty ones sets its combination (R148, R157). -/
def entryOf (x : Node2) (n : Nat) (r : Record) : MergeEntry :=
  match x.entries.find? (entryFor n r) with
  | some e => if e.ptag = noTag then { entryStart n r with poison := e.poison } else e
  | none => entryStart n r

/-- May records of these precision tags share an element-lane (R71)? -/
def tagsAgree (a b : Nat) : Bool := a == b || (a == 3 && b == 4) || (a == 4 && b == 3)

/-- Is an (OP, PTAG) combination one of R148? -/
def combination (op ptag : Nat) : Bool :=
  (op == 0 && decide (ptag ≤ 4)) || (op == 1 && decide (ptag ≤ 2)) || (op == 2 && ptag == 2)

/-- Merge a record into its element-lane (R148 to R150): the entry, and the kind of the fault it met. Where several conditions of R157 meet, the one tested first is recorded: a PTAG that disagrees, then an OP, then the ninth record, then the equal PIECE; a combination R148 does not list, though PTAG and OP agree with the lane, is kind 4 (log entry 109). -/
def mergeInto (e : MergeEntry) (r : Record) : MergeEntry × Option Nat :=
  let bad (k : Nat) : MergeEntry × Option Nat := ({ e with poison := true }, some k)
  let e := { e with poison := e.poison || r.poison }
  if !(tagsAgree e.ptag r.ptag) then bad 3
  else if e.op ≠ r.op ∨ !(combination r.op r.ptag) then bad 4
  else if r.op = 1 then
    if r.ptag = 2 then ({ e with fmax := fMax e.fmax (BitVec.ofNat 32 r.value) }, none)
    else ({ e with acc := max e.acc (toSigned 32 r.value) }, none)
  else if r.ptag = 2 then
    if e.pending.length ≥ 8 then bad 5
    else if e.pending.any (fun x => x.1 == r.piece) then bad 6
    else ({ e with pending := insBy (fun x => x.1) (r.piece, BitVec.ofNat 32 r.value) e.pending }, none)
  else if r.ptag = 4 then ({ e with low := toSigned 32 (ofSigned 32 (e.low + toSigned 32 r.value)) }, none)
  else ({ e with acc := toSigned 32 (ofSigned 32 (e.acc + toSigned 32 r.value)) }, none)

/-- The entries with one replaced or added. -/
def putEntry (es : List MergeEntry) (e : MergeEntry) : List MergeEntry :=
  insBy entryKey e (es.filter (fun x => !(entryKey x == entryKey e)))

/-- Take the head of the record port of a stitcher, or of the finisher's input. -/
def popPort (p : Nat) (port : Option Nat) (s : State) : Option (Record × State) :=
  match port with
  | some i =>
    let st := stitcherOf s p i
    match st.port with
    | [] => none
    | r :: rs => some (r, setStitcher p i { st with port := rs, draining := !rs.isEmpty } s)
  | none =>
    match (panelOf s p).finIn with
    | [] => none
    | r :: rs => some (r, setPanel p { panelOf s p with finIn := rs } s)

/-- Poison the element-lane of a record a level-1 node found faulty (R157). -/
def poisonLane (r : Record) (s : State) : State :=
  match stepOfRecord s r with
  | none => s
  | some t =>
    let n := nodeOfRecord s t r
    let x := nodeOf s n
    let e := (x.entries.find? (entryFor t.num r)).getD (entryStart t.num { r with ptag := noTag, op := 0, value := 0 })
    setNode n { x with entries := putEntry x.entries { e with poison := true } } s

/-- The level-1 node takes a record into its window (R144 to R147, R155, R157); one whose tag or operation is not listed is a seam fault, recorded as kind 1 where both are reserved (log entry 109). -/
def acceptRecord (p : Nat) (r : Record) (s : State) : State :=
  let s := bump (panelReg p 0x20000) 1 s
  let s := if r.poison then bump (panelReg p 0x20018) 1 s else s
  if r.ptag ≥ 5 then poisonLane r (seamFault1 p 1 r s)
  else if r.op ≥ 3 then poisonLane r (seamFault1 p 2 r s)
  else
    let w := intoWindow (panelOf s p).window r
    let s := setPanel p { panelOf s p with window := w.1 } s
    if w.2 then bump (panelReg p 0x20008) 1 s else s

/-- SEAM_RECORD_L1 (R86, R143 to R147, R155, R157): the panel's seam node accepts one record from a stitcher's record port or from the finisher's input into its sort window, or refuses it while the window is full. An unreadable word of the window is kind 8, and the record it names is the one that waits at the port (log entry 109). -/
def execSeamRecordL1 (p : Nat) (port : Option Nat) (windowBad : Bool) (s : State) : Host.Outcome State Fault Refusal :=
  if p ≥ 48 ∨ isolated s p then .next s
  else match popPort p port s with
    | none => .next s
    | some (r, s') =>
      if windowBad then
        .next (isolatePanel p 3 (logError (1 + p) 3 none ((stepOfRecord s r).map (fun t => t.num) |>.getD 0xFFFFFFFF, r.attempt) (seamFault1 p 8 r s)))
      else if dropped s r then .next (bump (panelReg p 0x20010) 1 s')
      else if (panelOf s p).window.length ≥ 1024 then .next (bump (panelReg p 0x20028) 1 s)
      else .next (acceptRecord p r s')

/-- An uncorrectable word of a merge store, in the element-lane of a record: a seam fault of kind 9 that poisons the lane (R154, R157). -/
def storeLost (t : Step) (r : Record) (s : State) : State :=
  logError 0 2 none (t.num, t.attempt) (seamFault2 (nodeOfRecord s t r) 9 r (poisonLane r s))

/-- The level-2 node merges a record (R148 to R150, R154, R155, R157): one of an operation already closed re-runs the step. -/
def mergeRecord (n : Nat) (t : Step) (r : Record) (storeBad : Bool) (s : State) : State :=
  let s := bump (node2Reg n 0x0) 1 s
  let s := if r.poison then bump (node2Reg n 0x18) 1 s else s
  if ((opOfRecord t r).map (fun o => o.closed)).getD true then rerunStep t (seamFault2 n 7 r s)
  else
    let x := nodeOf s n
    let m := mergeInto (entryOf x t.num r) r
    let s := setNode n { x with entries := putEntry x.entries m.1 } s
    let s := match m.2 with
      | some k => seamFault2 n k r s
      | none => s
    if storeBad then storeLost t r s else s

/-- SEAM_RECORD_L2 (R146, R148 to R150, R154 to R157): the level-1 node forwards the first record of its window, and the level-2 node merges it, drops it, or finds a seam fault. -/
def execSeamRecordL2 (p : Nat) (storeBad : Bool) (s : State) : Host.Outcome State Fault Refusal :=
  if p ≥ 48 ∨ isolated s p then .next s
  else match (panelOf s p).window with
    | [] => .next s
    | r :: rs =>
      let s' := setPanel p { panelOf s p with window := rs } s
      match stepOfRecord s r with
      | none => .next (bump (panelReg p 0x20010) 1 s')
      | some t =>
        let n := nodeOfRecord s t r
        if t.attempt ≠ r.attempt then .next (bump (node2Reg n 0x10) 1 s')
        else .next (mergeRecord n t r storeBad s')

/-- May an open step's work be released at all: its tick's execution has begun, its census table is valid, its model runs, and no older open step agrees with it in the low 14 bits of its number (R18, R130, R144, R165, R439)? -/
def mayRelease (s : State) (t : Step) : Bool :=
  let m := modelOf s t.model
  t.phase == .running && rdB s 0x30000 63 && !m.faulted && !m.quarantined
    && (t.edge != s.edge || rdB s 0x100028 0)
    && !((s.steps.takeWhile (fun u => u.num != t.num)).any (fun u => u.num % 2 ^ 14 == t.num % 2 ^ 14))

/-- Reserve the words of operation i in every node (R152). -/
def reserveOp (t : Step) (i : Nat) (o : OpRun) (s : State) : State :=
  let s := (List.range 8).foldl (fun s n =>
    let w := reserveWords s t i o n
    let x := nodeOf s n
    if w = 0 then s else setNode n { x with reserves := x.reserves ++ [⟨t.num, i, w⟩] } s) s
  setStep { t with ops := t.ops.set i { o with reserved := true } } s

/-- SEAM_RESERVE (R152): the plan engine reserves merge-store words for the next operation it means to release; a node that lacks the space counts the wait. All lane groups of the operation are reserved at once; where together they need more than a node's 524,288 words the release waits for ever (log entry 107). -/
def execSeamReserve (step : Nat) (s : State) : Host.Outcome State Fault Refusal :=
  match stepOf s step with
  | none => .next s
  | some t =>
    match nextLevel t with
    | none => .next s
    | some k =>
      if !(mayRelease s t) ∨ !(levelReady t k) then .next s
      else
        match (List.range t.ops.length).find? (fun i => (t.ops[i]?.map (fun o => atLevel k o && sendsRecords o && !o.reserved && !o.released)).getD false) with
        | none => .next s
        | some i =>
          match t.ops[i]? with
          | none => .next s
          | some o =>
            let lacking := (List.range 8).filter (fun n => decide (524288 < reservedIn s n + reserveWords s t i o n))
            if lacking.isEmpty then .next (reserveOp t i o s)
            else .next (lacking.foldl (fun s n => bump (node2Reg n 0x28) 1 s) s)

/-- Set the ready bits of an operation's queued pieces and commands (R110). -/
def setReady (step i : Nat) (s : State) : State :=
  (List.range 48).foldl (fun s p =>
    let x := panelOf s p
    let queue := x.queue.map (fun q => if q.piece.step = step ∧ q.piece.op = i then { q with ready := true } else q)
    let mq := x.mq.map (fun c => if c.step = step ∧ c.op = i then { c with ready := true } else c)
    setPanel p { x with queue := queue, mq := mq } s)
    { s with undealt := s.undealt.map (fun q => if q.piece.step = step ∧ q.piece.op = i then { q with ready := true } else q),
             undealtMat := s.undealtMat.map (fun c => if c.step = step ∧ c.op = i then { c with ready := true } else c) }

/-- Do the copies of R224 hold an operation back: a key write or value write of a step with a copy not yet complete? -/
def cowHolds (s : State) (t : Step) (o : OpRun) : Bool :=
  (entCache o.bits == 1 || entCache o.bits == 2) && s.cowJobs.any (fun c => c.step == t.num)

/-- May an operation of level k be released: its words are reserved, and no copy holds it back (R110, R152, R226)? -/
def mayGo (s : State) (t : Step) (k : Nat × Nat) (o : OpRun) : Bool :=
  atLevel k o && !o.released && (o.reserved || !(sendsRecords o)) && !(cowHolds s t o)

/-- The operations of level k that are released now. -/
def opsReleased (s : State) (t : Step) (k : Nat × Nat) : List Nat := (List.range t.ops.length).filter (fun i => (t.ops[i]?.map (mayGo s t k)).getD false)

/-- The gate operations among them. -/
def gatesReleased (s : State) (t : Step) (k : Nat × Nat) : List Nat := (opsReleased s t k).filter (fun i => (t.ops[i]?.map (fun o => o.kind == 2)).getD false)

/-- Release the operations of a level (R110): the ready bits of their pieces are set, and gates join the gate engine's queue (R141). -/
def releaseLevel (t : Step) (k : Nat × Nat) (s : State) : State :=
  let u := (opsReleased s t k).foldl (fun s i => setReady t.num i s) s
  setStep { t with ops := t.ops.map (fun o => if mayGo s t k o then { o with released := true } else o) } { u with gateQueue := u.gateQueue ++ (gatesReleased s t k).map (fun i => (t.num, i)) }

/-- BARRIER_RELEASE (R110, R144, R152, R224, R226): the operations of the next level whose words are reserved, and that no copy holds back, are released; a gate entry joins the gate engine's queue of at most 127 requests (R141). -/
def execBarrierRelease (step : Nat) (s : State) : Host.Outcome State Fault Refusal :=
  match stepOf s step with
  | none => .next s
  | some t =>
    match nextLevel t with
    | none => .next s
    | some k =>
      if !(mayRelease s t) ∨ !(levelReady t k) ∨ s.gateQueue.length + (gatesReleased s t k).length > 127 then .next s
      else .next (releaseLevel t k s)

end Sys2Proof.Machine
end

