-- ==== Sys2Proof/Machine/Finish.lean ====
section
/-! DEFINITION. Closing an operation (R153, R154): the finisher's conversions (R66 to R69), cache writes (R207), block lists (R123), gate-weighted combination (R140), the dynamic pass (R160), the census (R162 to R166), and the step-end check with its replays and its poisoned-result path (R168 to R176, R437). -/

namespace Sys2Proof.Machine

/-- Panels whose finishers close an operation find their elements by slot and element: what one element-lane holds. -/
def laneEntry (s : State) (t : Step) (rb slot elem lane : Nat) : Option MergeEntry :=
  (nodeOf s (nodeFor (homePanel t rb slot elem))).entries.find? (fun e => e.step == t.num && e.slot == slot && e.elem == elem && e.lane == lane)

/-- The fp32 value of an element-lane with tag-2 records, +0 when none arrived (R150, R153). -/
def mergedFloat (e : Option MergeEntry) : F32 :=
  match e with
  | none => 0#32
  | some x =>
    if x.op = 1 then x.fmax
    else match x.pending with
      | [] => 0#32
      | v :: vs => vs.foldl (fun a b => fAdd a b.2) v.2

/-- The integer sum of an element-lane (R59, R66 step 1, R153). -/
def mergedInt (e : Option MergeEntry) : Int :=
  match e with
  | none => 0
  | some x => if x.ptag ≥ 3 then 256 * x.acc + x.low else x.acc

/-- Was an element-lane handed over poisoned (R154)? -/
def mergedPoison (e : Option MergeEntry) : Bool := (e.map (fun x => x.poison)).getD false

/-- The activation scale of a lane of an input slot: the scale its codes were formed with, 1.0 for a float format (R62). -/
def laneScale (x : Slot) (lane : Nat) : F32 :=
  if x.fmt = 4 ∨ x.fmt = 5 ∨ x.fmt = 6 then (sget (fun _ => SlotLane.none) x.lanes lane).scale else one32

/-- A lane's elements as a reader that names format f finds them (R43, R186, R194, R473): the slot's codes, when they are of that format; of another format, the same bytes cut into elements of f (log entry 90). An element is poisoned when a byte of it is. -/
def codesAs (f : Nat) (x : Slot) (ln : SlotLane) : List Nat × List Nat :=
  let w := fmtBits f
  if f = x.fmt then (ln.codes, ln.poison)
  else
    let p := slotPlanes x.fmt ln.codes
    let bad := if x.fmt = 6 then ln.poison ++ ln.poison.map (fun e => ln.codes.length + e) else ln.poison
    let n := p.1 * p.2.length / w
    (unpackCodes w n (packCodes p.1 p.2), (List.range n).filter (fun k => bad.any (fun e => decide (p.1 * e < w * (k + 1)) && decide (w * k < p.1 * (e + 1)))))

/-- The scale of a lane's elements read in format f: the slot's for an integer format, 1.0 for a float format (R62, R187). -/
def scaleAs (f : Nat) (ln : SlotLane) : F32 := if f = 4 ∨ f = 5 ∨ f = 6 then ln.scale else one32

/-- The format the first later reader of a slot names: a dense command's AFMT, an attention command's QFMT, a vector program's IFMT, fp32 for router logits. -/
def readerFormat (ops : List OpRun) (i loc : Nat) : Option Nat :=
  ((ops.drop (i + 1)).findSome? (fun o =>
    if !((entInputs o.bits).contains loc) then none
    else match o.kind with
      | 0 => none
      | 1 => match entOpc o.bits with
        | 0 => some (natBits o.bits 159 156)
        | 1 => some (natBits o.bits 155 152)
        | 3 => ((List.range 4).find? (fun a => vSlot o.bits 128 a == loc)).map (fun a => vFmt o.bits 256 a)
        | _ => none
      | _ => if natBits o.bits 139 128 = loc then some 0xB else none))

/-- Is operation i of a stage's list a part of the model's final projection (R152, R189): one of the last layer whose output is no scale point, goes to no cache and is read by no operation after it? -/
def isFinal (r : Reader) (ops : List OpRun) (i : Nat) (o : OpRun) : Bool :=
  decide (o.layer + 1 = imgLayers r) && o.kind != 2 && entCache o.bits == 0 && !(entPT o.bits) && (!(entExpert o.bits) || entCombine o.bits)
    && (entOutputs o.bits).all (fun loc => !((ops.drop (i + 1)).any (fun x => (entInputs x.bits).contains loc)))

/-- The parts of the final projection, in template order: together they give a row of logits (R189; log entry 87). -/
def finalParts (r : Reader) (ops : List OpRun) : List OpRun :=
  (List.range ops.length).filterMap (fun i => (ops[i]?).filter (isFinal r ops i))

/-- The format a stitcher or dense operation's output is written in when it is no scale point (R66 step 4, R67, R69, R189): fp32 for the model's final projection, otherwise the float format its reader names, in its stage or a later one, bf16 by default; no field of R475 names it (log entry 85). -/
def outFormat (s : State) (t : Step) (i : Nat) (o : OpRun) (loc : Nat) : Nat :=
  let r := imageOf s (modelOf s t.model)
  if isFinal r t.ops i o then 0xB
  else match readerFormat (opsFrom r t.lo) i loc with
    | some f => if [8, 9, 0xA, 0xB].contains f then f else 0xA
    | none => 0xA

/-- One result that enters the census: element, y, z and clip. -/
structure Entered where
  elem : Nat
  y : F32
  z : F32
  clip : Bool
  deriving DecidableEq, Repr

/-- What the finisher makes of one lane: codes with poisoned elements and the scale, and what enters the census. -/
structure LaneOut where
  lane : SlotLane
  entered : List Entered
  deriving DecidableEq, Repr

/-- Convert a lane to a float format (R67, R69, R189). -/
def floatLane (fmt : Nat) (ys : List (F32 × Bool)) : LaneOut :=
  let bad := (List.range ys.length).filter (fun i => (ys.getD i (0#32, false)).2)
  ⟨⟨ys.map (fun y => floatCode fmt y.1), bad, one32⟩, []⟩

/-- Quantise a lane with one scale (R68). -/
def quantLane (fmt : Nat) (scale rout : F32) (ys : List (F32 × Bool)) : LaneOut :=
  let bad := (List.range ys.length).filter (fun i => (ys.getD i (0#32, false)).2)
  let qs := ys.map (fun y => quantCode fmt y.1 rout)
  let good := (List.range ys.length).filter (fun i => !(ys.getD i (0#32, false)).2)
  ⟨⟨qs.map (fun q => q.1), bad, scale⟩,
   good.map (fun i => let y := (ys.getD i (0#32, false)).1; ⟨i, y, fMul y rout, (qs.getD i (0, false)).2⟩)⟩

/-- May a scale be installed: it and its reciprocal are finite and nonzero (R64)? -/
def installable (x : F32) : Bool := fUsable x && fUsable (routOf x)

/-- The dynamic pass on one lane of bf16 values (R64, R160, R170): its own scale, 1.0 where the quotient may not be installed, and every element poisoned when one is, since the scale is (R435). -/
def dynamicLane (fmt : Nat) (ys : List (F32 × Bool)) : LaneOut :=
  let fin := (ys.map (fun y => y.1)).filter fIsFinite
  let m := fin.foldl (fun a y => fMax a (fAbs y)) 0#32
  let s := ((scaleOf m (qOf fmt)).filter installable).getD one32
  let any := ys.any (fun y => y.2)
  quantLane fmt s (routOf s) (ys.map (fun y => (y.1, any)))

/-- Enter a lane's results in a partial census (R162, R175). -/
def enterLane (split : Bool) (o : LaneOut) (p : Partial) : Partial :=
  let p := o.entered.foldl (fun p v => p.enter split v.y v.z v.clip) p
  { p with poison := p.poison || !o.lane.poison.isEmpty }

/-- Count in each home finisher what it converted of a lane (R146, registers of spec/07). -/
def countFinisher (t : Step) (rb slot : Nat) (o : LaneOut) (s : State) : State :=
  (List.range (ceilDiv o.lane.codes.length rb)).foldl (fun s k =>
    let p := workingHome s t rb slot (rb * k)
    let here := o.entered.filter (fun v => v.elem / rb == k)
    let s := bump (panelReg p 0x30000) here.length s
    let s := bump (panelReg p 0x30008) (here.filter (fun v => v.clip)).length s
    let s := bump (panelReg p 0x30010) (here.filter (fun v => fIsNaN v.y)).length s
    bump (panelReg p 0x30018) (o.lane.poison.filter (fun e => e / rb == k)).length s) s

/-- Put a lane into a slot. -/
def putLane (n fmt dim rows lane : Nat) (x : SlotLane) (s : State) : State :=
  let old := slotOf s n
  let lanes := if old.fmt = fmt ∧ old.dim = dim then old.lanes else []
  setSlot n ⟨fmt, dim, rows, old.dyn, sput (fun _ => SlotLane.none) lanes lane x, old.list⟩ s

/-- A census entry as it stands (R164). -/
structure CensusRow where
  maxmag : F32
  sat : Bool
  poison : Bool
  fails : Nat
  nans : Nat
  values : Nat
  clips : Nat
  bins : List Nat
  deriving DecidableEq, Repr

/-- Read census entry i. -/
def censusRow (s : State) (i : Nat) : CensusRow :=
  let a := censusAt s i
  let w := peekLe s (a + 8) 4
  ⟨BitVec.ofNat 32 (peekLe s a 4), natBits w 26 26 == 1, natBits w 27 27 == 1, natBits w 31 30, peekLe s (a + 12) 4,
   peekLe s (a + 16) 8, peekLe s (a + 24) 8, (List.range 32).map (fun b => peekLe s (a + 32 + 4 * b) 4)⟩

/-- Saturating addition at a limit: the sum and whether it saturated. -/
def satAdd (lim a b : Nat) : Nat × Bool := if a + b ≥ lim then (lim, true) else (a + b, false)

/-- Merge a partial census into the table entry of point k (R166); another attempt's partial is ignored. -/
def mergeCensus (t : Step) (k : Nat) (p : Partial) (s : State) : State :=
  if p.attempt ≠ t.attempt ∨ p.step ≠ t.num then s
  else
    let x := pointOf t k
    let r := censusRow s x.entry
    let v := satAdd max64 r.values p.values
    let c := satAdd max64 r.clips p.clips
    let n := satAdd (2 ^ 32 - 1) r.nans p.nans
    let bs := List.zipWith (satAdd (2 ^ 32 - 1)) r.bins p.bins
    let sat := r.sat || p.sat || v.2 || c.2 || n.2 || bs.any (fun b => b.2)
    let q : Partial := { p with maxmag := fMax r.maxmag p.maxmag, values := v.1, clips := c.1, nans := n.1, bins := bs.map (fun b => b.1) }
    let bytes := censusBytes t.num (k / 4) (k % 4) t.attempt t.model false sat (r.poison || p.poison) x.split x.dyn r.fails q
    storeBytes false (deviceCtx s) (censusAt s x.entry) bytes false s

/-- Where panel p's finisher stages a partial census: 1,024 places of 160 bytes at the end of the finisher area (R97, R166; log entry 83). -/
def stagedAt (p place : Nat) : Nat := panelBufBase + 0x200000 * p + 0x1D8000 + 160 * place

/-- A staged partial census as its bytes stand, a shuttle's writes among them (R97, R164, R166). -/
def readPartial (s : State) (a : Nat) : Partial :=
  let w := peekLe s (a + 8) 4
  { step := peekLe s (a + 4) 4, attempt := natBits w 13 12, layer := natBits w 9 0, point := natBits w 11 10, maxmag := BitVec.ofNat 32 (peekLe s a 4),
    values := peekLe s (a + 16) 8, clips := peekLe s (a + 24) 8, nans := peekLe s (a + 12) 4,
    bins := (List.range 32).map (fun b => peekLe s (a + 32 + 4 * b) 4), sat := natBits w 26 26 == 1, poison := natBits w 27 27 == 1 }

/-- Add one partial census to another of the same attempt and point, with saturation (R149, R164, R166). -/
def Partial.add (y q : Partial) : Partial :=
  let v := satAdd max64 y.values q.values
  let c := satAdd max64 y.clips q.clips
  let n := satAdd (2 ^ 32 - 1) y.nans q.nans
  let bs := List.zipWith (satAdd (2 ^ 32 - 1)) y.bins q.bins
  { y with maxmag := fMax y.maxmag q.maxmag, values := v.1, clips := c.1, nans := n.1, bins := bs.map (fun b => b.1), sat := y.sat || q.sat || v.2 || c.2 || n.2 || bs.any (fun b => b.2), poison := y.poison || q.poison }

/-- The lowest place of a finisher's census staging that is free. -/
def freePlace (l : List StagedCensus) : Nat := ((List.range 1024).find? (fun k => !(l.any (fun y => y.place == k)))).getD 0

/-- Add a partial census of a model to those panel p's finisher stages, in the census staging bytes of its finisher area (R97, R162, R166, R200). -/
def stagePartial (p model : Nat) (q : Partial) (s : State) : State :=
  let l := (panelOf s p).partials
  let put (place : Nat) (z : Partial) (s : State) : State :=
    storeBytes false 0 (stagedAt p place) (censusBytes z.step z.layer z.point z.attempt model false z.sat z.poison false false 0 z) false s
  match l.find? (fun y => y.step == q.step && y.attempt == q.attempt && y.layer == q.layer && y.point == q.point) with
  | none =>
    let place := freePlace l
    put place q (setPanel p { panelOf s p with partials := l ++ [⟨q.step, q.attempt, q.layer, q.point, place⟩] } s)
  | some y => put y.place ((readPartial s (stagedAt p y.place)).add q) s

/-- Partial censuses of one scale point by the panel whose finisher holds them: every finisher sees the elements homed on it (R146, R162). A dynamic pass counts like a conversion, at the home finisher of each row block: the spec names no panel that runs it (DESIGN CHOICE, log entry 104). -/
def enterHomes (t : Step) (k rb slot : Nat) (split : Bool) (o : LaneOut) (s : State) (parts : Sparse Partial) : Sparse Partial :=
  let fresh (_ : Nat) : Partial := Partial.start t.num t.attempt (k / 4) (k % 4)
  (List.range (ceilDiv o.lane.codes.length rb)).foldl (fun parts b =>
    let p := workingHome s t rb slot (rb * b)
    let here : LaneOut := { o with
      entered := o.entered.filter (fun v => v.elem / rb == b)
      lane := { o.lane with poison := o.lane.poison.filter (fun e => e / rb == b) } }
    sput fresh parts p (enterLane split here (sget fresh parts p))) parts

/-- Every finisher stages its partial census of the point that an operation's close hands on (R97, R166). -/
def stageAll (model : Nat) (parts : Sparse Partial) (s : State) : State :=
  parts.foldl (fun s e => stagePartial e.1 model e.2 s) s

/-- Take the partial censuses a point's panels staged and merge what is found there (R166). -/
def gatherPartials (t : Step) (k : Nat) (s : State) : State :=
  let mine (p : StagedCensus) : Bool := p.step == t.num && p.layer == k / 4 && p.point == k % 4
  (List.range 48).foldl (fun s p =>
    let s := ((panelOf s p).partials.filter mine).foldl (fun s q => mergeCensus t k (readPartial s (stagedAt p q.place)) s) s
    setPanel p { panelOf s p with partials := (panelOf s p).partials.filter (fun q => !(mine q)) } s) s

/-- Write the non-zero activation block list of one lane group beside its slot (R122, R123): a block is listed when a lane of the mask holds a nonzero value in its span. -/
def writeList (addr fmt n mask : Nat) (s : State) : State :=
  let x := slotOf s n
  let w := colInputs fmt
  let lanes := x.lanes.filter (fun l => (lanesOf mask).contains l.1)
  let cols := (List.range (ceilDiv x.dim w)).filter (fun c =>
    lanes.any (fun l => (List.range x.rows).any (fun q => (List.range w).any (fun k =>
      decide (c * w + k < x.dim) && decide (l.2.codes.getD (q * x.dim + c * w + k) 0 ≠ 0)))))
  let bytes := leBytes 4 cols.length ++ leBytes 1 w ++ leBytes 3 0 ++ (cols.map (leBytes 4)).flatten
  setSlot n { x with list := addr } (storeBytes false (deviceCtx s) addr bytes false s)

/-- The lists of an operation's outputs (R123, R453): written for an integer output that the plan entry lists, of each lane group and its lanes; an output that is not listed has none. -/
def writeLists (t : Step) (o : OpRun) (groups : List (Nat × Nat)) (s : State) : State :=
  (entOutputs o.bits).foldl (fun s loc => groups.foldl (fun s g =>
    let n := slotFor t g.1 loc
    match t.entry.listed.find? (fun z => z.slot == loc) with
    | none => setSlot n { slotOf s n with list := 0 } s
    | some z => if entPT o.bits then writeList (z.addr + (g.1 - t.entry.lgBase) * listStride (slotOf s n).dim z.fmt) z.fmt n g.2 s
        else setSlot n { slotOf s n with list := 0 } s) s) s

/-- One side of a cache record (R206, R207): element bytes and group scales, clips counted, and which bytes are poisoned. -/
structure CacheRec where
  bytes : List Byte
  clips : Nat
  poison : List Nat
  deriving DecidableEq, Repr

/-- The bytes of some elements of a record, b bytes each. -/
def elementBytes (b : Nat) (es : List Nat) : List Nat := (es.map (fun e => (List.range b).map (fun i => b * e + i))).flatten

/-- The bytes of 32-element group g of an int4 record with n elements: its elements and its scale (R206). -/
def groupBytes (n g : Nat) : List Nat := (List.range 16).map (fun i => 16 * g + i) ++ (List.range 4).map (fun i => n / 2 + 4 * g + i)

/-- Convert one position's elements to the cache format (R207). -/
def cacheRecord (r : Reader) (l side : Nat) (ys : List (F32 × Bool)) : CacheRec :=
  let fmt := if side = 0 then imgKfmt r else imgVfmt r
  let bad := (List.range ys.length).filter (fun i => (ys.getD i (0#32, false)).2)
  let vs := ys.map (fun y => y.1)
  match fmt with
  | 4 =>
    let d := max 1 (imgHdim r)
    let qs := (List.range vs.length).map (fun i => quantCode 4 (vs.getD i 0#32) (routOf (cacheScale r l (i / d) side)))
    ⟨qs.map (fun q => BitVec.ofNat 8 q.1), (qs.filter (fun q => q.2)).length, bad⟩
  | 5 =>
    let gs := chop 32 vs.length vs
    let scale (g : List F32) : F32 := (scaleOf (g.foldl (fun a y => fMax a (fAbs y)) 0#32) 7).getD one32
    let codes := (gs.map (fun g => let sc := scale g; g.map (fun y => ofSigned 4 (quantise 7 (fDiv y sc)).v))).flatten
    let lost := (List.range gs.length).filter (fun g => (gs.getD g []).any (fun y => !(fIsFinite y)) || bad.any (fun i => i / 32 == g))
    ⟨packNibbles codes ++ (gs.map (fun g => leBytes 4 (scale g).toNat)).flatten, 0, (lost.map (groupBytes vs.length)).flatten⟩
  | 0xA => ⟨(vs.map (fun y => leBytes 2 (bf16Of y))).flatten, 0, elementBytes 2 bad⟩
  | f => ⟨vs.map (fun y => BitVec.ofNat 8 (floatCode f y)), 0, bad⟩

/-- Write one side of a position into a sequence's hem under the step's epoch (R211). -/
def hemPut (n step attempt l pos side : Nat) (c : CacheRec) (s : State) : State :=
  let q := seqOf s n
  let same (h : HeldPos) : Bool := h.layer == l && h.pos == pos
  let old := (q.held.find? same).getD { HeldPos.none with layer := l, pos := pos }
  let new := if side = 0 then { old with key := c.bytes, hasKey := true, keyBad := c.poison, epoch := .step step attempt }
    else { old with val := c.bytes, hasVal := true, valBad := c.poison, epoch := .step step attempt }
  let held := insBy (fun h => h.layer * 2 ^ 24 + h.pos) new (q.held.filter (fun h => !(same h)))
  setSeq n { q with held := held } (bump 0x40050 c.clips s)

/-- The sequence's part of a step. -/
def partOf (t : Step) (n : Nat) : Option StepSeq := t.seqs.find? (fun q => q.seq == n)

/-- The query rows a part uses: the last of them, as many as it has new positions (R196). -/
def usedRows (qpos : Nat) (q : StepSeq) : List Nat :=
  (List.range qpos).filter (fun k => decide (qpos - q.inputs.length ≤ k))

/-- Write the cache records of one lane of a key-write or value-write operation (R207). -/
def writeCache (t : Step) (o : OpRun) (dim rows : Nat) (q : StepSeq) (ys : List (F32 × Bool)) (s : State) : State :=
  let r := imageOf s (modelOf s t.model)
  let side := entCache o.bits - 1
  (usedRows rows q).foldl (fun s k =>
    let pos := q.first + k - (rows - q.inputs.length)
    hemPut q.seq t.num t.attempt o.layer pos side (cacheRecord r o.layer side ((ys.drop (k * dim)).take dim)) s) s

/-- y of R66 for every element of a lane, with its poison. w is the operation's matrix, none for a dense operation. -/
def laneValues (s : State) (t : Step) (o : OpRun) (w : Option Nat) (rb slot lane total dim : Nat) (sa : F32) : List (F32 × Bool) :=
  let r := imageOf s (modelOf s t.model)
  (List.range total).map (fun idx =>
    let e := laneEntry s t rb slot idx lane
    let y := match w with
      | none => mergedFloat e
      | some w =>
        let row := idx % max 1 dim
        let p := fMul (fMul (fOfInt (mergedInt e)) (weightScale r o.layer w row)) sa
        match biasOf r o.layer w row with
        | some b => fAdd p b
        | none => p
    (y, mergedPoison e))

/-- Write one lane of an output: cache records, a scale point's codes with their census, the bf16 a dynamic pass will take, or a float format. -/
def writeLane (t : Step) (i : Nat) (o : OpRun) (loc slot lane dim rows : Nat) (ys : List (F32 × Bool)) (part : Sparse Partial) (s : State) : Sparse Partial × State :=
  let r := imageOf s (modelOf s t.model)
  let rb := layerRB r o.layer
  if entCache o.bits = 1 ∨ entCache o.bits = 2 then
    match (t.entry.groups.getD ((slot - t.entry.slotBase) / max 1 t.entry.slotsPer) []).getD lane (4096, 0) |>.1 |> partOf t with
    | some q => (part, countFinisher t rb slot (floatLane 0xB ys) (writeCache t o dim rows q ys s))
    | none => (part, s)
  else if entPT o.bits then
    let k := 4 * o.layer + entPoint o.bits
    let x := pointOf t k
    let fmt := if x.split then 6 else entPointFormat r o.layer o.bits
    let out := if x.dyn then dynamicLane fmt (ys.map (fun y => (fOfBf16 (bf16Of y.1), y.2))) else quantLane fmt x.scale x.rout ys
    (enterHomes t k rb slot x.split out s part, countFinisher t rb slot out (putLane slot fmt dim rows lane out.lane s))
  else
    let fmt := outFormat s t i o loc
    let out := floatLane fmt ys
    (part, countFinisher t rb slot out (putLane slot fmt dim rows lane out.lane s))

/-- The lanes an operation writes: dispatch groups of an expert operation with their expert, the step's lane groups otherwise. -/
def writtenLanes (t : Step) (i : Nat) (o : OpRun) : List (Nat × Nat × Nat) :=
  let gs := if entExpert o.bits then
      (t.dispatch.filter (fun d => d.gateOp == gateOf t i)).map (fun d => (d.lgroup, 2 ^ d.homes.length - 1, d.expert))
    else (stepGroups t).map (fun g => (g.1, g.2, 0))
  (gs.map (fun g => (lanesOf g.2.1).map (fun l => (g.1, l, g.2.2)))).flatten

/-- The finishers convert every element-lane of a record-sending operation (R66, R153). -/
def finishOp (t : Step) (i : Nat) (o : OpRun) (combined : Bool) (s : State) : State :=
  let r := imageOf s (modelOf s t.model)
  let dim := opOutDim r o
  let rows := qposOf r
  let rb := layerRB r o.layer
  let lanes := if combined then (stepGroups t).map (fun g => (lanesOf g.2).map (fun l => (g.1, l, 0))) |>.flatten else writtenLanes t i o
  let res := lanes.foldl (fun (acc : Sparse Partial × State) g =>
    (entOutputs o.bits).foldl (fun (acc : Sparse Partial × State) loc =>
      let slot := slotFor t g.1 loc
      let inSlot := slotOf acc.2 (slotFor t g.1 ((entInputs o.bits).headD 0))
      let w := if o.kind = 0 && !combined then some (entMatrix o.bits + g.2.2) else none
      let dim := if combined then dim else expertOut r o g.2.2
      let ys := laneValues acc.2 t o w rb slot g.2.1 (dim * rows) dim (laneScale inSlot g.2.1)
      writeLane t i o loc slot g.2.1 dim rows ys acc.1 acc.2) acc) ([], s)
  let s := if entPT o.bits then gatherPartials t (4 * o.layer + entPoint o.bits) (stageAll t.model res.1 res.2) else res.2
  let groups := if combined || !(entExpert o.bits) then stepGroups t
    else (t.dispatch.filter (fun d => d.gateOp == gateOf t i)).map (fun d => (d.lgroup, 2 ^ d.homes.length - 1))
  writeLists t o groups s

/-- The gate weight of a home key for an expert, and whether its routing is poisoned (R134, R135, R140). -/
def gateWeight (t : Step) (gate home e : Nat) : F32 × Bool :=
  match t.routed.find? (fun x => x.1 == gate && x.2.home == home) with
  | none => (0#32, false)
  | some x => (((x.2.experts.find? (fun y => y.1 == e)).map (fun y => y.2)).getD 0#32, x.2.poison)

/-- The number of the sub-piece with SUB 0 of a row block and dispatch group; where the row block has an empty tile list and so no piece, the number the next piece takes (R140; log entry 88). -/
def pieceFor (ps : List Piece) (first lg elem0 : Nat) : Nat :=
  match ps.find? (fun x => x.lgroup == lg && x.elem0 == elem0 && x.sub == 0) with
  | some x => x.piece
  | none => first + (ps.filter (fun x => decide (x.lgroup < lg) || (x.lgroup == lg && decide (x.elem0 < elem0)))).length

/-- The number that R140 gives a combined record: that of the sub-piece with SUB 0, or of the first command, of its rows and dispatch group (log entry 88). -/
def combineNumbers (s : State) (t : Step) (i : Nat) (o : OpRun) : Nat → Nat → Nat :=
  let m := modelOf s t.model
  let r := imageOf s m
  if o.kind = 0 then
    let ps := opPieces s t r m.base i o
    fun lg e => pieceFor ps o.piece0 lg (e / layerRB r o.layer * layerRB r o.layer)
  else
    let cs := opCommands t r i o
    fun lg e => ((cs.find? (fun c => c.lgroup == lg && (entOpc o.bits != 0 || c.elem0 == e / 256 * 256))).map (fun c => c.piece)).getD o.piece0

/-- The finishers of an expert's last operation send its gate-weighted results on to the home slots (R140): each element of the expert's own output rows. -/
def combineOp (t : Step) (i : Nat) (o : OpRun) (s : State) : State :=
  let r := imageOf s (modelOf s t.model)
  let rb := layerRB r o.layer
  let gate := gateOf t i
  let number := combineNumbers s t i o
  (t.dispatch.filter (fun d => d.gateOp == gate)).foldl (fun s d =>
    let dim := max 1 (expertOut r o d.expert)
    let total := dim * qposOf r
    (List.range d.homes.length).foldl (fun s l =>
      let home := d.homes.getD l 0
      let g := gateWeight t gate home d.expert
      (entOutputs o.bits).foldl (fun s loc =>
        let slot := slotFor t d.lgroup loc
        let sa := laneScale (slotOf s (slotFor t d.lgroup ((entInputs o.bits).headD 0))) l
        let ys := laneValues s t o (if o.kind = 0 then some (entMatrix o.bits + d.expert) else none) rb slot l total dim sa
        (List.range total).foldl (fun s e =>
          let y := ys.getD e (0#32, false)
          let at_ := e / dim * opOutDim r o + e % dim
          let rec_ : Record :=
            { value := (fMul y.1 g.1).toNat, elem := at_, slot := slotFor t (home / 16) loc, lane := home % 16, ptag := 2, op := 2,
              piece := number d.lgroup (e % dim), step := t.num % 2 ^ 14, attempt := t.attempt, poison := y.2 || g.2 }
          let p := workingHome s t rb slot e
          setPanel p { panelOf s p with finIn := (panelOf s p).finIn ++ [rec_] } s) s) s) s) s

/-- Free an operation's element-lanes and words: those of the slots it wrote (R153). -/
def freeWords (t : Step) (i : Nat) (slots : List Nat) (keep : Nat → Nat) (s : State) : State :=
  (List.range 8).foldl (fun s n =>
    let x := nodeOf s n
    let es := x.entries.filter (fun e => !(e.step == t.num && slots.contains e.slot))
    let rs := x.reserves.filterMap (fun q =>
      if q.step = t.num ∧ q.op = i then (if keep n = 0 then none else some { q with words := keep n }) else some q)
    setNode n ⟨es, rs⟩ s) s

/-- The dynamic pass over an attention or vector output that was written as bf16 (R160, R200). -/
def dynamicPass (t : Step) (o : OpRun) (s : State) : State :=
  let k := 4 * o.layer + entPoint o.bits
  let x := pointOf t k
  let r := imageOf s (modelOf s t.model)
  let fmt := if x.split then 6 else entPointFormat r o.layer o.bits
  if !x.dyn then gatherPartials t k s
  else
    let rb := layerRB r o.layer
    let locs := (entOutputs o.bits).take 1
    let res := (stepGroups t).foldl (fun (acc : Sparse Partial × State) g => locs.foldl (fun (acc : Sparse Partial × State) loc =>
      let n := slotFor t g.1 loc
      (lanesOf g.2).foldl (fun (acc : Sparse Partial × State) l =>
        let z := slotOf acc.2 n
        let ln := sget (fun _ => SlotLane.none) z.lanes l
        let ys := (List.range ln.codes.length).map (fun j => (fOfBf16 (ln.codes.getD j 0), ln.poison.contains j))
        let out := dynamicLane fmt ys
        let lanes := sput (fun _ => SlotLane.none) z.lanes l out.lane
        (enterHomes t k rb n x.split out acc.2 acc.1, countFinisher t rb n out (setSlot n { z with lanes := lanes } acc.2))) acc) acc) ([], s)
    let s := (stepGroups t).foldl (fun s g => locs.foldl (fun s loc => let n := slotFor t g.1 loc; setSlot n { slotOf s n with fmt := fmt } s) s) res.2
    gatherPartials t k (stageAll t.model res.1 s)

/-- The census entries of a step's current layers, by scale-point key. -/
def currentPoints (t : Step) : List (Nat × PointState) :=
  t.points.filter (fun e => decide (t.lo ≤ e.1 / 4) && decide (e.1 / 4 ≤ t.hi))

/-- Set the FAIL bit and the FAILS field of a census entry (R168 step 1). -/
def markFail (i fails : Nat) (s : State) : State :=
  let a := censusAt s i
  let w := peekLe s (a + 8) 4
  putBytes (a + 8) (leBytes 4 (w % 2 ^ 30 - natBits w 25 25 * 2 ^ 25 + 2 ^ 25 + fails * 2 ^ 30)) s

/-- The census notices of an unresolved check (R171, R350 type 9): each names up to 64 failing scale points. -/
def censusNotices (t : Step) (failing : List (Nat × PointState)) (s : State) : State :=
  let m := modelOf s t.model
  (chop 64 failing.length failing).foldl (fun s part =>
    let recs := part.map (fun e =>
      let r := censusRow s e.2.entry
      leBytes 2 (e.1 / 4) ++ leBytes 1 (e.1 % 4) ++ leBytes 5 0 ++ leBytes 8 r.clips ++ leBytes 8 r.values)
    notify 9 56 (ownerRoute s t.model) (if m.owner < 64 then m.owner else 0xFFFF) t.model
      (leBytes 4 t.num ++ leBytes 2 recs.length ++ recs.flatten) s) s

/-- Does the step's range end with its model's last layer? -/
def lastStage (s : State) (t : Step) : Bool := decide (t.hi + 1 = imgLayers (imageOf s (modelOf s t.model)))

/-- A step whose check is passed goes on to sampling, or waits for its next stage (R21, R33, R168). -/
def passStep (t : Step) (s : State) : State :=
  if lastStage s t then setStep { t with phase := .sampling } s else keepCarry t s

/-- A scale that a failing attempt calls for, when it may be installed (R64, R169, R170): with it goes its reciprocal, else the point keeps both. -/
def withScale (m : F32) (q : Nat) (x : PointState) : PointState :=
  match (scaleOf m q).filter installable with
  | some sc => { x with scale := sc, rout := routOf sc }
  | none => x

/-- What step 5 of R168 does to one scale point whose FAILS counts the failure already, with whether it is put into split mode. A carried point whose quotient for split mode may not be installed keeps its scale and goes into split mode with it (log entry 89). -/
def nextPoint (s : State) (t : Step) (failed : Bool) (k : Nat) (x : PointState) : PointState × Bool :=
  if !failed then (x, false)
  else
    let r := imageOf s (modelOf s t.model)
    let m := (censusRow s x.entry).maxmag
    let recomputed := withScale m (qOf (formatOfPoint r k)) x
    let split : PointState := { (if x.dyn then x else withScale m 32639 x) with split := true }
    if x.dyn then
      if x.fails = 1 && onlyStitchers r k then (split, true) else (x, false)
    else if x.fails = 1 then (recomputed, false)
    else if onlyStitchers r k then (split, !x.split)
    else (recomputed, false)

/-- A page of a sequence's page lists holds an address (R437). -/
def pageHolds (s : State) (q : Seq) (a : Nat) : Bool :=
  let r := imageOf s (modelOf s q.par.model)
  let n := imgLayers r * maxPages r
  (List.range n).any (fun i => peekAs s (tenantCtx s q.tenant) (q.listAddr + 4 * i) 4 == a / 65536)

/-- Does a sequence hold a position that a word of the hem pool spoiled whole (R228)? Where its segments lie in the pool is not stated, so an address of the pool names those that do (log entry 100). -/
def hemSpoiled (q : Seq) : Bool := q.held.any (fun h => !h.key.isEmpty && decide (h.keyBad = List.range h.key.length) && decide (h.valBad = List.range h.val.length))

/-- Is an address inside a sequence's pages, page list, input ring or hem segments (R437)? -/
def seqHolds (s : State) (n a : Nat) : Bool :=
  let q := seqOf s n
  let r := imageOf s (modelOf s q.par.model)
  let list := 4 * imgLayers r * maxPages r
  (decide (q.listAddr ≤ a) && decide (a < q.listAddr + list)) || (decide (q.ringAddr ≤ a) && decide (a < q.ringAddr + 65536))
    || pageHolds s q a || (inHemPool s a 1 && hemSpoiled q)

/-- The line addresses of the log entries raised since an attempt was issued (R437). -/
def loggedSince (s : State) (mark : Nat) : List Nat :=
  let n := (logTail s + 4096 - mark) % 4096
  let base := rdF s 0x700008 47 17 * 2 ^ 17
  ((List.range n).filterMap (fun i =>
    let a := base + 32 * ((mark + i) % 4096)
    if (getByte s (a + 11)).toNat % 2 = 1 then some (peekLe s (a + 24) 6) else none))

/-- Does a step read a carry slot of an earlier stage that is poisoned (R437)? -/
def carryPoisoned (s : State) (t : Step) : Bool :=
  (List.range t.ops.length).any (fun i => match t.ops[i]? with
    | none => false
    | some o => (entInputs o.bits).any (fun loc =>
        (producerOf t.ops i loc).isNone && (stepGroups t).any (fun g => (slotOf s (slotFor t g.1 loc)).lanes.any (fun l => !l.2.poison.isEmpty))))

/-- The poisoned-result path (R437, R438). -/
def poisonedPath (t : Step) (s : State) : State :=
  let addrs := loggedSince s t.logMark
  let models := addrs.filterMap (modelAt s)
  let rest := addrs.filter (fun a => (modelAt s a).isNone)
  let named := (t.seqs.filter (fun q => !q.cleared && rest.any (seqHolds s q.seq))).map (fun q => q.seq)
  let s := addrs.foldl (fun s a => match modelAt s a with
    | some m => quarantine m (a / 64 * 64) s
    | none => s) s
  let s := named.foldl (fun s n => endSeq n 7 0x0404 0 s) s
  if models.contains t.model then s
  else match stepOf s t.num with
    | none => s
    | some u =>
      if !named.isEmpty then
        let u := { u with seqs := u.seqs.map (fun q => if named.contains q.seq then { q with cleared := true } else q) }
        let s := (u.seqs.filter (fun q => named.contains q.seq)).foldl (fun s q => dropEpoch q.seq u.num (rejectDrafts q s)) s
        if u.seqs.all (fun q => q.cleared) then endStep u s else rerunStep u (setStep u s)
      else if decide (0 < u.stage) && carryPoisoned s u then backToReady u s
      else rerunStep u s

/-- Is element range k of a lane's row poisoned? -/
def rowPoisoned (ln : SlotLane) (dim k : Nat) : Bool := ln.poison.any (fun e => decide (k * dim ≤ e) && decide (e < (k + 1) * dim))

/-- Row k of the logits of a part's lane: the parts of the final projection after one another, with their poison (R189, R237). -/
def logitParts (s : State) (t : Step) (q : StepSeq) (k : Nat) : List Nat × Bool :=
  let r := imageOf s (modelOf s t.model)
  let parts := (finalParts r t.ops).map (fun o =>
    let dim := opOutDim r o
    let ln := sget (fun _ => SlotLane.none) (slotOf s (slotFor t (t.entry.lgBase + q.group) ((entOutputs o.bits).headD 0))).lanes q.lane
    ((ln.codes.drop (k * dim)).take dim, rowPoisoned ln dim k))
  ((parts.map (fun x => x.1)).flatten, parts.any (fun x => x.2))

/-- Is a logit row the step's sequences draw from poisoned? -/
def logitsPoisoned (s : State) (t : Step) : Bool :=
  t.seqs.any (fun q => q.draws && !q.cleared && (usedRows (qposOf (imageOf s (modelOf s t.model))) q).any (fun k => (logitParts s t q k).2))

/-- SAMPLER_ERROR records a poisoned logit row a sequence would have drawn from (R251, R437). -/
def recordPoisonedRows (t : Step) (s : State) : State :=
  if !(lastStage s t) then s
  else (t.seqs.filter (fun q => q.draws && !q.cleared && (usedRows (qposOf (imageOf s (modelOf s t.model))) q).any (fun k => (logitParts s t q k).2))).foldl
    (fun s q => samplerError 1 q.seq 0 s) s

/-- A failing point: FAIL and FAILS in its entry and in the step's scale table (R168 step 1). -/
def countFail (t : Step) (e : Nat × PointState) : Step :=
  { t with points := sinsert t.points e.1 { e.2 with fails := min 2 (e.2.fails + 1) } }

/-- The step-end check (R168, R171, R172, R176). -/
def stepEnd (t : Step) (s : State) : State :=
  let k := t.clipShift
  let failing := (currentPoints t).filter (fun e => let r := censusRow s e.2.entry; censusFails r.clips r.values k)
  let t := failing.foldl countFail t
  let s := setStep t (failing.foldl (fun s e => markFail e.2.entry (min 2 (e.2.fails + 1)) s) (bump 0x30018 failing.length s))
  let pts := currentPoints t
  if pts.any (fun e => (censusRow s e.2.entry).poison) || (lastStage s t && logitsPoisoned s t) then poisonedPath t (recordPoisonedRows t s)
  else if failing.isEmpty then passStep t s
  else if t.attempt + 1 > 2 then
    passStep t (censusNotices t failing (bump 0x30030 1 s))
  else
    let next := pts.map (fun e => (e.1, nextPoint s t (failing.any (fun f => f.1 == e.1)) e.1 e.2))
    let s := bump 0x30028 (next.filter (fun e => e.2.2)).length s
    let u := { t with points := next.foldl (fun ps e => sinsert ps e.1 e.2.1) t.points }
    newAttempt u (bump 0x30020 1 (fitAttempt u s))

/-- Close operation i, and run the step-end check when it was the last one open. -/
def closeOp (t : Step) (i : Nat) (o : OpRun) (s : State) : State :=
  let u := { t with ops := t.ops.set i { o with closed := true } }
  let s := setStep u s
  if u.ops.all (fun x => x.closed) then stepEnd u s else s

/-- The operation a close would close now: the first one released, expanded, idle, with no record on the way (R153). -/
def closable (s : State) (t : Step) : Option Nat :=
  (List.range t.ops.length).find? (fun i => (t.ops[i]?.map (fun o =>
    o.released && !o.closed && o.expanded && o.kind != 2 && !(opBusy s t i) && !(recordsHeld s t o))).getD false)

/-- An operation closes (R57 to R69, R123, R140, R153, R162 to R171, R189, R200, R207): one that combines sends its products first and closes the second time; the finishers produce the others' results, and the words of its slots are free. -/
def finishClose (t : Step) (i : Nat) (o : OpRun) (s : State) : State :=
  if !(sendsRecords o) then closeOp t i o (writeLists t o (stepGroups t) (if entPT o.bits then dynamicPass t o s else s))
  else
    let slots (gs : List Nat) : List Nat := (gs.map (fun g => (entOutputs o.bits).map (slotFor t g))).flatten
    let own := (writtenLanes t i o).map (fun g => g.1) |>.eraseDups
    let home := (stepGroups t).map (fun g => g.1)
    if entCombine o.bits && !o.combining then
      let u := freeWords t i (slots own) (fun n => combineWords s t o n) (combineOp t i o s)
      setStep { t with ops := t.ops.set i { o with combining := true } } u
    else
      let u := finishOp t i o (entCombine o.bits) s
      closeOp t i o (freeWords t i (slots (if entCombine o.bits then home else own)) (fun _ => 0) u)

/-- The slots and lanes whose element-lanes operation i's next hand-over delivers (R152, R153). -/
def handOverLanes (t : Step) (i : Nat) (o : OpRun) : List (Nat × Nat) :=
  let lanes := if o.combining then ((stepGroups t).map (fun g => (lanesOf g.2).map (fun l => (g.1, l)))).flatten
    else (writtenLanes t i o).map (fun g => (g.1, g.2.1))
  (lanes.map (fun g => (entOutputs o.bits).map (fun loc => (slotFor t g.1 loc, g.2)))).flatten

/-- The merge-store words of operation i, by slot, element and lane, that prove uncorrectable at its hand-over (R154, R157); no record is concerned, so SEAM_FAULT.PIECE names the operation's first piece (log entry 81). -/
def handOverLost (t : Step) (i : Nat) (o : OpRun) (bad : List (Nat × Nat × Nat)) (s : State) : State :=
  let r := imageOf s (modelOf s t.model)
  let lost := bad.filter (fun b => (handOverLanes t i o).contains (b.1, b.2.2) && decide (b.2.1 < opOutDim r o * qposOf r))
  lost.foldl (fun s b =>
    storeLost t { step := t.num % 2 ^ 14, attempt := t.attempt, slot := b.1, elem := b.2.1, lane := b.2.2, ptag := noTag, op := 0, piece := o.piece0, poison := false, value := 0 } s) s

/-- May the plan engine close an operation of a step: it runs, and its model is not descriptor-faulted (R130)? -/
def closes (s : State) (t : Step) : Bool := decide (t.phase = .running) && !(modelOf s t.model).faulted

/-- The close of operation i of a step (R98, R113, R153, R154, R157). -/
def closeOperation (t : Step) (i : Nat) (censusBad : Option Nat) (storeBad : List (Nat × Nat × Nat)) (s : State) : State :=
  match t.ops[i]? with
  | none => s
  | some o =>
    match censusBad.filter (fun p => decide (p < 48) && !(isolated s p)) with
    | some p => rerunWhere (fun u => u.num == t.num && u.attempt == t.attempt) (isolatePanel p 4 (logError (1 + p) 3 none (t.num, t.attempt) s))
    | none => finishClose t i o (if sendsRecords o then handOverLost t i o storeBad s else s)

/-- SEAM_OPERATION_CLOSE (R17, R57 to R69, R123, R140, R153 to R155, R157, R160, R162 to R176, R178, R189, R200, R207, R437): the plan engine closes an operation, and with the last one a step or stage completes; storeBad names merge-store words that prove uncorrectable at the hand-over; an uncorrectable word of a working finisher's census state is a fatal fault of its panel. -/
def execSeamOperationClose (step : Nat) (censusBad : Option Nat) (storeBad : List (Nat × Nat × Nat)) (s : State) : Host.Outcome State Fault Refusal :=
  let s := atCompletion s
  match stepOf s step with
  | none => .next s
  | some t =>
    if !(closes s t) then .next s
    else match closable s t with
      | none => .next s
      | some i => .next (closeOperation t i censusBad storeBad s)

end Sys2Proof.Machine
end

