-- ==== Sys2Proof/Machine/Engine.lean ====
section
/-! DEFINITION. The matrix engine: dense commands (R182, R183, R186 to R188), embedding gathers (R190), fused attention (R194 to R200, R205, R226), and the faults of its storage (R203). -/

namespace Sys2Proof.Machine

/-- Record an error of a panel's engines (R204). -/
def mxError (p kind lane piece : Nat) (s : State) : State :=
  wr (panelReg p 0x50058) (BitVec.ofNat 64 (2 ^ 63 + kind * 2 ^ 60 + lane * 2 ^ 44 + piece % 2 ^ 24)) s

/-- The first ready command of a panel's matrix queue (R191). -/
def headCommand (s : State) (p : Nat) : Option MatCmd := (panelOf s p).mq.find? (fun c => c.ready)

/-- Take a command out of the queue and count it. -/
def retire (p : Nat) (c : MatCmd) (s : State) : State :=
  bump (panelReg p 0x50008) 1 (setPanel p { panelOf s p with mq := (panelOf s p).mq.erase c } s)

/-- What an engine's storage does to a run (R203): with an uncorrectable word the run is discarded and runs again, and a second one is fatal; otherwise the run's effect happens. -/
def underSram (p : Nat) (c : MatCmd) (err : SramError) (run : State → State) (s : State) : State :=
  match err with
  | .clean => run s
  | .corrected => run (mxError p 1 0 c.piece (bump (panelReg p 0x50028) 1 s))
  | .uncorrectable =>
    if c.rerun then isolatePanel p 5 (logError (1 + p) 3 none (c.step, c.attempt) (mxError p 3 0 c.piece s))
    else
      let s := logError (1 + p) 2 none (c.step, c.attempt) (mxError p 2 0 c.piece (bump (panelReg p 0x50030) 1 s))
      setPanel p { panelOf s p with mq := (panelOf s p).mq.map (fun x => if x = c then { x with rerun := true } else x) } s

/-- Bytes of a dense weight of a format. -/
def weightSize (fmt : Nat) : Nat := if fmt = 0xA then 2 else 1

/-- Where a dense command's weights stand: row blocks in order, spans within a row block, rows within a span (R186, R188; log entry 21). -/
def denseBase (c : MatCmd) : Nat :=
  let es := weightSize (natBits c.bits 155 152)
  natBits c.bits 351 304 + (c.elem0 * natBits c.bits 287 256 + c.rows * c.in0) * es

/-- The weights of row r of a dense command as codes, and whether any byte of them is poisoned. -/
def denseRow (s : State) (c : MatCmd) (r : Nat) : List Nat × Bool :=
  let m := modelOf s c.model
  let es := weightSize (natBits c.bits 155 152)
  let a := m.base + denseBase c + r * c.inlen * es
  let ctx := tenantCtx s m.owner
  ((List.range c.inlen).map (fun k => ofLe ((List.range es).map (fun b => byteAs s ctx (a + es * k + b)))), anyPoison s a (c.inlen * es))

/-- The weight scale of an output row of a dense command, and its poison (R186). -/
def denseScale (s : State) (c : MatCmd) (row : Nat) : F32 × Bool :=
  let m := modelOf s c.model
  let off := natBits c.bits 399 352
  if off = 0 then (one32, false)
  else
    let a := m.base + off + 4 * row
    (BitVec.ofNat 32 (ofLe ((List.range 4).map (fun b => byteAs s (tenantCtx s m.owner) (a + b)))), anyPoison s a 4)

/-- Is a format an integer one (R183)? -/
def integerFmt (f : Nat) : Bool := f == 4 || f == 5

/-- The raw sum of one row and one lane's query row (R182, R183, R187). -/
def rawSum (wfmt afmt : Nat) (ws as : List Nat) : F32 :=
  if integerFmt wfmt && integerFmt afmt then intDot (ws.map (codeInt wfmt false)) (as.map (codeInt afmt false))
  else blockDot (ws.map (fun w => (codeF32 wfmt w, one32))) (as.map (fun a => (codeF32 afmt a, one32)))

/-- The records of a dense command (R187). -/
def denseRecords (s : State) (c : MatCmd) : List Record :=
  let wfmt := natBits c.bits 155 152
  let afmt := natBits c.bits 159 156
  let x := slotOf s (c.inSlots.headD 0)
  let out := natBits c.bits 191 160
  ((List.range c.rows).map (fun r =>
    let w := denseRow s c r
    let sw := denseScale s c (c.elem0 + r)
    ((lanesOf c.lanemask).map (fun l => (List.range (max 1 x.rows)).map (fun q =>
      let ln := sget (fun _ => SlotLane.none) x.lanes l
      let z := codesAs afmt x ln
      let idx (k : Nat) : Nat := q * x.dim + c.in0 + k
      let as := (List.range c.inlen).map (fun k => if c.in0 + k < x.dim then z.1.getD (idx k) 0 else 0)
      let bad := (List.range c.inlen).any (fun k => decide (c.in0 + k < x.dim) && z.2.contains (idx k))
      let v := fMul (fMul (rawSum wfmt afmt w.1 as) sw.1) (scaleAs afmt ln)
      { value := v.toNat, elem := q * out + c.elem0 + r, slot := c.outSlots.headD 0, lane := l, ptag := 2, op := 0, piece := c.piece,
        step := c.step % 2 ^ 14, attempt := c.attempt, poison := w.2 || sw.2 || bad : Record }))).flatten)).flatten

/-- What a dense command reads of its model: its weights and its rows' scales (R186, R188). -/
def denseRanges (s : State) (c : MatCmd) : List (Nat × Nat) :=
  let m := modelOf s c.model
  let off := natBits c.bits 399 352
  (m.base + denseBase c, c.rows * c.inlen * weightSize (natBits c.bits 155 152)) :: (if off = 0 then [] else [(m.base + off + 4 * c.elem0, 4 * c.rows)])

/-- A panel's weight fetches meet the lines that caches hold, and allocate none (R264, R406). -/
def touchWeights (c : MatCmd) (rs : List (Nat × Nat)) (s : State) : State :=
  rs.foldl (fun s r => touchRange false (tenantCtx s (modelOf s c.model).owner) r.1 r.2 s) s

/-- A dense command's partial sums go to the finisher's input, and it leaves the queue (R186, R187). -/
def runDense (p : Nat) (c : MatCmd) (s : State) : State :=
  let recs := denseRecords s c
  retire p c (setPanel p { panelOf s p with finIn := (panelOf s p).finIn ++ recs } s)

/-- DENSE_COMMAND (R181 to R183, R186, R187, R191, R203): the engine runs the first ready command of its queue, when it is a dense one. -/
def execDenseCommand (p : Nat) (err : SramError) (s : State) : Host.Outcome State Fault Refusal :=
  match headCommand s p with
  | none => .next s
  | some c =>
    if p ≥ 48 ∨ isolated s p ∨ c.opc ≠ 0 then .next s
    else .next (takeWork (.denseCommand p err) (denseRanges s c) (fun s => underSram p c err (runDense p c) (touchWeights c (denseRanges s c) s)) s)

/-- Put the codes of some elements into a slot's lane. -/
def putCodes (n fmt dim rows lane : Nat) (scale : F32) (at_ : Nat) (codes : List Nat) (bad : List Bool) (s : State) : State :=
  let x := slotOf s n
  let fits := x.fmt == fmt && x.dim == dim && x.rows == rows
  let old := if fits then sget (fun _ => SlotLane.none) x.lanes lane else SlotLane.none
  let base := old.codes ++ List.replicate (dim * rows - old.codes.length) 0
  let new := base.take at_ ++ codes ++ base.drop (at_ + codes.length)
  let kept := old.poison.filter (fun e => decide (e < at_) || decide (at_ + codes.length ≤ e))
  let poison := (List.range bad.length).foldl (fun l i => if bad.getD i false then insNat l (at_ + i) else l) kept
  let lanes := if fits then x.lanes else []
  setSlot n ⟨fmt, dim, rows, x.dyn, sput (fun _ => SlotLane.none) lanes lane ⟨new, poison, scale⟩, x.list⟩ s

/-- An engine writes consecutive elements of one lane of an output (R67, R68, R69, R160, R190, R192, R200): a scale point's with their census, in dynamic mode as the bf16 its pass takes later. -/
def engineWrite (p : Nat) (t : Step) (o : OpRun) (point : Bool) (fmt n dim rows lane at_ : Nat) (ys : List (F32 × Bool)) (s : State) : State :=
  let bad := ys.map (fun y => y.2)
  if point then
    let x := pointOf t (4 * o.layer + entPoint o.bits)
    if x.dyn then putCodes n 0xA dim rows lane one32 at_ (ys.map (fun y => bf16Of y.1)) bad s
    else
      let f := if x.split then 6 else fmt
      let out := quantLane f x.scale x.rout ys
      let s := putCodes n f dim rows lane x.scale at_ out.lane.codes bad s
      let q := enterLane x.split out (Partial.start t.num t.attempt o.layer (entPoint o.bits))
      let s := bump (panelReg p 0x30000) out.entered.length s
      let s := bump (panelReg p 0x30008) (out.entered.filter (fun v => v.clip)).length s
      let s := bump (panelReg p 0x30010) (out.entered.filter (fun v => fIsNaN v.y)).length s
      stagePartial p t.model q (bump (panelReg p 0x30018) out.lane.poison.length s)
  else putCodes n fmt dim rows lane one32 at_ (ys.map (fun y => floatCode fmt y.1)) bad (bump (panelReg p 0x30018) (bad.filter (fun b => b)).length s)

/-- One row of the embedding table: its elements, each multiplied by the row's scale, and poison (R190); a token beyond the vocabulary gives zeros. -/
def embedRow (s : State) (model token : Nat) : List (F32 × Bool) :=
  let m := modelOf s model
  let r := imageOf s m
  let at_ := imgEmbed r
  let width := r at_ 4
  let fmt := r (at_ + 4) 1
  if token ≥ imgVocab r then List.replicate width (0#32, false)
  else
    let ctx := tenantCtx s m.owner
    let sa := m.base + at_ + 16 + 4 * token
    let scale : F32 := BitVec.ofNat 32 (ofLe ((List.range 4).map (fun b => byteAs s ctx (sa + b))))
    let row := m.base + at_ + 16 + 4 * imgVocab r + token * (ceilDiv width 64 * 64)
    let sp := anyPoison s sa 4
    (List.range width).map (fun k => (fMul (codeF32 fmt (byteAs s ctx (row + k)).toNat) scale, sp || poisonedAt s (row + k)))

/-- An embedding gather writes the rows its lanes' tokens name, and leaves the queue (R190). -/
def runEmbedding (p : Nat) (c : MatCmd) (t : Step) (o : OpRun) (s : State) : State :=
  let r := imageOf s (modelOf s c.model)
  let dim := r (imgEmbed r) 4
  let rows := qposOf r
  let fmt := if entPT o.bits then pointFormat r o.layer else 0xA
  let s := (lanesOf c.lanemask).foldl (fun s l =>
    match partAt t c.lgroup l with
    | none => s
    | some q =>
      let beyond := q.inputs.any (fun x => decide (imgVocab r ≤ x.1))
      let ys := ((List.range rows).map (fun k =>
        if rows - q.inputs.length ≤ k then embedRow s c.model (q.inputs.getD (k - (rows - q.inputs.length)) (0, .intake)).1
        else List.replicate dim (0#32, false))).flatten.map (fun y => (y.1, y.2 || beyond))
      engineWrite p t o (entPT o.bits) fmt (c.outSlots.headD 0) dim rows l 0 ys s) s
  retire p c s

/-- What an embedding gather reads: the scales and the rows of its lanes' tokens (R190). -/
def embedRanges (s : State) (c : MatCmd) (t : Step) : List (Nat × Nat) :=
  let m := modelOf s c.model
  let r := imageOf s m
  let at_ := m.base + imgEmbed r + 16
  let stride := ceilDiv (r (imgEmbed r) 4) 64 * 64
  (lanesOf c.lanemask).flatMap (fun l => match partAt t c.lgroup l with
    | none => []
    | some q => (q.inputs.filter (fun x => decide (x.1 < imgVocab r))).flatMap (fun x => [(at_ + 4 * x.1, 4), (at_ + 4 * imgVocab r + x.1 * stride, stride)]))

/-- EMBEDDING_GATHER (R190, R191, R203): each lane takes the rows its input tokens name, and is poisoned whole when one of them lies beyond the vocabulary; query rows without a token are +0. -/
def execEmbeddingGather (p : Nat) (err : SramError) (s : State) : Host.Outcome State Fault Refusal :=
  match headCommand s p with
  | none => .next s
  | some c =>
    if p ≥ 48 ∨ isolated s p ∨ c.opc ≠ 2 then .next s
    else match stepOf s c.step with
      | none => .next (retire p c s)
      | some t =>
        match t.ops[c.op]? with
        | none => .next (retire p c s)
        | some o => .next (takeWork (.embeddingGather p err) (embedRanges s c t)
            (fun s => underSram p c err (runEmbedding p c t o) (touchWeights c (embedRanges s c t) s)) s)

/-- A lane's entry of the page-list table (R209). -/
structure PlEntry where
  pladdr : Nat
  seq : Nat
  valid : Bool
  f : Nat
  lc : Nat
  maxPages : Nat
  p : Nat
  deriving DecidableEq, Repr

/-- Read the page-list table entry of a lane. -/
def plEntry (s : State) (pltab lane : Nat) : PlEntry :=
  let a := pltab + 32 * lane
  let w := peekLe s (a + 6) 2
  ⟨peekLe s a 6, w % 4096, natBits w 15 15 == 1, peekLe s (a + 8) 4, peekLe s (a + 12) 4, peekLe s (a + 24) 4, peekLe s (a + 28) 2⟩

/-- One element with its scale, ready for the block rule. -/
abbrev Scaled := F32 × F32

/-- The elements of one head of a cache record (R184, R206): codes with their scale; hs is the page-head scale of an int8 side. -/
def headElems (fmt d kvh h : Nat) (hs : F32) (rec_ : List Byte) : List Scaled :=
  match fmt with
  | 4 => (List.range d).map (fun i => (codeF32 4 (rec_.getD (h * d + i) 0).toNat, hs))
  | 5 => (List.range d).map (fun i =>
      let k := h * d + i
      let b := (rec_.getD (k / 2) 0).toNat
      let g := kvh * d / 2 + 4 * (h * d / 32 + i / 32)
      (codeF32 5 (if k % 2 = 0 then b % 16 else b / 16), BitVec.ofNat 32 (leAt rec_ g 4)))
  | 0xA => (List.range d).map (fun i => (codeF32 0xA (leAt rec_ (2 * (h * d + i)) 2), one32))
  | f => (List.range d).map (fun i => (codeF32 f (rec_.getD (h * d + i) 0).toNat, one32))

/-- Record a codec fault of a device unwinder (R294, R297, R436): kind, SOURCE field and the slot's address. -/
def deviceCodecFault (kind source slot : Nat) (s : State) : State :=
  let s := bump 0x400038 1 s
  tally 13 50 kind source 0 0 (wr 0x400050 (BitVec.ofNat 64 (2 ^ 63 + kind * 2 ^ 59 + source * 2 ^ 52 + slot / 65536 % 2 ^ 32)) s)

/-- What the unwinders of the device made of a segment (R294, R295): corrected words of its decode table, the expansion, its fault. -/
def countUnwind (u : Unwound) (fixed c slot : Nat) (s : State) : State :=
  let s := if u.raw then s else bump 0x400040 fixed (bump 0x400030 1 s)
  match u.fault with
  | some k => deviceCodecFault k c slot s
  | none => s

/-- Is the page directory in force (R283)? -/
def pagesWound (s : State) : Bool := rdB s 0x400008 63

/-- Where page n's directory entry lies (R283). -/
def pageEntryAt (s : State) (n : Nat) : Nat := rdF s 0x400008 47 12 * 4096 + 8 * n

/-- Page n's directory entry. -/
def pageEntry (s : State) (n : Nat) : Nat := ofLe ((List.range 8).map (fun i => byteAs s (deviceCtx s) (pageEntryAt s n + i)))

/-- The bytes of a page that an unwinder reads. -/
def pageSpan (s : State) (n : Nat) : Nat := storedSpan (pageEntry s n) 65536

/-- A page as its readers see it (R205, R283, R291 to R295); while the page directory is off every page is raw. -/
def readPage (s : State) (ctx n : Nat) (table : Bool) (e : MoveErrors) : Unwound :=
  let bytes := (List.range 65536).map (fun i => byteAs s ctx (n * 65536 + i))
  if !(pagesWound s) then ⟨bytes, none, true, false⟩
  else unwindSegment (pageEntry s n) bytes 65536
    (anyPoison s (pageEntryAt s n) 8 || !(lostLines e (pageEntryAt s n) 8).isEmpty)
    (anyPoison s (n * 65536) (pageSpan s n) || !(lostLines e (n * 65536) (pageSpan s n)).isEmpty) table

/-- Record the lines that a read of page n loses in the read-ahead buffer: its directory entry's, and those of a span of the page. -/
def notePage (e : MoveErrors) (n : Nat) (span : Nat × Nat) (s : State) : State :=
  noteLost (lostLines e (n * 65536 + span.1) span.2) (if pagesWound s then noteLost (lostLines e (pageEntryAt s n) 8) s else s)

/-- Where kv head h's bytes lie in a key or value record: its elements, and its group scales in an int4 record (R206). -/
def headSpans (fmt d kvh h : Nat) : List (Nat × Nat) :=
  let e := d * fmtBits fmt / 8
  (h * e, e) :: (if fmt = 5 then [(kvh * e + h * (d / 8), d / 8)] else [])

/-- A key or value record of one head at a position, with poison. -/
structure KvRead where
  elems : List Scaled
  poison : Bool
  deriving DecidableEq, Repr

/-- Where the page list names the page of a position (R208). -/
def entryAt (e : PlEntry) (layer j : Nat) : Nat := e.pladdr + 4 * (layer * e.maxPages + j / max 1 e.p)

/-- The page number of a position, as the page list names it (R208). -/
def pageOf (s : State) (e : PlEntry) (layer j : Nat) : Nat := peekAs s (tenantCtx s (seqOf s e.seq).tenant) (entryAt e layer j) 4

/-- Read the key (side 0) or value (side 1) of kv head h at position j of a lane (R196, R206, R209). -/
def readKv (s : State) (errs : MoveErrors) (r : Reader) (e : PlEntry) (ctx layer h side j : Nat) : KvRead :=
  let fmt := if side = 0 then imgKfmt r else imgVfmt r
  let d := imgHdim r
  let kvh := imgKvHeads r
  if j < e.f then
    let n := pageOf s e layer j
    let pg := readPage s ctx n (tableBad errs.codec n) errs
    let bad (a n : Nat) : Bool := anyPoison s a n || !(lostLines errs a n).isEmpty
    let i := j % max 1 e.p
    let sz := if side = 0 then keyBytes r else valBytes r
    let off := scaleBytes r + (if side = 0 then i * keyBytes r else e.p * keyBytes r + i * valBytes r)
    let so := 4 * h + (if side = 1 ∧ imgKfmt r = 4 then 4 * kvh else 0)
    let hs : F32 := BitVec.ofNat 32 (leAt pg.bytes so 4)
    ⟨headElems fmt d kvh h hs (slice pg.bytes off sz),
     pg.poison || (pg.raw && ((headSpans fmt d kvh h).any (fun z => bad (n * 65536 + off + z.1) z.2) || (fmt == 4 && bad (n * 65536 + so) 4)))⟩
  else
    match (seqOf s e.seq).held.find? (fun x => x.layer == layer && x.pos == j) with
    | none => ⟨List.replicate d (0#32, one32), true⟩
    | some x =>
      let bad := if side = 0 then x.keyBad else x.valBad
      ⟨headElems fmt d kvh h (cacheScale r layer h side) (if side = 0 then x.key else x.val),
       bad.any (fun b => (headSpans fmt d kvh h).any (fun z => decide (z.1 ≤ b) && decide (b < z.1 + z.2)))⟩

/-- Is key position j visible to a query at position pos (R197)? -/
def visible (mask w l pos j : Nat) : Bool :=
  decide (j < l) && (match mask with
    | 0 => decide (j ≤ pos)
    | 1 => decide (j ≤ pos) && decide (pos < j + w)
    | _ => true)

/-- The running state of R198. -/
structure Soft where
  m : F32
  l : F32
  o : List F32
  deriving DecidableEq, Repr

/-- One key block of R198: scores, none where a position is not visible, and the values of the visible ones. -/
def softBlock (d : Nat) (z : Soft) (js : List (Option (F32 × List Scaled))) : Soft :=
  let n := js.foldl (fun a j => match j with
    | some x => fMax a x.1
    | none => a) z.m
  if n = negInf then z
  else
    let a := fExp (fSub z.m n)
    let p := js.map (fun j => match j with
      | some x => fOfBf16 (bf16Of (fExp (fSub x.1 n)))
      | none => 0#32)
    let vs (i : Nat) : List Scaled := js.map (fun j => match j with
      | some x => x.2.getD i (0#32, one32)
      | none => (0#32, one32))
    ⟨n, fFma z.l a (exactSum p),
     (List.range d).map (fun i => fFma (z.o.getD i 0#32) a (blockDot (p.map (fun x => (x, one32))) (vs i)))⟩

/-- One output row of R198 and R199: the elements, and how many keys were visible. -/
def attendRow (d : Nat) (c : F32) (q : List Scaled) (l : Nat) (vis : Nat → Bool) (key val : Nat → List Scaled) : List F32 × Nat :=
  let blocks := (List.range (ceilDiv l 64)).map (fun b => (List.range (min 64 (l - 64 * b))).map (fun i => 64 * b + i))
  let z := blocks.foldl (fun (z : Soft) js =>
    softBlock d z (js.map (fun j => if vis j then some (fMul (blockDot q (key j)) c, val j) else none))) ⟨negInf, 0#32, List.replicate d 0#32⟩
  (z.o.map (fun o => if fIsZero z.l then 0#32 else fDiv o z.l), ((List.range l).filter vis).length)

/-- The query elements of a head and query row, with poison (R184, R194). With QSCALE = 0 int8 queries take the query slot's own lane scale (log entry 110). -/
def queryElems (s : State) (c : MatCmd) (x : Slot) (lane h q d : Nat) : List Scaled × Bool :=
  let qfmt := natBits c.bits 155 152
  let ln := sget (fun _ => SlotLane.none) x.lanes lane
  let z := codesAs qfmt x ln
  let base := q * x.dim + h * d
  let m := modelOf s c.model
  let off := natBits c.bits 399 352
  let a := m.base + off + 4 * (128 * lane + h)
  let sc : F32 := if qfmt = 4 ∧ off ≠ 0 then BitVec.ofNat 32 (ofLe ((List.range 4).map (fun b => byteAs s (tenantCtx s m.owner) (a + b)))) else scaleAs qfmt ln
  ((List.range d).map (fun i => (codeF32 qfmt (z.1.getD (base + i) 0), sc)),
   (List.range d).any (fun i => z.2.contains (base + i)) || (qfmt == 4 && off != 0 && anyPoison s a 4))

/-- What a part makes of one lane: per query head and query row, the elements and poison; counts of visible keys and of rows without any; whether a page-list entry it needs names no page of the device, and whether one is lost. -/
structure PartLane where
  rows : List (Nat × Nat × List F32 × Bool)
  keys : Nat
  allMask : Nat
  badPage : Bool
  lostEntry : Bool
  deriving DecidableEq, Repr

/-- Is a position visible to a query row that a lane uses (R196, R197)? -/
def anyVisible (c : MatCmd) (q : StepSeq) (l j : Nat) : Bool :=
  let qpos := natBits c.bits 197 192
  (usedRows qpos q).any (fun k => visible (natBits c.bits 189 187) (natBits c.bits 287 256) l (l + k - qpos) j)

/-- The positions a lane's part fetches: the visible ones alone (R197). -/
def needed (c : MatCmd) (q : StepSeq) (l : Nat) : List Nat := (List.range l).filter (anyVisible c q l)

/-- Attention of one kv head for one lane (R194 to R200, R203, R205, R228). -/
def partLane (s : State) (errs : MoveErrors) (t : Step) (c : MatCmd) (lane : Nat) : PartLane :=
  let m := modelOf s c.model
  let r := imageOf s m
  let d := imgHdim r
  let heads := natBits c.bits 175 168
  let kvh := max 1 (natBits c.bits 183 176)
  let qpos := natBits c.bits 197 192
  let mask := natBits c.bits 189 187
  let w := natBits c.bits 287 256
  let sc : F32 := BitVec.ofNat 32 (natBits c.bits 255 224)
  let x := slotOf s (c.inSlots.headD 0)
  match partAt t c.lgroup lane with
  | none => ⟨[], 0, 0, false, false⟩
  | some q =>
    let e := plEntry s c.pltab lane
    let l := e.lc + q.inputs.length
    let ctx := tenantCtx s (seqOf s q.seq).tenant
    let used := usedRows qpos q
    let posOf (k : Nat) : Nat := l + k - qpos
    let need := needed c q l
    let paged := need.filter (fun j => decide (j < e.f))
    let lost := paged.any (fun j => anyPoison s (entryAt e c.layer j) 4 || !(lostLines errs (entryAt e c.layer j) 4).isEmpty)
    let badPage := lost || paged.any (fun j => decide (pageCount s ≤ pageOf s e c.layer j))
    let hs := (List.range heads).filter (fun h => h * kvh / heads == c.part)
    let zero := List.replicate d 0#32
    if badPage then
      ⟨(hs.map (fun h => (List.range qpos).map (fun k => (h, k, zero, true)))).flatten, 0, 0, true, lost⟩
    else
      let ks := need.map (fun j => (j, readKv s errs r e ctx c.layer c.part 0 j))
      let vs := need.map (fun j => (j, readKv s errs r e ctx c.layer c.part 1 j))
      let get (xs : List (Nat × KvRead)) (j : Nat) : KvRead := ((xs.find? (fun y => y.1 == j)).map (fun y => y.2)).getD ⟨[], false⟩
      let rows := (hs.map (fun h => (List.range qpos).map (fun k =>
        if used.contains k then
          let vis := visible mask w l (posOf k)
          let qe := queryElems s c x lane h k d
          let a := attendRow d sc qe.1 l vis (fun j => (get ks j).elems) (fun j => (get vs j).elems)
          let bad := qe.2 || need.any (fun j => vis j && ((get ks j).poison || (get vs j).poison))
          ((h, k, a.1, bad), a.2)
        else ((h, k, zero, false), 1)))).flatten
      ⟨rows.map (fun y => y.1), (used.map (fun k => ((List.range l).filter (visible mask w l (posOf k))).length)).sum,
       (rows.filter (fun y => y.2 == 0)).length, false, false⟩

/-- The pages that hold a position a lane's part fetches (R197). -/
def pagesFetched (s : State) (t : Step) (c : MatCmd) (lane : Nat) : List Nat :=
  match partAt t c.lgroup lane with
  | none => []
  | some q =>
    let e := plEntry s c.pltab lane
    let need := (needed c q (e.lc + q.inputs.length)).filter (fun j => decide (j < e.f))
    ((need.map (pageOf s e c.layer)).eraseDups).filter (fun n => decide (n < pageCount s))

/-- Where the page list names the pages that a lane's part fetches (R208). -/
def entriesFetched (s : State) (t : Step) (c : MatCmd) (lane : Nat) : List Nat :=
  match partAt t c.lgroup lane with
  | none => []
  | some q =>
    let e := plEntry s c.pltab lane
    (((needed c q (e.lc + q.inputs.length)).filter (fun j => decide (j < e.f))).map (entryAt e c.layer)).eraseDups

/-- What a lane's part fetches: its page-list entries, the pages they name and the directory entries of those (R198, R201, R283). -/
def fetchRanges (s : State) (t : Step) (c : MatCmd) (lane : Nat) : List (Nat × Nat) :=
  (entriesFetched s t c lane).map (fun a => (a, 4))
    ++ (pagesFetched s t c lane).flatMap (fun n => (n * 65536, 65536) :: (if pagesWound s then [(pageEntryAt s n, 8)] else []))

/-- A codec fault of a page that is expanded is logged under the page's address (R294, R436); a bad decode table is an engine transient and names nothing (R434; log entry 105). -/
def logPageFault (fault : Option Nat) (page : Nat) (step : Nat × Nat) (s : State) : State :=
  match fault with
  | none => s
  | some k => if k = 6 then logError 50 2 none step s else logError 50 5 (some (page * 65536)) step s

/-- What fetching a page for a lane of panel p's attention leaves behind (R294, R295, R436): the unwinder's counts and fault, with an error-log entry, and lines lost in the read-ahead buffer. -/
def fetchPage (errs : MoveErrors) (p ctx : Nat) (c : MatCmd) (n : Nat) (s : State) : State :=
  let u := readPage s ctx n (tableBad errs.codec n) errs
  let span := if u.raw then 65536 else pageSpan s n
  let s := bump 0x300018 span (touchRange false ctx (n * 65536) span s)
  countUnwind u (tableFixed errs.codec n) p (n * 65536) (notePage errs n (0, span) (logPageFault u.fault n (c.step, c.attempt) s))

/-- One part of an attention command runs for every lane, and leaves the queue (R194 to R200). -/
def runAttention (p : Nat) (errs : MoveErrors) (c : MatCmd) (t : Step) (o : OpRun) (s : State) : State :=
  let r := imageOf s (modelOf s c.model)
  let d := imgHdim r
  let heads := natBits c.bits 175 168
  let qpos := natBits c.bits 197 192
  let ofmt := natBits c.bits 167 164
  let s := (lanesOf c.lanemask).foldl (fun s l =>
    let z := partLane s errs t c l
    let ctx := tenantCtx s (((partAt t c.lgroup l).map (fun q => (seqOf s q.seq).tenant)).getD 0)
    let s := (entriesFetched s t c l).foldl (fun s a => noteLost (lostLines errs a 4) (bump 0x300018 4 (touchRange false ctx a 4 s))) s
    let s := (pagesFetched s t c l).foldl (fun s n => fetchPage errs p ctx c n s) s
    let s := z.rows.foldl (fun s row =>
      engineWrite p t o (integerFmt ofmt) ofmt (c.outSlots.headD 0) (heads * d) qpos l (row.2.1 * (heads * d) + row.1 * d) (row.2.2.1.map (fun y => (y, row.2.2.2))) s) s
    let s := bump (panelReg p 0x50020) z.allMask (bump (panelReg p 0x50018) z.keys s)
    if z.badPage then
      let s := if z.lostEntry then hemError 2 (((partAt t c.lgroup l).map (fun q => q.seq)).getD 0) 0xFFFFFFFF s else s
      logError (1 + p) 5 (some ((plEntry s c.pltab l).pladdr / 64 * 64)) (c.step, c.attempt) (mxError p 4 l c.piece (bump (panelReg p 0x50038) 1 s))
    else s) s
  retire p c s

/-- ATTENTION_COMMAND (R181, R182, R184, R194 to R200, R203, R205, R226, R294): one part of an attention command runs for every lane. -/
def execAttentionCommand (p : Nat) (err : SramError) (e : MoveErrors) (s : State) : Host.Outcome State Fault Refusal :=
  match headCommand s p with
  | none => .next s
  | some c =>
    if p ≥ 48 ∨ rdB s 0x300000 63 ∨ isolated s p ∨ c.opc ≠ 1 then .next s
    else match stepOf s c.step with
      | none => .next (retire p c s)
      | some t =>
        match t.ops[c.op]? with
        | none => .next (retire p c s)
        | some o => .next (takeWork (.attentionCommand p err e) ((lanesOf c.lanemask).flatMap (fetchRanges s t c)) (underSram p c err (runAttention p e c t o)) s)

end Sys2Proof.Machine
end

