-- ==== Sys2Proof/Machine/Shuttle.lean ====
section
/-! DEFINITION. The shuttle (R298 to R313): the firmware channels, their descriptors, triggers, operations and completion records, and the all-channel stop; with winding and unwinding (R282 to R296, R302, R304). -/

namespace Sys2Proof.Machine

/-- Replace a channel's state. -/
def setChan (c : Nat) (x : Channel) (s : State) : State := { s with channels := sput (fun _ => Channel.none) s.channels c x }

/-- TAIL with the bits above RSIZE ignored. -/
def chTail (s : State) (c : Nat) : Nat := rdF s (chCtrl c + 8) 7 0 % chEntries s c
def dOp (b : Nat) : Nat := natBits b 3 0
def dTrig (b : Nat) : Nat := natBits b 5 4
def dAny (b : Nat) : Bool := natBits b 6 6 == 1
def dRtype (b : Nat) : Nat := natBits b 7 7
def dKey (b : Nat) : Nat := natBits b 14 8
def dTrigCh (b : Nat) : Nat := natBits b 21 16
def dSeq (b : Nat) : Nat := natBits b 63 32
def dSrc (b : Nat) : Nat := natBits b 111 64
def dDst (b : Nat) : Nat := natBits b 175 128
def dLen (b : Nat) : Nat := natBits b 231 192
def dDir (b : Nat) : Nat := natBits b 303 256
def dFill (b : Nat) : Nat := natBits b 383 320
def dCount (b : Nat) : Nat := natBits b 343 320
def dOff (b : Nat) : Nat := natBits b 359 344
def dSpan (b : Nat) : Nat := natBits b 376 360
def dTime (b : Nat) : Nat := natBits b 447 384

/-- The check of a head descriptor (R301); 0 when it passes. -/
def descCheck (c b : Nat) : Nat :=
  let op := dOp b
  let unaligned := (op == 5 || op == 6) && (decide (dSrc b % 64 ≠ 0) || decide (dDst b % 64 ≠ 0) || decide (dDir b % 8 ≠ 0))
  if op > 6 ∨ dKey b > 64 then 0x0201
  else if op ≠ 3 ∧ dLen b = 0 then 0x0201
  else if op = 4 ∧ (dSrc b % 4 ≠ 0 ∨ dDst b % 4 ≠ 0 ∨ dLen b % 4 ≠ 0) then 0x0201
  else if unaligned then 0x0201
  else if op = 3 ∧ (dCount b = 0 ∨ dOff b + dSpan b > 65536 ∨ dSpan b = 0) then 0x0201
  else if dTrig b = 3 ∧ (!(firmwareCh (dTrigCh b)) ∨ dTrigCh b = c) then 0x0201
  else if op = 0 ∧ dSrc b < dDst b + dLen b ∧ dDst b < dSrc b + dLen b then 0x0202
  else 0

/-- The 32 bytes of a completion record (R308). -/
def chRecord (x : Channel) (status tape : Nat) : List Byte :=
  leBytes 4 x.next ++ leBytes 2 status
    ++ leBytes 1 (dOp x.bits + (if x.dropped then 16 else 0) + (if x.poisonSeen then 32 else 0) + (if status = 0x0102 then 64 else 0))
    ++ leBytes 1 (min 255 x.faults) ++ leBytes 8 x.done ++ leBytes 8 x.diff ++ leBytes 8 tape

/-- Where the completion record of a channel's running descriptor goes: the slot of its own number (R307). -/
def recordAt (s : State) (c : Nat) : Nat := rdF s (chCtrl c + 0x10) 47 5 * 32 + 32 * (chanOf s c).slot.getD (chanOf s c).head

/-- Complete a channel's running descriptor: record, LAST_CSEQ, HEAD, counters (R307, R308). One that ran on while its ring was enabled anew leaves HEAD at the new ring's first slot. -/
def chComplete (c status : Nat) (s : State) : State :=
  let x := chanOf s c
  let ends := bit1 (decide (dSrc x.bits < capacity s)) + bit1 (decide (dDst x.bits < capacity s))
  let s := charge (dKey x.bits) (ends * ceilDiv x.done 64) 0 s
  let a := recordAt s c
  let s := if inMemory s a 32 then storeBytes true (deviceCtx s) a (chRecord x status s.tape) false s else s
  let fails := x.fails.filter (fun f => f.1 ≠ x.next)
  let y : Channel := { Channel.none with head := if x.slot.isSome then x.head else (x.head + 1) % chEntries s c, next := (x.next + 1) % 2 ^ 32, last := x.next, fails := if status = 0 then fails else (x.next, status) :: fails, paused := x.paused }
  setChan c y (bump 0x300018 x.done (bump 0x300010 1 s))

/-- Has a channel completed its descriptor with a number (R305)? -/
def reached (x : Channel) (seq : Nat) : Bool := serialLater 32 x.next seq

/-- What a waiting descriptor's trigger says now (R305, R306): it waits, it fires, or it fails. -/
inductive Trig where
  | waits
  | fires
  | fails
  deriving DecidableEq, Repr

/-- The state of a channel's trigger. -/
def trigNow (s : State) (x : Channel) : Trig :=
  match dTrig x.bits with
  | 0 => .fires
  | 1 => if serialAtLeast 64 s.tape (dTime x.bits) then .fires else .waits
  | 2 =>
    if dTime x.bits = 0 then (if serialLater 64 s.edge x.since then .fires else .waits)
    else if serialLater 64 x.since x.trigAt ∨ serialAtLeast 64 s.edge x.trigAt then .fires else .waits
  | _ =>
    let w := chanOf s (dTrigCh x.bits)
    if reached w (dSeq x.bits) then
      if dAny x.bits || !(w.fails.any (fun f => f.1 == dSeq x.bits)) then .fires else .fails
    else if !(chEnabled s (dTrigCh x.bits)) && !((w.phase = .moving || w.phase = .moved) && decide (w.next = dSeq x.bits)) then .fails
    else .waits

/-- Let a waiting channel's trigger act. -/
def trigAct (c : Nat) (s : State) : State :=
  let x := chanOf s c
  if x.phase ≠ .waiting then s
  else match trigNow s x with
    | .waits => s
    | .fires => setChan c { x with phase := .moving } s
    | .fails => chComplete c 0x0203 s

/-- Where the descriptor at a channel's HEAD stands. -/
def headAt (s : State) (ch : Nat) : Nat := rdF s (chCtrl ch) 47 6 * 64 + 64 * (chanOf s ch).head

/-- The 64 bytes of the descriptor at a channel's HEAD, as a number (R300). -/
def headDesc (s : State) (ch : Nat) : Nat :=
  peekAs s (deviceCtx s) (headAt s ch) 64

/-- A channel takes the descriptor at HEAD (R264, R300, R301, R305): one that fails its checks completes at once, else its trigger is looked at. -/
def takeHead (ch : Nat) (s : State) : State :=
  let x := chanOf s ch
  let b := headDesc s ch
  let s := touchRange true (deviceCtx s) (headAt s ch) 64 s
  let y : Channel := { Channel.none with phase := .waiting, head := x.head, next := x.next, last := x.last, fails := x.fails, bits := b, since := s.tape, trigAt := dTime b * period s % 2 ^ 64 }
  let st := descCheck ch b
  let s := setChan ch y s
  if st ≠ 0 then chComplete ch st s else trigAct ch s

/-- SHUTTLE_DESC_HEAD (R16, R300, R301, R305, R307): an idle enabled channel takes the descriptor at HEAD, checks it, and starts it when its trigger has fired already. -/
def execShuttleDescHead (ch : Nat) (s : State) : Host.Outcome State Fault Refusal :=
  let x := chanOf s ch
  if !(firmwareCh ch) || !(chEnabled s ch) || decide (x.phase ≠ .idle) || decide (x.head = chTail s ch) || stopped s || x.paused then .next s
  else .next (takeWork (.shuttleDescHead ch) [(headAt s ch, 64)] (takeHead ch) s)

/-- SHUTTLE_TRIGGER_FIRE (R305, R306): a waiting descriptor's trigger is looked at. -/
def execShuttleTriggerFire (ch : Nat) (s : State) : Host.Outcome State Fault Refusal :=
  if !(firmwareCh ch) || stopped s || (chanOf s ch).paused then .next s else .next (trigAct ch s)

/-- Is a write to a region dropped by another rule (R302)? -/
def droppedIn (who : Requester) (s : State) (a n : Nat) (g : Region) : Bool :=
  match g with
  | .panelBuf p off => !(outsideWritable p who off)
  | .scratch => inHemPool s a n
  | _ => false

/-- Is a write dropped by another rule (R302)? -/
def writeDropped (who : Requester) (s : State) (a n : Nat) : Bool := droppedIn who s a n (regionOf s a)

/-- Progress of a move: bytes done, flags, the address of a failed access. -/
structure Move where
  done : Nat
  dropped : Bool
  poisonSeen : Bool
  diff : Option Nat
  faults : Nat
  bad : Option Nat
  s : State

/-- A move that has not begun. -/
def Move.start (s : State) : Move := ⟨0, false, false, none, 0, none, s⟩

/-- Write one chunk, unless an access failed before. -/
def moveWrite (who : Requester) (ctx a : Nat) (bytes : List Byte) (poison : Bool) (m : Move) : Move :=
  if m.bad.isSome || bytes.isEmpty then m
  else
    let d := writeDropped who m.s a bytes.length
    let w := writeMem who ctx a bytes poison m.s
    if w.1 then { m with bad := some a, s := w.2 } else { m with done := m.done + bytes.length, dropped := m.dropped || d, s := w.2 }

/-- How many bytes of a range lie in lines before the first that is in no region (R259, R311). -/
def mapped (s : State) (a n : Nat) : Nat :=
  if inMap s a n then n else (((chunksFrom a n).takeWhile (fun k => inMap s (a + k.1) k.2)).map (fun k => k.2)).sum

/-- The shuttle reads n bytes through its read-ahead buffer: poisoned where a line of them is, or was lost in the buffer (R302). The lines before one that gets a bus error are read, and their bytes are the answer (R311). -/
def readAhead (who : Requester) (ctx a n : Nat) (e : MoveErrors) (s : State) : Resp × State :=
  let k := mapped s a n
  let r := if k = 0 then (⟨[], false, false⟩, s) else readMem who ctx a k s
  let lost := lostLines e a k
  let t := noteLost lost r.2
  (⟨r.1.bytes, r.1.poison || (decide (0 < k) && linePoison s a k) || !lost.isEmpty, decide (k < n)⟩, if k < n then (outOfRange (n - k) t).2 else t)

/-- A move stops where an access got a bus error (R311): r is what was read from a on. -/
def stopAt (a : Nat) (r : Resp) (m : Move) : Move := if r.busError && m.bad.isNone then { m with bad := some (a + r.bytes.length) } else m

/-- Copy (R302). -/
def moveCopy (who : Requester) (ctx src dst len : Nat) (e : MoveErrors) (s : State) : Move :=
  (chunksFrom dst len).foldl (fun m k =>
    if m.bad.isSome then m
    else
      let r := readAhead who ctx (src + k.1) k.2 e m.s
      stopAt (src + k.1) r.1 (moveWrite who ctx (dst + k.1) r.1.bytes r.1.poison { m with s := r.2 })) (Move.start s)

/-- Fill (R302): byte i takes byte (DST + i) mod 8 of FILL. -/
def moveFill (who : Requester) (ctx dst len pat : Nat) (s : State) : Move :=
  (chunksFrom dst len).foldl (fun m k =>
    moveWrite who ctx (dst + k.1) ((List.range k.2).map (fun i => BitVec.ofNat 8 (natBits pat (8 * ((dst + k.1 + i) % 8) + 7) (8 * ((dst + k.1 + i) % 8))))) false m) (Move.start s)

/-- Compare (R302): the first differing byte, where each byte of a poisoned line differs. -/
def moveCompare (who : Requester) (ctx src dst len : Nat) (e : MoveErrors) (s : State) : Move :=
  (chunksFrom src len).foldl (fun m k =>
    if m.bad.isSome then m
    else
      let a := readAhead who ctx (src + k.1) k.2 e m.s
      if a.1.busError then stopAt (src + k.1) a.1 { m with s := a.2 }
      else
        let b := readAhead who ctx (dst + k.1) k.2 e a.2
        let poison := a.1.poison || b.1.poison
        let lost (x : Nat) : Bool := linePoison b.2 x 1 || !(lostLines e x 1).isEmpty
        let at_ := (List.range b.1.bytes.length).find? (fun i => a.1.bytes.getD i 0 != b.1.bytes.getD i 0 || lost (src + k.1 + i) || lost (dst + k.1 + i))
        stopAt (dst + k.1) b.1 { m with poisonSeen := m.poisonSeen || poison, diff := m.diff.or (at_.map (fun i => k.1 + i)), s := b.2 }) (Move.start s)

/-- Page-list gather (R303): a poisoned entry poisons its span, a raw page's lines carry their own poison, and an unwinder expands a wound page (R293). -/
def moveGather (c who_ctx src dst count off span : Nat) (errs : MoveErrors) (s : State) : Move :=
  let who := Requester.shuttle c
  (List.range count).foldl (fun m i =>
    if m.bad.isSome then m
    else
      let e := readAhead who who_ctx (src + 4 * i) 4 errs m.s
      if e.1.busError then stopAt (src + 4 * i) e.1 { m with s := e.2 }
      else
        let page := ofLe e.1.bytes
        let put (bytes : List Byte) (poison : Nat → Nat → Bool) (m : Move) : Move :=
          (chunksFrom (dst + span * i) span).foldl (fun m k => moveWrite who who_ctx (dst + span * i + k.1) (slice bytes k.1 k.2) (poison k.1 k.2) m) m
        let m := { m with s := e.2 }
        if page = noPage then put (List.replicate span 0) (fun _ _ => e.1.poison) m
        else if page ≥ pageCount m.s then put (List.replicate span 0) (fun _ _ => true) m
        else
          let r := readPage m.s who_ctx page (tableBad errs.codec i) errs
          let a := page * 65536 + off
          let here (k n : Nat) : Bool := e.1.poison || r.poison || (r.raw && (linePoison m.s (a + k) n || !(lostLines errs (a + k) n).isEmpty))
          let s' := countUnwind r (tableFixed errs.codec i) c (page * 65536) (notePage errs page (if r.raw then (off, span) else (0, pageSpan m.s page)) m.s)
          put (slice r.bytes off span) here { m with faults := m.faults + (if r.fault.isSome then 1 else 0), s := s' }) (Move.start s)

/-- Apply one element of a reduction (R266, R268): a poisoned element poisons the word it is added to. -/
def reduceElem (c ctx rtype a v : Nat) (poison : Bool) (s : State) : State :=
  let f (m : Nat) : AtomicNew :=
    ⟨if rtype = 0 then (m + v) % 2 ^ 32 else (fAdd (BitVec.ofNat 32 m) (BitVec.ofNat 32 v)).toNat, false, false⟩
  let s := (atomicAt (.shuttle c) ctx a 4 f s).2
  if poison then poisonAt a s else s

/-- Reduce-into (R268, R302). -/
def moveReduce (c ctx rtype src dst len : Nat) (e : MoveErrors) (s : State) : Move :=
  (List.range (len / 4)).foldl (fun m i =>
    if m.bad.isSome then m
    else
      let r := readAhead (.shuttle c) ctx (src + 4 * i) 4 e m.s
      if r.1.busError then stopAt (src + 4 * i) r.1 { m with s := r.2 }
      else if !(inStack r.2 (dst + 4 * i) 4 || inScratch r.2 (dst + 4 * i) 4) then { m with bad := some (dst + 4 * i), s := (outOfRange 4 r.2).2 }
      else if inHemPool r.2 (dst + 4 * i) 4 then { m with done := m.done + 4, dropped := true, s := hemError 5 0 0xFFFFFFFF r.2 }
      else { m with done := m.done + 4, s := reduceElem c ctx rtype (dst + 4 * i) (ofLe r.1.bytes) r.1.poison r.2 }) (Move.start s)

/-- The segments of an object of n raw bytes: offset and length (R282). -/
def segments (n : Nat) : List (Nat × Nat) := (List.range (ceilDiv n 65536)).map (fun i => (65536 * i, min 65536 (n - 65536 * i)))

/-- Count what a winder did (spec/12 registers). -/
def countWind (raw : Bool) (inBytes outBytes : Nat) (s : State) : State :=
  bump 0x400028 outBytes (bump 0x400020 inBytes (bump 0x400018 (if raw then 1 else 0) (bump 0x400010 1 s)))

/-- The lines a wound form is written in: whole ones, the last padded, none beyond the slot of n bytes (R282; log entry 93). -/
def woundLines (w : List Byte) (n : Nat) : List Byte := padTo w (min n (64 * ceilDiv w.length 64))

/-- Wind (R282 to R288, R295, R302). A word of the winder's buffer that is uncorrectable has its segment read and wound again, to the same form. Of a segment that a bus error cuts off no form can be made, so nothing of it is written (R311; log entry 95). -/
def moveWind (c ctx src dst dir len : Nat) (errs : MoveErrors) (s : State) : Move :=
  let who := Requester.shuttle c
  (segments len).foldl (fun m g =>
    if m.bad.isSome then m
    else
      let r := readAhead who ctx (src + g.1) g.2 errs m.s
      if r.1.busError then stopAt (src + g.1) r.1 { m with s := r.2 }
      else
        let form := if r.1.poison then none else windSegment r.1.bytes
        let bad (k : Nat × Nat) : Bool := form.isNone && (linePoison m.s (src + g.1 + k.1) k.2 || !(lostLines errs (src + g.1 + k.1) k.2).isEmpty)
        let stored := (form.getD r.1.bytes).length
        let bytes := (form.map (fun w => woundLines w g.2)).getD r.1.bytes
        let done := m.done
        let m := (chunksFrom (dst + g.1) bytes.length).foldl (fun m k =>
          moveWrite who ctx (dst + g.1 + k.1) (slice bytes k.1 k.2) (bad k) m) { m with s := r.2 }
        if m.bad.isSome then m
        else
          let e := dirEntry form.isNone stored g.2
          let m := moveWrite who ctx (dir + 8 * (g.1 / 65536)) (leBytes 8 e) false m
          { m with done := done + stored, s := bump 0x400040 (tableFixed errs.codec (g.1 / 65536)) (countWind form.isNone g.2 stored m.s) }) (Move.start s)

/-- Unwind (R282, R290 to R295, R302, R304): of each slot the lines of its stored form alone are read; a faulted segment's output fills its place, poisoned. Of a segment that a bus error cuts off, the lines of a raw one that were read are written (R311; log entry 95). -/
def moveUnwind (c ctx src dst dir len : Nat) (errs : MoveErrors) (s : State) : Move :=
  let who := Requester.shuttle c
  (segments len).foldl (fun m g =>
    if m.bad.isSome then m
    else
      let k := g.1 / 65536
      let d := readAhead who ctx (dir + 8 * k) 8 errs m.s
      if d.1.busError then stopAt (dir + 8 * k) d.1 { m with s := d.2 }
      else
        let e := ofLe d.1.bytes
        let n := storedSpan e g.2
        let r := if n = 0 then (⟨[], false, false⟩, d.2) else readAhead who ctx (src + g.1) n errs d.2
        let u := unwindSegment e r.1.bytes g.2 d.1.poison r.1.poison (tableBad errs.codec k)
        let bad (k : Nat × Nat) : Bool := u.poison || (u.raw && (linePoison m.s (src + g.1 + k.1) k.2 || !(lostLines errs (src + g.1 + k.1) k.2).isEmpty))
        if r.1.busError then
          let n := if u.raw then r.1.bytes.length else 0
          stopAt (src + g.1) r.1 ((chunksFrom (dst + g.1) n).foldl (fun m k => moveWrite who ctx (dst + g.1 + k.1) (slice u.bytes k.1 k.2) (bad k) m) { m with s := r.2 })
        else
          let m := { m with faults := m.faults + (if u.fault.isSome then 1 else 0), s := countUnwind u (tableFixed errs.codec k) c (src + g.1) r.2 }
          (chunksFrom (dst + g.1) g.2).foldl (fun m k =>
            moveWrite who ctx (dst + g.1 + k.1) (slice u.bytes k.1 k.2) (bad k) m) m) (Move.start s)

/-- Does a range hold the line of an address? -/
def coversLine (addr : Nat) (r : Nat × Nat) : Bool := decide (0 < r.2) && decide (r.1 / 64 ≤ addr / 64) && decide (addr / 64 ≤ (r.1 + r.2 - 1) / 64)

/-- A page as a range. -/
def pageRange (n : Nat) : Nat × Nat := (n * 65536, 65536)

/-- What a page write or a park writes. -/
def jobRange (s : State) (j : KvJob) : Nat × Nat :=
  let x := seqOf s j.seq
  pageRange (listEntry s x (maxPages (imageOf s (modelOf s x.par.model))) j.layer j.page)

/-- The interrupted hardware work at this moment, each with the step it is for, if any, and what it moves (R298, R311): the attention part at the head of each panel's queue, copies on write, page writes and parks, moves of carry slots. -/
def hardwareWork (s : State) : List (Option Nat × List (Nat × Nat)) :=
  let parts := (List.range 48).filterMap (fun p => (headCommand s p).bind (fun c =>
    if c.opc = 1 then (stepOf s c.step).map (fun t => (some c.step, (lanesOf c.lanemask).flatMap (fetchRanges s t c))) else none))
  let copies := s.cowJobs.map (fun j => (some j.step, [pageRange j.src, pageRange j.dst]))
  let writes := (s.kvJobs.filter (fun j => !j.done)).map (fun j =>
    ((s.steps.find? (fun t => (laneSeqs t).any (fun q => q.seq == j.seq))).map (fun t => t.num), [jobRange s j]))
  let moves := s.steps.filterMap (fun t => t.carry.bind (fun c => c.addr.map (fun a =>
    (some t.num, [(a, (c.lanes.map (fun x => (laneBytes x.fmt x.data).length)).sum)]))))
  parts ++ copies ++ writes ++ moves

/-- The steps whose interrupted hardware work covers the line of an address (R312). -/
def stepsAt (s : State) (addr : Nat) : List Nat :=
  ((hardwareWork s).filterMap (fun w => if w.2.any (coversLine addr) then w.1 else none)).eraseDups

/-- The page writes and parks that cover the line of an address are not issued again (R312). -/
def dropJobsAt (addr : Nat) (s : State) : State := { s with kvJobs := s.kvJobs.filter (fun j => j.done || !(coversLine addr (jobRange s j))) }

/-- The all-channel stop (R311, R312, R434): every moving descriptor completes stopped, and the firmware's channels pause. -/
def busStop (addr : Nat) (s : State) : State :=
  let s := bump 0x300020 1 s
  if stopped s then s
  else
    let again := s.lastStop == some (s.edge, addr / 64)
    let s := (List.range 8).foldl (fun s i =>
      let c := 56 + i
      let x := chanOf s c
      let s := if x.phase = .moving ∨ x.phase = .moved then chComplete c 0x0102 s else s
      setChan c { chanOf s c with paused := true } s) s
    let s := wr 0x300008 (BitVec.ofNat 64 (2 ^ 63 + (if again then 2 else 1) * 2 ^ 60 + addr % 2 ^ 48)) (bump 0x300028 1 s)
    let s := wrB 0x300000 63 true { s with lastStop := some (s.edge, addr / 64) }
    let s := notify 14 51 [] 0xFFFF 0xFFFF (leBytes 8 addr) s
    if again then
      let steps := stepsAt s addr
      steps.foldl (fun s n => match stepOf s n with
        | some t => failStep t 0x0404 s
        | none => s) (dropJobsAt addr (deviceFault 51 4 addr s))
    else s

/-- Settle a finished move: the descriptor waits for its record, or a failed access stops the shuttle. -/
def settleMove (ch : Nat) (m : Move) : State :=
  let x := chanOf m.s ch
  let y := { x with done := m.done, diff := m.diff.getD (2 ^ 64 - 1), dropped := m.dropped, poisonSeen := m.poisonSeen, faults := m.faults, status := if m.faults = 0 then 0 else 0x0403 }
  match m.bad with
  | some a => busStop a (setChan ch y m.s)
  | none => setChan ch { y with phase := .moved } m.s

/-- May channel ch run an operation now? -/
def runs (s : State) (ch op : Nat) : Bool :=
  firmwareCh ch && !(stopped s) && !((chanOf s ch).paused) && decide ((chanOf s ch).phase = .moving) && decide (dOp (chanOf s ch).bits = op)

/-- What a descriptor's operation touches (R300, R302, R303): for a gather its page list, the pages it names and their directory entries. -/
def descRanges (s : State) (ctx b : Nat) : List (Nat × Nat) :=
  match dOp b with
  | 1 => [(dDst b, dLen b)]
  | 3 =>
    let pages := (List.range (dCount b)).map (fun i => peekAs s ctx (dSrc b + 4 * i) 4)
    [(dSrc b, 4 * dCount b), (dDst b, dSpan b * dCount b)]
      ++ (pages.filter (fun n => decide (n < pageCount s))).flatMap (fun n => [if pagesWound s then pageRange n else (n * 65536 + dOff b, dSpan b), (pageEntryAt s n, 8)])
  | 5 => [(dSrc b, dLen b), (dDst b, dLen b), (dDir b, 8 * ceilDiv (dLen b) 65536)]
  | 6 => [(dSrc b, dLen b), (dDst b, dLen b), (dDir b, 8 * ceilDiv (dLen b) 65536)]
  | _ => [(dSrc b, dLen b), (dDst b, dLen b)]

/-- The key context of a channel's head descriptor (R300, R405). -/
def chCtx (s : State) (ch : Nat) : Nat := tenantCtx s (dKey (chanOf s ch).bits)

/-- SHUTTLE_COPY (R97, R302). -/
def execShuttleCopy (ch : Nat) (e : MoveErrors) (s : State) : Host.Outcome State Fault Refusal :=
  let b := (chanOf s ch).bits
  if runs s ch 0 then .next (takeWork (.shuttleCopy ch e) (descRanges s (chCtx s ch) b) (fun s => settleMove ch (moveCopy (.shuttle ch) (chCtx s ch) (dSrc b) (dDst b) (dLen b) e s)) s) else .next s

/-- SHUTTLE_FILL (R302). -/
def execShuttleFill (ch : Nat) (s : State) : Host.Outcome State Fault Refusal :=
  let b := (chanOf s ch).bits
  if runs s ch 1 then .next (takeWork (.shuttleFill ch) (descRanges s (chCtx s ch) b) (fun s => settleMove ch (moveFill (.shuttle ch) (chCtx s ch) (dDst b) (dLen b) (dFill b) s)) s) else .next s

/-- SHUTTLE_COMPARE (R302). -/
def execShuttleCompare (ch : Nat) (e : MoveErrors) (s : State) : Host.Outcome State Fault Refusal :=
  let b := (chanOf s ch).bits
  if runs s ch 2 then .next (takeWork (.shuttleCompare ch e) (descRanges s (chCtx s ch) b) (fun s => settleMove ch (moveCompare (.shuttle ch) (chCtx s ch) (dSrc b) (dDst b) (dLen b) e s)) s) else .next s

/-- PAGE_LIST_GATHER (R205, R302, R303). -/
def execPageListGather (ch : Nat) (e : MoveErrors) (s : State) : Host.Outcome State Fault Refusal :=
  let b := (chanOf s ch).bits
  if runs s ch 3 then .next (takeWork (.pageListGather ch e) (descRanges s (chCtx s ch) b) (fun s => settleMove ch (moveGather ch (chCtx s ch) (dSrc b) (dDst b) (dCount b) (dOff b) (dSpan b) e s)) s) else .next s

/-- REDUCE_INTO (R268, R302, R371). -/
def execReduceInto (ch : Nat) (e : MoveErrors) (s : State) : Host.Outcome State Fault Refusal :=
  let b := (chanOf s ch).bits
  if runs s ch 4 then .next (takeWork (.reduceInto ch e) (descRanges s (chCtx s ch) b) (fun s => settleMove ch (moveReduce ch (chCtx s ch) (dRtype b) (dSrc b) (dDst b) (dLen b) e s)) s) else .next s

/-- SHUTTLE_WIND (R282 to R289, R302, R304). -/
def execShuttleWind (ch : Nat) (e : MoveErrors) (s : State) : Host.Outcome State Fault Refusal :=
  let b := (chanOf s ch).bits
  if runs s ch 5 then .next (takeWork (.shuttleWind ch e) (descRanges s (chCtx s ch) b) (fun s => settleMove ch (moveWind ch (chCtx s ch) (dSrc b) (dDst b) (dDir b) (dLen b) e s)) s) else .next s

/-- SHUTTLE_UNWIND (R290 to R296, R302, R304). -/
def execShuttleUnwind (ch : Nat) (e : MoveErrors) (s : State) : Host.Outcome State Fault Refusal :=
  let b := (chanOf s ch).bits
  if runs s ch 6 then .next (takeWork (.shuttleUnwind ch e) (descRanges s (chCtx s ch) b) (fun s => settleMove ch (moveUnwind ch (chCtx s ch) (dSrc b) (dDst b) (dDir b) (dLen b) e s)) s) else .next s

/-- SHUTTLE_DESC_COMPLETE (R306 to R308): the completion record of a descriptor whose lines have moved is written. -/
def execShuttleDescComplete (ch : Nat) (s : State) : Host.Outcome State Fault Refusal :=
  let x := chanOf s ch
  if firmwareCh ch ∧ x.phase = .moved then .next (takeWork (.shuttleDescComplete ch) [(recordAt s ch, 32)] (chComplete ch x.status) s) else .next s

/-- SHUTTLE_BUS_ERROR (R259, R311, R312): an access of channel ch to an address outside every region gets a bus error. -/
def execShuttleBusError (ch addr : Nat) (s : State) : Host.Outcome State Fault Refusal :=
  if 64 ≤ ch ∨ 2 ^ 48 ≤ addr ∨ inMap s addr 1 then .next s
  else .next (busStop addr (bump 0x50028 1 s))

/-- SHUTTLE_RESUME (R311 step 5): channels 0 to 55 resume, and the plan engine repeats their interrupted work, the moves of carry slots among it; the firmware's stay paused. -/
def execShuttleResume (s : State) : Host.Outcome State Fault Refusal := .next (movesResumed (wrB 0x300000 63 false s))

/-- Abort the firmware descriptors of a tenant (R310). -/
def abortTenant (t : Nat) (s : State) : State :=
  (List.range 8).foldl (fun s i =>
    let x := chanOf s (56 + i)
    if (x.phase = .waiting ∨ x.phase = .moving ∨ x.phase = .moved) ∧ dKey x.bits = t then chComplete (56 + i) 0x0104 s else s) s

/-- Is a ring of n bytes inside the scratchpad window or the stacks (R307)? -/
def ringPlaced (s : State) (a n : Nat) : Bool := inScratch s a n || inStack s a n

/-- A write of a firmware channel's CH_CTRL (R306, R307, R309). -/
def writeChCtrl (ch : Nat) (value : Word) (s : State) : State :=
  let was := chEnabled s ch
  let s := wrF (chCtrl ch) 47 6 (getBits value 47 6) (wrF (chCtrl ch) 50 48 (getBits value 50 48) s)
  let n := chEntries s ch
  let good := ringPlaced s (rdF s (chCtrl ch) 47 6 * 64) (64 * n) && ringPlaced s (rdF s (chCtrl ch + 0x10) 47 5 * 32) (32 * n)
  let on := getBit value 63 && good
  let s := wrB (chCtrl ch) 63 on s
  if on && !was then
    let x := chanOf s ch
    let own := if x.phase = .moving ∨ x.phase = .moved then some (x.slot.getD x.head) else none
    wrF (chCtrl ch + 8) 7 0 0 (setChan ch { x with head := 0, slot := own } s)
  else if !on then
    let x := chanOf s ch
    let s := if x.phase = .waiting then setChan ch { x with phase := .idle } s else s
    (List.range 8).foldl (fun s i =>
      let y := chanOf s (56 + i)
      if y.phase = .waiting ∧ dTrig y.bits = 3 ∧ dTrigCh y.bits = ch ∧ trigNow s y = .fails then chComplete (56 + i) 0x0203 s else s) s
  else s

/-- A whole write of CH_CTRL (R8, R307, R309, R311 step 6): its RW fields, and RESUME, which has a paused channel go on with its next slot. -/
def writeChannel (ch : Nat) (value : Word) (s : State) : State :=
  let s := writeChCtrl ch value s
  if getBit value 62 then setChan ch { chanOf s ch with paused := false } s else s

/-- CH_CTRL_ENABLE (R306, R307, R309): a write of CH_CTRL. Enabling restarts the ring; disabling lets the running descriptor finish and fails those that wait for the channel. -/
def execChCtrlEnable (ch : Nat) (value : Word) (s : State) : Host.Outcome State Fault Refusal :=
  if !(firmwareCh ch) then .next s else .next (writeChannel ch value s)

/-- CH_CTRL_RESUME (R8, R311 step 6): a write of CH_CTRL with RESUME restarts a paused channel. -/
def execChCtrlResume (ch : Nat) (value : Word) (s : State) : Host.Outcome State Fault Refusal :=
  if !(firmwareCh ch) then .next s else .next (writeChannel ch value s)

/-- CH_TAIL_WRITE (R307). -/
def execChTailWrite (ch : Nat) (value : Word) (s : State) : Host.Outcome State Fault Refusal :=
  if firmwareCh ch then .next (wrF (chCtrl ch + 8) 7 0 (getBits value 7 0) s) else .next s

end Sys2Proof.Machine
end

