-- ==== Sys2Proof/Machine/Memory.lean ====
section
/-! DEFINITION. Line accesses, patrol scrubbing, atomics, training, retrains, lane failures and margin runs (R252 to R280, R40, R41, R97, R98, R228, R436, R437, R439). -/

namespace Sys2Proof.Machine

/-- The class a log entry carries for an uncorrectable unit at an address (R434, R437): 4 in a region of a resident model, 5 in what belongs to a sequence, else 2. -/
def classOf (s : State) (a : Nat) : Nat :=
  if (modelAt s a).isSome then 4
  else
    let page := a / 65536
    let mine (e : Nat × Seq) : Bool :=
      decide (e.2.state ≠ .free)
        && ((decide (e.2.ringAddr ≤ a) && decide (a < e.2.ringAddr + 65536))
          || (let r := imageOf s (modelOf s e.2.par.model)
              let n := imgLayers r * maxPages r
              (decide (e.2.listAddr ≤ a) && decide (a < e.2.listAddr + 4 * n))
                || (decide (a < capacity s) && (List.range n).any (fun k => listEntry s e.2 (maxPages r) 0 k == page))))
    if s.seqs.any mine || inHemPool s a 1 then 5 else 2

/-- Quarantine the model that an uncorrectable line belongs to (R439). -/
def quarantineAt (line : Nat) (s : State) : State :=
  match modelAt s line with
  | some m => quarantine m line s
  | none => s

/-- An uncorrectable beat of a stack line met by a read (R256, R436, R439): the line is rewritten poisoned, counted, recorded and logged. -/
def lineLost (line beats : Nat) (step : Nat × Nat) (s : State) : State :=
  let n := sliceOf line
  let s := sliceError n 1 line (bump (sliceReg n 0x10) (max 1 beats) (poisonAt line s))
  quarantineAt line (logError 49 (classOf s line) (some line) step s)

/-- An uncorrectable word of a hem segment: it poisons a held position that it covers (R228). Where the pool's words lie among the positions the specification does not say, so the position is a free one of those held. -/
def hemLost (s : State) : State :=
  let all := (s.seqs.map (fun e => (List.range e.2.held.length).map (fun i => (e.1, i)))).flatten
  if all.isEmpty then hemError 1 0 0xFFFFFFFF s
  else
    let f := fresh s
    let z := all.getD (f.1.toNat % all.length) (0, 0)
    let x := seqOf f.2 z.1
    let held := (List.range x.held.length).map (fun i =>
      let h := x.held.getD i HeldPos.none
      if i = z.2 then { h with keyBad := List.range h.key.length, valBad := List.range h.val.length } else h)
    hemError 1 z.1 0xFFFFFFFF (setSeq z.1 { x with held := held } f.2)

/-- What a decoder makes of the bits in error of a line: beats or words corrected, the places of their bits, and those it finds uncorrectable. -/
structure Found where
  fixed : List Nat
  places : List Nat
  lost : List Nat
  deriving DecidableEq, Repr

/-- Nothing in error. -/
def Found.none : Found := ⟨[], [], []⟩

/-- A free value in the place of a unit's data: the 8 bytes of a word, or of a beat the 16-byte block of XTS that holds it, since the code covers the encrypted bits and one of them wrong spoils the block (R254, R405; log entry 75). -/
def freeUnit (beat : Bool) (a : Nat) (s : State) : State :=
  let f := fresh s
  if beat then
    let g := fresh f.2
    putBytes (a / 16 * 16) (leBytes 8 f.1.toNat ++ leBytes 8 g.1.toNat) g.2
  else putBytes a (leBytes 8 f.1.toNat) f.2

/-- The 8 bytes of a word with some of its bits the other way. -/
def flipBits (a : Nat) (bits : List Nat) (s : State) : List Byte :=
  (List.range 8).map (fun i => bits.foldl (fun (b : Byte) k => if k / 8 = i then b ^^^ BitVec.ofNat 8 (2 ^ (k % 8)) else b) (getByte s (a + i)))

/-- The data of a unit as they are read with bits in error, and so stand from then on (R256): lanes 64 to 79 carry none (R253). -/
def readWrong (beat : Bool) (a : Nat) (bits : List Nat) (s : State) : State :=
  if bits.all (fun b => decide (64 ≤ b) && decide (b < 80)) then s
  else if beat then freeUnit true a s else putBytes a (flipBits a bits s) s

/-- One beat (code true) or word through its decoder: up to `fixes` bits are corrected, up to `catches` detected, and then the data stand as they were read. Of more the code guarantees nothing (R254): whether the decoder detects it, corrects it wrongly or sees nothing is free, and what it then delivers is free (log entry 75). -/
def decodeUnit (beat : Bool) (fixes catches line : Nat) (z : Found × State) (e : Nat × List Nat) : Found × State :=
  let bits := e.2.eraseDups
  let a := line + 8 * e.1
  if bits.isEmpty then z
  else if bits.length ≤ fixes then ({ z.1 with fixed := z.1.fixed ++ [e.1], places := z.1.places ++ bits }, z.2)
  else if bits.length ≤ catches then ({ z.1 with lost := z.1.lost ++ [e.1] }, readWrong beat a bits z.2)
  else
    let f := fresh z.2
    if f.1.toNat % 3 = 0 then ({ z.1 with lost := z.1.lost ++ [e.1] }, readWrong beat a bits f.2)
    else (if f.1.toNat % 3 = 1 then { z.1 with fixed := z.1.fixed ++ [e.1] } else z.1, freeUnit beat a f.2)

/-- The beats of a line through the beat code of R254: minimum distance 6 corrects 2 bits and detects 3. -/
def decodeBeats (line : Nat) (err : LineError) (s : State) : Found × State := err.foldl (decodeUnit true 2 3 line) (Found.none, s)

/-- The words of a line through SEC-DED (R98, R261): 1 bit is corrected and 2 are detected. -/
def decodeWords (line : Nat) (err : LineError) (s : State) : Found × State := err.foldl (decodeUnit false 1 2 line) (Found.none, s)

/-- The decoder attributes corrected bits to lanes of a channel (R273): those of the last 1,000,000 tape ns are held. -/
def blame (ch : Nat) (lanes : List Nat) (s : State) : State :=
  { s with laneBits := (lanes.map (fun l => (128 * ch + l, s.tape)) ++ s.laneBits).filter (fun e => !(tapePast s (e.2 + 1000000))) }

/-- A stack line read through its beat code (R254 to R256, R273): corrected beats are counted and attributed, an uncorrectable one loses the line. -/
def readBeats (line : Nat) (err : LineError) (step : Nat × Nat) (s : State) : Found × State :=
  let z := decodeBeats line err s
  let s := blame (channelOf line) z.1.places (bump (sliceReg (sliceOf line) 8) z.1.fixed.length z.2)
  (z.1, if z.1.lost.isEmpty then s else lineLost line z.1.lost.length step s)

/-- An uncorrectable word of a slice's SRAM (R228, R261, R434 to R436, R439): its unit is poisoned, recorded and logged. -/
def sramLost (a : Nat) (step : Nat × Nat) (s : State) : State :=
  let s := sliceError (sliceOf a) 3 a (poisonAt a s)
  let s := if inHemPool s a 1 then hemLost s else s
  quarantineAt (a / 64 * 64) (logError 49 (classOf s a) (some (a / 64 * 64)) step s)

/-- Does an access under a key context hit a line in its slice's cache (R264, R406)? -/
def cacheHit (s : State) (ctx line : Nat) : Bool :=
  let c := sget (fun _ => CacheLine.none) s.cache line
  c.held && decide (c.ctx = ctx)

/-- What the bits in error do to the line an access reads (R98, R254 to R256, R261, R434, R436): a line its slice's cache holds is read from SRAM, another from its channel. -/
def errorIn (g : Region) (ctx a : Nat) (err : LineError) (step : Nat × Nat) (s : State) : State :=
  let line := a / 64 * 64
  match g with
  | .stack =>
    if cacheHit s ctx line then
      let z := decodeWords line err s
      if z.1.lost.isEmpty then z.2 else sramLost line step z.2
    else (readBeats line err step s).2
  | .scratch =>
    let z := decodeWords line err s
    z.1.lost.foldl (fun s i => sramLost (line + 8 * i) step s) z.2
  | .panelBuf p _ =>
    let z := decodeWords line err s
    z.1.lost.foldl (fun s i => panelWordLost p (line + 8 * i) step s) (z.1.fixed.foldl (fun s i => panelWordFixed p (line + 8 * i) s) z.2)
  | _ => s

/-- What bits in error at an address do (R254 to R256). -/
def meetError (ctx a : Nat) (err : LineError) (step : Nat × Nat) (s : State) : State := errorIn (regionOf s a) ctx a err step s

/-- Does an operation read the unit before it writes: a read, or a write of less than the unit (R253)? -/
def readsUnit (a : Nat) : LineOp → Bool
  | .read => true
  | .write bs => decide (a % poisonSize a ≠ 0) || decide (bs.length % poisonSize a ≠ 0)

/-- Does an address wait for a channel in retrain (R271)? -/
def stallsAt (s : State) (a : Nat) : Bool := decide (a < capacity s) && rdB s (chStatus (channelOf a)) 61

/-- Take a request of a slice, or hold it while the channel of its address retrains (R271). -/
def takeAccess (c : Instr) (a : Nat) (f : State → State) (s : State) : State :=
  if stallsAt s a then { s with stalled := s.stalled ++ [c] } else f s

/-- One line access (R97, R98, R253 to R256, R258, R259, R262, R264, R265, R405, R406, R435, R436). A bus error of a shuttle channel stops the shuttle (R311). -/
def lineAccess (who : Requester) (addr ctx : Nat) (op : LineOp) (err : LineError) (step : Option (Nat × Nat)) (s : State) : State :=
  let st := step.getD noStep
  let known := inMemory s addr 1
  let s := if known && readsUnit addr op then meetError ctx addr err st s else s
  let r : Resp × State := match op with
    | .read => readMem who ctx addr (64 - addr % 64) s
    | .write bs =>
      let w := writeMem who ctx addr (bs.take (64 - addr % 64)) false s
      (⟨[], false, w.1⟩, w.2)
  let s := { r.2 with lastResp := r.1 }
  match who with
  | .shuttle _ => if r.1.busError then busStop addr s else s
  | _ => s

/-- MEMORY_ACCESS (R97, R98, R253 to R256, R258, R259, R262, R264, R265, R271, R405, R406, R435, R436): one line access of a requester under a key context; it waits while its channel retrains. -/
def execMemoryAccess (who : Requester) (addr ctx : Nat) (op : LineOp) (err : LineError) (step : Option (Nat × Nat)) (s : State) : Host.Outcome State Fault Refusal :=
  .next (takeAccess (.memoryAccess who addr ctx op err step) addr (lineAccess who addr ctx op err step) s)

/-- SCRUB_PERIOD in tape ns (R257). -/
def scrubPeriod (s : State) : Nat := max 1 (rdF s 0x50010 7 0) * 3600000000000

/-- A pass of the scrubber begins once per SCRUB_PERIOD (R257). -/
def scrubPass (s : State) : State :=
  if tapePast s (s.scrubSince + scrubPeriod s) then { s with scrubbed := [], scrubSince := s.tape } else s

/-- The scrubber reads a line (R256, R257): each correction also counts in SCRUB_FIX_COUNT. -/
def scrubLine (a : Nat) (err : LineError) (s : State) : State :=
  let z := readBeats a err noStep { s with scrubbed := insNat s.scrubbed a }
  bump (sliceReg (sliceOf a) 0x30) z.1.fixed.length z.2

/-- PATROL_SCRUB (R256, R257, R435): the scrubber reads a line that it has not yet read in this pass, and corrects it or finds it uncorrectable; it never clears poison, and it waits for a channel in retrain. In which order a pass takes the lines the specification does not say (log entry 77). -/
def execPatrolScrub (line : Nat) (err : LineError) (s : State) : Host.Outcome State Fault Refusal :=
  let a := line / 64 * 64
  if !(rdB s 0x50010 63) || decide (capacity s ≤ a) || stallsAt s a || (scrubPass s).scrubbed.contains a then .next s
  else .next (scrubLine a err (scrubPass s))

/-- The key context an agent's atomic is performed under: the device's, but for a shuttle channel, whose descriptor names it (R405). -/
def atomicCtx (s : State) (who : Requester) : Nat :=
  match who with
  | .shuttle ch => chCtx s ch
  | _ => deviceCtx s

/-- One atomic with its result kept, and the stop a bus error of a shuttle channel causes. -/
def atomicStep (who : Requester) (addr n : Nat) (f : Nat → AtomicNew) (s : State) : State :=
  let r := atomicAt who (atomicCtx s who) addr n f s
  let s := { r.2 with lastAtomic := r.1 }
  match who with
  | .shuttle _ => if r.1.busError then busStop addr s else s
  | _ => s

/-- An atomic that gives neither ZERO nor UNDERFLOW. -/
def plainAtomic (v : Nat) : AtomicNew := ⟨v, false, false⟩

/-- What ADD_I32 leaves (R266). -/
def newAddI32 (v m : Nat) : AtomicNew := plainAtomic ((m + v) % 2 ^ 32)
/-- What ADD_F32 leaves (R61, R266). -/
def newAddF32 (v m : Nat) : AtomicNew := plainAtomic (fAdd (BitVec.ofNat 32 m) (BitVec.ofNat 32 v)).toNat
/-- What MIN_I32 leaves (R266): signed. -/
def newMinI32 (v m : Nat) : AtomicNew := plainAtomic (if i32 v < i32 m then v % 2 ^ 32 else m)
/-- What MAX_I32 leaves (R266): signed. -/
def newMaxI32 (v m : Nat) : AtomicNew := plainAtomic (if i32 m < i32 v then v % 2 ^ 32 else m)
/-- What MIN_F32 leaves (R149, R266). -/
def newMinF32 (v m : Nat) : AtomicNew := plainAtomic (fMin (BitVec.ofNat 32 m) (BitVec.ofNat 32 v)).toNat
/-- What MAX_F32 leaves (R149, R266). -/
def newMaxF32 (v m : Nat) : AtomicNew := plainAtomic (fMax (BitVec.ofNat 32 m) (BitVec.ofNat 32 v)).toNat
/-- Bytes of a 32-bit or 64-bit operand. -/
def wordBytes (wide : Bool) : Nat := if wide then 8 else 4
/-- What AND leaves (R266), 32 or 64 bits. -/
def newAnd (v m : Nat) : AtomicNew := plainAtomic (m &&& v)
/-- What OR leaves (R266), 32 or 64 bits. -/
def newOr (wide : Bool) (v m : Nat) : AtomicNew := plainAtomic (m ||| (v % 2 ^ (8 * wordBytes wide)))
/-- What CAS leaves (R266), 32 or 64 bits. -/
def newCas (wide : Bool) (compare v m : Nat) : AtomicNew :=
  plainAtomic (if m = compare % 2 ^ (8 * wordBytes wide) then v % 2 ^ (8 * wordBytes wide) else m)

/-- ADD_I32 (R266, R271). -/
def execAddI32 (who : Requester) (addr v : Nat) (s : State) : Host.Outcome State Fault Refusal :=
  .next (takeAccess (.addI32 who addr v) addr (atomicStep who addr 4 (newAddI32 v)) s)

/-- ADD_F32 (R61, R266, R271). -/
def execAddF32 (who : Requester) (addr v : Nat) (s : State) : Host.Outcome State Fault Refusal :=
  .next (takeAccess (.addF32 who addr v) addr (atomicStep who addr 4 (newAddF32 v)) s)

/-- MIN_I32 (R266, R271). -/
def execMinI32 (who : Requester) (addr v : Nat) (s : State) : Host.Outcome State Fault Refusal :=
  .next (takeAccess (.minI32 who addr v) addr (atomicStep who addr 4 (newMinI32 v)) s)

/-- MAX_I32 (R266, R271). -/
def execMaxI32 (who : Requester) (addr v : Nat) (s : State) : Host.Outcome State Fault Refusal :=
  .next (takeAccess (.maxI32 who addr v) addr (atomicStep who addr 4 (newMaxI32 v)) s)

/-- MIN_F32 (R149, R266, R271). -/
def execMinF32 (who : Requester) (addr v : Nat) (s : State) : Host.Outcome State Fault Refusal :=
  .next (takeAccess (.minF32 who addr v) addr (atomicStep who addr 4 (newMinF32 v)) s)

/-- MAX_F32 (R149, R266, R271). -/
def execMaxF32 (who : Requester) (addr v : Nat) (s : State) : Host.Outcome State Fault Refusal :=
  .next (takeAccess (.maxF32 who addr v) addr (atomicStep who addr 4 (newMaxF32 v)) s)

/-- AND (R266, R271), 32 or 64 bits. -/
def execAndOp (who : Requester) (wide : Bool) (addr v : Nat) (s : State) : Host.Outcome State Fault Refusal :=
  .next (takeAccess (.andOp who wide addr v) addr (atomicStep who addr (wordBytes wide) (newAnd v)) s)

/-- OR (R266, R271), 32 or 64 bits. -/
def execOrOp (who : Requester) (wide : Bool) (addr v : Nat) (s : State) : Host.Outcome State Fault Refusal :=
  .next (takeAccess (.orOp who wide addr v) addr (atomicStep who addr (wordBytes wide) (newOr wide v)) s)

/-- CAS (R266, R271), 32 or 64 bits. -/
def execCas (who : Requester) (wide : Bool) (addr compare v : Nat) (s : State) : Host.Outcome State Fault Refusal :=
  .next (takeAccess (.cas who wide addr compare v) addr (atomicStep who addr (wordBytes wide) (newCas wide compare v)) s)

/-- The page whose reference count stands at an address, if one does (R223). -/
def pageAtRef (s : State) (addr : Nat) : Option Nat :=
  let base := rdF s 0x40008 47 12 * 4096
  if rdB s 0x40008 63 && decide (base ≤ addr) && decide ((addr - base) % 4 = 0) && decide ((addr - base) / 4 < pageCount s) then some ((addr - base) / 4)
  else none

/-- REF_INC once it is taken (R223, R228, R266): of a page's count by the plan engine, a poisoned one leaks the page. -/
def refIncStep (who : Requester) (addr : Nat) (s : State) : State :=
  let t := atomicStep who addr 4 incWord s
  match who, pageAtRef s addr with
  | .planEngine, some p => if t.lastAtomic.poisoned then leakPage 0 p t else t
  | _, _ => t

/-- REF_INC (R228, R266, R271): saturates at 2^32 − 1. -/
def execRefInc (who : Requester) (addr : Nat) (s : State) : Host.Outcome State Fault Refusal :=
  .next (takeAccess (.refInc who addr) addr (refIncStep who addr) s)

/-- What the plan engine does with the result of a REF_DEC of page p's count (R223, R225): ZERO defers its return, a poisoned count is a device fault. -/
def pageDropped (p : Nat) (s : State) : State :=
  if s.lastAtomic.poisoned then leakPage 0 p s
  else if s.lastAtomic.zero then { s with deferred := s.deferred ++ [(p, s.edge)] }
  else s

/-- REF_DEC once it is taken (R223, R225, R266): of a page's count by the plan engine, ZERO puts the page in the deferred list; UNDERFLOW never does. -/
def refDecStep (who : Requester) (addr : Nat) (s : State) : State :=
  match who, pageAtRef s addr with
  | .planEngine, some p => pageDropped p (atomicStep who addr 4 decWord s)
  | _, _ => atomicStep who addr 4 decWord s

/-- REF_DEC (R223, R225, R266, R271). -/
def execRefDec (who : Requester) (addr : Nat) (s : State) : Host.Outcome State Fault Refusal :=
  .next (takeAccess (.refDec who addr) addr (refDecStep who addr) s)

/-- CH_MARGIN_CTRL of a global channel. -/
def chMargin (c : Nat) : Nat := chStatus c + 8
/-- CH_MARGIN_RESULT of a global channel. -/
def chResult (c : Nat) : Nat := chStatus c + 0x10
/-- Spare lanes in use. -/
def sparesUsed (s : State) (c : Nat) : Nat := rdF s (chStatus c) 59 58
/-- Lanes of a channel marked failing. -/
def failingOf (s : State) (c : Nat) : List Nat := (s.failing.filter (fun k => k / 128 = c)).map (fun k => k % 128)
/-- Spares neither in use nor promised to a failing lane. -/
def sparesFree (s : State) (c : Nat) : Nat := 2 - sparesUsed s c - (failingOf s c).length

/-- Does a lane carry a channel's data: lanes 0 to 79 that no spare replaces, and a spare in use that none replaces (R253, R273)? -/
def laneServes (s : State) (c lane : Nat) : Bool :=
  let n := sparesUsed s c
  let gone := (decide (1 ≤ n) && decide (rdF s (chStatus c) 57 51 = lane)) || (decide (2 ≤ n) && decide (rdF s (chStatus c) 50 44 = lane))
  !gone && (decide (lane < 80) || (decide (lane = 80) && decide (1 ≤ n)) || (decide (lane = 81) && decide (2 ≤ n)))

/-- Corrected bits attributed to a lane in the last 1,000,000 tape ns (R273). -/
def bitsOn (s : State) (c lane : Nat) : Nat := (s.laneBits.filter (fun e => e.1 == 128 * c + lane && !(tapePast s (e.2 + 1000000)))).length

/-- LANE_FAIL_LIMIT; a write of 0 is taken as 1 (R273). -/
def failLimit (s : State) : Nat := max 1 (rdF s 0x50020 15 0)

/-- Put the next spare in for a lane, a spare in use among them: lane 80 before lane 81 (R269; log entry 97). -/
def useSpare (c lane : Nat) (s : State) : State :=
  match sparesUsed s c with
  | 0 => wrF (chStatus c) 59 58 1 (wrF (chStatus c) 57 51 lane s)
  | 1 => wrF (chStatus c) 59 58 2 (wrF (chStatus c) 50 44 lane s)
  | _ => s

/-- Switch spares in for the lanes marked failing while one is free (R271, R273). -/
def switchSpares (c : Nat) (s : State) : State :=
  (failingOf s c).foldl (fun s l => if sparesUsed s c < 2 then { useSpare c l s with failing := s.failing.erase (128 * c + l) } else s) s

/-- The run of a channel. -/
def marginOf (s : State) (c : Nat) : Option MarginRun := sget noMargin s.margins c
/-- Replace a channel's run, with CH_STATUS.MARGINING and CH_MARGIN_CTRL.BUSY. -/
def setMargin (c : Nat) (m : Option MarginRun) (s : State) : State :=
  wrB (chStatus c) 60 m.isSome (wrB (chMargin c) 62 m.isSome { s with margins := sput noMargin s.margins c m })

/-- End a channel's run by abort (R276): the command returns 0x0103; how far it had compared the specification does not say. -/
def abortMargin (c : Nat) (s : State) : State :=
  match marginOf s c with
  | none => s
  | some m =>
    let f := fresh (setMargin c none s)
    let s := wr (chResult c) (BitVec.ofNat 64 (2 ^ 63 + 2 ^ 62 + f.1.toNat % 2 ^ 62)) f.2
    match m.waiter with
    | some w => settle w 0x0103 s
    | none => s

/-- Start a run: the channel's status and the run's end (R275). -/
def startMargin (c lane dwell : Nat) (rotation : Bool) (w : Option Waiter) (s : State) : State :=
  setMargin c (some ⟨lane, rotation, s.tape + dwell * 1000, w⟩) s

/-- A failing lane that a spare will replace (R273, R276): a margin run is aborted, the notice goes out, and a retrain is ordered unless one runs. -/
def laneSpared (ch lane : Nat) (s : State) : State :=
  let spare := if sparesFree s ch = 2 then 80 else 81
  let s := notify 11 49 [] 0xFFFF 0xFFFF (leBytes 2 ch ++ leBytes 1 lane ++ leBytes 1 spare) (abortMargin ch s)
  let s := { s with failing := s.failing ++ [128 * ch + lane] }
  if rdB s (chStatus ch) 61 then s else { s with retrainDue := insNat s.retrainDue ch }

/-- A failing lane for which no spare is left (R274): it stays in service, the channel is degraded and the notice goes out. -/
def laneDegraded (ch lane : Nat) (s : State) : State :=
  let s := { s with unspared := insNat s.unspared (128 * ch + lane) }
  let s := if rdB s (chStatus ch) 62 then s else wrF 0x50008 17 9 (rdF s 0x50008 17 9 + 1) (wrB (chStatus ch) 62 true s)
  notify 12 49 [] 0xFFFF 0xFFFF (leBytes 2 ch ++ leBytes 1 lane) s

/-- Is a lane failing now that was not before (R273): it lost lock, or reached the limit of corrected bits? -/
def laneFails (s : State) (ch lane : Nat) (lockLost : Bool) : Bool :=
  decide (ch < 384) && rdB s (chStatus ch) 63 && laneServes s ch lane && !(s.failing.contains (128 * ch + lane)) && !(s.unspared.contains (128 * ch + lane))
    && (lockLost || decide (failLimit s ≤ bitsOn s ch lane))

/-- LANE_FAILING (R273, R274, R276): with a spare free, an unscheduled retrain is ordered and the memory-lane notice goes out; a margin run loses the spare it probes with. With none, the channel is degraded. -/
def execLaneFailing (ch lane : Nat) (lockLost : Bool) (s : State) : Host.Outcome State Fault Refusal :=
  if !(laneFails s ch lane lockLost) then .next s
  else if 0 < sparesFree s ch then .next (laneSpared ch lane s)
  else .next (laneDegraded ch lane s)

/-- Is a channel's retrain one the planner scheduled, with no lane failing (R40, R41)? -/
def scheduledRetrain (s : State) (ch : Nat) : Bool :=
  rdB s 0x50018 62 && decide (rdF s 0x50018 8 0 = ch) && s.retrainDue.contains ch && (failingOf s ch).isEmpty

/-- A scheduled retrain runs only in a tick whose slot is marked and whose list the planner sealed, within the first 10,000 tape ns after the planning interval ends, and at most one runs in a tick (R40). -/
def retrainWaits (s : State) (ch : Nat) : Bool :=
  scheduledRetrain s ch && !(rdB s 0x100028 1 && s.sealed && rdB s 0x100028 0 && !s.retrained && serialAtLeast 64 (s.execAt + 10000) s.tape)

/-- Offsets joined to those a channel has, one of each lane and direction. -/
def joinOffsets (old new : List LaneOffset) : List LaneOffset :=
  old.filter (fun o => !(new.any (fun n => n.lane == o.lane && n.dir == o.dir))) ++ new

/-- The centred offsets found for a channel come into force (R277). -/
def applyOffsets (ch : Nat) (s : State) : State :=
  { s with offsets := sput (fun _ => []) s.offsets ch (joinOffsets (sget (fun _ => []) s.offsets ch) (sget (fun _ => []) s.centred ch)), centred := serase s.centred ch }

/-- A channel is trained as of now (R272). -/
def noteTraining (ch : Nat) (s : State) : State :=
  { s with trainedAt := sput (fun _ => 0) s.trainedAt ch s.tape, trainedTemp := sput (fun _ => 0) s.trainedTemp ch (stackTemp s (ch / 16)) }

/-- A retrain begins (R271, R273, R276, R277): spares are switched in, offsets applied, the channel stalls. -/
def beginRetrain (ch : Nat) (s : State) : State :=
  let scheduled := scheduledRetrain s ch
  let s := switchSpares ch (abortMargin ch s)
  let s := bump (sliceReg (ch / 16) 0x28) 1 (wrB (chStatus ch) 61 true s)
  noteTraining ch (applyOffsets ch { s with retrainDue := s.retrainDue.erase ch, retrained := s.retrained || scheduled })

/-- RETRAIN (R40, R41, R271, R273, R276, R277): an ordered retrain begins: a margin run is aborted, spares are switched in, centred offsets are applied, and the channel stalls. -/
def execRetrain (ch : Nat) (s : State) : Host.Outcome State Fault Refusal :=
  if 384 ≤ ch ∨ !(s.retrainDue.contains ch) ∨ rdB s (chStatus ch) 61 ∨ retrainWaits s ch then .next s
  else .next (beginRetrain ch s)

/-- A retrain ends (R271, R273, R272): the stall ends, and START of MEM_RETRAIN clears where it ordered this channel. -/
def endRetrain (ch : Nat) (s : State) : State :=
  let s := wrB (chStatus ch) 61 false (switchSpares ch s)
  if rdB s 0x50018 62 && decide (rdF s 0x50018 8 0 = ch) then wrB 0x50018 62 false s else s

/-- A retrain of channel c is ordered through MEM_RETRAIN (R40, R272): BUSY shows it, and the slot of this tick is marked before the plan list freezes, else that of the next; the budget follows the slot (R27). -/
def orderRetrain (c : Nat) (s : State) : State :=
  let s := wrB 0x50018 62 true { s with retrainDue := insNat s.retrainDue c }
  if s.frozen || s.retrained || rdB s 0x100028 4 then s else showBudget (wrB 0x100028 1 true s)

/-- MEM_RETRAIN_START (R40, R272): a write of MEM_RETRAIN. CHANNEL above 383 is ignored; START orders a retrain of CHANNEL, unless one started so is still running. -/
def execMemRetrainStart (value : Word) (s : State) : Host.Outcome State Fault Refusal :=
  let busy := rdB s 0x50018 62
  let s := if getBits value 8 0 ≤ 383 ∧ !busy then wrF 0x50018 8 0 (getBits value 8 0) s else s
  .next (if getBit value 63 && !busy then orderRetrain (rdF s 0x50018 8 0) s else s)

/-- RETRAIN_INTERVAL in tape ns (R272). -/
def retrainInterval (s : State) : Nat := rdF s 0x50020 63 32 * 1000000

/-- Has the temperature of a channel's stack moved by more than 8 °C since its last training (R272)? -/
def tempMoved (s : State) (c : Nat) : Bool :=
  let d := stackTemp s (c / 16) - sget (fun _ => 0) s.trainedTemp c
  decide (64 < d) || decide (d < -64)

/-- Channels whose retrain can be ordered. -/
def retrainable (s : State) : List Nat :=
  (List.range 384).filter (fun c => rdB s (chStatus c) 63 && !(rdB s (chStatus c) 61) && !(s.retrainDue.contains c))

/-- The channel trained longest ago of a list, the lowest of equals. -/
def oldestOf (s : State) (l : List Nat) : Option Nat := (sortBy (fun c => sget (fun _ => 0) s.trainedAt c) l).head?

/-- Tape between the retrains that the planner spreads over the interval: with a reserve of 16 ticks, in which a retrain may wait for its edge, its slot and its turn (R40, R272; log entry 43). -/
def retrainSpacing (s : State) : Nat := (retrainInterval s - 16 * period s) / 384

/-- Is a channel's retrain due now, so that even the one after the others of its stack keeps the interval (R272)? -/
def retrainUrgent (s : State) (c : Nat) : Bool := tapePast s (sget (fun _ => 0) s.trainedAt c + (retrainInterval s - 16 * period s))

/-- The channel the planner schedules next (R272): the one trained longest ago, when it is due or once in each spacing; else one whose stack's temperature has moved (log entry 43). -/
def retrainNext (s : State) : Option Nat :=
  match oldestOf s (retrainable s) with
  | none => none
  | some c =>
    if retrainUrgent s c then some c
    else match oldestOf s ((retrainable s).filter (tempMoved s)) with
      | some d => some d
      | none => if tapePast s (s.retrainLast + retrainSpacing s) then some c else none

/-- The spread of the scheduled retrains moves on by its spacing, so that what rounds up to a tick does not add up (R272). -/
def moveSpread (s : State) : State :=
  let next := s.retrainLast + retrainSpacing s
  if tapePast s next then { s with retrainLast := if tapePast s (next + 2 * retrainSpacing s) then s.tape else next } else s

/-- The planner schedules a retrain at an edge while none is outstanding (R40, R272). -/
def scheduleRetrain (s : State) : State :=
  if rdB s 0x50018 62 || !(rdB s 0x50008 63) then s
  else
    match retrainNext s with
    | none => s
    | some c => orderRetrain c (moveSpread (wrF 0x50018 8 0 c s))

/-- The counts of a margin run are recorded (R275). The rotation finds a centred offset, which one is the firmware's to find and free here (log entry 2); it waits for the next retrain (R277). -/
def recordMargin (ch beats mismatches : Nat) (m : MarginRun) (s : State) : State :=
  let s := setMargin ch none (runTo m.ends s)
  let s := wr (chResult ch) (BitVec.ofNat 64 (2 ^ 63 + min mismatches (2 ^ 30 - 1) * 2 ^ 32 + min (beats / 1024) (2 ^ 32 - 1))) s
  if m.rotation then
    let f := fresh s
    let o : LaneOffset := ⟨m.lane, rdF s (chMargin ch) 61 61, getBits f.1 5 0, getBits f.1 11 6⟩
    { f.2 with centred := sput (fun _ => []) f.2.centred ch (joinOffsets (sget (fun _ => []) f.2.centred ch) [o]) }
  else s

/-- MARGIN_RUN_END (R275, R277): the dwell ends; the counts are recorded and returned, and a rotation's offsets wait for the next retrain. -/
def execMarginRunEnd (ch beats mismatches : Nat) (s : State) : Host.Outcome State Fault Refusal :=
  match marginOf s ch with
  | none => .next s
  | some m =>
    match m.waiter with
    | some w => .next (respondTo w 0 (leBytes 8 beats ++ leBytes 4 mismatches) (recordMargin ch beats mismatches m s))
    | none => .next (recordMargin ch beats mismatches m s)

/-- CH_MARGIN_START (R275, R276): a write of CH_MARGIN_CTRL. The fields are written; START runs unless LANE is above 79, DWELL_US is 0, a run is in progress or no spare is free. -/
def execChMarginStart (slice ch : Nat) (value : Word) (s : State) : Host.Outcome State Fault Refusal :=
  if 24 ≤ slice ∨ 16 ≤ ch then .next s
  else
    let c := 16 * slice + ch
    if (marginOf s c).isSome then .next s
    else
      let s := wrF (chMargin c) 61 42 (getBits value 61 42) (wrF (chMargin c) 15 0 (getBits value 15 0) s)
      if getBit value 63 && decide (getBits value 60 54 ≤ 79) && decide (getBits value 15 0 ≠ 0) && decide (0 < sparesFree s c) && !(rdB s (chStatus c) 61)
      then .next (startMargin c (getBits value 60 54) (getBits value 15 0) false none s)
      else .next s

/-- May the margin rotation probe a channel (R277)? -/
def rotationTakes (s : State) (c : Nat) : Bool :=
  decide (0 < sparesFree s c) && (marginOf s c).isNone && rdB s (chStatus c) 63 && !(rdB s (chStatus c) 61)

/-- The channel the rotation visits (R277): one not visited for 60 s before all, the longest unvisited first; else the next in turn. -/
def rotationNext (s : State) : Option Nat :=
  let takes := (List.range 384).filter (rotationTakes s)
  let late := takes.filter (fun c => tapePast s (sget (fun _ => 0) s.rotAt c + 60000000000))
  match (sortBy (fun c => sget (fun _ => 0) s.rotAt c) late).head? with
  | some c => some c
  | none => ((List.range 384).map (fun k => (s.rotation + k) % 384)).find? (rotationTakes s)

/-- The rotation's next lane of a channel. -/
def rotationLane (s : State) (c : Nat) : Nat := sget (fun _ => 0) s.rotLane c

/-- The rotation moves on past a channel and its lane (R277). -/
def rotatePast (c : Nat) (s : State) : State :=
  { s with rotation := (c + 1) % 384, rotAt := sput (fun _ => 0) s.rotAt c s.tape, rotLane := sput (fun _ => 0) s.rotLane c ((rotationLane s c + 1) % 80) }

/-- MARGIN_ROTATION (R277, R345): in the calibrating profiles the firmware margins the next lane of the next channel in rotation that has a free spare and no run. -/
def execMarginRotation (dir toff voff dwell : Nat) (s : State) : Host.Outcome State Fault Refusal :=
  if !(serving s) || decide (rdF s 8 60 59 < 2) || decide (dwell = 0) || decide (65535 < dwell) then .next s
  else
    match rotationNext s with
    | none => .next s
    | some c =>
      let lane := rotationLane s c
      let s := wrF (chMargin c) 61 61 dir (wrF (chMargin c) 60 54 lane (wrF (chMargin c) 53 48 toff (wrF (chMargin c) 47 42 voff (wrF (chMargin c) 15 0 dwell s))))
      .next (startMargin c lane dwell true none (rotatePast c s))

/-- What training leaves on one channel (R269, R270): lanes of the fuse record are replaced first; a channel of which more than two lanes fail, or that does not lock, is not TRAINED. -/
def trainChannel (fused : List Nat) (x : Trained) (s : State) : Bool × State :=
  let lanes := (fused ++ x.failed.filter (fun l => !(fused.contains l))).eraseDups
  let s := wrB (chStatus x.ch) 62 (rdB s (chStatus x.ch) 62) (wr (chStatus x.ch) (regReset (chStatus x.ch)) s)
  let s := lanes.foldl (fun s l => useSpare x.ch l s) s
  if 2 < lanes.length ∨ !x.locked then (true, s) else (false, noteTraining x.ch (wrB (chStatus x.ch) 63 true s))

/-- The result of a channel that training reports nothing of: no lane failed and it locked. -/
def trainedOr (results : List Trained) (c : Nat) : Trained := (results.find? (fun x => x.ch == c)).getD ⟨c, [], true⟩

/-- Train channels; the failed ones come back. -/
def trainAll (cs : List Nat) (results : List Trained) (s : State) : List Nat × State :=
  cs.foldl (fun acc c =>
    let z := trainChannel (sget (fun _ => []) acc.2.laneFuse c) (trainedOr results c) acc.2
    (if z.1 then acc.1 ++ [c] else acc.1, z.2)) ([], s)

/-- What failed channels bring (R270, R438): FAILED, the device-fault notice, and every open step ends by device fault. -/
def trainingFailed (cs : List Nat) (s : State) : State :=
  match cs with
  | [] => s
  | c :: _ =>
    let s := deviceFault 49 2 c (wrB 0x50008 61 true (wrF 0x50008 8 0 c s))
    s.steps.foldl (fun s t => match stepOf s t.num with
      | some u => failStep u 0x0404 s
      | none => s) s

/-- The 384 channels are trained (R269): TRAINED is set, a device waking is awake, and channels that failed are reported (R270, R438). -/
def trained (results : List Trained) (s : State) : State :=
  let z := trainAll (List.range 384) results s
  let s := wrB 0x50008 63 true z.2
  let s := if rdF s 0xC00000 63 61 = 4 then wrF 0xC00000 63 61 0 s else s
  trainingFailed z.1 s

/-- MEM_TRAINING_COMPLETE (R269, R270): the training of a cold boot or of a wake from retained sleep ends. A failed channel sets FAILED and sends the device-fault notice, and every open step ends by device fault (R438). -/
def execMemTrainingComplete (results : List Trained) (s : State) : Host.Outcome State Fault Refusal :=
  if !s.boot.started || rdB s 0x50008 63 then .next s else .next (trained results s)

end Sys2Proof.Machine
end

