-- ==== Sys2Proof/Machine/Regions.lean ====
section
/-! DEFINITION. Region registers and their ENABLE (R165, R211, R212, R223, R240, R283, R327, R429, R436, R378 step 7), and tenants as they are created (R343, R345, R387). -/

namespace Sys2Proof.Machine

/-- The registers that place a region and enable it. -/
def regionRegs : List Nat := [0x30000, 0x40000, 0x40008, 0x40020, 0x400008, 0x500008, 0x700008, 0x800028, 0xA00008]

/-- Does the region a value names fit where its register's rule puts it? Registers without such a rule take every place. -/
def regionFits (s : State) (a : Nat) (v : Word) : Bool :=
  match a with
  | 0x30000 => inScratch s (getBits v 47 12 * 4096) 327680
  | 0x40020 => inScratch s (getBits v 47 20 * 2 ^ 20) (getBits v 56 48 * 2 ^ 20)
  | 0x700008 => inScratch s (getBits v 47 17 * 2 ^ 17) 131072
  | 0xA00008 => inStack s (getBits v 47 20 * 2 ^ 20) (66 * 256 * 9216)
  | _ => true

/-- Write a region register: the place is taken, and ENABLE takes effect only if the region fits. HEM_POOL keeps its size when the size written is outside 16 to 256 MiB. -/
def writeRegion (a : Nat) (v : Word) (s : State) : State :=
  let lo := match a with
    | 0x40020 => 20
    | 0x700008 => 17
    | 0x800028 => 20
    | 0xA00008 => 20
    | 0x500008 => 13
    | _ => 12
  let s := wrF a 47 lo (getBits v 47 lo) s
  let s := if a = 0x40020 ∧ 16 ≤ getBits v 56 48 ∧ getBits v 56 48 ≤ 256 then wrF a 56 48 (getBits v 56 48) s else s
  wrB a 63 (getBit v 63 && regionFits s a (rd s a)) s

/-- REGION_ENABLE_WRITE (R165, R211, R212, R327, R436): a write of a region register. -/
def execRegionEnableWrite (addr : Nat) (value : Word) (s : State) : Host.Outcome State Fault Refusal :=
  if regionRegs.contains addr then .next (writeRegion addr value s) else .next s

/-- Place a region at an address and enable it. -/
def placeRegion (a at_ : Nat) (s : State) : State := writeRegion a (BitVec.ofNat 64 (2 ^ 63 + at_ % 2 ^ 48 + rdF s a 56 48 * 2 ^ 48)) s

/-- MBOX_CFG of a mailbox number. -/
def mboxCfg (m : Nat) : Nat := 0xA01008 + 0x10 * m

/-- A tenant's rows as tenant.create sets them (R343, R387, R399, R420): memory key, mailbox, route, weight and quota. -/
def makeTenant (t session weight quota : Nat) (s : State) : State :=
  let x := tenantOf s t
  let s := setTenant t { Tenant.none with live := true, qos := weight, quota := quota, keyGen := x.keyGen + 1, hasKey := true, measure := List.replicate 64 0 } s
  let s := wrB 0x900018 t true (wrB (mboxCfg t) 63 true (wr (0x800200 + 8 * t) 0 s))
  { s with routes := sput (fun _ => Route.all) s.routes t { Route.all with session := session } }

/-- The firmware sets its regions, enables its mailboxes, creates tenant 0 in profiles 00 and 10, and enables the plan engine (R345, R378 steps 7 and 8). Pages are those of the stacks above its arena. -/
def startFirmware (g : Regions) (s : State) : State :=
  let s := placeRegion 0xA00008 g.mbox (placeRegion 0x30000 g.census (placeRegion 0x40000 g.freeList (placeRegion 0x40008 g.refcnt s)))
  let s := placeRegion 0x40020 g.hem (placeRegion 0x500008 g.grammar (placeRegion 0x400008 g.pdir (placeRegion 0x700008 g.errlog s)))
  let s := if g.save = 0 then s else placeRegion 0x800028 g.save s
  let first := ceilDiv g.arenaEnd 65536
  let s := { s with arena := (g.arena, g.arenaEnd), allotted := [], freePages := if first < pageCount s then [(first, pageCount s - first)] else [] }
  let s := wrB (mboxCfg 64) 63 true (wrB (mboxCfg 65) 63 true s)
  let s := if rdF s 8 59 59 = 0 then makeTenant 0 0 1 (pageCount s) s else s
  wrF 0x8 63 61 4 s

end Sys2Proof.Machine
end

