-- ==== Sys2Proof/Machine/Boot.lean ====
section
/-! DEFINITION. Reset, rails, clocks, cold boot, the boot fetch, the image check, warm reset and controller restart (R12, R324, R333, R374 to R386, R392, R396 to R399, R427, R431, R461 to R467). -/

namespace Sys2Proof.Machine

/-- E of R398: SEC_STATUS.EPOCH. -/
def epoch (s : State) : Nat := rdF s 0x900000 31 0

/-- TH_STATUS.STATE. -/
def thState (s : State) : Nat := rdF s 0xC00000 63 61
/-- Is the device asleep? -/
def asleep (s : State) : Bool := decide (thState s = 2) || decide (thState s = 3)

/-- Tape nanoseconds of the watchdog's timeout. -/
def wdogNs (s : State) : Nat := rdF s 0xC00008 15 0 * 1000000

/-- Reload the watchdog (R427). -/
def reloadWdog (s : State) : State := { s with thimble := { s.thimble with wdogAt := some (s.tape + wdogNs s) } }

/-- Stop the watchdog (R427). -/
def stopWdog (s : State) : State := { s with thimble := { s.thimble with wdogAt := none } }

/-- Interfaces per port in a mode (R314). -/
def ifaces (mode : Nat) : Nat := 2 ^ mode

/-- Tick period of STRAP_TICK (R12). -/
def strapPeriod (k : Nat) : Nat := match k with
  | 0 => 250000
  | 1 => 125000
  | 2 => 500000
  | _ => 1000000

/-- Cap of STRAP_CAP in watts (R377). -/
def strapCap (k : Nat) : Nat := [600, 700, 800, 900, 950, 1000, 1050, 1100].getD k 950

/-- All rails, in the order they are turned on (R461). -/
def allRails : List Nat := [0, 1, 2, 3, 4, 5, 6]

/-- What nothing turns off: the waiting commands, the fuses, what stands on the board and in the stacks' repair resources, and the record of what left. -/
def husk (s : State) : State :=
  { State.reset with pending := s.pending, fuse := s.fuse, straps := s.straps, free := s.free, tape := s.tape, frac := s.frac, out := s.out, laneFuse := s.laneFuse, repaired := s.repaired, pins := s.pins }

/-- A state in which only the thimble runs (R421, R430, R462): what it holds stays. -/
def thimbleOnly (s : State) : State :=
  let t := { s.thimble with wdogAt := none, restarts := [], escalated := none }
  { husk s with thimble := t, pins := { s.pins with rails := [] }, regs := s.regs.filter (fun e => decide (0xC00000 ≤ e.1) && decide (e.1 < 0xD00000)) }

/-- The straps in force as registers (R12, R314, R377). -/
def applyStraps (s : State) : State :=
  let x := s.straps
  let s := wr 0x10 (BitVec.ofNat 64 (x.thimble % 2 * 2 ^ 11 + x.portmode % 4 * 2 ^ 9 + x.cap % 8 * 2 ^ 6 + x.profile % 4 * 2 ^ 4 + x.bootport % 4 * 2 ^ 2 + x.tick % 4)) s
  let s := wrF 0x8 60 59 (x.profile % 4) (wrF 0x100000 21 0 (strapPeriod (x.tick % 4)) (wrF 0x800000 10 0 (strapCap (x.cap % 8)) s))
  (List.range 8).foldl (fun s p => wrF (portCfg p) 57 56 (x.portmode % 4) s) s

/-- Bring a port's interfaces up. -/
def raiseLinks (p : Nat) (s : State) : State := wrF (portStatus p) 7 0 (2 ^ ifaces (rdF s (portCfg p) 57 56) - 1) s

/-- What a read of the unique device secret by the ROM's hardware gives (R392): zero from the firmware's entry to the next cold reset. -/
def deviceSecret (s : State) : List Byte := if s.secure.secretOpen then s.fuse.secret else zeros 32

/-- The keys of a cold reset (R392, R393, R399): M0 is measured, and the identity and KEM keys are derived from the unique device secret. -/
def freshKeys (draw : Word) (s : State) : State :=
  let s := { s with secure := { Secure.none with m0 := digest Config.romContents, certDraw := draw } }
  { s with secure := { s.secure with idSeed := kdf "TUITH-ID" (deviceSecret s) 48, kemSeed := kdf "TUITH-KEM" (deviceSecret s) 64 } }

/-- The boot from step 2 of R378: everything is dropped (R382), the rails come up in order (R461), the ROM runs, training begins, the port that STRAP_BOOTPORT names comes up. -/
def bootFrom2 (cause : Nat) (s : State) : State :=
  let f := fresh s
  let t := f.2
  let th := { Thimble.none with wakeKey := t.thimble.wakeKey, wakeNotice := t.thimble.wakeNotice }
  let last := rd t 0xC00018
  let s := { husk t with thimble := th, pins := { t.pins with rails := allRails, retryAt := none, railCause := false }, boot := { Boot.none with started := true, solicitAt := t.tape } }
  let s := applyStraps (wr 0xC00018 last (freshKeys f.1 s))
  let s := wr 0x18 (BitVec.ofNat 64 (cause * 2 ^ 57)) (wrF 0x40018 24 0 (pageCount s / 100) s)
  raiseLinks (rdF s 0x10 3 2) (reloadWdog (wrF 0x8 63 61 1 s))

/-- A cold reset that the thimble or the firmware starts (R351, R382, R383): nothing is kept, and the tape starts at 0. -/
def coldReset (cause : Nat) (s : State) : State := bootFrom2 cause { s with tape := 0, frac := 0, thimble := { s.thimble with wakeNotice := none } }

/-- RESET_N_ASSERT (R382, R384, R462, R467): overrides every other reset at once; the rails go off and FAULT_N is released. -/
def execResetNAssert (s : State) : Host.Outcome State Fault Refusal :=
  let p := { s.pins with resetLow := true, faultLow := false, rails := [], failures := 0, retryAt := none, clockLost := false }
  .next { husk s with tape := 0, frac := 0, pins := p }

/-- Sleep with memory off, the wake state of R430 and of STRAP_THIMBLE (R377, R378 step 1); the thimble keeps interface 0 of F0 up (R431). -/
def asleepOff (s : State) : State := wrF (portStatus 0) 7 0 1 (wrF 0xC00000 63 61 3 (wrF 0x8 63 61 7 (thimbleOnly s)))

/-- COLD_BOOT (R12, R351, R377, R378, R461): RESET_N deasserts, the tape starts at 0, the straps are sampled at 50,000 tape ns; with STRAP_THIMBLE the device sleeps until a wake frame. -/
def execColdBoot (straps : Straps) (s : State) : Host.Outcome State Fault Refusal :=
  if !s.pins.resetLow || s.pins.clockLost then .next s
  else
    let cause := if s.pins.railCause then 10 else 0
    let s := { husk s with straps := straps, tape := 50000, frac := 0, pins := { s.pins with resetLow := false } }
    if straps.thimble % 2 = 1 then .next (applyStraps (asleepOff s))
    else .next (bootFrom2 cause s)

/-- Is the device awake (TH_STATUS.STATE 0 with its rails on)? -/
def awake (s : State) : Bool := decide (rdF s 0xC00000 63 61 = 0) && !s.pins.rails.isEmpty

/-- A thermal notice (R350 type 20). -/
def thermalNotice (action channel temp : Nat) (s : State) : State :=
  notify 20 55 [] 0xFFFF 0xFFFF (leBytes 1 action ++ leBytes 1 channel ++ leBytes 2 temp) s

/-- An awake device queues the thermal notice of a rail failure (R463). The notice's temperature, of no channel, is a free value. -/
def railNotice (s : State) : State :=
  if awake s then
    let f := fresh s
    thermalNotice 3 0xFF (f.1.toNat % 2 ^ 16) f.2
  else s

/-- The rails go off and FAULT_N goes low (R462, R463); the third consecutive failure is not retried. -/
def railsFail (s : State) : State :=
  let n := s.pins.failures + 1
  { thimbleOnly s with pins := { s.pins with rails := [], faultLow := true, failures := n, railCause := true, retryAt := if n < 3 then some (s.tape + 1000000000) else none } }

/-- RAIL_FAILURE (R462, R463): every other domain is held, the rails go off, FAULT_N goes low. -/
def execRailFailure (rail : Nat) (s : State) : Host.Outcome State Fault Refusal :=
  if s.pins.resetLow || !(s.pins.rails.contains rail) then .next s else .next (railsFail (railNotice s))

/-- RAIL_RETRY (R463): one second after a rail failure the power-up is tried again; a rail that fails again counts, and after the third failure in a row the thimble waits for RESET_N. -/
def execRailRetry (failing : Option Nat) (s : State) : Host.Outcome State Fault Refusal :=
  match s.pins.retryAt with
  | none => .next s
  | some t =>
    let s := { s with tape := tapeTo t s }
    match failing with
    | some _ =>
      let n := s.pins.failures + 1
      .next { s with pins := { s.pins with failures := n, retryAt := if n < 3 then some (s.tape + 1000000000) else none } }
    | none => .next (bootFrom2 10 { s with pins := { s.pins with failures := 0, faultLow := false } })

/-- CLK100_LOSS (R466): power down, FAULT_N low, every domain held until RESET_N; the tape is lost. -/
def execClk100Loss (s : State) : Host.Outcome State Fault Refusal :=
  .next { husk s with tape := 0, frac := 0, pins := { s.pins with rails := [], faultLow := true, clockLost := true, retryAt := none } }

/-- Ports of a die. -/
def diePorts (back : Bool) : List Nat := if back then [4, 5, 6, 7] else [0, 1, 2, 3]

/-- Move connections off interfaces that are down to the next one that is up (R361). -/
def moveConns (s : State) : State :=
  { s with conns := s.conns.map (fun e =>
      if backUp s e.2.port e.2.iface then e
      else match nextBack s (8 * e.2.port + e.2.iface + 1) with
        | some k => (e.1, { e.2 with port := k / 8, iface := k % 8 })
        | none => e) }

/-- REFCLK_LOSS (R361, R466): the links of that die's ports go down and nothing else; connections on them move as after any loss of link. -/
def execRefclkLoss (back : Bool) (s : State) : Host.Outcome State Fault Refusal :=
  let p := if back then { s.pins with refBack := false } else { s.pins with refFront := false }
  let s := (diePorts back).foldl (fun s p => wrF (portStatus p) 7 0 0 s) { s with pins := p }
  .next (if back then moveConns s else s)

/-- LINK_STATE_CHANGE (R314, R324, R361, R431): an interface of the port's mode gains or loses link, asleep interface 0 of F0 alone; connections leave an interface that is down for the next one that is up. -/
def execLinkStateChange (back : Bool) (port iface : Nat) (up : Bool) (s : State) : Host.Outcome State Fault Refusal :=
  let p := (if back then 4 else 0) + port
  if 4 ≤ port ∨ ifaces (rdF s (portCfg p) 57 56) ≤ iface ∨ (up ∧ rdB s (portCfg p) 63) ∨ (asleep s ∧ (p ≠ 0 ∨ iface ≠ 0)) then .next s
  else
    let q := if back then { s.pins with refBack := s.pins.refBack || up } else { s.pins with refFront := s.pins.refFront || up }
    let s := wrB (portStatus p) iface up { s with pins := q }
    .next (if back then moveConns s else s)

/-- Every line of the stacks is zero, under the device key, and no line is poisoned (R269). -/
def zeroFilled (regions : Regions) (s : State) : State :=
  wrB 0x50008 62 true { s with mem := s.mem.filter (fun c => decide (scratchBase ≤ c.1)), poison := s.poison.filter (fun a => decide (scratchBase ≤ a)), lineKey := [], devKey := 0, zeroRegions := some regions }

/-- ZERO_FILL_COMPLETE (R269, R378 step 7): every line of the stacks is zero; the firmware, once entered, sets its regions and runs. -/
def execZeroFillComplete (regions : Regions) (s : State) : Host.Outcome State Fault Refusal :=
  if !(rdB s 0x50008 63) || rdB s 0x50008 62 then .next s
  else if s.boot.entered && decide (rdF s 8 63 61 = 3) then .next (reloadWdog (startFirmware regions (zeroFilled regions s)))
  else .next (zeroFilled regions s)

/-- Is the boot fetch under way (R333)? -/
def fetching (s : State) : Bool := s.boot.started && !s.boot.entered && decide (rdF s 8 63 61 = 1)

/-- A boot message (R319, R320, R329, R333): TYPE 5, MAILBOX 0xFFFF, CLEAR, the next MSN, and 16 bytes of SHAKE256 over header and payload in place of the tag. -/
def bootMessage (command : Nat) (payload : List Byte) (s : State) : Datagram :=
  let d := { mkMsg 5 0xFFFF 0 command 0 0 s.tape payload with flags := 256, msn := s.boot.txMsn }
  { d with tag := padTo (Config.shake256 (headerBytes d ++ payload)) 16 }

/-- The IPv6 all-nodes link-local group, FF02::1, least byte first (R379). -/
def allNodes : Nat := 0xFF + 0x02 * 2 ^ 8 + 2 ^ 120

/-- Send a boot message by interface 0 of the boot port (R333, R378, R379): to the service whose OFFER was taken, or to all nodes on the Obush port. -/
def sendBoot (command : Nat) (payload : List Byte) (s : State) : State :=
  let p := rdF s 0x10 3 2
  let dest : Peer := s.boot.service.getD ⟨p, 0, allNodes, obushPort s⟩
  let frame := wireOf s p 0 true (obushPort s) dest.udp
  emitOut (.boot (bootMessage command payload s) { dest with port := p, iface := 0 } frame)
    (bump (0xA02018 + 0x100 * p) 1 (bump 0xA00020 1 { s with boot := { s.boot with txMsn := (s.boot.txMsn + 1) % 2 ^ 32 } }))

/-- The ordering code (R3): 16 bytes of ASCII. -/
def orderingCode (s : State) : List Byte := padTo (ascii (if s.fuse.stackGiB = 64 then "T2448-64Q" else "T2448-32Q")) 16

/-- BOOT_SOLICIT (R379, R381): SOLICIT goes out, once a second while no OFFER has arrived, and a second after a rejected image. -/
def execBootSolicit (s : State) : Host.Outcome State Fault Refusal :=
  if !(fetching s) || s.boot.service.isSome then .next s
  else
    let s := { s with tape := tapeTo s.boot.solicitAt s }
    let s := sendBoot 1 (idBytes s ++ orderingCode s ++ leBytes 4 s.fuse.romVersion) s
    .next { s with boot := { s.boot with solicitAt := s.tape + 1000000000 } }

/-- Send REQUESTs until 32 are outstanding or every block is asked for (R379). -/
def askBlocks : Nat → State → State
  | 0, s => s
  | f + 1, s =>
    let b := s.boot
    if 32 ≤ b.asked.length ∨ b.imageBytes ≤ b.nextOffset then s
    else
      let want := min b.blockBytes (b.imageBytes - b.nextOffset)
      let s := sendBoot 3 (leBytes 4 b.nextOffset ++ leBytes 4 want) s
      askBlocks f { s with boot := { s.boot with asked := b.asked ++ [⟨b.nextOffset, want, s.tape, 0⟩], nextOffset := b.nextOffset + want } }

/-- Take an OFFER that names the device (R379, R381): the fetch begins. -/
def takeOffer (d : Datagram) (a : Arrival) (s : State) : State :=
  let size := leAt d.payload 8 4
  let block := leAt d.payload 12 2
  let shut := s.boot.ignored.any (fun x => x.1 == a.peer && !(tapePast s x.2))
  if s.boot.service.isSome || shut || decide (slice d.payload 0 8 ≠ idBytes s) || decide (size < 1) || decide (3670016 < size) || decide (block < 1024) || decide (9088 < block)
  then s
  else
    let s := bump 0x30 1 { s with boot := { s.boot with service := some a.peer, imageBytes := size, blockBytes := block, nextOffset := 0, asked := [], blocks := [] } }
    askBlocks 32 s

/-- The fetched image. -/
def imageBytesOf (s : State) : List Byte := (s.boot.blocks.map (fun e => e.2)).flatten

/-- Is a certificate a Falcon-1024 certificate of one of some kinds (R395)? -/
def certKind (kinds : List Nat) (cert : List Byte) : Bool :=
  decide (leAt cert 0 4 = 0x54524354) && kinds.contains (leAt cert 4 1) && decide (leAt cert 5 1 = 1) && decide (leAt cert 6 2 = 1793)

/-- How signatures are judged (R392, R394): under a public key, and under the Crenko root, of whose public key the device holds the digest. -/
structure Verifier where
  under : List Byte → List Byte → List Byte → Bool
  root : List Byte → List Byte → Bool

/-- The verifier of the signatures a command brings the standard's verdict on. -/
def verifier (s : State) (v : Verified) : Verifier :=
  ⟨fun k m g => v.contains (k, m, g), fun m g => v.any (fun x => decide (digest x.1 = s.fuse.rootDigest) && x.2 == (m, g))⟩

/-- Public key of a Falcon certificate (R395). -/
def certKey (cert : List Byte) : List Byte := slice cert 64 1793

/-- A signature over a domain string and data (R394). -/
def signedBy (w : Verifier) (key : List Byte) (domain : String) (x sig : List Byte) : Bool := w.under key (ascii domain ++ x) sig

/-- Does a certificate verify under the root (R395)? -/
def rootSigned (w : Verifier) (cert : List Byte) : Bool := w.root (ascii "TUITH-CERT" ++ slice cert 0 1857) (slice cert 1857 1280)

/-- Is a certificate issued by an owner: does it name the owner as its issuer, and verify under the owner's key (R395)? -/
def ownerSigned (w : Verifier) (owner cert : List Byte) : Bool :=
  decide (slice cert 16 8 = slice owner 8 8) && signedBy w (certKey owner) "TUITH-CERT" (slice cert 0 1857) (slice cert 1857 1280)

/-- An owner certificate (R397): kind 6, verified under the root, with the fused owner id where one is fused. -/
def ownerCertSound (s : State) (w : Verifier) (cert : List Byte) : Bool :=
  certKind [6] cert && (decide (s.fuse.ownerId = 0) || decide (leAt cert 48 4 = s.fuse.ownerId)) && rootSigned w cert

/-- A signer certificate of one of the two kinds of R397. -/
def signerCertSound (s : State) (w : Verifier) (cert : List Byte) : Bool := (certKind [5] cert && rootSigned w cert) || ownerCertSound s w cert

/-- The header checks of R381 and the signature trailer of R397, at trail. -/
def codeSound (s : State) (w : Verifier) (img : List Byte) (trail : Nat) : Bool :=
  let code := leAt img 12 4
  let cert := slice img (trail + 8) 3137
  decide (leAt img 0 4 = 0x4D555242) && decide (code ≤ 0x380000) && decide (leAt img 16 4 < code) && decide (1 ≤ leAt img 8 1)
    && decide (64 ≤ trail) && decide (trail + 4425 ≤ img.length) && decide (leAt img trail 4 = 0x4C525454) && decide (leAt img (trail + 4) 4 = 4425)
    && signerCertSound s w cert && signedBy w (certKey cert) "TUITH-FW" (img.take trail) (slice img (trail + 3145) 1280)

/-- The checks of R381, R395, R397 and R398 on an image for this device; whether the ciphertext of its owner record opens comes with the command. -/
def imageSound (s : State) (w : Verifier) (opens : Bool) (img : List Byte) : Bool :=
  let trail := leAt img 20 4
  let rec_ := trail + 4425
  let owner := slice img (rec_ + 1624) 3137
  codeSound s w img trail && decide (img.length = rec_ + 6041) && decide (leAt img rec_ 4 = 0x524E574F) && decide (slice img (rec_ + 8) 8 = idBytes s)
    && opens && ownerCertSound s w owner && signedBy w (certKey owner) "TUITH-BOOT" (slice img rec_ 1624) (slice img (rec_ + 4761) 1280)

/-- Set FW_VERSION and FAB_STATUS.OWN_LEVEL from an image's header (R370, R381). -/
def showVersion (img : List Byte) (s : State) : State :=
  wrF 0xB00010 47 40 (leAt img 8 1) (wr 0x28 (BitVec.ofNat 64 (leAt img 8 1 * 2 ^ 32 + leAt img 4 4)) s)

/-- A wake's thermal notice goes once the session that the operator's notices take is established again (R424). -/
def oweWakeNotice (mailbox session : Nat) (s : State) : State :=
  match s.thimble.wakeNotice with
  | none => s
  | some z =>
    if mailbox = operatorBox ∧ session = (sget (fun _ => Route.all) s.routes operatorBox).session then
      thermalNotice 2 z.1 z.2 { s with thimble := { s.thimble with wakeNotice := none } }
    else s

/-- Establish operator session 0 from the owner record (R398): a fresh key for each epoch. -/
def operatorSession (s : State) : State :=
  let k := kdf "TUITH-OPS" (s.secure.shared ++ idBytes s ++ leBytes 4 (epoch s)) 36
  let x := { Session.none with live := true, key := k.take 32, salt := (k.drop 32).take 4, windOk := rdB s 0x900000 57, cred := false }
  oweWakeNotice operatorBox 0 (bump 0x900028 1 (setSession (sessionKey 64 0) x s))

/-- Bind the owner record of an accepted image (R398, R399, R431). -/
def bindOwner (record : List Byte) (s : State) : State :=
  let ss := Config.kemOpen s.secure.kemSeed (slice record 56 1568)
  let secret := xorBytes (slice record 24 32) (kdf "TUITH-FAB" (ss ++ idBytes s) 32)
  let pol := leAt record 16 1 % 4
  let s := { s with secure := { s.secure with m2 := digest record, ownerCert := slice record 1624 3137, fabricSecret := secret, shared := ss } }
  let s := { s with thimble := { s.thimble with wakeKey := some (kdf "TUITH-WAKEKEY" (secret ++ idBytes s) 32) } }
  operatorSession (wrB 0x900000 63 true (wrF 0x900000 57 56 pol s))

/-- The ROM accepts the image (R374, R378 step 6, R392, R399): measured, protected, its owner record bound, entered. -/
def acceptImage (img : List Byte) (s : State) : State :=
  let trail := leAt img 20 4
  let s := { s with secure := { s.secure with firmware := img.take trail, protected_ := true, m1 := digest (img.take trail), m3 := List.replicate 64 0, signerCert := slice img (trail + 8) 3137, secretOpen := false } }
  let s := showVersion img (bindOwner (slice img (trail + 4425) 6041) s)
  wrF 8 63 61 3 { s with boot := { Boot.none with started := true, entered := true, txMsn := s.boot.txMsn, seen := s.boot.seen } }

/-- The accepted image is entered (R378 steps 6 to 8); if the stacks are already zero the firmware goes on to run. -/
def enterFirmware (img : List Byte) (s : State) : State :=
  match s.zeroRegions with
  | some g => reloadWdog (startFirmware g (acceptImage img s))
  | none => acceptImage img s

/-- The ROM rejects the image (R381): counted, the service ignored for 60 s, SOLICIT after 1 s. -/
def rejectImage (s : State) : State :=
  let b := s.boot
  let shut := (b.service.map (fun p => [(p, s.tape + 60000000000)])).getD []
  bump 0x38 1 (wrF 8 63 61 1 { s with boot := { b with service := none, asked := [], blocks := [], imageBytes := 0, solicitAt := s.tape + 1000000000, ignored := b.ignored ++ shut } })

/-- Store a BLOCK that answers an outstanding REQUEST, and check the image once it is whole (R379, R381). -/
def takeBlock (d : Datagram) (a : Arrival) (w : Verifier) (opens : Bool) (s : State) : State :=
  let off := leAt d.payload 0 4
  let bytes := d.payload.drop 4
  if s.boot.service ≠ some a.peer then s
  else
    match s.boot.asked.find? (fun q => q.offset == off && q.want == bytes.length) with
    | none => s
    | some q =>
      let s := { s with boot := { s.boot with asked := s.boot.asked.erase q, blocks := sinsert s.boot.blocks off bytes } }
      let s := askBlocks 32 s
      if !s.boot.asked.isEmpty then s
      else
        let img := imageBytesOf s
        let s := wrF 8 63 61 2 s
        if imageSound s w opens img then enterFirmware img s else rejectImage s

/-- The receipt of a boot message (R325 step 1, R333): its place, header, tag and number; the answer says whether it goes on. -/
def bootReceipt (d : Datagram) (a : Arrival) (s : State) : Bool × State :=
  if asleep s then (false, s)
  else
  let s := bump 0xA00018 1 s
  let tag := (Config.shake256 (headerBytes d ++ d.payload)).take 16
  if !(fetching s) || decide (d.magic ≠ 0x4F42) || decide (d.version ≠ 1) || decide (d.type ≠ 5) || decide (d.mailbox ≠ 0xFFFF) || !(flagClear d.flags)
    || decide (9120 < d.length) || decide (d.length + 56 ≠ a.udpLength) || decide (a.peer.port ≠ rdF s 0x10 3 2) || decide (a.peer.iface ≠ 0) || decide (a.dest ≠ linkLocal s (rdF s 0x10 3 2) 0)
  then (false, bump 0xA00028 1 s)
  else if d.tag ≠ tag then (false, bump 0xA00030 1 s)
  else if s.boot.seen.contains d.msn then (false, bump 0xA00038 1 s)
  else (true, { s with boot := { s.boot with seen := insNat s.boot.seen d.msn } })

/-- BOOT_OFFER (R333, R379): an OFFER that names the device is taken and REQUESTs go out. -/
def execBootOffer (d : Datagram) (a : Arrival) (s : State) : Host.Outcome State Fault Refusal :=
  let r := bootReceipt d a s
  if r.1 && decide (d.command = 2) then .next (takeOffer d a r.2) else .next r.2

/-- BOOT_REQUEST_TIMEOUT (R379): a REQUEST unanswered for 10 ms is sent again; after 16 resends the fetch is abandoned. -/
def execBootRequestTimeout (offset : Nat) (s : State) : Host.Outcome State Fault Refusal :=
  match s.boot.asked.find? (fun q => q.offset == offset) with
  | none => .next s
  | some q =>
    let s := { s with tape := tapeTo (q.sent + 10000000) s }
    if 16 ≤ q.resends then .next { s with boot := { s.boot with service := none, asked := [], blocks := [], solicitAt := s.tape } }
    else
      let s := sendBoot 3 (leBytes 4 q.offset ++ leBytes 4 q.want) s
      .next { s with boot := { s.boot with asked := s.boot.asked.map (fun x => if x = q then { q with sent := s.tape, resends := q.resends + 1 } else x) } }

/-- BOOT_BLOCK (R333, R379, R381, R397 to R399): a BLOCK is stored, and a whole image is checked and entered or rejected. -/
def execBootBlock (d : Datagram) (a : Arrival) (sigOk : Verified) (recordOk : Bool) (s : State) : Host.Outcome State Fault Refusal :=
  let r := bootReceipt d a s
  if r.1 && decide (d.command = 4) then .next (takeBlock d a (verifier s sigOk) recordOk r.2) else .next r.2

/-- BOOT_MESSAGE_RECEIVE (R333): a TYPE 5 message is checked and handed to the fetch. Whether signatures in an image it completes verify is a free value. -/
def execBootMessageReceive (d : Datagram) (a : Arrival) (s : State) : Host.Outcome State Fault Refusal :=
  let r := bootReceipt d a s
  if !r.1 then .next r.2
  else if d.command = 2 then .next (takeOffer d a r.2)
  else if d.command = 4 then
    let f := fresh r.2
    .next (takeBlock d a ⟨fun _ _ _ => getBit f.1 0, fun _ _ => getBit f.1 1⟩ (getBit f.1 2) f.2)
  else .next r.2

/-- Registers and fields a warm reset keeps (R382, R10, R398, R408, R410, R432): offset, high bit, low bit. -/
def warmKept : List (Nat × Nat × Nat) :=
  [(0x8, 60, 59), (0x10, 63, 0), (0x28, 63, 0), (0x50008, 63, 63), (0x50008, 61, 61), (0x50008, 17, 0), (0x100000, 21, 0), (0x100010, 63, 0), (0x800000, 63, 63), (0x800000, 47, 32), (0x800000, 10, 0),
   (0x800008, 47, 32), (0x800008, 15, 0), (0x900000, 63, 62), (0x900000, 57, 56), (0x900000, 31, 0), (0xB00010, 47, 40), (0xC00018, 63, 0)]
  ++ (List.range 8).map (fun p => (portStatus p, 7, 0)) ++ (List.range 8).map (fun p => (portCfg p, 57, 56))
  ++ ((List.range 384).map (fun c => [(chStatus c, 63, 62), (chStatus c, 59, 44)])).flatten

/-- A warm reset (R342, R382, R398, R399, R410): what R382 keeps is kept, the stacks are zero-filled, E rises, and the firmware starts again in its kept image. -/
def warmReset (cause : Nat) (s : State) : State :=
  let kept := warmKept.foldl (fun t k => wrF k.1 k.2.1 k.2.2 (rdF s k.1 k.2.1 k.2.2) t) (husk s)
  let th := { s.thimble with restarts := [], heldFrames := [], escalated := if cause = 6 then some s.tape else s.thimble.escalated }
  let t := { kept with thimble := th, trainedAt := s.trainedAt, trainedTemp := s.trainedTemp, offsets := s.offsets, failing := s.failing, unspared := s.unspared, retrainDue := s.retrainDue.filter (fun c => !(failingOf s c).isEmpty), power := { Power.none with cap := s.power.cap }, secure := { s.secure with m3 := List.replicate 64 0 }, boot := { Boot.none with started := true, entered := true } }
  let t := wrF 0x900000 31 0 (epoch s + 1) (wr 0x18 (BitVec.ofNat 64 (1 * 2 ^ 61 + cause * 2 ^ 57)) t)
  operatorSession (reloadWdog (wrF 8 63 61 3 t))

/-- WARM_RESET (R342, R382, R383, R384): a warm reset that was ordered starts, at the acknowledgement of its response or when its time is up. recordOk says that the image's digest equals the cold-boot measurement; if not, a cold reset follows instead. -/
def execWarmReset (recordOk : Bool) (s : State) : Host.Outcome State Fault Refusal :=
  match s.warmDue with
  | none => .next s
  | some w =>
    let s := if w.acked then s else runTo w.by_ s
    .next (if recordOk then warmReset w.cause s else coldReset 5 s)

/-- The planner's working state goes (R382): its draft, its turns and deficits, and where the controller stood in the mailboxes. -/
def dropPlanner (s : State) : State :=
  { s with plan := [], core2 := false, turn := 63, boxTurn := 63, tenants := s.tenants.map (fun e => (e.1, { e.2 with deficit := 0 })) }

/-- The thimble begins a controller restart (R339, R383): counted and noticed, the cores are held, the planner's working state is gone; a fifth within 10 s escalates to a warm reset, one within 10 s of such a warm reset to a cold reset. -/
def restart (cause : Nat) (s : State) : State :=
  let recent := s.thimble.restarts.filter (fun t => serialAtLeast 64 (t + 10000000000) s.tape)
  let late := match s.thimble.escalated with
    | some t => serialAtLeast 64 (t + 10000000000) s.tape
    | none => false
  let s := bump 0x40 1 (wr 0x18 (BitVec.ofNat 64 (2 * 2 ^ 61 + cause * 2 ^ 57)) s)
  let s := notify 22 55 [] 0xFFFF 0xFFFF (leBytes 4 s.missedRun) s
  if late then coldReset 6 s
  else
    let s := wrF 0x100020 15 0 0 (wrF 8 63 61 6 (dropPlanner s))
    if 4 ≤ recent.length then { s with warmDue := some ⟨6, s.tape, 0, 0, false⟩, thimble := { s.thimble with restarts := [] } }
    else reloadWdog { s with thimble := { s.thimble with restarts := recent ++ [s.tape] } }

/-- Does the restart rule apply (R380): from step 8 of R378 on, in the update pause (R386) and in a restart as well (R427), unless that has escalated? -/
def restartable (s : State) : Bool := [4, 5, 6].contains (rdF s 8 63 61) && !(s.warmDue.any (fun w => decide (w.cause = 6)))

/-- The journal is settled (R339): a cancel, a pin and a forced unload commit as they are carried out, so those that still wait are answered with 0x0104 and have no effect; a tenant.reset (R384) and a margin run, begun when they were taken, go on (log entry 31). -/
def settleJournal (s : State) : State :=
  let s := (s.seqs.filter (fun e => !(e.2.cancel.isEmpty && e.2.pin.isEmpty))).foldl (fun s e =>
    settleAll (e.2.cancel ++ e.2.pin.map (fun p => p.1)) 0x0104
      (setSeq e.1 { seqOf s e.1 with cancel := [], pin := [], cancelPending := e.2.cancelPending && e.2.cancel.isEmpty } s)) s
  (s.models.filter (fun e => !e.2.unload.isEmpty)).foldl (fun s e =>
    settleAll e.2.unload 0x0104 (setModel e.1 { modelOf s e.1 with unload := [] } s)) s

/-- The version and level of the running firmware. -/
def fwVersion (s : State) : Nat := rdF s 0x28 31 0

/-- The staged firmware image of n bytes. -/
def stagedFirmware (s : State) (n : Nat) : List Byte :=
  match s.fwStage with
  | none => []
  | some a => bytesAs s (deviceCtx s) a n

/-- The controller's reads of n staged bytes: they allocate in the cache (R264). -/
def readStage (n : Nat) (s : State) : State :=
  match s.fwStage with
  | none => s
  | some a => touchRange true (deviceCtx s) a n s

/-- Give up the firmware stage, if one is allotted (R385). -/
def freeStage (stage : Option Nat) (s : State) : State :=
  match stage with
  | some a => freeBlock a s
  | none => s

/-- The staged code is copied, measured and entered, its stage is given up, the update is noticed, and the device serves again (R385, R386, R399). -/
def takeUpdate (u : Update) (s : State) : State :=
  let img := stagedFirmware s u.bytes
  let s := readStage u.bytes s
  let stage := s.fwStage
  let trail := leAt img 20 4
  let d := digest (img.take trail)
  let s := { s with secure := { s.secure with firmware := img.take trail, m1 := d, m3 := extend s.secure.m3 3 d, signerCert := slice img (trail + 8) 3137, damaged := false } }
  let s := bump 0x48 1 (showVersion img s)
  let s := freeStage stage s
  let live := (s.tenants.filter (fun e => e.2.live)).map (fun e => e.1)
  let s := notify 21 54 live 0xFFFF 0xFFFF (leBytes 1 1 ++ leBytes 3 0 ++ leBytes 4 (fwVersion s)) s
  wrF 8 63 61 4 { s with fwStage := none, update := none, missedRun := 0 }

/-- Is the device in the pause of a firmware update (R385)? -/
def inPause (s : State) : Bool := (s.update.map (fun u => u.paused)).getD false

/-- CONTROLLER_RESTART (R339, R382, R383, R385, R386): the held cores' firmware region is checked, the journal is settled and the firmware runs again; in an update pause it is the new image that runs. After a wake from retained sleep it waits for the channels' training (R429). -/
def execControllerRestart (s : State) : Host.Outcome State Fault Refusal :=
  if rdF s 8 63 61 ≠ 6 ∨ rdF s 0xC00000 63 61 = 4 ∨ (s.warmDue.any (fun w => decide (w.cause = 6))) then .next s
  else if s.secure.damaged then .next (coldReset 5 s)
  else
    let s := settleJournal s
    let s := reloadWdog (wrF 8 63 61 4 { s with thimble := { s.thimble with sealDue := true } })
    match s.update with
    | some u => .next (if u.paused then takeUpdate u s else s)
    | none => .next s

/-- WATCHDOG_EXPIRY (R380, R383, R386, R427): the watchdog runs out. -/
def execWatchdogExpiry (s : State) : Host.Outcome State Fault Refusal :=
  match s.thimble.wdogAt with
  | none => .next s
  | some t => if restartable s then .next (restart 3 (runTo t s)) else .next s

/-- An uncorrectable word of the private memory: which word it is, a free value says; one of the firmware region fails the restart's check (R374, R383). -/
def damageWord (s : State) : State :=
  let f := fresh s
  if f.1.toNat % 2 ^ 22 < 0x380000 then { f.2 with secure := { f.2.secure with damaged := true } } else f.2

/-- PRIVATE_MEMORY_UNCORRECTABLE (R374, R383): an uncorrectable word in the 4 MiB private memory. -/
def execPrivateMemoryUncorrectable (s : State) : Host.Outcome State Fault Refusal :=
  if !(restartable s) then .next s else .next (restart 4 (damageWord s))

/-- MISSED_TICK_LIMIT (R20, R383): 4 consecutive missed ticks restart the controller. -/
def execMissedTickLimit (s : State) : Host.Outcome State Fault Refusal :=
  if 4 ≤ s.missedRun ∧ serving s ∧ !s.thimble.sealDue then .next (restart 2 s) else .next s

end Sys2Proof.Machine
end

