-- ==== Sys2Proof/Machine/Sampler.lean ====
section
/-! DEFINITION. The sampler (R237 to R245) and the commit of a step (R21, R173, R213 to R215, R233 to R235, R239, R242 to R245). -/

namespace Sys2Proof.Machine

/-- One step of R238's mixer. -/
def mixStep (x : Word) (sh : Nat) (m : Word) : Word := (x ^^^ (x >>> sh)) * m

/-- g of R238: seed and position. -/
def drawValue (seed n : Nat) : Nat :=
  let x : Word := BitVec.ofNat 64 seed ^^^ (BitVec.ofNat 64 n * 0x9E3779B97F4A7C15#64)
  let x := mixStep x 30 0xBF58476D1CE4E5B9#64
  let x := mixStep x 27 0x94D049BB133111EB#64
  let x := x ^^^ (x >>> 31)
  (x >>> 40).toNat

/-- A grammar state as its record gives it (R240): its ranges as LO, HI, NEXT, and ACCEPT. -/
structure GState where
  ranges : List (Nat × Nat × Nat)
  accept : Bool
  poison : Bool
  deriving DecidableEq, Repr

/-- n bytes as the device context reads them (R405). -/
def devLe (s : State) (a n : Nat) : Nat := peekAs s (deviceCtx s) a n

/-- Address of grammar descriptor g (R240). -/
def grammarDesc (s : State) (g : Nat) : Nat := rdF s 0x500008 47 13 * 8192 + 32 * g

/-- The record of state k of grammar g (R240). -/
def grammarState (s : State) (g k : Nat) : GState :=
  let d := grammarDesc s g
  let rec_ := devLe s d 6 + 8 * k
  let w := devLe s rec_ 8
  let first := natBits w 31 0
  let n := natBits w 47 32
  let arr := devLe s (d + 6) 6
  let ranges := (List.range n).map (fun i =>
    let e := devLe s (arr + 8 * (first + i)) 8
    (natBits e 17 0, natBits e 35 18, natBits e 59 36))
  ⟨ranges, natBits w 48 48 == 1, anyPoison s d 32 || anyPoison s rec_ 8 || anyPoison s (arr + 8 * first) (8 * n)⟩

/-- What reading state k of grammar g touches: its descriptor, its record and its ranges (R240). -/
def grammarRanges (s : State) (g k : Nat) : List (Nat × Nat) :=
  let d := grammarDesc s g
  let rec_ := devLe s d 6 + 8 * k
  let w := devLe s rec_ 8
  [(d, 32), (rec_, 8), (devLe s (d + 6) 6 + 8 * natBits w 31 0, 8 * natBits w 47 32)]

/-- Is a token in one of a state's ranges? -/
def grammarAllows (g : GState) (i : Nat) : Bool := g.ranges.any (fun r => decide (r.1 ≤ i) && decide (i ≤ r.2.1))

/-- The state that follows a token. -/
def grammarNext (g : GState) (i : Nat) : Nat :=
  ((g.ranges.find? (fun r => decide (r.1 ≤ i) && decide (i ≤ r.2.1))).map (fun r => r.2.2)).getD 0

/-- Does token i with value x rank ahead of token j with value y (R237 stage 3)? -/
def ranksBefore (x : F32) (i : Nat) (y : F32) (j : Nat) : Bool :=
  if fLt y x then true else if fLt x y then false else decide (i < j)

/-- Insert a token in rank order. -/
def rankPut (e : Nat × F32) : List (Nat × F32) → List (Nat × F32)
  | [] => [e]
  | h :: t => if ranksBefore e.2 e.1 h.2 h.1 then e :: h :: t else h :: rankPut e t

/-- The ranking of allowed tokens (R237 stage 3). -/
def ranking (xs : List (Nat × F32)) : List (Nat × F32) := xs.foldl (fun acc e => rankPut e acc) []

/-- The running fp32 sums of a list. -/
def runningSums : F32 → List F32 → List F32
  | _, [] => []
  | a, x :: xs => let b := fAdd a x; b :: runningSums b xs

/-- Z of R237: blocks of 1,024 token ids, each block's exact sum rounded once, the blocks added in ascending order. -/
def softSum (zs : List (Nat × F32)) (m : F32) (vocab : Nat) : F32 :=
  let block (b : Nat) : F32 :=
    exactSum ((zs.filter (fun e => e.1 / 1024 == b)).map (fun e => fExp (fSub e.2 m)))
  match (List.range (ceilDiv vocab 1024)).map block with
  | [] => 0#32
  | b :: bs => bs.foldl fAdd b

/-- Candidates up to and including the first whose running probability reaches the limit (R237 stage 4). -/
def keptSet : List ((Nat × F32) × F32) → F32 → List (Nat × F32)
  | [], _ => []
  | (e, c) :: r, lim => if !(fIsNaN c) && !(fLt c lim) then [e] else e :: keptSet r lim

/-- The first kept token whose running weight exceeds the threshold, else the last (R237 stage 5). -/
def pick : List ((Nat × F32) × F32) → F32 → Nat
  | [], _ => 0
  | [(e, _)], _ => e.1
  | (e, c) :: r, th => if fLt th c then e.1 else pick r th

/-- What a draw gives: a token, and whether its weight was zero or not finite (R239); none when no token is allowed. -/
structure Drawn where
  token : Nat
  degenerate : Bool
  /-- r = 1 ÷ T overflowed and some z is no number: the specification states no ranking, and the draw is a free choice among the allowed tokens -/
  open_ : Bool
  deriving DecidableEq, Repr

/-- Stages 2 to 5 of R237 over the allowed tokens with their logits; no allowed token gives none. -/
def drawToken (par : SeqParams) (vocab n : Nat) (xs : List (Nat × F32)) : Option Drawn :=
  if fIsZero par.temp then (ranking xs).head?.map (fun e => ⟨e.1, false, false⟩)
  else
    let r := fDiv one32 par.temp
    let zs := xs.map (fun e => (e.1, fMul e.2 r))
    if zs.any (fun e => fIsNaN e.2) then zs.head?.map (fun e => ⟨e.1, false, true⟩)
    else
      let rk := ranking zs
      match rk with
      | [] => none
      | top :: _ =>
        let m := top.2
        let z := softSum zs m vocab
        let cand := rk.take (if par.topK = 0 then 256 else par.topK)
        let ws := cand.map (fun e => fExp (fSub e.2 m))
        let cs := runningSums 0#32 (ws.map (fun w => fDiv w z))
        let lim := fRound .nearestEven false ⟨par.topP, 16⟩
        let kept := keptSet (cand.zip cs) lim
        let sums := runningSums 0#32 (kept.map (fun e => fExp (fSub e.2 m)))
        let w := sums.getLast?.getD 0#32
        if m = negInf ∨ fIsZero w ∨ !(fIsFinite w) then some ⟨top.1, true, false⟩
        else
          let u := fRound .nearestEven false ⟨drawValue par.seed n, 24⟩
          some ⟨pick (kept.zip sums) (fMul u w), false, false⟩

/-- Index of the last input of a part that is no draft: its row draws first (R234, R245). -/
def baseRow (q : StepSeq) : Nat := (q.inputs.filter (fun x => x.2 ≠ .draft)).length - 1

/-- The logit row a part draws from next, with whether an element of it is poisoned (R189, R237). -/
def logitRow (s : State) (t : Step) (q : StepSeq) : List Nat × Bool :=
  logitParts s t q (qposOf (imageOf s (modelOf s t.model)) - q.inputs.length + baseRow q + q.drawn.length)

/-- Conditions of R243 that hold at a drawn token, as the STOPS bits. -/
def stopBits (par : SeqParams) (hist : List Nat) (total pos context : Nat) (g : Option GState) (d : Nat) : Nat :=
  let recent := d :: hist
  let c1 := par.stopTokens.contains d
  let c2 := par.stopSeqs.any (fun z => recent.take z.length == z.reverse)
  let c3 := match g with
    | some x => x.accept && (x.ranges.isEmpty || par.anyAccept)
    | none => false
  let c4 := decide (total = par.outLimit)
  let c5 := decide (context ≤ pos + 1)
  (if c1 then 1 else 0) + (if c2 then 2 else 0) + (if c3 then 4 else 0) + (if c4 then 8 else 0) + (if c5 then 16 else 0)

/-- REASON of R243: the highest condition that holds. -/
def stopReason (bits : Nat) : Nat :=
  if 16 ≤ bits then 5 else if 8 ≤ bits then 4 else if 4 ≤ bits then 3 else if 2 ≤ bits then 2 else bits

/-- Replace a sequence's part in a step. -/
def setPart (t : Step) (q : StepSeq) : Step := { t with seqs := t.seqs.map (fun x => if x.seq = q.seq then q else x) }

/-- Enter a drawn token: the stop test, then the test of the next draft (R243, R245). -/
def takeToken (s : State) (t : Step) (q : StepSeq) (x : Seq) (d : Nat) : StepSeq :=
  let r := imageOf s (modelOf s t.model)
  let row := baseRow q + q.drawn.length
  let pos := q.first + row + 1
  let fresh := q.inputs.any (fun i => i.2 = .intake)
  let hist := q.drawn.reverse ++ (if fresh then [] else x.history)
  let gnext := x.par.grammar.map (fun g => grammarNext (grammarState s g q.gstate) d)
  let gst := gnext.bind (fun k => x.par.grammar.map (fun g => grammarState s g k))
  let bits := stopBits x.par hist (x.drawn + q.drawn.length + 1) pos (imgContext r) gst d
  let q' := { q with drawn := q.drawn ++ [d], gstate := gnext.getD q.gstate }
  if bits ≠ 0 then { q' with accepted := some (row + 1), stops := bits, reason := stopReason bits }
  else match q.inputs[row + 1]? with
    | some y => if y.1 = d then q' else { q' with accepted := some (row + 1) }
    | none => { q' with accepted := some (row + 1) }

/-- The logits of a draw, by token (R237). -/
def logitsOf (s : State) (t : Step) (q : StepSeq) : List (Nat × F32) :=
  let row := (logitRow s t q).1
  (List.range row.length).map (fun i => (i, (BitVec.ofNat 32 (row.getD i 0) : F32)))

/-- The grammar state a draw stands in (R242). -/
def stateOf (s : State) (seq : Nat) (q : StepSeq) : Option GState := (seqOf s seq).par.grammar.map (fun g => grammarState s g q.gstate)

/-- What a draw reads of its grammar. -/
def drawRanges (s : State) (seq : Nat) (q : StepSeq) : List (Nat × Nat) :=
  match (seqOf s seq).par.grammar with
  | none => []
  | some g => grammarRanges s g q.gstate

/-- The sampler's reads meet the lines that caches hold (R264, R406). -/
def touchAll (ctx : Nat) (rs : List (Nat × Nat)) (s : State) : State := rs.foldl (fun s r => touchRange false ctx r.1 r.2 s) s

/-- Is a word of the sequence's grammar poisoned or uncorrectable? -/
def badGrammar (s : State) (seq : Nat) (q : StepSeq) (grammarBad : Bool) : Bool :=
  (seqOf s seq).par.grammar.isSome && (grammarBad || ((stateOf s seq q).map (fun y => y.poison)).getD false)

/-- A draw that meets a poisoned row or grammar word (R237, R435, R437): recorded, and the poisoned path is taken. -/
def poisonedDraw (t : Step) (q : StepSeq) (seq : Nat) (grammarBad : Bool) (s : State) : State :=
  let row := logitRow s t q
  let bad := badGrammar s seq q grammarBad
  let s := samplerError (if row.2 then 1 else 2) seq (if row.2 then 0 else (seqOf s seq).par.grammar.getD 0) s
  let s := if bad && grammarBad then logError 2 2 none (t.num, t.attempt) s else s
  poisonedPath (setPart t { q with poisoned := true }) s

/-- The candidates of a draw (R237, R242): the logits that are no NaN, whose token the grammar and the allowed list allow. -/
def candidates (s : State) (t : Step) (q : StepSeq) (seq : Nat) : List (Nat × F32) :=
  let x := seqOf s seq
  let g := stateOf s seq q
  (logitsOf s t q).filter (fun e => !(fIsNaN e.2) && (match g with
    | some y => grammarAllows y e.1
    | none => true) && (x.par.nlist == 0 || x.allowed.contains e.1))

/-- Is a word of the grammar state that a token leads to poisoned (R243, R251)? The stop test of the draw reads it. -/
def nextBad (s : State) (x : Seq) (q : StepSeq) (tok : Nat) : Bool :=
  match x.par.grammar with
  | none => false
  | some g => (grammarState s g (grammarNext (grammarState s g q.gstate) tok)).poison

/-- One draw (R237 to R243, R251): the token is taken; with no candidate left the sequence ends with 0x020A. -/
def drawNext (t : Step) (q : StepSeq) (seq : Nat) (s : State) : State :=
  let x := seqOf s seq
  let good := candidates s t q seq
  let logits := logitsOf s t q
  let s := bump 0x500020 (logits.filter (fun e => fIsNaN e.2)).length s
  let pos := q.first + baseRow q + q.drawn.length + 1
  match drawToken x.par logits.length pos good with
  | none =>
    let q' := { q with accepted := some (baseRow q + q.drawn.length + 1), reason := 7, status := 0x020A }
    setStep (setPart t q') (samplerError 3 seq (x.par.grammar.getD 0) (bump 0x500018 1 s))
  | some d =>
    let f := fresh s
    let s := if d.open_ then f.2 else s
    let tok := if d.open_ then (good.getD (f.1.toNat % good.length) (0, 0#32)).1 else d.token
    if nextBad s x q tok then poisonedPath (setPart t { q with poisoned := true }) (samplerError 2 seq (x.par.grammar.getD 0) s)
    else
      let s := if d.degenerate then bump 0x500018 1 s else s
      setStep (setPart t (takeToken s t q x tok)) (bump 0x500010 1 s)

/-- SAMPLER_DRAW (R130, R237 to R245, R435): the next draw of one sequence of a step that samples; an uncorrectable grammar word counts as a poisoned row. -/
def execSamplerDraw (step seq : Nat) (grammarBad : Bool) (s : State) : Host.Outcome State Fault Refusal :=
  match stepOf s step with
  | none => .next s
  | some t =>
    match partOf t seq with
    | none => .next s
    | some q =>
      if t.phase ≠ .sampling ∨ !(stillDraws q) ∨ (modelOf s t.model).faulted then .next s
      else
        let rs := drawRanges s seq q
        let draw (s : State) : State := if (logitRow s t q).2 || badGrammar s seq q grammarBad then poisonedDraw t q seq grammarBad s else drawNext t q seq s
        .next (takeWork (.samplerDraw step seq grammarBad) rs (fun s => draw (touchAll (deviceCtx s) rs s)) s)

/-- The level of a tenant's bucket (R235). -/
def bucketLevel (s : State) (t : Nat) : Int := toSigned 40 (rdF s (0x501000 + 0x10 * t) 39 0)

/-- Set the level of a tenant's bucket. -/
def setBucket (t : Nat) (l : Int) (s : State) : State := wrF (0x501000 + 0x10 * t) 39 0 (ofSigned 40 l) s

/-- Charge a tenant's bucket (R235). -/
def chargeBucket (t charge : Nat) (s : State) : State :=
  setBucket t (max (bucketLevel s t - charge) (-(2 ^ 39 : Nat))) s

/-- Mark the first k new positions of a step committed and truncate the rest (R213). -/
def commitHem (t : Step) (q : StepSeq) (k : Nat) (s : State) : State :=
  let x := seqOf s q.seq
  let mine (h : HeldPos) : Bool := match h.epoch with
    | .step n _ => n == t.num
    | .committed => false
  let stays (h : HeldPos) : Bool := decide (h.pos < q.first + k)
  let gone := (x.held.filter (fun h => mine h && !(stays h))).length
  let held := (x.held.filter (fun h => !(mine h) || stays h)).map (fun h => if mine h then { h with epoch := .committed } else h)
  let segs := keptSegs (pagePosOf s x) x.segs held
  bump 0x40048 gone (setSeq q.seq { x with held := held, segs := segs, committed := x.committed + k, pending := none } s)

/-- Has a page of a sequence its page write? A page is written so once (R215). -/
def jobFor (s : State) (seq gen layer page : Nat) : Bool :=
  s.kvJobs.any (fun j => j.seq == seq && j.gen == gen && j.layer == layer && j.page == page && !j.park)

/-- Queue the writing of every page whose positions are all committed (R215). -/
def queuePages (n : Nat) (s : State) : State :=
  let x := seqOf s n
  let r := imageOf s (modelOf s x.par.model)
  let per := pagePosOf s x
  let pages := (List.range (x.committed / per)).filter (fun i => decide (x.flushed < (i + 1) * per))
  (List.range (imgLayers r)).foldl (fun s l => pages.foldl (fun s i =>
    let ps := (x.held.filter (fun h => h.layer == l && h.pos / per == i && h.epoch == .committed)).map (fun h => h.pos)
    if ps.isEmpty || jobFor s n x.gen l i then s
    else { s with kvJobs := s.kvJobs ++ [⟨n, x.gen, false, l, i, ps, false, false⟩] }) s) s

/-- The candidates of a committing step (R173). -/
def candidatesOf (s : State) (t : Step) : List (Nat × F32) :=
  let m := modelOf s t.model
  let r := imageOf s m
  t.points.filterMap (fun e =>
    let c := censusRow s e.2.entry
    let h := fOfDy ⟨t.headroom, 4⟩
    let v := fDivR .towardPosInf (fMulR .towardPosInf c.maxmag h) (fOfInt (qOf (formatOfPoint r e.1)))
    if 0 < c.values ∧ !c.poison ∧ !(fIsZero c.maxmag) ∧ installable v then some (e.1, v) else none)

/-- Keep the largest candidate of each point (R173). -/
def keepCandidates (model : Nat) (cs : List (Nat × F32)) (s : State) : State :=
  let m := modelOf s model
  let put (acc : Sparse F32) (e : Nat × F32) : Sparse F32 :=
    sput (fun _ => 0#32) acc e.1 (fMax (sget (fun _ => 0#32) acc e.1) e.2)
  setModel model { m with candidates := cs.foldl put m.candidates } s

/-- Give a linked drafter's committed drawn tokens to the sequences that draft from it (R231, R245). -/
def feedDrafts (n : Nat) (tokens : List Nat) (s : State) : State :=
  let x := seqOf s n
  let linked := (s.seqs.filter (fun e => isOpen e.2 && e.2.par.draftSource == 2
    && e.2.par.drafterSeq == n && e.2.par.drafterGen == x.gen)).map (fun e => e.1)
  linked.foldl (fun s k => let y := seqOf s k; setSeq k { y with drafts := y.drafts ++ tokens } s) s

/-- What a commit does to one sequence of a step (R213 to R215, R233 to R235, R239, R242 to R248). -/
def commitSeq (t : Step) (q : StepSeq) (s : State) : State :=
  if q.cleared then s
  else
    let k := q.accepted.getD q.inputs.length
    let s := commitHem t q k s
    let x := seqOf s q.seq
    let took := (q.inputs.filter (fun i => i.2 = .intake)).length
    let drafts := draftsIn q
    let hits := k - (q.inputs.length - drafts)
    let s := bump 0x500030 (drafts - hits + (if took = 0 then 0 else x.carried)) (bump 0x500028 hits s)
    let s := chargeBucket x.tenant (256 * q.drawn.length + rdF s (0x501008 + 0x10 * x.tenant) 63 55 * took) s
    let fedBack := q.inputs.any (fun i => i.2 = .fedBack)
    let hist := (q.drawn.reverse ++ (if took = 0 then x.history else [])).take 15
    let emit := if q.drawn.isEmpty then x.emit else match x.emit with
      | some e => some { e with tokens := e.tokens ++ q.drawn }
      | none => some ⟨q.first + baseRow q + 1, q.drawn⟩
    let fed := if q.reason ≠ 0 then none else if q.drawn.isEmpty then (if fedBack then none else x.fed) else q.drawn.getLast?
    let ring := x.ringCount - took
    let y := { x with ringHead := (x.ringHead + took) % 16384, ringCount := ring, drafts := if took = 0 then x.drafts.drop drafts else [], carried := if took = 0 then x.carried else 0, fed := fed }
    let y := { y with drawn := x.drawn + q.drawn.length, history := hist, gstate := q.gstate, emit := emit }
    let y := { y with state := if ring ≠ 0 ∨ fed.isSome then .ready else .idle }
    let s := queuePages q.seq (feedDrafts q.seq q.drawn (setSeq q.seq y s))
    if q.reason = 0 then s
    else endSeq q.seq q.reason q.status q.stops (if q.reason ≤ 5 then bump 0x500038 1 s else s)

/-- A step commits (R21, R173, R213): its census candidates wait for the edge, its sequences advance, and its records and its entry are gone. -/
def commitStep (t : Step) (s : State) : State :=
  let s := keepCandidates t.model (candidatesOf s t) s
  let s := t.seqs.foldl (fun s q => commitSeq t q s) s
  dropStep t.num (clearNodes t.num s)

end Sys2Proof.Machine
end

