-- ==== Sys2Proof/Machine/Plan.lean ====
section
/-! DEFINITION. The plan list, its freeze, admission and expansion (R18 to R20, R23 to R35, R100, R128, R161, R165, R177, R202, R208 to R211, R218, R219, R224, R227, R234 to R236, R388), the start of execution (R17, R172), and the emission guard (R22, R36 to R38, R246 to R248). -/

namespace Sys2Proof.Machine

/-- Token i of a sequence's input ring (R232); a poisoned word reads as an id beyond every vocabulary, so that its row is poisoned (R190, R435). -/
def ringToken (s : State) (x : Seq) (i : Nat) : Nat :=
  let a := x.ringAddr + 4 * ((x.ringHead + i) % 16384)
  if anyPoison s a 4 then 2 ^ 32
  else ofLe ((List.range 4).map (fun b => byteAs s (tenantCtx s x.tenant) (a + b)))

/-- The positions a step takes for a sequence, at most n (R234), of what its intake held at the edge (R18, R232). -/
def formInputs (s : State) (x : Seq) (n : Nat) : List (Nat × InKind) :=
  let fed := (x.fed.map (fun t => (t, InKind.fedBack))).toList
  let ring := (List.range (min x.ringAt (n - fed.length))).map (fun i => (ringToken s x i, InKind.intake))
  let left := x.ringAt - ring.length
  let drafts := if left = 0 ∧ ring = [] then (x.drafts.take x.draftsAt).map (fun d => (d, InKind.draft)) else []
  (fed ++ ring ++ drafts).take n

/-- Does a step that takes these inputs draw tokens (R234)? -/
def inputsDraw (x : Seq) (inputs : List (Nat × InKind)) : Bool :=
  decide (x.ringAt = (inputs.filter (fun i => i.2 = .intake)).length) && !inputs.isEmpty

/-- Base positions of the segments new positions need in one layer (R211): one for each run of 8 page positions not yet covered. -/
def newSegs (per : Nat) (x : Seq) (layer first n : Nat) : List Nat :=
  let bases := ((List.range n).map (fun k => let p := first + k; p / per * per + p % per / 8 * 8)).eraseDups
  bases.filter (fun b => !(x.segs.any (fun g => g.layer == layer && g.base == b)))

/-- Page indices new positions open in a layer: those the page list does not hold (R208, R218). -/
def newPages (s : State) (x : Seq) (mp per layer first n : Nat) : List Nat :=
  (((List.range n).map (fun k => (first + k) / per)).eraseDups).filter (fun i => listEntry s x mp layer i == noPage)

/-- Is the page that holds a step's first new position shared (R224)? The check is made for the first layer. -/
def sharedFirst (s : State) (x : Seq) (mp per : Nat) : Bool :=
  let e := listEntry s x mp 0 (x.committed / per)
  e != noPage && decide (1 < refCount s e)

/-- Pages a tenant holds: the pages its sequences' lists and its prefix records name, each counted once. -/
def tenantPages (s : State) (t : Nat) : Nat :=
  let ofSeq (x : Seq) : List Nat :=
    let r := imageOf s (modelOf s x.par.model)
    let mp := maxPages r
    ((List.range (imgLayers r * mp)).map (fun k => listEntry s x mp 0 k)).filter (fun e => e != noPage)
  let lists := ((s.seqs.filter (fun e => e.2.tenant == t && decide (e.2.state ≠ .free))).map (fun e => ofSeq e.2)).flatten
  let recs := ((s.prefixes.filter (fun e => e.2.live && e.2.tenant == t)).map (fun e => e.2.pages)).flatten
  (lists ++ recs).eraseDups.length

/-- Pages a step needs for a sequence: the new ones of every layer, and the copies (R218, R224). -/
def pagesNeeded (s : State) (x : Seq) (n : Nat) : Nat :=
  let r := imageOf s (modelOf s x.par.model)
  let mp := maxPages r
  let per := pagePosOf s x
  ((List.range (imgLayers r)).map (fun l => (newPages s x mp per l x.committed n).length)).sum
    + (if sharedFirst s x mp per then imgLayers r else 0)

/-- Does a model keep a cache: does some attention command read it? A model without one writes no positions to pages. -/
def hasCache (s : State) (x : Seq) : Bool := !(attentionEntries (imageOf s (modelOf s x.par.model))).isEmpty

/-- The page part of R218: the free list and the quota. -/
def pagesFit (s : State) (x : Seq) (n : Nat) : Bool :=
  let k := pagesNeeded s x n
  k == 0 || (rdB s 0x40000 63 && rdB s 0x40008 63 && decide (k ≤ freeCount s)
    && decide (tenantPages s x.tenant + k ≤ (tenantOf s x.tenant).quota))

/-- The first condition of R218: the positions held and the new ones. -/
def heldFit (s : State) (x : Seq) (n : Nat) : Bool := decide (x.committed - x.flushed + n ≤ pagePosOf s x + 8)

/-- The second condition of R218: granules of the pool for the new segments. -/
def segsFit (s : State) (x : Seq) (n : Nat) : Bool :=
  let r := imageOf s (modelOf s x.par.model)
  let segs := ((List.range (imgLayers r)).map (fun l => (newSegs (pagePosOf s x) x l x.committed n).length)).sum
  decide (segs * segGranules r ≤ hemFree s)

/-- Is a model fit for new work (R24)? -/
def modelHealthy (s : State) (m : Nat) : Bool :=
  let x := modelOf s m
  x.live && !x.faulted && !x.quarantined

/-- Does a tenant's bucket pass the test (R236)? A tenant whose DEPTH is 0 is never admitted. -/
def bucketPasses (s : State) (t : Nat) : Bool :=
  decide (0 < bucketLevel s t) && decide (rdF s (0x501008 + 0x10 * t) 54 24 ≠ 0)

/-- A sequence that may join a new step at this edge, but for cost, lanes, hem and pages (R18, R24, R208, R210, R233). -/
def seqReady (s : State) (n model pos : Nat) : Bool :=
  let x := seqOf s n
  let r := imageOf s (modelOf s model)
  x.eligible && decide (x.state = .ready) && x.par.model == model && x.pending.isNone && decide (1 ≤ pos) && decide (pos ≤ qposOf r)
    && decide (x.committed + (formInputs s x pos).length ≤ imgContext r) && !((formInputs s x pos).isEmpty)
    && !(s.cowJobs.any (fun c => c.seq == n)) && bucketPasses s x.tenant && modelHealthy s model

/-- G of R137 over the layers of an entry, each times a weight of its template. -/
def reservedBy (s : State) (e : PlanEntry) (weight : List Nat → Nat) : Nat :=
  let r := imageOf s (modelOf s e.model)
  let n := e.groups.flatten.length
  ((List.range (e.hi + 1 - e.lo)).map (fun k =>
    let l := e.lo + k
    weight (templateOf r l) * dispatchMax (layerK r l) n (layerE r l) (layerLanes r l))).sum

/-- Does a template entry run once per routed expert? -/
def isExpertOp (b : Nat) : Bool := entKind b != 2 && entExpert b

/-- The lane-group entries that the planner reserves for an entry: G of R137 for each expert operation. The dispatch groups of one gate's routing take the first of them (R136, R139; log entry 98). -/
def reservedGroups (s : State) (e : PlanEntry) : Nat := reservedBy s e (fun bs => (bs.filter isExpertOp).length)

/-- Lane groups an entry takes, those reserved for dispatch included (R137). -/
def entryGroups (s : State) (e : PlanEntry) : Nat := e.groups.length + reservedGroups s e

/-- The slots reserved beyond those of the entry's own lane groups (R137): for each expert operation its activation and output slots for G groups, and no fewer than the dispatch groups of each gate's routing take (log entry 98). -/
def reservedSlots (s : State) (e : PlanEntry) : Nat :=
  max (reservedBy s e (fun bs => ((bs.filter isExpertOp).map (fun b => (entInputs b ++ entOutputs b).length)).sum))
    (e.slotsPer * reservedBy s e (fun bs => (bs.filter (fun b => entKind b == 2)).length))

/-- The runtime slots of a plan entry, first and count (R100, R137). -/
def entrySlots (s : State) (e : PlanEntry) : Nat × Nat := (e.slotBase, e.slotsPer * e.groups.length + reservedSlots s e)

/-- The lane-group entries of a plan entry, first and count (R100, R137). -/
def entryLgs (s : State) (e : PlanEntry) : Nat × Nat := (e.lgBase, entryGroups s e)

/-- Do two entries take a slot or a lane-group entry in common (R100)? -/
def entriesClash (s : State) (e f : PlanEntry) : Bool :=
  overlaps (entrySlots s e) (entrySlots s f) || overlaps (entryLgs s e) (entryLgs s f)

/-- The template-local slots an entry of a template names. -/
def slotsNamed (b : Nat) : List Nat := entInputs b ++ entOutputs b ++ (if entKind b = 2 then [natBits b 139 128, natBits b 151 140, natBits b 163 152] else [])

/-- Are a plan entry's slots enough for the templates of its layers? -/
def slotsEnough (s : State) (e : PlanEntry) : Bool :=
  let r := imageOf s (modelOf s e.model)
  (List.range (e.hi + 1 - e.lo)).all (fun k => (templateOf r (e.lo + k)).all (fun b => (slotsNamed b).all (fun z => decide (z < e.slotsPer))))

/-- Numbers strictly ascending. -/
def ascending : List Nat → Bool
  | [] => true
  | [_] => true
  | a :: b :: l => decide (a < b) && ascending (b :: l)

/-- Does an entry run layers it may start with: a new step begins at its model's first stage, an advance at a later one (R33)? -/
def stageStarts (m : Model) (e : PlanEntry) : Bool :=
  if e.advances.isSome then m.stages.contains (e.lo, e.hi) else m.stages.head? == some (e.lo, e.hi)

/-- Lanes of a lane group of a micro-batch, in the layers of its entry and in those its later stages run (R33, R43). -/
def entryLanes (s : State) (e : PlanEntry) : Nat :=
  let r := imageOf s (modelOf s e.model)
  ((List.range (imgLayers r - e.lo)).map (fun k => layerLanes r (e.lo + k))).foldl min 16

/-- Is a plan entry complete and well formed (R19, R25, R32, R33, R100, R137)? -/
def entryValid (s : State) (e : PlanEntry) : Bool :=
  let m := modelOf s e.model
  let seqs := (e.groups.flatten).map (fun x => x.1)
  m.live && stageStarts m e && decide (1 ≤ e.groups.length) && decide (e.groups.length ≤ 64)
    && e.groups.all (fun g => decide (g.length ≤ entryLanes s e) && ascending (g.map (fun x => x.1))) && slotsEnough s e && decide (seqs.eraseDups.length = seqs.length)
    && decide (e.slotBase + (entrySlots s e).2 ≤ 4096) && decide (e.lgBase + entryGroups s e ≤ 1024)
    && inMemory s e.pltab (512 * e.groups.length)
    && e.listed.all (fun z => decide (z.slot < e.slotsPer) && inMemory s z.addr 8)

/-- The scale table of a step as it is copied at admission (R161), with no census entry assigned; a scale that may not be installed gives way to 1.0 (R64; log entry 96). -/
def scaleTable (s : State) (model : Nat) : Sparse PointState :=
  let m := modelOf s model
  let r := imageOf s m
  (List.range (imgLayers r)).foldl (fun acc l => (List.range (imgPoints r)).foldl (fun acc p =>
    let k := 4 * l + p
    let given := sget (fun k => layerInit r (k / 4) (k % 4)) m.scales k
    let sc := if installable given then given else one32
    sinsert acc k ⟨sc, routOf sc, false, m.dynamic, 0, 2048⟩) acc) []

/-- A step for an entry and the sequences that have joined it, with the number it will take. -/
def draftStep (s : State) (e : PlanEntry) (num : Nat) (joined : List Nat) : Step :=
  let m := modelOf s e.model
  let groups := (e.groups.map (fun g => g.filter (fun x => joined.contains x.1))).filter (fun g => !g.isEmpty)
  let parts := ((List.range groups.length).map (fun g => (List.range (groups.getD g []).length).map (fun l =>
    let z := (groups.getD g []).getD l (0, 0)
    let x := seqOf s z.1
    let ins := formInputs s x z.2
    ({ seq := z.1, group := g, lane := l, first := x.committed, inputs := ins, draws := inputsDraw x ins, drawn := [],
       accepted := none, gstate := x.gstate, stops := 0, reason := 0, status := 0, poisoned := false, cleared := false : StepSeq })))).flatten
  let t : Step :=
    { num := num, model := e.model, lo := e.lo, hi := e.hi, entry := { e with groups := groups }, edge := s.edge, runEdge := s.edge, attempt := 0, phase := .running,
      seqs := parts, ops := [], points := scaleTable s e.model, routed := [], dispatch := [], logMark := logTail s, cost := Cost.zero,
      split := s.split, heldBack := false, cow := 0, unfinished := false, breaches := [], stage := 0, actives := activePanels s,
      clipShift := m.clipShift, headroom := m.headroom, carry := none, gathered := [] }
  { t with ops := stepOps s t }

/-- What the planner has put together while a plan freezes. -/
structure Admitting where
  s : State
  /-- sequences joined, with the plan entry each joins -/
  joined : List (Nat × Nat)
  /-- waiting sequences of each tenant still to be considered, in order -/
  waiting : List (Nat × List Nat)
  /-- copies each entry's sequences need -/
  cow : List (Nat × Nat)
  /-- cost and pieces of the advances -/
  base : Cost
  pieces : Nat
  /-- sequences that failed for pages -/
  short : List Nat

/-- The plan entry that places a sequence in a new step, with its positions. -/
def placedIn (plan : List PlanEntry) (n : Nat) : Option (Nat × Nat) :=
  (List.range plan.length).findSome? (fun i => match plan[i]? with
    | none => none
    | some e => if e.advances.isSome then none else ((e.groups.flatten).find? (fun x => x.1 == n)).map (fun x => (i, x.2)))

/-- The sequences that have joined entry i. -/
def joinedOf (a : Admitting) (i : Nat) : List Nat := (a.joined.filter (fun x => x.2 == i)).map (fun x => x.1)

/-- Copies counted for entry i. -/
def cowOf (a : Admitting) (i : Nat) : Nat := ((a.cow.filter (fun x => x.1 == i)).map (fun x => x.2)).sum

/-- The draft of entry i with a list of sequences and copies. -/
def draftOf (a : Admitting) (plan : List PlanEntry) (i : Nat) (seqs : List Nat) (cow : Nat) : Option Step :=
  (plan[i]?).map (fun e => { draftStep a.s e i seqs with cow := cow })

/-- The admitted cost with entry i as given (R31). -/
def costWith (a : Admitting) (plan : List PlanEntry) (i : Nat) (seqs : List Nat) (cow : Nat) : Cost :=
  (List.range plan.length).foldl (fun c k =>
    let q := if k = i then seqs else joinedOf a k
    if q.isEmpty then c
    else match draftOf a plan k q (if k = i then cow else cowOf a k) with
      | some t => c.add (fullCost a.s t)
      | none => c) a.base

/-- Census entries the entries with a joined sequence need. -/
def censusNeed (s : State) (plan : List PlanEntry) (a : Admitting) (i : Nat) : Nat :=
  ((List.range plan.length).map (fun k => match plan[k]? with
    | some e => if k = i ∨ !(joinedOf a k).isEmpty then (e.hi + 1 - e.lo) * imgPoints (imageOf s (modelOf s e.model)) else 0
    | none => 0)).sum

/-- Piece numbers a step takes (R101, R137). -/
def stepPieces (t : Step) : Nat := (t.ops.map (fun o => o.pieceEnd)).foldl max 0

/-- Pieces the plan of this tick may hold (R18, R19, R103): 131,072, 4,096 for each active panel while fewer than 32 are active, and what 16 pieces a clock expand to between now and 6,000 tape ns from the edge. -/
def pieceLimit (s : State) : Nat :=
  let a := (activePanels s).length
  min (if a < 32 then 4096 * a else 131072) (16 * clocks s (6000 - (s.tape - s.edge)))

/-- Pieces a plan's drafts and its advances expand to (R19). -/
def planPieces (a : Admitting) (plan : List PlanEntry) (i : Nat) (seqs : List Nat) : Nat :=
  a.pieces + ((List.range plan.length).map (fun k =>
    let q := if k = i then seqs else joinedOf a k
    if q.isEmpty then 0 else match draftOf a plan k q 0 with
      | some t => stepPieces t
      | none => 0)).sum

/-- Does an open step hold its slots and lane-group entries in the tick that runs? Those it has, reserved ones included, until the tick ends (R138); a micro-batch that waits between stages has its activations in carry slots (R33). -/
def holdsSlots (s : State) (t : Step) : Bool := decide (t.phase ≠ .stageDone) || decide (t.runEdge = s.edge)

/-- Are the slots and lane-group entries of an entry free of those the open steps hold (R19, R100, R137)? -/
def clearOfSteps (s : State) (e : PlanEntry) : Bool := s.steps.all (fun t => !(holdsSlots s t) || !(entriesClash s e t.entry))

/-- May a new step of entry i stand beside the open ones and the entries with a joined sequence (R19, R100, R137)? -/
def slotsFree (a : Admitting) (plan : List PlanEntry) (i : Nat) (e : PlanEntry) : Bool :=
  clearOfSteps a.s e
    && (List.range plan.length).all (fun k => decide (k = i) || (joinedOf a k).isEmpty || ((plan[k]?).map (fun f => !(entriesClash a.s e f))).getD true)

/-- Take one page for sequence n: its count, 0 in the free list, becomes 1 (R219, R223). -/
def takePage (n : Nat) (s : State) : Nat × State :=
  match freeTake s.freePages with
  | some (p, r) => (p, incPage n p { s with freePages := r })
  | none => (noPage, s)

/-- Give a joining sequence its segments, pages and copies (R211, R218, R219, R224). -/
def equip (n pos : Nat) (s : State) : State :=
  let x := seqOf s n
  let r := imageOf s (modelOf s x.par.model)
  let mp := maxPages r
  let per := pagePosOf s x
  let k := (formInputs s x pos).length
  let g := segGranules r
  let segs := ((List.range (imgLayers r)).map (fun l => (newSegs per x l x.committed k).map (fun b => (⟨l, b, g⟩ : HemSeg)))).flatten
  let shared := sharedFirst s x mp per
  let at_ := x.committed / per
  let s := setSeq n { x with segs := x.segs ++ segs } s
  let s := if shared then (List.range (imgLayers r)).foldl (fun s l =>
      let old := listEntry s x mp l at_
      if old = noPage then s
      else
        let z := takePage n s
        { setListEntry x mp l at_ z.1 z.2 with cowJobs := z.2.cowJobs ++ [⟨n, 2 ^ 32, l, old, z.1⟩] }) s
    else s
  (List.range (imgLayers r)).foldl (fun s l => (newPages s x mp per l x.committed k).foldl (fun s i =>
    let z := takePage n s
    setListEntry x mp l i z.1 z.2) s) s

/-- Park a hem (R217): every held committed position of every layer is queued for its page. -/
def parkSeq (n : Nat) (s : State) : State :=
  let x := seqOf s n
  let per := pagePosOf s x
  let r := imageOf s (modelOf s x.par.model)
  let queued (l p : Nat) : Bool := s.kvJobs.any (fun j => j.seq == n && j.gen == x.gen && j.layer == l && j.positions.contains p)
  let jobs := ((List.range (imgLayers r)).map (fun l =>
    let mine := x.held.filter (fun h => h.layer == l && decide (h.epoch = .committed) && !(queued l h.pos))
    ((mine.map (fun h => h.pos / per)).eraseDups).map (fun i =>
      (⟨n, x.gen, true, l, i, (mine.filter (fun h => h.pos / per == i)).map (fun h => h.pos), false, false⟩ : KvJob)))).flatten
  if jobs.isEmpty then s else bump 0x40038 1 { s with kvJobs := s.kvJobs ++ jobs }

/-- What one look at a waiting sequence does: it joins, it is passed over, or its charge exceeds the deficit. -/
inductive Look where
  | joins (a : Admitting) (charge : Nat)
  | passed (a : Admitting)
  | tooDear

/-- Consider a sequence that has its pages, which entry i places at a position (R29, R165, R217, R218, R388): one whose hem alone is too full is parked first, and joins a later edge (log entry 94). -/
def lookOn (plan : List PlanEntry) (budget : Nat) (deficit : Int) (n i pos : Nat) (e : PlanEntry) (a : Admitting) : Look :=
  let x := seqOf a.s n
  let k := (formInputs a.s x pos).length
  if hasCache a.s x && !(segsFit a.s x k) then .passed a
  else if hasCache a.s x && !(heldFit a.s x k) then .passed { a with s := parkSeq n a.s }
  else if (freeCensus a.s).length < censusNeed a.s plan a i then .passed a
  else
    let seqs := joinedOf a i ++ [n]
    let r := imageOf a.s (modelOf a.s e.model)
    let copies := if hasCache a.s x && sharedFirst a.s x (maxPages r) (pagePosOf a.s x) then imgLayers r else 0
    let cow := cowOf a i + copies
    if budget < (costWith a plan i seqs cow).clocks || pieceLimit a.s < planPieces a plan i seqs then .passed a
    else
      let own := ((draftOf a plan i seqs cow).map (fun t => (fullCost a.s t).clocks)).getD 0
      let charge := ceilDiv own seqs.length
      if deficit < (charge : Int) then .tooDear
      else
        let s := if hasCache a.s x then equip n pos a.s else a.s
        .joins { a with s := s, joined := a.joined ++ [(n, i)], cow := a.cow ++ [(i, copies)] } charge

/-- A sequence that lacks pages or quota waits for them; one that has them starts its count of ticks again, whatever else it waits for (R227). -/
def countPages (n k : Nat) (a : Admitting) : Admitting :=
  let x := seqOf a.s n
  if hasCache a.s x && !(pagesFit a.s x k) then { a with short := insNat a.short n } else { a with s := setSeq n { x with pageWait := 0 } a.s }

/-- Consider one waiting sequence (R24, R100, R218, R227); of one that the list does not place, the pages of one position tell whether it waits for pages. -/
def lookAt (plan : List PlanEntry) (budget : Nat) (deficit : Int) (n : Nat) (a : Admitting) : Look :=
  match placedIn plan n with
  | none => .passed (countPages n 1 a)
  | some (i, pos) =>
    match plan[i]? with
    | none => .passed a
    | some e =>
      let k := (formInputs a.s (seqOf a.s n) pos).length
      let b := countPages n k a
      if b.short.contains n || !(seqReady a.s n e.model pos) || !(slotsFree a plan i e) then .passed b
      else lookOn plan budget deficit n i pos e b

/-- One tenant's visit: it admits its waiting sequences in order while their charges fit its deficit (R388). -/
def visit (plan : List PlanEntry) (budget tenant : Nat) : List Nat → Admitting → List Nat × Admitting
  | [], a => ([], a)
  | n :: ns, a =>
    match lookAt plan budget (tenantOf a.s tenant).deficit n a with
    | .tooDear => (n :: ns, a)
    | .passed b => visit plan budget tenant ns b
    | .joins b c =>
      let x := tenantOf b.s tenant
      visit plan budget tenant ns { b with s := { setTenant tenant { x with deficit := x.deficit - c } b.s with turn := tenant } }

/-- Go round the tenants with waiting sequences until none is left to consider, with fuel for the visits (R388). -/
def rounds (plan : List PlanEntry) (budget : Nat) : Nat → Admitting → Admitting
  | 0, a => a
  | f + 1, a =>
    match a.waiting with
    | [] => a
    | (t, ns) :: rest =>
      let x := tenantOf a.s t
      let d := min (x.deficit + x.qos * 4096) ((x.qos * 2 ^ 20 : Nat) : Int)
      let v := visit plan budget t ns { a with s := setTenant t { x with deficit := d } a.s, waiting := rest }
      let left := if v.1.isEmpty then rest else rest ++ [(t, v.1)]
      rounds plan budget f { v.2 with waiting := left }

/-- The waiting sequences of the tenants, in the order of R23 and R388: tenants in ascending number from the one after the last served; within a tenant the longest waiting first, then the lower number. -/
def waitingLists (s : State) : List (Nat × List Nat) :=
  let ready := s.seqs.filter (fun e => e.2.eligible && decide (e.2.state = .ready) && e.2.pending.isNone)
  let ts := (List.range 64).map (fun k => (s.turn + 1 + k) % 64)
  (ts.map (fun t => (t, (sortBy (fun n => (seqOf s n).lastServed) ((ready.filter (fun e => e.2.tenant == t)).map (fun e => e.1)))))).filter (fun w => !w.2.isEmpty)

/-- Assign census entries to a step's current layers and start them (R165). -/
def assignCensus (t : Step) (s : State) : Step × State :=
  let keys := (t.points.filter (fun e => decide (t.lo ≤ e.1 / 4) && decide (e.1 / 4 ≤ t.hi))).map (fun e => e.1)
  let free := freeCensus s
  let pts := (List.range keys.length).foldl (fun ps i =>
    let k := keys.getD i 0
    sinsert ps k { sget (fun _ => PointState.none) ps k with entry := free.getD i 2048 }) t.points
  let t := { t with points := pts }
  (t, keys.foldl (fun s k => resetCensus t k s) s)

/-- The 32 bytes of a page-list table entry (R209). -/
def pltabEntry (s : State) (n : Nat) : List Byte :=
  let x := seqOf s n
  let r := imageOf s (modelOf s x.par.model)
  leBytes 6 x.listAddr ++ leBytes 2 (n + 2 ^ 15) ++ leBytes 4 x.flushed ++ leBytes 4 x.committed ++ leBytes 6 (rdF s 0x40020 47 20 * 2 ^ 20) ++ leBytes 2 0
    ++ leBytes 4 (maxPages r) ++ leBytes 2 (pagePosOf s x) ++ leBytes 2 0

/-- Write the page-list tables and the lane-group entries of a step; its slots start empty, and so do the lane-group entries reserved for dispatch (R100, R138, R209). -/
def writeTables (t : Step) (s : State) : State :=
  let lgs := entryLgs s t.entry
  let s := clearSlots (entrySlots s t.entry) { s with laneGroups := s.laneGroups.filter (fun e => !(overlaps lgs (e.1, 1))) }
  (List.range t.entry.groups.length).foldl (fun s g =>
    let lanes := groupLanes t g
    let bytes := ((List.range 16).map (fun l => match lanes.getD l none with
      | some n => pltabEntry s n
      | none => leBytes 32 0)).flatten
    let s := storeBytes false (deviceCtx s) (t.entry.pltab + 512 * g) bytes false s
    { s with laneGroups := sput (fun _ => []) s.laneGroups (t.entry.lgBase + g) lanes }) s

/-- A step among the open ones: a new one after those before it, an advance in its micro-batch's place, so that their order is that in which they entered the pipeline (R23). -/
def placeStep (t : Step) (s : State) : State :=
  if (stepOf s t.num).isSome then setStep t s else { s with steps := s.steps ++ [t] }

/-- Put a step's pieces into the queues, or raise its index fault of kind 5 (R18, R128, R130). -/
def launch (t : Step) (s : State) : State :=
  let held := s.steps.any (fun u => u.num != t.num && u.num % 2 ^ 14 == t.num % 2 ^ 14)
  let t := { t with heldBack := held }
  let s := placeStep t { s with worked := insNat s.worked t.model, stepTenants := s.stepTenants ++ [t.seqs.map (fun q => (seqOf s q.seq).tenant)] }
  dispatchStep t s

/-- Admit the new step of entry i (R26, R33, R161, R165, R213, R233). -/
def admitEntry (plan : List PlanEntry) (a : Admitting) (i : Nat) (s : State) : State :=
  let seqs := joinedOf a i
  match plan[i]? with
  | none => s
  | some e =>
    if seqs.isEmpty then s
    else
      let num := s.stepNext
      let t := draftStep s e num seqs
      let t := { t with cow := cowOf a i }
      let t := { t with cost := fullCost s t }
      let s := { s with stepNext := (s.stepNext + 1) % 2 ^ 32, cowJobs := s.cowJobs.map (fun c => if c.step = 2 ^ 32 ∧ seqs.contains c.seq then { c with step := num } else c) }
      let s := seqs.foldl (fun s n => let x := seqOf s n; setSeq n { x with state := .inStep, carried := x.carried - draftsOf t n, pending := some (num, 0), lastServed := s.edge, pageWait := 0 } s) s
      let c := assignCensus t s
      launch c.1 (writeTables c.1 c.2)

/-- The micro-batches waiting for their next stage, in the order they entered the pipeline (R23, R33). -/
def waitingBatches (s : State) : List Step := s.steps.filter (fun t => decide (t.phase = .stageDone))

/-- The entry that an advance runs under: the layers, slots, lane-group entries, tables and lists of the plan entry, with the micro-batch's own lane groups (R19, R33, R100). -/
def stageEntry (t : Step) (e : PlanEntry) : PlanEntry := { e with groups := t.entry.groups }

/-- The step of an advance as its next stage runs it (R33, R34): attempt 0, its own operations and census; the scale table, the settings and the carry slots stay. A new tape edge is noted; the edge that admitted it stays the micro-batch's. Copies were made for its first stage alone (R224). -/
def advanceStep (s : State) (t : Step) (e : PlanEntry) : Step :=
  let u : Step := { t with lo := e.lo, hi := e.hi, entry := stageEntry t e, runEdge := s.edge, attempt := 0, phase := .running, cow := 0, routed := [], dispatch := [], breaches := [], logMark := logTail s, stage := t.stage + 1, actives := activePanels s, split := s.split, gathered := [] }
  { u with ops := stepOps s u }

/-- Is there census room for an advance (R165)? -/
def censusRoom (s : State) (e : PlanEntry) : Bool :=
  decide ((e.hi + 1 - e.lo) * imgPoints (imageOf s (modelOf s e.model)) ≤ (freeCensus s).length)

/-- May a micro-batch run under an entry now (R19, R32, R33, R100, R137, R165, R311): the entry is valid with the micro-batch's lane groups, holds every slot that the carry slots hold, and clashes with no step that holds slots in this tick; the model is fit, there is census room, and its carry slots can be read? -/
def advanceFits (s : State) (t : Step) (e : PlanEntry) : Bool :=
  let f := stageEntry t e
  modelHealthy s t.model && censusRoom s e && entryValid s f && clearOfSteps s f
    && ((t.carry.map (fun c => !c.waits && c.lanes.all (fun x => decide (x.loc < e.slotsPer)))).getD true) && !(stopped s)

/-- The plan entry that advances a micro-batch a stage. -/
def advanceEntry (plan : List PlanEntry) (t : Step) : Option PlanEntry :=
  plan.find? (fun e => e.advances == some t.num && e.model == t.model && e.lo == t.hi + 1)

/-- Admit the advances in the order their micro-batches entered the pipeline (R23 class 2): the first whatever its cost, a later one while the sum fits B; after one that does not fit, none. One that the list does not hold, or that may not run under its entry, is passed over. -/
def admitAdvances (plan : List PlanEntry) (budget : Nat) : List Step → Bool → Cost → Nat → State → Cost × Nat × State
  | [], _, c, n, s => (c, n, s)
  | t :: ts, first, c, n, s =>
    match advanceEntry plan t with
    | none => admitAdvances plan budget ts first c n s
    | some e =>
      if !(advanceFits s t e) then admitAdvances plan budget ts first c n s
      else
        let u := advanceStep s t e
        let own := fullCost s u
        let k := c.add own
        if (!first && budget < k.clocks) || pieceLimit s < n + stepPieces u then (c, n, s)
        else
          let z := assignCensus { u with cost := own } (freeGathered t s)
          let s := (laneSeqs z.1).foldl (fun s q => let x := seqOf s q.seq; setSeq q.seq { x with pending := some (u.num, 0) } s) z.2
          admitAdvances plan budget ts false k (n + stepPieces u) (launch z.1 (restoreCarry z.1 (writeTables z.1 s)))

/-- May new steps be admitted beside the micro-batches in flight? None goes ahead of an advance that fits. -/
def batchesServed (s : State) (edge : Nat) : Bool :=
  (waitingBatches s).all (fun t => decide (t.runEdge = edge) || !(modelHealthy s t.model)) || s.steps.any (fun t => decide (t.phase = .running) && decide (t.runEdge = edge))

/-- Wait counts of sequences short of pages (R227). -/
def countShort (ns : List Nat) (s : State) : State :=
  ns.foldl (fun s n => let x := seqOf s n; bump 0x40058 1 (setSeq n { x with pageWait := x.pageWait + 1 } s)) s

/-- Send the page-low notice when the free list is below its threshold (R227). -/
def pageLow (s : State) : State :=
  if rdB s 0x40000 63 && decide (freeCount s < rdF s 0x40018 24 0) then
    notifyOnce 0 10 0 [] 0xFFFF 0xFFFF (leBytes 4 (freeCount s) ++ leBytes 4 (rdF s 0x40018 24 0)) s
  else s

/-- Admit what the frozen plan list holds; with a 12th panel isolated, no new step (R116). -/
def admitPlan (s : State) : State :=
  let plan := s.plan
  let s := showBudget s
  let budget := budgetOf s (rdB s 0x100028 1)
  let adv := admitAdvances plan budget (waitingBatches s) true Cost.zero 0 s
  let lists := waitingLists adv.2.2
  let tenants := lists.map (fun w => w.1)
  let s := (List.range 64).foldl (fun s t => if tenants.contains t then s else setTenant t { tenantOf s t with deficit := 0 } s) adv.2.2
  let start : Admitting := ⟨s, [], if batchesServed s s.edge && decide (36 < (activePanels s).length) then lists else [], [], adv.1, adv.2.1, []⟩
  let a := rounds plan budget 262144 start
  let s := (List.range plan.length).foldl (fun s i => admitEntry plan a i s) a.s
  let cost := s.steps.foldl (fun c t => if t.runEdge = s.edge then c.add t.cost else c) Cost.zero
  pageLow (countShort a.short { s with admitted := cost })

/-- The plan list freezes (R18 step 3, R20, R40): what stands above PLAN_COMMIT is gone, and so, for the planner's next draft, are the entries taken; PLAN_COMMIT then reads 0 (log entry 78). Unsealed, the tick holds no scheduled retrain. -/
def freezePlan (sealing : Bool) (s : State) : State :=
  let s := { s with frozen := true, sealed := sealing, core2 := false }
  let s := if sealing then s else showBudget (wrB 0x100028 1 false (bump 0x100040 1 s))
  let s :=
    if !s.admits then s
    else if !sealing && s.plan.isEmpty then
      let s := wrB 0x100028 2 true (bump 0x100038 1 s)
      { s with missedRun := s.missedRun + 1 }
    else admitPlan { s with missedRun := 0 }
  wrF 0x100020 15 0 0 { s with plan := [] }

/-- The list is fixed once 1,000 tape ns have passed since the edge, whether or not the freeze has been told (R18): what comes later is of the next tick. -/
def freezeDue (s : State) : State := if s.frozen || serialAtLeast 64 (s.edge + 1000) s.tape then s else freezePlan false s

/-- The entries below PLAN_COMMIT. -/
def commitEntries (entries : List PlanEntry) (s : State) : State := wrF 0x100020 15 0 entries.length { s with plan := entries }

/-- PLAN_COMMIT_WRITE (R18, R25): the planner has completed these entries; the plan list below PLAN_COMMIT is these entries, up to the first that is not valid. An entry written before the list freezes is of this tick, one written after it is of the next. -/
def execPlanCommitWrite (entries : List PlanEntry) (s : State) : Host.Outcome State Fault Refusal :=
  let s := freezeDue s
  .next (commitEntries (entries.takeWhile (entryValid s)) s)

/-- The planner seals the list. A seal after the window finds the list already frozen (R18). -/
def sealPlan (s : State) : State := if s.frozen then s else freezePlan (serialAtLeast 64 (s.edge + 1000) s.tape) s

/-- PLAN_SEAL (R18 to R20, R23 to R35, R99 to R103, R109, R128 to R131, R137, R185, R188, R191, R195, R218, R219, R224, R388): the planner seals the list, which freezes and is expanded. -/
def execPlanSeal (s : State) : Host.Outcome State Fault Refusal := .next (sealPlan s)

/-- PLAN_FREEZE_TIMEOUT (R18 to R20): 1,000 tape ns after the edge the list freezes without a seal. -/
def execPlanFreezeTimeout (s : State) : Host.Outcome State Fault Refusal :=
  if s.frozen then .next s
  else .next (freezePlan false (runTo (s.edge + 1000) s))

/-- EXECUTION_BEGIN (R17, R172): the last piece is queued; the predicted end is set. -/
def execExecutionBegin (s : State) : Host.Outcome State Fault Refusal :=
  if !s.frozen || rdB s 0x100028 0 then .next s
  else
    let n := if rdB s 0x100028 1 then clocks s 8000 else 0
    .next { wrB 0x100028 0 true s with execAt := s.tape, predicted := clocks s (s.tape - s.edge) + n + s.admitted.clocks }

/-- Will the next edge be open to admission, as far as its rules stand now (R20, R37, R116, R263, R354, R385, R429)? -/
def nextAdmits (s : State) : Bool :=
  !(rdB s 0x100028 3) && s.slicePending.isNone && !s.fabric.stepDue && decide (36 < (activePanels s).length) && decide (s.sleepTo = 0) && s.update.isNone && !(repeats s (nextEdge s))

/-- CORE_2_PLANNER_HELP (R375): the test 20,000 tape ns before an edge open to admission: with sequences waiting and no entry of its draft committed, core 2 works for the planner until the list freezes, and takes no control request (`heard`; log entry 103). -/
def execCore2PlannerHelp (s : State) : Host.Outcome State Fault Refusal :=
  let s := runTo (s.edge + period s - 20000) s
  if decide (runState s = 4) && nextAdmits s && s.plan.isEmpty && s.seqs.any (fun e => decide (e.2.state = .ready)) then .next { s with core2 := true } else .next s

/-- EMISSION_GUARD (R17, R22, R36 to R38, R246 to R248, R319 to R323, R329, R332): the guard begins. -/
def execEmissionGuard (s : State) : Host.Outcome State Fault Refusal := .next (beginGuard s)

/-- STEP_COMMIT (R17, R21, R130, R34, R144, R173, R213 to R215, R233, R235, R239, R242 to R245): a step whose check is passed and whose tokens are all drawn commits; the guard is never later than its start. -/
def execStepCommit (step : Nat) (s : State) : Host.Outcome State Fault Refusal :=
  let s := atCompletion s
  match stepOf s step with
  | none => .next s
  | some t =>
    if t.phase ≠ .sampling ∨ t.seqs.any stillDraws ∨ (modelOf s t.model).faulted then .next s else .next (commitStep t s)

end Sys2Proof.Machine
end

