-- ==== Sys2Proof/Machine/Kv.lean ====
section
/-! DEFINITION. Hem writes and parks to pages, copies on write, and the page-wait limit (R206, R207, R215 to R217, R224, R226, R227). -/

namespace Sys2Proof.Machine

/-- The first job that may start: its sequence is open and its hem is HELD (R213, R215). -/
def nextJob (s : State) : Option KvJob :=
  s.kvJobs.find? (fun j => !j.started && decide ((seqOf s j.seq).gen = j.gen) && (seqOf s j.seq).pending.isNone)

/-- The scale block of a page of layer l (R206, R207). -/
def scaleBlock (r : Reader) (l : Nat) : List Byte :=
  let side (z : Nat) (fmt : Nat) : List Byte :=
    if fmt = 4 then ((List.range (imgKvHeads r)).map (fun h => leBytes 4 (cacheScale r l h z).toNat)).flatten else []
  side 0 (imgKfmt r) ++ side 1 (imgVfmt r)

/-- Store one record of a page; the units of its poisoned bytes are poisoned (R206, R228, R435). -/
def storeRecord (ctx a n : Nat) (bytes : List Byte) (bad : List Nat) (s : State) : State :=
  if n = 0 then s else bad.foldl (fun s i => poisonAt (a + i) s) (storeBytes true ctx a (padTo bytes n) false s)

/-- Write the held records of a page's positions raw: scale block, keys and values (R206). -/
def writeRecords (x : Seq) (r : Reader) (ctx base l per : Nat) (hs : List HeldPos) (s : State) : State :=
  let sb := scaleBytes r
  let kb := keyBytes r
  let vb := valBytes r
  let s := if sb = 0 then s else storeBytes true ctx base (scaleBlock r l) false s
  hs.foldl (fun s h =>
    let i := h.pos % per
    storeRecord ctx (base + sb + per * kb + i * vb) vb h.val h.valBad (storeRecord ctx (base + sb + i * kb) kb h.key h.keyBad s)) s

/-- Enter a page's directory entry (R283). -/
def setPageDir (page e : Nat) (s : State) : State :=
  if rdB s 0x400008 63 then storeBytes true (deviceCtx s) (rdF s 0x400008 47 12 * 4096 + 8 * page) (leBytes 8 e) false s else s

/-- The winder's work on a page that one write fills, when its model's cache is wound (R215, R282, R288, R295): the page as its records make it (one raw form, whose poison is the records'), and stored wound in its first lines alone, or raw. -/
def windPage (ctx page : Nat) (bad : Bool) (e : MoveErrors) (image s : State) : State :=
  let a := page * 65536
  let raw := (List.range 65536).map (fun i => byteAs image ctx (a + i))
  match (if bad then none else windSegment raw) with
  | some w => setPageDir page (dirEntry false w.length 65536) (storeBytes true ctx a (woundLines w 65536) false (bump 0x400040 (tableFixed e.codec 0) (countWind false 65536 w.length s)))
  | none => setPageDir page (dirEntry true 65536 65536) (bump 0x400040 (tableFixed e.codec 0) (countWind true 65536 65536 image))

/-- Did a park or a copy put positions on a page of a sequence before (R215)? One that is held no more stands on the page already. -/
def pageParked (s : State) (x : Seq) (j : KvJob) (per : Nat) : Bool :=
  s.kvJobs.any (fun k => k.seq == j.seq && k.gen == j.gen && k.layer == j.layer && k.page == j.page && k.park && k.started)
    || decide (j.positions.length < per) || decide (j.page * per < x.flushed)

/-- A page write or a park puts the committed positions of its page on the page (R206, R207, R215, R217), wound where R288 winds it. -/
def writePage (j : KvJob) (e : MoveErrors) (s : State) : State :=
  let x := seqOf s j.seq
  let r := imageOf s (modelOf s x.par.model)
  let per := pagePosOf s x
  let page := listEntry s x (maxPages r) j.layer j.page
  let ctx := tenantCtx s x.tenant
  let hs := x.held.filter (fun h => h.layer == j.layer && j.positions.contains h.pos && decide (h.epoch = .committed))
  let mark (s : State) : State := { s with kvJobs := s.kvJobs.map (fun k => if k = j then { k with started := true } else k) }
  if pageCount s ≤ page then mark s
  else
    let image := writeRecords x r ctx (page * 65536) j.layer per hs s
    let whole := !j.park && decide (hs.length = per) && !(pageParked s x j per)
    let s := if whole && imgCacheWound r && pagesWound s then windPage ctx page (hs.any (fun h => !h.keyBad.isEmpty || !h.valBad.isEmpty)) e image s
      else setPageDir page (dirEntry true 65536 65536) image
    let moved := scaleBytes r + (hs.map (fun h => h.key.length + h.val.length)).sum
    mark (bump 0x300018 moved (if j.park then s else bump 0x40040 1 s))

/-- PAGE_WRITE (R206, R207, R215, R217, R282 to R288, R298): the plan-engine channels carry out the first queued page write or park whose hem is HELD. -/
def execPageWrite (e : MoveErrors) (s : State) : Host.Outcome State Fault Refusal :=
  match nextJob s with
  | none => .next s
  | some j =>
    if stopped s then .next s else .next (takeWork (.pageWrite e) [jobRange s j] (writePage j e) s)

/-- The positions of a sequence that its completed writes have put on every layer's page (R215 to R217). -/
def pagesWritten (s : State) (n p : Nat) : Bool :=
  let x := seqOf s n
  let r := imageOf s (modelOf s x.par.model)
  let done := s.kvJobs.filter (fun j => j.seq == n && j.done && decide (j.gen = x.gen))
  (List.range (imgLayers r)).all (fun l => done.any (fun j => j.layer == l && j.positions.contains p))

/-- Does a step of the sequence run on past this edge? Its page-list table names the F of its own edge (R209), so its hem keeps what that table leaves to the hem. -/
def readsHem (s : State) (n : Nat) : Bool := s.steps.any (fun t => decide (t.phase ≠ .stageDone) && (laneSeqs t).any (fun q => q.seq == n))

/-- Advance F and return written segments at an edge (R216): F moves over the positions that every layer has written. A segment that a pending step has still to write stays (R213). -/
def settleWrites (s : State) : State :=
  let seqs := (((s.kvJobs.filter (fun j => j.done)).map (fun j => j.seq)).eraseDups).filter (fun n => !(readsHem s n))
  seqs.foldl (fun s n =>
    let x := seqOf s n
    let per := pagePosOf s x
    let run := ((List.range (x.committed - x.flushed)).takeWhile (fun k => pagesWritten s n (x.flushed + k))).length
    let f := x.flushed + run
    let held := x.held.filter (fun h => decide (f ≤ h.pos))
    let left := s.kvJobs.filter (fun j => !(j.seq == n && j.done && j.positions.all (fun p => decide (p < f))))
    setSeq n { x with flushed := f, held := held, segs := x.segs.filter (fun g => held.any (inSeg per g) || segAwaits per x g) } { s with kvJobs := left }) s

/-- Park the least recently served held hems until an eighth of the pool will be free (R217). -/
def parkForRoom (s : State) : State :=
  let pool := if rdB s 0x40020 63 then rdF s 0x40020 56 48 * 1024 else 0
  let want := pool / 8
  if want ≤ hemFree s then s
  else
    let cands := s.seqs.filter (fun e => e.2.pending.isNone && !e.2.held.isEmpty && isOpen e.2)
    let order := sortBy (fun n => (seqOf s n).lastServed) (cands.map (fun e => e.1))
    (order.foldl (fun (acc : Nat × State) n =>
      if want ≤ acc.1 then acc
      else (acc.1 + (((seqOf s n).segs.map (fun g => g.granules)).sum), parkSeq n acc.2)) (hemFree s, s)).2

/-- A copy of a shared page is written raw to the page taken for it, poison with it, and the shared page loses a reference (R224). -/
def copyPage (j : CowJob) (e : MoveErrors) (s : State) : State :=
  let ctx := tenantCtx s (seqOf s j.seq).tenant
  let r := readPage s ctx j.src (tableBad e.codec 0) e
  let lost (i : Nat) : Bool := !(lostLines e (j.src * 65536 + 64 * i) 64).isEmpty
  let lines := (List.range 1024).filter (fun i => r.poison || (r.raw && (anyPoison s (j.src * 65536 + 64 * i) 64 || lost i)))
  let span := if r.raw then 65536 else pageSpan s j.src
  let s := bump 0x300018 65536 (touchRange true ctx (j.src * 65536) span (logPageFault r.fault j.src (j.step, 0) s))
  let s := countUnwind r (tableFixed e.codec 0) 48 (j.src * 65536) (notePage e j.src (0, span) s)
  let s := storeBytes true ctx (j.dst * 65536) (padTo r.bytes 65536) false s
  let s := lines.foldl (fun s i => poisonAt (j.dst * 65536 + 64 * i) s) s
  let s := setPageDir j.dst (dirEntry true 65536 65536) s
  bump 0x40030 1 (decPage j.seq j.src { s with cowJobs := s.cowJobs.erase j })

/-- COW_COPY_COMPLETE (R224, R226): one copy of a shared page completes; a wound source is expanded and written raw. -/
def execCowCopyComplete (seq layer : Nat) (e : MoveErrors) (s : State) : Host.Outcome State Fault Refusal :=
  match s.cowJobs.find? (fun j => j.seq == seq && j.layer == layer) with
  | none => .next s
  | some j =>
    if stopped s || !(rdB s 0x100028 0) then .next s
    else .next (takeWork (.cowCopyComplete seq layer e) [pageRange j.src, pageRange j.dst] (copyPage j e) s)

/-- PAGE_WAIT_LIMIT (R227): a sequence that has waited 4,000 consecutive ticks for pages ends with 0x0303. -/
def execPageWaitLimit (seq : Nat) (s : State) : Host.Outcome State Fault Refusal :=
  let x := seqOf s seq
  if 4000 ≤ x.pageWait ∧ (x.state = .idle ∨ x.state = .ready) then
    .next (endSeq seq 7 0x0303 0 (hemError 4 seq 0xFFFFFFFF s))
  else .next s

end Sys2Proof.Machine
end

