-- ==== Sys2Proof/Machine/Stages.lean ====
section
/-! DEFINITION. How the firmware allots memory, and how it divides a model into stages (R32, R35, R282, R346, R385). -/

namespace Sys2Proof.Machine

/-- Allot n bytes of the firmware's arena in the stacks; where, is the firmware's choice (log entry 63). -/
def allotBlock (n : Nat) (s : State) : Option (Nat × State) :=
  let m := roundUp (max 1 n) 4096
  (placeIn s.arena.1 s.arena.2 m s.allotted).map (fun a => (a, keepBlock a m s))

/-- Bytes left in the arena. -/
def arenaFree (s : State) : Nat := (s.arena.2 - s.arena.1) - ((s.allotted.filter (fun b => decide (b.1 < scratchBase))).map (fun b => b.2)).sum

/-- The step a stage is sized by (R32): every lane group of the model's declared largest micro-batch is full, in the layers lo to hi. The lanes are of no sequence, so the key blocks that the matrix term charges for what is held are none. -/
def sizingStep (s : State) (model lo hi : Nat) : Step :=
  let r := imageOf s (modelOf s model)
  let group : List (Nat × Nat) := (List.range (layerLanes r lo)).map (fun l => (4096 + l, 0))
  let e : PlanEntry := { model := model, lo := lo, hi := hi, groups := List.replicate (imgMicro r) group, slotBase := 0, slotsPer := 0, lgBase := 0, pltab := 0, listed := [], advances := none }
  let t := draftStep s e 0 []
  let seq : StepSeq := { seq := 4096, group := 0, lane := 0, first := 0, inputs := [], draws := false, drawn := [], accepted := none, gstate := 0, stops := 0, reason := 0, status := 0, poisoned := false, cleared := false }
  let t := { t with entry := e, seqs := List.replicate (imgMicro r * layerLanes r lo) seq }
  { t with ops := stepOps s t }

/-- Clocks of a stage. -/
def stageClocks (s : State) (model lo hi : Nat) : Nat := (fullCost s (sizingStep s model lo hi)).clocks

/-- Does a stage fit the budget of a tick that holds a retrain (R32)? -/
def stageFits (s : State) (model lo hi : Nat) : Bool := decide (stageClocks s model lo hi ≤ budgetOf s true)

/-- The division into stages: each takes layers while it fits, and at least one layer (log entry 64). -/
def divideFrom (s : State) (model last : Nat) : Nat → Nat → Nat → List (Nat × Nat)
  | 0, lo, hi => [(lo, hi)]
  | f + 1, lo, hi =>
    if last ≤ hi then [(lo, hi)]
    else if stageFits s model lo (hi + 1) then divideFrom s model last f lo (hi + 1)
    else (lo, hi) :: divideFrom s model last f (hi + 1) (hi + 1)

/-- The stages of a model whose image is placed. -/
def divideModel (s : State) (model : Nat) : List (Nat × Nat) :=
  let n := imgLayers (imageOf s (modelOf s model))
  divideFrom s model (n - 1) n 0 0

/-- The period or the margin changes: models some stage of which no longer fits are to be divided again (R35). -/
def redivideAll (s : State) : State :=
  { s with redivide := s.models.foldl (fun l e => if e.2.live && e.2.stages.any (fun g => !(stageFits s e.1 g.1 g.2)) then insNat l e.1 else l) s.redivide }

/-- The margin may have changed (R28, R35): models are to be divided again, and before the list freezes the budget of this tick follows. -/
def marginChanged (s : State) : State :=
  let s := redivideAll s
  if s.frozen then s else showBudget s

/-- Divide again the models that wait for it and have no micro-batch in flight; a division into more than 32 stages is not taken (R35). -/
def redivideNow (s : State) : State :=
  s.redivide.foldl (fun s m =>
    if s.steps.any (fun t => t.model == m) then s
    else
      let d := divideModel s m
      let s := if d.length ≤ 32 then setModel m { modelOf s m with stages := d } s else s
      { s with redivide := s.redivide.erase m }) s

end Sys2Proof.Machine
end

