-- ==== Sys2Proof/Machine/RegWrite.lean ====
section
/-! DEFINITION. What a write to a register does to its fields under their access codes (R7, R8, R9), and the clearing of counters (R42 and its fellows). -/

namespace Sys2Proof.Machine

/-- Is a value on the frequency ladder of R412? -/
def onLadder (v : Nat) : Bool := decide (800 ≤ v) && decide (v ≤ 1800) && decide (v % 50 = 0)

/-- What an RW field becomes when a value is written to it; none when the write is ignored. -/
def taken (r : WRule) (v : Nat) : Option Nat :=
  match r with
  | .any => some v
  | .within a b => if a ≤ v ∧ v ≤ b then some v else none
  | .zeroAsOne => some (if v = 0 then 1 else v)
  | .ladder => if onLadder v then some v else none

/-- One field of a write (R7, R8). -/
def writeField (a : Nat) (v : Word) (s : State) (f : Field) : State :=
  match f.acc with
  | .ro => s
  | .wo => s
  | .w1c => if getBit v f.lo then wrF a f.hi f.lo 0 s else s
  | .rw => match taken f.rule (getBits v f.hi f.lo) with
    | some x => wrF a f.hi f.lo x s
    | none => s

/-- One W1C field of f.hi down to f.lo: every bit written 1 is cleared (R8). -/
def clearBits (a : Nat) (v : Word) (s : State) (f : Field) : State :=
  (List.range (f.hi + 1 - f.lo)).foldl (fun s i => if getBit v (f.lo + i) then wrB a (f.lo + i) false s else s) s

/-- Write a register field by field; reserved bits and registers ignore it (R7, R8). -/
def writeFields (a : Nat) (v : Word) (s : State) : State :=
  match regAt a with
  | none => s
  | some d => d.fields.foldl (fun s f => if f.acc = .w1c then clearBits a v s f else writeField a v s f) s

/-- Zero the counters of a control register and their overflow bits. -/
def clearGroup (c : Nat) (s : State) : State :=
  match groupOfCtrl c with
  | none => s
  | some (g, i) => wr c 0 ((g.addrs i).foldl (fun s a => wr a 0 s) s)

/-- COUNTER_CTRL_CLEAR (R42, R94, R117, R142, R158, R179, R204, R229, R251, R280, R297, R313, R334, R373, R391, R409, R433, R450): a write of a counter-control register. CLEAR zeroes its counters and overflow bits; without it, bits written 1 clear. -/
def execCounterCtrlClear (addr : Nat) (value : Word) (s : State) : Host.Outcome State Fault Refusal :=
  match groupOfCtrl addr with
  | none => .next s
  | some _ => .next (if getBit value 63 then clearGroup addr s else writeFields addr value s)

end Sys2Proof.Machine
end

