-- ==== Sys2Proof/Machine/Transport.lean ====
section
/-! DEFINITION. Frames, the receipt and retransmission of Obush, mailbox slots, intake, and port modes (R232, R314 to R332). -/

namespace Sys2Proof.Machine

/-- Frame kinds an interface tells apart (R317, R318). 0 PAUSE or priority flow control, 1 Neighbour Solicitation, 2 ARP request, 3 ICMP Echo Request over IPv6, 4 other ICMP, 5 UDP over IPv6, 6 UDP over IPv4, 7 ICMP Echo Request over IPv4, anything else other traffic. A solicitation or request is served for an address of the interface; tape exchanges run over IPv6 alone (R356). -/
def frameServed (s : State) (f : Frame) : Bool :=
  let ctrl := if f.back then 0xB00000 else 0xA00000
  let p := (if f.back then 4 else 0) + f.port
  let v4 := rdB s ctrl (if f.back then 62 else 63)
  let port := decide (f.udpPort = rdF s ctrl 15 0)
  let exchange := f.back && (decide (f.udpPort = 319) || decide (f.udpPort = 320))
  match f.kind with
  | 1 => (ifaceAddrs s p f.iface 6).contains f.target
  | 2 => v4 && (ifaceAddrs s p f.iface 4).contains f.target
  | 3 => rdB s 0xA00000 62
  | 5 => (port || exchange) && f.checksumOk
  | 6 => v4 && port && f.checksumOk
  | 7 => v4 && rdB s 0xA00000 62
  | _ => false

/-- Does the frame carry the tag its port wants (R317)? -/
def vlanOk (s : State) (p : Nat) (vid : Option Nat) : Bool :=
  let want := rdF s (portCfg p) 43 32
  match vid with
  | none => decide (want = 0)
  | some v => decide (want ≠ 0) && decide (v = want)

/-- ETHERNET_FRAME_RECEIVE (R316, R317, R318): a frame is counted, checked, answered in hardware, passed on or discarded. -/
def execEthernetFrameReceive (f : Frame) (s : State) : Host.Outcome State Fault Refusal :=
  let p := (if f.back then 4 else 0) + f.port
  let base := portCfg p
  if 4 ≤ f.port ∨ 8 ≤ f.iface ∨ !(rdB s (portStatus p) f.iface) ∨ rdF s 8 63 61 = 7 then .next s
  else
    let drop (s : State) : State := bump (base + 0x38) 1 s
    let s := bump (base + 0x28) f.fecCorrected (bump (base + 0x10) 1 s)
    if !f.fecOk then .next (drop (bump (base + 0x30) 1 s))
    else if !f.fcsOk then .next (drop (bump (base + 0x20) 1 s))
    else if 9216 < f.size ∨ !(vlanOk s p f.vid) ∨ f.fragment ∨ !(frameServed s f) then .next (drop s)
    else if f.kind = 1 ∨ f.kind = 2 ∨ f.kind = 3 ∨ f.kind = 7 then .next (emitOut (.link f.kind f.target (wireOf s p f.iface (decide (f.kind = 1 ∨ f.kind = 3)) 0 0)) (bump (base + 0x18) 1 s))
    else .next s

/-- The lowest free slot of a mailbox. -/
def freeSlot (s : State) (m : Nat) : Option Nat := (List.range 256).find? (fun i => decide (slotKind s m i = .free))

/-- Send waiting messages while fewer than 256 are unacknowledged (R332); the session ends once its last number is sent (R322). -/
def drainQueue (mailbox session : Nat) : Nat → State → State
  | 0, s => s
  | f + 1, s =>
    let k := sessionKey mailbox session
    let x := sessionOf s k
    match x.queue with
    | [] => s
    | d :: rest =>
      if 256 ≤ x.unacked.length then s
      else
        let s := transmit x d (setSession k { x with queue := rest, unacked := x.unacked ++ [d] } s)
        if d.msn = 2 ^ 32 - 1 then noticeSessions 8 [(15, mailbox, session, 0)] (endSession k s) else drainQueue mailbox session f s

/-- The response of a device.reset is acknowledged: the warm reset may start (R342). -/
def noteWarm (k : Nat) (acked : List Datagram) (s : State) : State :=
  { s with warmDue := s.warmDue.map (fun w => if w.session = k ∧ acked.any (fun m => m.msn == w.msn) then { w with acked := true } else w) }

/-- OBUSH_ACK_RECEIVE (R322, R326, R332): a later serial is acted on. -/
def takeAck (d : Datagram) (s : State) : State :=
  let ses := d.flags % 16
  let k := sessionKey d.mailbox ses
  let x := sessionOf s k
  let new := match x.ackSeen with
    | none => true
    | some l => serialLater 32 d.correlation l
  if !new then s
  else
    let left := x.unacked.filter (fun m => serialLater 32 m.msn d.msn)
    let moved := decide (left.length < x.unacked.length)
    let y := { x with ackSeen := some d.correlation, unacked := left, expiries := if moved then 0 else x.expiries, timer := if moved then s.tape else x.timer }
    let s := drainQueue d.mailbox ses 256 (setSession k y (noteWarm k (x.unacked.filter (fun m => !(serialLater 32 m.msn d.msn))) s))
    if d.correlation = 2 ^ 32 - 1 ∧ (sessionOf s k).live then noticeSessions 8 [(15, d.mailbox, ses, 0)] (endSession k s) else s

/-- The 9,216 bytes of a slot (R327). -/
def slotBytes (d : Datagram) (a : Arrival) (payload : List Byte) (tape : Nat) : List Byte :=
  padTo (padTo (headerBytes d ++ payload) 9152 ++ leBytes 8 tape ++ leBytes 1 a.peer.port ++ leBytes 1 a.peer.iface ++ leBytes 2 a.peer.udp ++ leBytes 16 a.peer.addr) 9216

/-- Take the message's number: e advances, the sender is remembered (R324, R325), and the session ends after its last number (R322). -/
def consume (d : Datagram) (a : Arrival) (s : State) : State :=
  let ses := d.flags % 16
  let k := sessionKey d.mailbox ses
  let x := sessionOf s k
  let s := oweAck d.mailbox ses (setSession k { x with rxNext := x.rxNext + 1, peer := some a.peer } s)
  if d.msn = 2 ^ 32 - 1 ∧ (sessionOf s k).live then noticeSessions 8 [(15, d.mailbox, ses, 0)] (endSession k s) else s

/-- A delivered seq.cancel marks its sequence before the controller sees it (R331). -/
def markCancel (payload : List Byte) (mailbox : Nat) (s : State) : State :=
  let n := leAt payload 0 2
  let x := seqOf s n
  if n < 4096 ∧ x.state ≠ .free ∧ x.gen = leAt payload 2 2 ∧ (x.tenant = mailbox ∨ mailbox = operatorBox) then setSeq n { x with cancelPending := true } s
  else s

/-- The sequence of generation gen that a payload's first bytes name waits for a cancel (R331). -/
def cancelMarked (payload : List Byte) (s : State) : Bool :=
  let x := seqOf s (leAt payload 0 2)
  decide (x.gen = leAt payload 2 2) && x.cancelPending

/-- Deliver a request into a slot (R325 step 6, R327, R294, R323); a seq.feed that comes after its sequence's cancel is marked so (R331). -/
def deliver (d : Datagram) (a : Arrival) (slot : Nat) (kind : SlotKind) (table : SramError) (s : State) : State :=
  let u : Unwound := if flagWound d.flags then unwindPayload d.payload (decide (table = .uncorrectable)) else ⟨d.payload, none, true, false⟩
  let s := countUnwind u (if table = .corrected then 1 else 0) (64 + a.peer.port) 0 s
  match u.fault with
  | some _ =>
    let s := consume d a s
    refuseAt d.mailbox (d.flags % 16) d.correlation d.command 0x0403 0xFFFF s.tape s
  | none =>
    let s := storeBytes false (deviceCtx s) (slotAddr s d.mailbox slot) (slotBytes d a u.bytes s.tape) false s
    let kind := if kind = .data && cancelMarked u.bytes s then .late else kind
    let s := consume d a (setSlotKind d.mailbox slot kind s)
    if d.command = 0x0403 then markCancel u.bytes d.mailbox s else s

/-- Admission by class (R328). -/
def admitMessage (d : Datagram) (a : Arrival) (table : SramError) (s : State) : State :=
  let m := d.mailbox
  let full (s : State) : State := bump 0xA00048 1 s
  if d.command = 0x0402 then
    match freeSlot s m with
    | some i => deliver d a i .data table s
    | none => full s
  else
    let backlog := heldSlots s m .control
    if rdF s (mboxCfg m) 8 0 ≤ backlog then
      let s := consume d a (bump 0xA00050 1 s)
      refuseAt m (d.flags % 16) d.correlation d.command 0x0101 0xFFFF (s.tape + backlog * rdF s 0xA00010 47 32) s
    else match freeSlot s m with
      | some i => deliver d a i .control table s
      | none => full s

/-- Does a datagram fail the header check (R325 step 1)? -/
def obHeaderBad (d : Datagram) (a : Arrival) (s : State) : Bool :=
  decide (d.magic ≠ 0x4F42) || decide (d.version ≠ 1) || decide (d.type ≠ 1) || decide (65 < d.mailbox) || !(rdB s 0xA00008 63) || !(rdB s (mboxCfg d.mailbox) 63)
    || decide (d.length + 56 ≠ a.udpLength) || decide (9120 < d.length) || flagClear d.flags || !(sessionOf s (sessionKey d.mailbox d.flags)).live

/-- OBUSH_DATAGRAM_RECEIVE (R320 to R329): header check, authentication, acknowledgement, sequence, admission, delivery. A sleeping device has no port up (R428, R429). -/
def execObushDatagramReceive (d : Datagram) (a : Arrival) (table : SramError) (s : State) : Host.Outcome State Fault Refusal :=
  if asleep s then .next s
  else
  let s := bump 0xA00018 1 (charge d.mailbox 0 (frameBits (!(mappedV4 a.peer.addr)) (decide (rdF s (portCfg a.peer.port) 43 32 ≠ 0)) a.udpLength) s)
  if obHeaderBad d a s then .next (bump 0xA00028 1 s)
  else
    let ses := d.flags % 16
    let x := sessionOf s (sessionKey d.mailbox ses)
    let ack := flagAck d.flags
    let nonce := obushNonce x.salt (if ack then 2 else 0) ses d.mailbox (if ack then d.correlation else d.msn)
    if d.tag ≠ Config.gcmTag x.key nonce (headerBytes d) d.payload then .next (bump 0xA00030 1 s)
    else if ack then .next (takeAck d s)
    else if d.msn = x.rxNext then .next (admitMessage d a table s)
    else if serialLater 32 x.rxNext d.msn then .next (oweAck d.mailbox ses (bump 0xA00038 1 s))
    else .next (oweAck d.mailbox ses (bump 0xA00040 1 s))

/-- OBUSH_RETRANSMIT_TIMEOUT (R332): RTO passes without an advance: everything unacknowledged is sent again, or at the last allowed expiry the session is lost. -/
def execObushRetransmitTimeout (mailbox session : Nat) (s : State) : Host.Outcome State Fault Refusal :=
  let k := sessionKey mailbox session
  let z := sessionOf s k
  if !z.live || z.unacked.isEmpty then .next s
  else
    let s := runTo (z.timer + rdF s 0xA00010 23 0) s
    let x := sessionOf s k
    if rdF s 0xA00010 55 48 ≤ x.expiries + 1 then
      .next (noticeSessions 8 [(16, mailbox, session % 16, x.unacked.length + x.queue.length)] (endSession k s))
    else
      let s := setSession k { x with expiries := x.expiries + 1, timer := s.tape } s
      .next (x.unacked.foldl (fun s d => transmit x d (bump 0xA00058 1 s)) s)

/-- MBOX_RELEASE (R328, R334): a write of MBOX_CFG; RELEASE frees a control slot, and a tenant mailbox has had its turn (R337). -/
def execMboxRelease (mailbox : Nat) (value : Word) (s : State) : Host.Outcome State Fault Refusal :=
  if 66 ≤ mailbox then .next s
  else
    let s := writeFields (mboxCfg mailbox) value s
    let i := getBits value 23 16
    .next (if getBit value 62 && decide (slotKind s mailbox i = .control) then
      setSlotKind mailbox i .free { s with boxTurn := if mailbox < 64 then mailbox else s.boxTurn } else s)

/-- MODE_CHANGE_COMPLETE (R315): the links come up in the new mode and PENDING clears. -/
def execModeChangeComplete (back : Bool) (port : Nat) (s : State) : Host.Outcome State Fault Refusal :=
  let p := (if back then 4 else 0) + port
  if 4 ≤ port ∨ !(rdB s (portCfg p) 63) then .next s
  else .next (raiseLinks p (wrB (portCfg p) 63 false s))

/-- Does every id of a list lie below a bound? The index of the first that does not. -/
def firstBeyond (bound : Nat) (ids : List Nat) : Option Nat := (List.range ids.length).find? (fun i => decide (bound ≤ ids.getD i 0))

/-- Ids of a payload's list of 4-byte entries from an offset. -/
def idsAt (payload : List Byte) (off n : Nat) : List Nat := (List.range n).map (fun i => leAt payload (off + 4 * i) 4)

/-- Are all ids of the allowed-token list there (R348)? -/
def allowedWhole (x : Seq) : Bool := decide (x.allowed.length = x.par.nlist)

/-- The state intake leaves an open sequence in (R233, R348). -/
def afterIntake (x : Seq) : Seq :=
  if x.state = .idle ∧ allowedWhole x ∧ (0 < x.ringCount ∨ x.fed.isSome) then { x with state := .ready } else x

/-- Append ids to the input ring (R232). -/
def ringAppend (n : Nat) (ids : List Nat) (s : State) : State :=
  let x := seqOf s n
  let at_ (i : Nat) : Nat := x.ringAddr + 4 * ((x.ringHead + x.ringCount + i) % 16384)
  let s := (List.range ids.length).foldl (fun s i => storeBytes false (tenantCtx s x.tenant) (at_ i) (leBytes 4 (ids.getD i 0)) false s) s
  setSeq n (afterIntake { x with ringCount := x.ringCount + ids.length }) s

/-- Was a feed delivered after its sequence was marked cancel-pending (R331)? One that stands in no slot is judged as it runs. -/
def fedLate (r : Req) (x : Seq) (s : State) : Bool :=
  match slotKind s r.mailbox r.slot with
  | .late => true
  | .data => false
  | _ => x.cancelPending

/-- What intake makes of a feed (R132, R230, R232, R335, R341, R344): a refusal, or the changed state. -/
def feed (r : Req) (flags : Nat) (s : State) : Reply :=
  let n := pay r 0 2
  let x := seqOf s n
  let count := pay r 4 4
  let ids := idsAt r.payload 8 count
  let vocab := imgVocab (imageOf s (modelOf s x.par.model))
  if 64 ≤ r.mailbox then .refuseOpen 0x0501 0xFFFF
  else if r.payload.length < 8 ∨ r.payload.length ≠ 8 + 4 * count then .refuseOpen 0x0205 0xFFFF
  else if count < 1 ∨ 2278 < count then .refuse 0x0201 4 2278
  else if 4096 ≤ n ∨ x.state = .free ∨ x.gen ≠ pay r 2 2 then .refuse 0x0206 2 x.gen
  else if x.tenant ≠ r.mailbox then .refuseOpen 0x0502 0
  else if x.state = .ending ∨ fedLate r x s then .refuseOpen 0x0207 0
  else if (modelOf s x.par.model).faulted then .refuseOpen 0x0401 0
  else if flagDraft flags ∧ x.par.draftSource ≠ 1 then .refuseOpen 0x0201 0xFFFF
  else match firstBeyond vocab ids with
    | some i => .refuse 0x0201 (8 + 4 * i) vocab
    | none =>
      if flagDraft flags then .done (leBytes 4 (16384 - x.ringCount)) (setSeq n { x with drafts := x.drafts ++ ids } s)
      else if 16384 - x.ringCount < count then .refuse 0x0302 4 (16384 - x.ringCount)
      else .done (leBytes 4 (16384 - x.ringCount - count)) (ringAppend n ids s)

/-- SEQ_FEED (R132, R230, R232, R245, R329, R330, R335, R336, R435): the intake engine carries a delivered feed out, releases its slot and answers, unless the feed succeeded with NORESP. -/
def execSeqFeed (r : Req) (flags : Nat) (s : State) : Host.Outcome State Fault Refusal :=
  let spec : CmdSpec := ⟨0x0402, [0], true⟩
  let free (s : State) : State := if slotKind s r.mailbox r.slot = .data ∨ slotKind s r.mailbox r.slot = .late then setSlotKind r.mailbox r.slot .free s else s
  if slotPoisoned s r then .next (respond r.mailbox r.session r.correlation 0x0402 0x0404 [] (free s))
  else if rdB s 0x50008 61 then .next (refuseAt r.mailbox r.session r.correlation 0x0402 0x0404 0xFFFF s.tape (free s))
  else match feed r flags s with
    | .done p t => .next (if flagNoresp flags then free t else conclude spec r (free s) (.done p (free t)))
    | x => .next (conclude spec r (free s) x)

end Sys2Proof.Machine
end

