-- ==== Sys2Proof/Machine/CmdDevice.lean ====
section
/-! DEFINITION. The device, tenant, budget and notice families of commands (R13 to R15, R28, R35, R109, R235, R315, R341 to R345, R350, R387). -/

namespace Sys2Proof.Machine

/-- Sender's role of a request. -/
def roleIn (r : Req) : Nat := roleOf r.mailbox

/-- DEVICE_INFO (R16, R341). -/
def execDeviceInfo (r : Req) (s : State) : Host.Outcome State Fault Refusal :=
  control ⟨0x0101, [0, 1, 2], false⟩ (exactly r 0) (fun s =>
    .done (orderingCode s ++ leBytes 2 s.fuse.perfClass ++ leBytes 2 (ownLevel s) ++ leBytes 4 (fwVersion s) ++ leBytes 1 (rdF s 8 60 59) ++ zeros 7 ++ leBytes 8 (tickIndex s)) s) r s

/-- Arm a period (R14). -/
def armPeriod (ns : Nat) (s : State) : State := wrB 0x100008 63 true (wrF 0x100008 21 0 ns s)

/-- DEVICE_TICK (R13 to R15). -/
def execDeviceTick (r : Req) (s : State) : Host.Outcome State Fault Refusal :=
  control ⟨0x0102, [1], false⟩ (exactly r 4) (fun s =>
    let us := pay r 0 4
    if us < 50 then .refuse 0x0201 0 50
    else if 4000 < us then .refuse 0x0201 0 4000
    else if rdB s 0xB00010 63 then .refuseOpen 0x0207 0xFFFF
    else .done [] (armPeriod (1000 * us) s)) r s

/-- DEVICE_PLAN (R28, R35, R109). -/
def execDevicePlan (r : Req) (s : State) : Host.Outcome State Fault Refusal :=
  control ⟨0x0103, [1], false⟩ (exactly r 4) (fun s =>
    let m := pay r 0 1
    let t := pay r 2 2
    if m ≠ 0xFF ∧ 40 < m then .refuse 0x0201 0 40
    else if t ≠ 0 ∧ t < 16 then .refuse 0x0201 2 16
    else if 4096 < t then .refuse 0x0201 2 4096
    else
      let s := if m = 0xFF then s else wrF 0x100018 55 48 m s
      .done [] (marginChanged (if t = 0 then s else { s with split := t }))) r s

/-- Begin a mode change of a port (R315): its links go down, and PENDING stands until they are up. -/
def startMode (p mode : Nat) (s : State) : State :=
  let s := wrF (portStatus p) 7 0 0 (wrB (portCfg p) 63 true (wrF (portCfg p) 57 56 mode s))
  if 4 ≤ p then moveConns s else s

/-- DEVICE_PORT (R314, R315). -/
def execDevicePort (r : Req) (s : State) : Host.Outcome State Fault Refusal :=
  control ⟨0x0104, [1], false⟩ (exactly r 2) (fun s =>
    let p := pay r 0 1
    let m := pay r 1 1
    if 7 < p then .refuse 0x0201 0 7
    else if 3 < m then .refuse 0x0201 1 3
    else if 4 ≤ p ∧ rdB s 0xB00010 63 then .refuseOpen 0x0207 0
    else if rdB s (portCfg p) 63 then .refuseOpen 0x0103 0
    else .done [] (startMode p m s)) r s

/-- DEVICE_ADDR (R317): a global address of a front interface. -/
def execDeviceAddr (r : Req) (s : State) : Host.Outcome State Fault Refusal :=
  control ⟨0x0105, [1], false⟩ (exactly r 20) (fun s =>
    let p := pay r 0 1
    let i := pay r 1 1
    let fam := pay r 2 1
    let len := pay r 3 1
    if 3 < p then .refuse 0x0201 0 3
    else if ifaces (rdF s (portCfg p) 57 56) ≤ i then .refuse 0x0201 1 (ifaces (rdF s (portCfg p) 57 56) - 1)
    else if fam ≠ 4 ∧ fam ≠ 6 then .refuseOpen 0x0201 2
    else if (fam = 4 ∧ 32 < len) ∨ 128 < len then .refuse 0x0201 3 (if fam = 4 then 32 else 128)
    else
      let a : IfAddr := ⟨p, i, fam, len, if fam = 4 then slice r.payload 4 4 else slice r.payload 4 16⟩
      .done [] { s with addrs := s.addrs.filter (fun x => !(x.port == p && x.iface == i && x.family == fam)) ++ [a] }) r s

/-- DEVICE_RESET (R342): the response goes first; the warm reset is ordered. -/
def execDeviceReset (r : Req) (s : State) : Host.Outcome State Fault Refusal :=
  control ⟨0x0106, [1, 2], false⟩ (exactly r 1) (fun s =>
    if pay r 0 1 ≠ 0 then .refuse 0x0201 0 0
    else
      let k := sessionKey r.mailbox r.session
      .done [] { s with warmDue := some ⟨1, s.tape + 1000000, k, (sessionOf s k).txNext % 2 ^ 32, false⟩ }) r s

/-- DEVICE_STATUS (R16, R341). -/
def execDeviceStatus (r : Req) (s : State) : Host.Outcome State Fault Refusal :=
  control ⟨0x0107, [0, 1, 2], false⟩ (exactly r 0) (fun s =>
    .done (leBytes 8 (tickIndex s) ++ leBytes 8 (rd s 0x100030).toNat ++ leBytes 8 (rd s 0x100038).toNat ++ leBytes 1 (activePanels s).length ++ leBytes 1 (rdF s 0x50008 63 61) ++ zeros 6) s) r s

/-- Does the profile fix the tenants (R345)? -/
def plainProfile (s : State) : Bool := decide (rdF s 8 60 59 % 2 = 0)

/-- Range checks shared by tenant.create and tenant.set. -/
def tenantFields (r : Req) : Option Reply :=
  if 63 < pay r 0 1 then some (.refuse 0x0201 0 63)
  else if 15 < pay r 1 1 then some (.refuse 0x0201 1 15)
  else if pay r 2 2 = 0 then some (.refuse 0x0201 2 1)
  else none

/-- TENANT_CREATE (R343, R345, R387, R399, R420). -/
def execTenantCreate (r : Req) (s : State) : Host.Outcome State Fault Refusal :=
  control ⟨0x0201, [1], false⟩ (exactly r 8) (fun s =>
    match tenantFields r with
    | some x => x
    | none =>
      if plainProfile s || (tenantOf s (pay r 0 1)).live then .refuseOpen 0x0207 0
      else .done [] (makeTenant (pay r 0 1) (pay r 1 1) (pay r 2 2) (pay r 4 4) s)) r s

/-- Open sequences of a tenant. -/
def openSeqs (s : State) (t : Nat) : Nat := (s.seqs.filter (fun e => isOpen e.2 && e.2.tenant == t)).length
/-- Resident models of an owner. -/
def ownedModels (s : State) (t : Nat) : Nat := (s.models.filter (fun e => e.2.live && e.2.owner == t)).length

/-- A tenant is destroyed (R343, R387, R399, R406, R420): its key, its mailbox, its sessions and its account go. Nothing reads its lines intelligibly from then on, a transfer that still names its key context among the rest: what a context without a key gives the specification does not say (log entry 4). -/
def dropTenant (t : Nat) (s : State) : State :=
  let x := tenantOf s t
  let s := setTenant t { Tenant.none with keyGen := x.keyGen + 1 } s
  let s := wrB 0x900018 t false (wrB (mboxCfg t) 63 false (wr (0x800200 + 8 * t) 0 s))
  let s := x.resetting.foldl (fun s w => settle w 0 s) s
  (List.range 16).foldl (fun s i => endSession (sessionKey t i) s) s

/-- TENANT_DESTROY (R343, R345, R387, R406). -/
def execTenantDestroy (r : Req) (s : State) : Host.Outcome State Fault Refusal :=
  control ⟨0x0202, [1], false⟩ (exactly r 1) (fun s =>
    let t := pay r 0 1
    if plainProfile s then .refuseOpen 0x0207 0
    else if 63 < t ∨ !(tenantOf s t).live then .refuseOpen 0x0208 0
    else if 0 < ownedModels s t ∨ 0 < openSeqs s t then .refuseOpen 0x0207 0
    else .done [] (dropTenant t s)) r s

/-- TENANT_RESET (R343, R389): it takes effect at the next edge and is answered at its end. -/
def execTenantReset (r : Req) (s : State) : Host.Outcome State Fault Refusal :=
  control ⟨0x0203, [1], false⟩ (exactly r 1) (fun s =>
    let t := pay r 0 1
    if 63 < t ∨ !(tenantOf s t).live then .refuseOpen 0x0208 0
    else .later (setTenant t { tenantOf s t with resetting := (tenantOf s t).resetting ++ [waiterOf r 0x0203] } s)) r s

/-- TENANT_SET (R341, R387). -/
def execTenantSet (r : Req) (s : State) : Host.Outcome State Fault Refusal :=
  control ⟨0x0204, [1], false⟩ (exactly r 8) (fun s =>
    match tenantFields r with
    | some x => x
    | none =>
      let t := pay r 0 1
      let x := tenantOf s t
      if !x.live then .refuseOpen 0x0208 0
      else
        let route := sget (fun _ => Route.all) s.routes t
        let s := setTenant t { x with qos := pay r 2 2, quota := pay r 4 4 } s
        .done [] { s with routes := sput (fun _ => Route.all) s.routes t { route with session := pay r 1 1 } }) r s

/-- Does a tenant's request name another tenant (R344)? -/
def foreign (r : Req) (t : Nat) : Bool := decide (roleIn r = 0) && decide (t ≠ r.mailbox)

/-- TENANT_QUERY (R341). -/
def execTenantQuery (r : Req) (s : State) : Host.Outcome State Fault Refusal :=
  control ⟨0x0205, [0, 1], false⟩ (exactly r 1) (fun s =>
    let t := pay r 0 1
    if foreign r t then .refuseOpen 0x0502 0
    else if 63 < t ∨ !(tenantOf s t).live then .refuseOpen 0x0208 0
    else
      let x := tenantOf s t
      let route := sget (fun _ => Route.all) s.routes t
      .done (leBytes 2 x.qos ++ leBytes 1 route.session ++ zeros 1 ++ leBytes 4 x.quota ++ leBytes 4 (tenantPages s t) ++ leBytes 2 (openSeqs s t) ++ leBytes 2 (ownedModels s t)) s) r s

/-- BUCKET_CFG of a tenant. -/
def bucketCfg (t : Nat) : Nat := 0x501008 + 0x10 * t

/-- BUDGET_SET (R235, R236, R341). -/
def execBudgetSet (r : Req) (s : State) : Host.Outcome State Fault Refusal :=
  control ⟨0x0701, [1], false⟩ (exactly r 12) (fun s =>
    let t := pay r 0 1
    if 256 < pay r 2 2 then .refuse 0x0201 2 256
    else if 2 ^ 24 ≤ pay r 4 4 then .refuse 0x0201 4 (2 ^ 24 - 1)
    else if 2 ^ 31 ≤ pay r 8 4 then .refuse 0x0201 8 (2 ^ 31 - 1)
    else if 63 < t ∨ !(tenantOf s t).live then .refuseOpen 0x0208 0
    else .done [] (wrF (bucketCfg t) 63 55 (pay r 2 2) (wrF (bucketCfg t) 54 24 (pay r 8 4) (wrF (bucketCfg t) 23 0 (pay r 4 4) s)))) r s

/-- BUDGET_QUERY (R235, R341). -/
def execBudgetQuery (r : Req) (s : State) : Host.Outcome State Fault Refusal :=
  control ⟨0x0702, [0, 1], false⟩ (exactly r 1) (fun s =>
    let t := pay r 0 1
    if foreign r t then .refuseOpen 0x0502 0
    else if 63 < t ∨ !(tenantOf s t).live then .refuseOpen 0x0208 0
    else .done (leBytes 8 (ofSigned 64 (bucketLevel s t)) ++ leBytes 4 (rdF s (bucketCfg t) 23 0) ++ leBytes 4 (rdF s (bucketCfg t) 54 24) ++ leBytes 2 (rdF s (bucketCfg t) 63 55) ++ zeros 2) s) r s

/-- The route a notice command names: a live tenant, or the operator; otherwise its refusal. -/
def routeNamed (r : Req) (s : State) : Option Reply :=
  let t := pay r 0 1
  if foreign r t then some (.refuseOpen 0x0502 0)
  else if t ≠ operatorBox ∧ 63 < t then some (.refuse 0x0201 0 0x40)
  else if t ≠ operatorBox ∧ !(tenantOf s t).live then some (.refuseOpen 0x0208 0)
  else none

/-- NOTICE_ROUTE (R341, R350, R387). -/
def execNoticeRoute (r : Req) (s : State) : Host.Outcome State Fault Refusal :=
  control ⟨0x0801, [0, 1], false⟩ (exactly r 12) (fun s =>
    match routeNamed r s with
    | some x => x
    | none =>
      if 15 < pay r 1 1 then .refuse 0x0201 1 15
      else .done [] { s with routes := sput (fun _ => Route.all) s.routes (pay r 0 1) ⟨pay r 1 1, pay r 4 8⟩ }) r s

/-- NOTICE_QUERY (R341). -/
def execNoticeQuery (r : Req) (s : State) : Host.Outcome State Fault Refusal :=
  control ⟨0x0802, [0, 1], false⟩ (exactly r 1) (fun s =>
    match routeNamed r s with
    | some x => x
    | none =>
      let x := sget (fun _ => Route.all) s.routes (pay r 0 1)
      .done (leBytes 2 x.session ++ leBytes 8 x.mask) s) r s

end Sys2Proof.Machine
end

