-- ==== Sys2Proof/Machine/Power.lean ====
section
/-! DEFINITION. The thimble, its decision table, sleep and wake, the thermal trip, gating, droop, the power policy of an edge, and energy (R410 to R433, R463, R464). -/

namespace Sys2Proof.Machine

/-- TH_DT of an entry. -/
def thDt (e : Nat) : Nat := 0xC00200 + 8 * e

/-- What a channel's read of a round comes to. -/
inductive Reading where
  | value (v : Int)
  /-- the read failed (R421) -/
  | failed
  /-- the read was displaced past the end of the round (R464) -/
  | displaced
  deriving DecidableEq, Repr

/-- One channel of a sample (R421, R422, R464): a failed read keeps the value and clears VALID, a displaced one leaves both; the first sample after a cold reset sets the filter. Channel 15 is read only while an address is set. -/
def sampleChannel (c : Nat) (reading : Reading) (s : State) : State :=
  let on := decide (c ≠ 15) || decide (rdF s 0xC00020 6 0 ≠ 0)
  match reading with
  | .displaced => s
  | .failed => wrB (thCh c) 31 false s
  | .value v =>
    if !on then wrB (thCh c) 31 false s
    else
      let x := toSigned 16 (ofSigned 16 v)
      let y := filt s c
      let a := rdF s (thCh c) 2 0
      let y' := if s.thimble.primed.contains c then y + (x - y) / ((2 ^ a : Nat) : Int) else x
      let s := wrB (thCh c) 31 true (wrF (thCh c) 47 32 (ofSigned 16 y') (wrF (thCh c) 63 48 (ofSigned 16 x) s))
      { s with thimble := { s.thimble with primed := insNat s.thimble.primed c } }

/-- An entry as the last sample took it (R423): a write of TH_DT takes effect at the next one. -/
def entryWord (s : State) (e : Nat) : Word := s.thimble.table.getD e 0

/-- The sample takes the table as it is written now (R423). -/
def takeTable (s : State) : State := { s with thimble := { s.thimble with table := (List.range 16).map (fun e => rd s (thDt e)) } }

/-- The channels an entry compares that are valid. -/
def entryChannels (s : State) (e : Nat) : List Nat := (List.range 16).filter (fun c => getBit (entryWord s e) (41 + c) && rdB s (thCh c) 31)

/-- An entry's value with the channel that gives it (R423). -/
def entryValue (s : State) (e : Nat) : Option (Nat × Int) :=
  (entryChannels s e).foldl (fun acc c => match acc with
    | none => some (c, filt s c)
    | some z => if z.2 < filt s c then some (c, filt s c) else acc) none

/-- Is the device awake as WHEN means it (R423, R425): powered, and neither asleep nor in trip hold? Work still runs while it enters sleep (log entry 112). -/
def powered (s : State) : Bool := [0, 1, 4].contains (thState s) && !s.pins.rails.isEmpty

/-- Is an entry enabled and evaluated in the state at hand (R423)? -/
def entryLive (s : State) (e : Nat) : Bool :=
  let w := getBits (entryWord s e) 62 61
  getBit (entryWord s e) 63 && ((decide (w = 0) && powered s) || (decide (w = 1) && asleep s) || (decide (w = 2) && (powered s || asleep s)))

/-- Evaluate one entry (R423). -/
def evalEntry (e : Nat) (s : State) : State :=
  let w := entryWord s e
  if !(getBit w 63) then wrB 0xC00000 (45 + e) false s
  else if !(entryLive s e) then s
  else match entryValue s e with
    | none => s
    | some (_, v) =>
      let hi := toSigned 16 (getBits w 40 25)
      let lo := toSigned 16 (getBits w 24 9)
      let down := getBit w 57
      let isSet := rdB s 0xC00000 (45 + e)
      let sets := if down then decide (v ≤ hi) else decide (hi ≤ v)
      let clears := if down then decide (lo ≤ v) else decide (v ≤ lo)
      wrB 0xC00000 (45 + e) (if isSet then !clears else sets) s

/-- The set entries of an action. -/
def setEntries (s : State) (action : Nat) : List Nat :=
  (List.range 16).filter (fun e => rdB s 0xC00000 (45 + e) && decide (getBits (entryWord s e) 60 58 = action))

/-- The set entries of an action that apply in the state at hand. -/
def acting (s : State) (action : Nat) : List Nat := (setEntries s action).filter (fun e => entryLive s e)

/-- Channel and filtered value of the first acting entry, as a notice names them. -/
def actor (s : State) (es : List Nat) : Nat × Nat :=
  match es with
  | [] => (0xFF, 0)
  | e :: _ => match entryValue s e with
    | some z => (z.1, ofSigned 16 z.2)
    | none => (0xFF, 0)

/-- End every session and connection without a notice (R428, R430). -/
def dropLinks (s : State) : State :=
  let s := s.sessions.foldl (fun s e => endSession e.1 s) s
  { s with conns := s.conns.map (fun e => (e.1, if e.2.phase = .free then e.2 else e.2.freed)), fabric := { s.fabric with waiting := [], wants := [] } }

/-- Sleep with memory off (R424, R430): every session and connection ends, every rail but VAON goes off. -/
def sleepOff (cause : Nat) (s : State) : State :=
  let s := asleepOff (dropLinks s)
  { s with thimble := { s.thimble with offCause := cause } }

/-- First byte of the save area of R429. -/
def saveBase (s : State) : Nat := rdF s 0x800028 47 20 * 2 ^ 20

/-- Copy the scratchpad window to the save area, or back (R429). -/
def copyWindow (src dst n : Nat) (s : State) : State :=
  let kept := s.mem.filter (fun c => decide (c.1 < dst) || decide (dst + n ≤ c.1))
  let moved := (s.mem.filter (fun c => decide (src ≤ c.1) && decide (c.1 < src + n))).map (fun c => (dst + (c.1 - src), c.2))
  { s with mem := moved.foldl (fun m c => sput zeroByte m c.1 c.2) kept }

/-- The keys of the lines once an area of n bytes is written under a context (R405). -/
def keyArea (a n ctx : Nat) (keys : Sparse Nat) : Sparse Nat :=
  let kept := keys.filter (fun e => decide (e.1 < a) || decide (a + n ≤ e.1))
  if ctx = 0 then kept else (linesOf a n).foldl (fun k l => sput (fun _ => 0) k l ctx) kept

/-- The words of the scratchpad window that come back poisoned: those of the save area's poisoned lines (R429, R435). -/
def wokenPoison (src n : Nat) (poison : List Nat) : List Nat :=
  (poison.filter (fun a => decide (src ≤ a) && decide (a < src + n))).foldl (fun l a => (List.range 8).foldl (fun l i => insNat l (scratchBase + (a - src) + 8 * i)) l) poison

/-- Sleep with memory retained (R428, R429, R462): dirty lines are written back, the scratchpad is saved, sessions and connections are lost, and every rail but VAON and VSTK goes off; of the links, the thimble keeps interface 0 of F0 (R431). -/
def sleepRetained (s : State) : State :=
  let n := scratchSize (scratchMiB s)
  let s := copyWindow scratchBase (saveBase s) n (dropLinks s)
  let saved := (s.poison.filter (fun a => decide (scratchBase ≤ a) && decide (a < scratchBase + n))).map (fun a => (saveBase s + (a - scratchBase)) / 64 * 64)
  let s := { s with mem := s.mem.filter (fun c => decide (c.1 < scratchBase)), cache := [], poison := saved.foldl insNat (s.poison.filter (fun a => decide (a < scratchBase))), lineKey := keyArea (saveBase s) n (deviceCtx s) s.lineKey }
  let s := (List.range 8).foldl (fun s p => wrF (portStatus p) 7 0 (if p = 0 then 1 else 0) s) (stopWdog s)
  wrF 0xC00000 63 61 2 (wrF 8 63 61 7 { s with pins := { s.pins with rails := [0, 1] } })

/-- Wake the device (R429, R430): from retained sleep the channels retrain, the scratchpad comes back and the controller resumes as in a restart; from sleep with memory off the boot runs from step 2. -/
def wake (s : State) : State :=
  if thState s = 2 then
    let n := scratchSize (scratchMiB s)
    let s := copyWindow (saveBase s) scratchBase n { s with poison := wokenPoison (saveBase s) n s.poison }
    wrF 0xC00000 63 61 4 (wrF 8 63 61 6 (wrB 0x50008 63 false (wrF (portStatus 0) 7 0 0 { s with pins := { s.pins with rails := allRails }, sleepTo := 0 })))
  else if thState s = 3 then bootFrom2 (if s.pins.railCause then 10 else s.thimble.offCause) s
  else s

/-- Is a frame a wake frame for this device (R431): its EtherType, the base MAC address or the broadcast address, the 48 bytes its data begins with, and their magic? -/
def isWakeFrame (f : MacFrame) (s : State) : Bool :=
  decide (f.etherType = 0x88B5) && (decide (f.dest = s.fuse.macBase) || decide (f.dest = 2 ^ 48 - 1)) && decide (48 ≤ f.data.length) && decide (leAt f.data 0 4 = 0x454B4157)

/-- COUNTER of a wake frame. -/
def wakeCounter (f : MacFrame) : Nat := leAt f.data 12 8

/-- The tag of an authenticated wake frame (R431). -/
def wakeTag (key : List Byte) (f : MacFrame) : List Byte := kdf "TUITH-WAKE" (key ++ slice f.data 0 32) 16

/-- May a frame wake the device (R432): its identifier, a counter beyond LAST, and the kind that fits whether a wake key is held? -/
def wakes (f : MacFrame) (s : State) : Bool :=
  isWakeFrame f s && decide (leAt f.data 4 8 = s.fuse.deviceId.toNat) && decide ((rd s 0xC00018).toNat < wakeCounter f)
    && (match s.thimble.wakeKey with
      | some key => decide (leAt f.data 20 1 = 1) && decide (slice f.data 32 16 = wakeTag key f)
      | none => decide (leAt f.data 20 1 = 0))

/-- Judge a frame against a sleeping device (R424, R431, R432): discarded while a hold entry is set; one that wakes the device sets LAST, and is counted in the state that the wake leaves; any other is counted. -/
def judgeFrame (f : MacFrame) (s : State) : State :=
  if !((acting s 4).isEmpty) then bump 0xC00038 1 s
  else if asleep s && wakes f s then bump 0xC00028 1 (wake (wr 0xC00018 (BitVec.ofNat 64 (wakeCounter f)) s))
  else bump 0xC00030 1 s

/-- WAKE_FRAME (R428 to R432): judged while the device sleeps, held while it enters sleep. -/
def execWakeFrame (f : MacFrame) (s : State) : Host.Outcome State Fault Refusal :=
  if thState s = 1 then .next { s with thimble := { s.thimble with heldFrames := s.thimble.heldFrames ++ [f] } }
  else if asleep s then .next (judgeFrame f s)
  else .next s

/-- Judge the frames held during sleep entry, in order (R432): those after the one that wakes the device wake nothing. -/
def judgeHeld (s : State) : State :=
  let fs := s.thimble.heldFrames
  fs.foldl (fun s f => judgeFrame f s) { s with thimble := { s.thimble with heldFrames := [] } }

/-- SLEEP_ENTRY_COMPLETE (R428 to R430, R432): once running work is complete the device is asleep. -/
def execSleepEntryComplete (s : State) : Host.Outcome State Fault Refusal :=
  if thState s ≠ 1 ∨ s.steps.any (fun t => decide (t.phase ≠ .stageDone)) then .next s
  else .next (judgeHeld (if s.sleepTo = 1 then sleepRetained s else sleepOff 8 s))

/-- The thermal trip (R426): every other domain is held, the rails go off, FAULT_N is low until the dies have cooled. -/
def trip (s : State) : State :=
  wrF 0xC00000 63 61 5 { thimbleOnly s with pins := { s.pins with rails := [], faultLow := true, retryAt := none } }

/-- The dies have cooled (R426): every die channel's filtered value is below 85 °C. -/
def cooled (s : State) : Bool := (List.range 8).all (fun c => decide (filt s c < 680))

/-- The actions of the table after a sample (R424, R425): held is whether a hold entry acted before, throttled whether a throttle entry did. -/
def act (held throttled : Bool) (s : State) : State :=
  let shut := acting s 3
  if (powered s || decide (thState s = 2)) && !shut.isEmpty then
    let z := actor s shut
    sleepOff 9 (thermalNotice 3 z.1 z.2 (bump 0xC00040 1 s))
  else
    let s := if !((acting s 4).isEmpty) && !held && asleep s then bump 0xC00040 1 s else s
    let wakes := acting s 2
    if asleep s && (acting s 4).isEmpty && !wakes.isEmpty then
      let z := actor s wakes
      wake (bump 0xC00040 1 { s with thimble := { s.thimble with wakeNotice := some z } })
    else
      let thr := acting s 1
      if powered s && !thr.isEmpty && !throttled then
        let z := actor s thr
        thermalNotice 1 z.1 z.2 (bump 0xC00040 1 s)
      else s

/-- THERMAL_TRIP (R426): a raw sample of channels 0 to 5 reached 115 °C, whatever else the device does. -/
def execThermalTrip (die : Nat) (s : State) : Host.Outcome State Fault Refusal :=
  if s.pins.resetLow || decide (6 ≤ die) then .next s else .next (trip s)

/-- What a device of the board-sensor bus answers; none where its address does not acknowledge. -/
def busRead (r : ThReads) (a : Nat) : Option Int := (r.bus.find? (fun x => x.1 == a)).map (fun x => x.2)

/-- The sum of what a list of regulators reports; none where one of them does not acknowledge. -/
def sumPin (r : ThReads) (addrs : List Nat) : Option Int :=
  addrs.foldl (fun acc a => acc.bind (fun z => (busRead r a).map (fun v => z + v))) (some 0)

/-- The VCORE controllers that are there (R460): an address from 0x40 to 0x47 that does not acknowledge is absent. -/
def vcorePresent (r : ThReads) : List Nat := ((List.range 8).map (fun i => 0x40 + i)).filter (fun a => (busRead r a).isSome)

/-- Input power of the VCORE rail: 1 to 8 controllers share it (R460). -/
def vcorePin (r : ThReads) : Option Int := if (vcorePresent r).isEmpty then none else sumPin r (vcorePresent r)

/-- The devices of the board-sensor bus that a channel reads (R421, R460). -/
def channelBus (s : State) (c : Nat) : List Nat :=
  match c with
  | 10 => [0x4E]
  | 11 => [0x4F]
  | 12 => (List.range 14).map (fun i => 0x40 + i)
  | 13 => (List.range 8).map (fun i => 0x40 + i)
  | 14 => [0x4C, 0x4D]
  | 15 => [rdF s 0xC00020 6 0]
  | _ => []

/-- What a thimble channel reads, if every read of it succeeds (R413, R421, R460): the dies and stacks; the coolant sensors 0x4E and 0x4F; the READ_PIN of every rail regulator; VCORE; VSTK1 and VSTK2; and the sensor that TH_CH15_ADDR names. -/
def channelValue (s : State) (r : ThReads) (c : Nat) : Option Int :=
  if c < 10 then r.die.getD c none
  else match c with
    | 12 => (vcorePin r).bind (fun v => (sumPin r [0x48, 0x49, 0x4A, 0x4B, 0x4C, 0x4D]).map (fun z => v + z))
    | 13 => vcorePin r
    | _ => sumPin r (channelBus s c)

/-- What a thimble channel samples (R421, R464). -/
def channelRead (s : State) (r : ThReads) (c : Nat) : Reading :=
  if (channelBus s c).any (fun a => r.late.contains a) then .displaced
  else match channelValue s r c with
    | some v => .value v
    | none => .failed

/-- The sixteen channels are sampled and filtered, and the package power is kept (R413, R421, R422). -/
def sampleAll (r : ThReads) (s : State) : State :=
  let s := (List.range 16).foldl (fun s c => sampleChannel c (channelRead s r c) s) s
  if rdB s (thCh 12) 31 then { s with power := { s.power with samples := (s.tape, rdF s (thCh 12) 63 48 * 125) :: s.power.samples } } else s

/-- Does a raw sample of channels 0 to 5 reach 115 °C (R426)? -/
def hotSample (r : ThReads) : Bool :=
  (List.range 6).any (fun c => match r.die.getD c none with
    | some v => decide (920 ≤ v)
    | none => false)

/-- The trip comparator looks at the raw values; the table is evaluated and acts; after a trip the device waits for the dies to cool (R423 to R426). -/
def judge (r : ThReads) (held throttled : Bool) (s : State) : State :=
  if thState s = 5 then (if cooled s then bootFrom2 7 { s with pins := { s.pins with faultLow := false } } else s)
  else if hotSample r then trip s
  else act held throttled ((List.range 16).foldl (fun s e => evalEntry e s) (takeTable s))

/-- THIMBLE_SAMPLE (R413, R421 to R426, R460): the channels are sampled and filtered, the trip comparator looks at the raw values, the table is evaluated and acts. -/
def execThimbleSample (r : ThReads) (s : State) : Host.Outcome State Fault Refusal :=
  if s.pins.resetLow || s.pins.clockLost then .next s
  else .next (judge r (!((acting s 4).isEmpty)) (!((setEntries s 1).isEmpty)) (sampleAll r s))

/-- POWER_MONITOR_SAMPLE (R414): one 1 µs estimate in watts; above 1,400 W, or 5,000 in a row above P, starts issue gating. -/
def execPowerMonitorSample (watts : Nat) (s : State) : Host.Outcome State Fault Refusal :=
  let above := if rdF s 0x800000 10 0 < watts then s.power.above + 1 else 0
  let s := { s with power := { s.power with above := above } }
  if (1400 < watts ∨ 5000 ≤ above) ∧ !(rdB s 0x800018 63) then
    .next (bump 0x800040 1 (wrB 0x800018 63 true { s with power := { s.power with gateSince := s.tape } }))
  else .next s

/-- Core clocks in a span of tape at the frequency in force: while droop lasts a clock is 1.5 times as long (R11, R416). -/
def clocksRun (s : State) (ns : Nat) : Nat := if s.power.droop then clocks s ns * 2 / 3 else clocks s ns

/-- Gated core clocks of every engine in a span: each of the 128 stitchers, the matrix and the vector engine of 48 panels issued in GATE_NUM of each 8 (R414). -/
def gatedClocks (s : State) (ns : Nat) : Nat := 48 * 130 * (clocksRun s ns * (8 - rdF s 0x800018 2 0) / 8)

/-- Count the gated clocks and the lengthened clocks up to now, at the frequency and the clock length that were in force (R414, R416, R417). -/
def settleClocks (s : State) : State :=
  let s := if rdB s 0x800018 63 then bump 0x800048 (gatedClocks s (s.tape - s.power.gateSince)) { s with power := { s.power with gateSince := s.tape } } else s
  if s.power.droop then
    let n := clocksRun s (s.tape - s.power.droopSince)
    bump 0x800038 n { s with power := { s.power with droopSince := s.tape, droopClk := s.power.droopClk + n } }
  else s

/-- DROOP_TRIP (R416, R417): the clock periods lengthen; only the droop counters move. -/
def execDroopTrip (s : State) : Host.Outcome State Fault Refusal :=
  let s := settleClocks s
  .next (bump 0x800030 1 (if s.power.droop then s else { s with power := { s.power with droop := true, droopSince := s.tape, droopClk := 0 } }))

/-- DROOP_END (R416, R417): every detector has been clear for 64 core clocks, so at least as many were lengthened; all are counted. -/
def execDroopEnd (s : State) : Host.Outcome State Fault Refusal :=
  if !s.power.droop then .next s
  else
    let s := settleClocks s
    .next (bump 0x800038 (64 - s.power.droopClk) { s with power := { s.power with droop := false } })

/-- The window in force in ns (R411). -/
def windowNs (s : State) : Nat := max (rdF s 0x800000 47 32 * 1000000) (10 * period s)

/-- Voltage of a frequency (R412): that of the ladder step at or above it. -/
def vcoreOf (s : State) (mhz : Nat) : Nat := s.fuse.ladder.getD (ceilDiv (mhz - 800) 50) 800

/-- Apply a cap whose edge has come, with its notice (R412). -/
def capEdge (s : State) : State :=
  match s.power.cap with
  | none => s
  | some c =>
    if !(tapePast s c.edge) then s
    else
      let s := wrB 0x800000 63 false (wrF 0x800000 47 32 c.window (wrF 0x800000 10 0 c.cap { s with power := { s.power with cap := none } }))
      notify 19 54 [] 0xFFFF 0xFFFF (leBytes 2 c.cap ++ leBytes 2 0 ++ leBytes 8 (tickIndex s)) s

/-- Lowest frequency the members' announcements in force allow, in MHz (R372). -/
def coordCeiling (s : State) : Nat :=
  if !(rdB s 0xB00010 62) then 1800
  else (s.fabric.notes.filter (fun n => decide (n.khz ≠ 0) && decide (n.index ≤ tickIndex s))).foldl (fun m n => min m (n.khz / 1000)) 1800

/-- The power policy at an edge (R372, R412, R414, R425, R464): gating ends and lowers the frequency; the frequency in force is the lowest of the choice, the thermal ceiling and the coordinated one. A rise chosen less than 100 µs before the edge waits. -/
def powerEdge (s : State) : State :=
  let gated := rdB s 0x800018 63
  let s := settleClocks s
  let s := if gated then wrB 0x800018 63 false s else s
  let s := capEdge s
  let now := coreMHz s
  let want := rdF s 0x800008 31 16
  let want := if now < want ∧ !(tapePast s (s.power.nextAt + 100000)) then now else want
  let want := if gated then min want (max 800 (now - 50)) else want
  let s := if gated then wrF 0x800008 31 16 want s else s
  let hot := !((setEntries s 1).isEmpty)
  let f := min (if hot then min want (rdF s 0xC00010 11 0) else want) (coordCeiling s)
  let s := if hot then bump 0x800050 1 s else s
  let keep := s.power.samples.filter (fun x => serialAtLeast 64 (x.1 + windowNs s) s.tape)
  let mean := if keep.isEmpty then rdF s 0x800010 31 0 else (keep.map (fun x => x.2)).sum / keep.length
  wrF 0x800010 31 0 mean (wrF 0x800008 47 32 (vcoreOf s f) (wrF 0x800008 15 0 f { s with power := { s.power with samples := keep } }))

/-- Energy accounts saturate (R447). -/
def addEnergy (a n : Nat) (s : State) : State := wr a (BitVec.ofNat 64 (min max64 ((rd s a).toNat + n))) s

/-- The greatest whole number whose 160th power times d is at most m, below 2 to the power of its bits. -/
def root160 (m d bits : Nat) : Nat := (List.range bits).reverse.foldl (fun x b => if (x + 2 ^ b) ^ 160 * d ≤ m then x + 2 ^ b else x) 0

/-- x × 2^(n ÷ 160), rounded down (R419: a temperature in 1/8 °C over 20 °C). -/
def scalePower (x : Nat) (n : Int) : Nat := root160 (x ^ 160 * 2 ^ n.toNat) (2 ^ (-n).toNat) 96

/-- Square of VCORE ÷ 0.80 V of an energy (R419). -/
def coreScaled (s : State) (fj : Nat) : Nat := fj * rdF s 0x800008 47 32 ^ 2 / 640000

/-- Energy of counts of the activities 0 to 7 in fJ (R419): those of the core rail, 1 to 6, scale with VCORE. -/
def activityFj (s : State) (n : List Nat) : Nat :=
  let e (k : Nat) : Nat := s.fuse.coef.getD k 0 * n.getD k 0
  e 0 + coreScaled s (e 1 + e 2 + e 3 + e 4 + e 5 + e 6) + e 7

/-- Tj: the hottest filtered die channel, in 1/8 °C (R419). -/
def hottest (s : State) : Int := (List.range 8).foldl (fun m c => max m (filt s c)) (filt s 0)

/-- Static energy of a tick in fJ (R419, R420): items 8 and 9 over its period, leakage scaled with VCORE and Tj. -/
def staticFj (s : State) : Nat :=
  let mw (k : Nat) : Nat := s.fuse.coef.getD k 0 * period s * 1000
  mw 8 + scalePower (coreScaled s (mw 9)) (hottest s - 680)

/-- Counts of activities 0 to 6: free values, for no state holds what an engine did in a tick (log entry 44). -/
def drawCounts (s : State) : List Nat × State :=
  (List.range 7).foldl (fun acc _ => let f := fresh acc.2; (acc.1 ++ [f.1.toNat % 2 ^ 40], f.2)) ([], s)

/-- Energy of one step that ran, shared equally among its sequences (R420), in fJ. -/
def stepEnergy (ts : List Nat) (acc : List (Nat × Nat) × State) : List (Nat × Nat) × State :=
  if ts.isEmpty then acc
  else
    let n := drawCounts acc.2
    (acc.1 ++ ts.map (fun t => (t, activityFj acc.2 n.1 / ts.length)), n.2)

/-- Energy that firmware transfers and Obush messages caused in the tick, by account (R420). -/
def causedEnergy (s : State) : List (Nat × Nat) := s.caused.map (fun e => (e.1, activityFj s [e.2.1, 0, 0, 0, 0, 0, 0, e.2.2]))

/-- Energy of the tick that ended (R419, R420): steps by their sequences, firmware transfers and port bits by account, the rest to the device; static energy in proportion to dynamic. Every share is rounded down to whole nJ. -/
def energyEdge (s : State) : State :=
  let live := (s.tenants.filter (fun e => e.2.live)).map (fun e => e.1)
  let steps := s.stepTenants.foldl (fun acc ts => stepEnergy ts acc) (causedEnergy s, s)
  let other := drawCounts steps.2
  let shares (t : Nat) : List Nat := (steps.1.filter (fun x => x.1 == t)).map (fun x => x.2)
  let total := (live.map (fun t => (shares t).sum)).sum
  let static := staticFj s
  let nj (l : List Nat) : Nat := (l.map (fun x => x / 1000000)).sum
  let s := live.foldl (fun s t =>
    addEnergy (0x800200 + 8 * t) (nj (shares t) + (if total = 0 then 0 else static * (shares t).sum / total / 1000000)) s) { other.2 with caused := [] }
  addEnergy 0x800400 (nj (activityFj s other.1 :: shares 64) + (if total = 0 then static / 1000000 else 0)) s

/-- QUARANTINE_PAUSE_EXPIRE (R440, R442): the pause runs out and the paused sequences end, unless the last listed line was restored before. -/
def execQuarantinePauseExpire (model : Nat) (s : State) : Host.Outcome State Fault Refusal :=
  match (modelOf s model).pause with
  | none => .next s
  | some t =>
    let u := runTo t s
    .next (if (modelOf u model).lift then u else failPause model u)

/-- TH_WDOG_PET (R427): a write of TH_WDOG; PET reloads the watchdog while it runs. -/
def execThWdogPet (value : Word) (s : State) : Host.Outcome State Fault Refusal :=
  let t := getBits value 15 0
  let s := if 10 ≤ t ∧ t ≤ 1000 then wrF 0xC00008 15 0 t s else s
  .next (if getBit value 63 && s.thimble.wdogAt.isSome then reloadWdog s else s)

end Sys2Proof.Machine
end

