-- ==== Sys2Proof/Machine/Fabric.lean ====
section
/-! DEFINITION. The tape of a partition: time exchanges, the join step, the timekeepers (R351 to R360, R404). -/

namespace Sys2Proof.Machine

/-- Is the device in a partition? -/
def isMember (s : State) : Bool := rdB s 0xB00010 63

/-- Is this device the timekeeper in use? -/
def isKeeper (s : State) : Bool := rdB s 0x200010 59

/-- Is this device the primary timekeeper (R353)? -/
def isPrimary (s : State) : Bool := isMember s && decide (s.fabric.members.head? = some (ownId s))

/-- Is this device the standby timekeeper (R353)? -/
def isStandby (s : State) : Bool := isMember s && decide (s.fabric.standby = some (ownId s))

/-- Does the device follow the standby, or stand in as timekeeper itself (R359)? -/
def onStandby (s : State) : Bool := rdB s 0x200010 60 || (isStandby s && isKeeper s)

/-- The tape with its fraction, in 2^-16 ns (R351). -/
def fineTape (s : State) : Nat := s.tape * 65536 + s.frac

/-- Message types of IEEE 1588 that R356 names: Sync, Delay_Req, Follow_Up, Delay_Resp. -/
def ptSync : Nat := 0
/-- Delay_Req. -/
def ptDelayReq : Nat := 1
/-- Follow_Up. -/
def ptFollowUp : Nat := 8
/-- Delay_Resp. -/
def ptDelayResp : Nat := 9

/-- The time key of the device's partition (R404). -/
def timeKey (s : State) : List Byte := kdf "TUITH-TIME" (s.secure.fabricSecret ++ leBytes 8 s.fabric.id) 32

/-- The ICV of a tape-exchange message this device sends (R356, R404): AES-256-GMAC under the time key, the nonce from the data itself. -/
def tapeIcv (dest mtype seq stamp : Nat) (s : State) : List Byte :=
  let x := Config.tapeMessage (ownId s) dest mtype seq stamp
  padTo (Config.gcmTag (timeKey s) (padTo (Config.shake256 x) 12) x []) 16

/-- Send a tape-exchange message to a member (R356): over IPv6, event messages on port 319 and general ones on 320, by the lowest-numbered back interface that is up; none up, nothing leaves. -/
def tapeSend (dest mtype seq stamp : Nat) (s : State) : State :=
  match nextBack s 0 with
  | none => s
  | some k =>
    let port := if mtype < 8 then 319 else 320
    bump (0xB02018 + 0x100 * (k / 8)) 1 (emitOut (.tape dest mtype seq stamp 0 (tapeIcv dest mtype seq stamp s) (wireOf s (4 + k / 8) (k % 8) true port port)) s)

/-- TAPE_SYNC_SEND (R356): the timekeeper in use sends every other member a Sync and its Follow_Up with the departure time. -/
def execTapeSyncSend (s : State) : Host.Outcome State Fault Refusal :=
  if !(isMember s) || !(isKeeper s) then .next s
  else
    let n := s.fabric.syncSeq
    let others := s.fabric.members.filter (fun m => decide (m ≠ ownId s))
    let s := others.foldl (fun s m => tapeSend m ptFollowUp n (fineTape s) (tapeSend m ptSync n 0 s)) s
    .next { s with fabric := { s.fabric with syncSeq := (n + 1) % 65536 } }

/-- TAPE_SYNC_RECEIVE (R356, R404): a member answers a Sync of a timekeeper with one Delay_Req; one whose ICV fails is discarded silently. -/
def execTapeSyncReceive (x : Exchange) (s : State) : Host.Outcome State Fault Refusal :=
  if !(isMember s) || isPrimary s || !x.icvOk then .next s
  else
    let dest := if x.standby then s.fabric.standby.getD 0 else s.fabric.members.headD 0
    .next (tapeSend dest ptDelayReq s.fabric.syncSeq (fineTape s) { s with fabric := { s.fabric with syncSeq := (s.fabric.syncSeq + 1) % 65536 } })

/-- TAPE_DELAY_REQ_RECEIVE (R356, R404): the timekeeper in use answers a member's Delay_Req with the arrival time. -/
def execTapeDelayReqReceive (member seq : Nat) (icvOk : Bool) (s : State) : Host.Outcome State Fault Refusal :=
  if !(isMember s) || !(isKeeper s) || !icvOk || !(s.fabric.members.contains member) then .next s
  else .next (tapeSend member ptDelayResp seq (fineTape s) s)

/-- Offset of an exchange in 2^-16 ns (R357); a half unit is taken downward (log entry 60). -/
def exchangeOffset (x : Exchange) : Int := ((x.t2 - x.t1 - x.corrS) - (x.t4 - x.t3 - x.corrD)) / 2

/-- Delay of an exchange (R357). -/
def exchangeDelay (x : Exchange) : Int := ((x.t2 - x.t1 - x.corrS) + (x.t4 - x.t3 - x.corrD)) / 2

/-- The filtered offset: that of the exchange with the least delay of those held, the newest of equals (R357). -/
def filteredOf (last : List (Int × Int)) : Int :=
  match last with
  | [] => 0
  | e :: es => (es.foldl (fun best x => if x.2 < best.2 then x else best) e).1

/-- The servo's correction, in 1 / (65,536 × 10^9): −filtered × RATE, within ±100 × 10^-6 (R357). -/
def servo (filtered : Int) (rate : Nat) : Int :=
  let lim : Int := 6553600000
  max (-lim) (min lim (-(filtered * rate)))

/-- 100,000 ns in 2^-16 ns. -/
def wideLimit : Int := 6553600000

/-- A valid exchange with the timekeeper in use (R354, R357, R359). -/
def takeExchange (x : Exchange) (s : State) : State :=
  let last := ((exchangeOffset x, exchangeDelay x) :: s.fabric.last).take 8
  let f := filteredOf last
  let w := if f.natAbs > wideLimit.natAbs then s.fabric.wide + 1 else 0
  let due := (rdB s 0x200010 61 && decide (8 ≤ s.fabric.valid + 1)) || (rdB s 0x200010 63 && decide (8 ≤ w))
  let g := { s.fabric with last := last, valid := s.fabric.valid + 1, wide := w, seenAt := s.tape, anyAt := s.tape, rho := servo f (rdF s 0x200020 7 0), stepDue := s.fabric.stepDue || due }
  wrB 0x200010 62 false (wr 0x200018 (BitVec.ofInt 64 f) (bump 0x200028 1 { s with fabric := g }))

/-- A valid exchange with the primary while the standby is in use: the eighth returns to the primary (R359). -/
def countBack (s : State) : State :=
  let s := bump 0x200028 1 s
  let n := s.fabric.back + 1
  if n < 8 then { s with fabric := { s.fabric with back := n, anyAt := s.tape } }
  else wrB 0x200010 62 false (wrB 0x200010 60 false (wrB 0x200010 59 false { s with fabric := { s.fabric with back := 0, seenAt := s.tape, anyAt := s.tape } }))

/-- TAPE_EXCHANGE_COMPLETE (R354, R357, R359): an exchange ends; a valid one steers the tape, another is counted. -/
def execTapeExchangeComplete (x : Exchange) (s : State) : Host.Outcome State Fault Refusal :=
  if !(isMember s) || isPrimary s then .next s
  else
    let good := x.icvOk && x.syncId == x.followId && x.reqId == x.respId && decide (0 ≤ exchangeDelay x) && decide (exchangeDelay x ≤ wideLimit)
    if !good then .next (bump 0x200030 1 s)
    else if onStandby s && !x.standby then .next (countBack s)
    else if x.standby ≠ onStandby s || isKeeper s then .next (bump 0x200030 1 s)
    else .next (takeExchange x s)

/-- The tape steps by minus the filtered offset, and the partition's period comes into force (R351, R354). The offsets held are carried to the stepped tape. A tick whose edge the step crossed has no guard (R22), and models whose stages no longer fit are to be divided again (R35). -/
def stepTape (s : State) : State :=
  let f := filteredOf s.fabric.last
  let v := (((fineTape s : Int) - f) % ((2 ^ 80 : Nat) : Int)).toNat
  let now := v / 65536
  let back := decide (0 < f)
  let skip := if back && !(repeats s s.tape) then s.tape else s.fabric.skipTo
  let g := { s.fabric with stepDue := false, stepping := false, wide := 0, last := s.fabric.last.map (fun e => (e.1 - f, e.2)), skipTo := skip }
  let due := nextEdge s
  let s := wrF 0x100000 21 0 g.period { s with fabric := g, tape := now, frac := v % 65536 }
  let s := wr 0x100010 (BitVec.ofNat 64 ((if back then skip else now) / period s)) s
  let s := showBudget (redivideAll (wrB 0x200010 63 true (wrB 0x200010 61 false s)))
  { s with edge := now / period s * period s, skipped := s.skipped || (!back && serialAtLeast 64 now due) }

/-- JOIN_STEP (R351, R354): in the tick that admits nothing the tape steps by minus the filtered offset, and the partition's period comes into force. The offsets held are carried to the stepped tape. -/
def execJoinStep (s : State) : Host.Outcome State Fault Refusal :=
  if !s.fabric.stepping then .next s else .next (stepTape s)

/-- Nanoseconds of SWITCH_MS. -/
def switchNs (s : State) : Nat := rdF s 0x200020 63 48 * 1000000

/-- TIMEKEEPER_SWITCH (R359): SWITCH_MS without a valid exchange with the primary: members follow the standby, or, with none left to follow, hold their rate. -/
def execTimekeeperSwitch (s : State) : Host.Outcome State Fault Refusal :=
  if !(isMember s) || isPrimary s || (isStandby s && isKeeper s) then .next s
  else if onStandby s || s.fabric.standby.isNone then
    .next (wrB 0x200010 62 true (runTo (s.fabric.anyAt + switchNs s) s))
  else
    let s := runTo (s.fabric.seenAt + switchNs s) s
    let s := { s with fabric := { s.fabric with back := 0, seenAt := s.tape, anyAt := s.tape } }
    .next (if isStandby s then wrB 0x200010 59 true s else wrB 0x200010 60 true s)

end Sys2Proof.Machine
end

