-- ==== Sys2Proof/Machine/Kralyn.lean ====
section
/-! DEFINITION. Kralyn (R361 to R373): transmit rings, setup, sequenced delivery, acknowledgement, loss, receive channels; the replica of R441. -/

namespace Sys2Proof.Machine

/-- Key context of a model's data (R405). -/
def modelCtx (s : State) (m : Model) : Nat := tenantCtx s m.owner

/-- A 4 KiB block of a quarantined model is written again (R347, R440): poison goes with the lines, the listed lines it covers leave the list, and an empty list lifts the quarantine at the next edge. -/
def restoreBlock (model addr : Nat) (bytes : List Byte) (s : State) : State :=
  let s := expirePause model s
  let m := modelOf s model
  let here (l : Nat) : Bool := decide (addr ≤ l) && decide (l < addr + 4096)
  let left := m.quar.filter (fun l => !(here l))
  let s := storeBytes true (modelCtx s m) addr (padTo bytes 4096) false s
  let s := bump 0x700030 (m.quar.length - left.length) s
  setModel model { modelOf s model with quar := left, lift := m.quarantined && left.isEmpty } s

/-- Can a message be received: Kralyn on, this device meant, the interface up? -/
def krArrives (s : State) (k : KrMsg) : Bool := krOn s && decide (k.dst = ownId s) && backUp s k.port k.iface && !(asleep s)

/-- The header of a received message. -/
def krHeaderOf (mtype : Nat) (k : KrMsg) : List Byte := krHeader k.level mtype k.flags k.channel k.csn k.payload.length k.tape k.conn k.aux

/-- The cache entry a message names. -/
def krLookup (s : State) (conn : Nat) : Option Nat :=
  let c := connOf s (conn % 2 ^ 14)
  if c.phase ≠ .free ∧ connId (conn % 2 ^ 14) c = conn then some (conn % 2 ^ 14) else none

/-- A message for a connection that is not in the cache is answered with REFUSE 0x0206; the connection id of its receiver is not known here. -/
def refuseUnknown (k : KrMsg) (s : State) : State :=
  let f := fresh s
  refuseTo k.src s.fabric.id (f.1.toNat % 2 ^ 32) 0x0206 k.port k.iface f.2

/-- The peer's CLOSE is acknowledged once nothing of this side is unacknowledged, and the entry is freed (R365). -/
def settleClose (i : Nat) (s : State) : State :=
  let c := connOf s i
  if c.closeDue && c.unacked.isEmpty then freeConn i (krAck i (setConn i { c with rxNext := c.rxNext + 1 } s)) else s

/-- Accept a CONNECT (R364, R365): in a free entry, or as soon as an idle entry that is closed now has been freed; refused while no entry can be freed. -/
def acceptConnect (k : KrMsg) (peer level : Nat) (due : List (Nat × List Byte)) (s : State) : State :=
  let w : ConnWait := ⟨peer, k.aux, slice k.payload 20 32, level, leAt k.payload 17 1⟩
  match freeFrom s cacheSize 0 with
  | some i => acceptAt i w due s
  | none =>
    let others := s.fabric.waiting.filter (fun x => decide (x.peer ≠ peer))
    if others.length < s.fabric.waiting.length then { s with fabric := { s.fabric with waiting := others ++ [w] } }
    else if (idleConns s).isEmpty then refuseTo peer s.fabric.id k.aux 0x0301 k.port k.iface s
    else evict { s with fabric := { s.fabric with waiting := s.fabric.waiting ++ [w] } }

/-- KRALYN_CONNECT_RECEIVE (R362 to R365, R370, R404). -/
def execKralynConnectReceive (k : KrMsg) (s : State) : Host.Outcome State Fault Refusal :=
  if !(krArrives s k) then .next s
  else
    let s := bump 0xB00020 1 s
    let peer := leAt k.payload 0 8
    let id := leAt k.payload 8 8
    let hi := leAt k.payload 17 1
    if k.tag ≠ setupTag (partitionKey s id) (krHeaderOf 1 k) k.payload then .next (bump 0xB00028 1 s)
    else if !(isMember s) || decide (id ≠ s.fabric.id) || !(s.fabric.members.contains peer) then .next (refuseTo peer id k.aux 0x0208 k.port k.iface s)
    else if hi < max 1 (ownLevel s - 1) ∨ ownLevel s < leAt k.payload 16 1 then .next (refuseTo peer id k.aux 0x0202 k.port k.iface s)
    else
      let level := min hi (ownLevel s)
      match connOfPeer s peer with
      | none => .next (acceptConnect k peer level [] s)
      | some i =>
        let c := connOf s i
        if c.phase = .connecting then
          if ownId s < peer then .next s
          else .next (acceptConnect k peer level c.due (setConn i c.freed s))
        else if !c.initiator && c.peerConn == k.aux then .next (sendAccept i s)
        else .next (acceptConnect k peer level c.due (loseConn i s))

/-- KRALYN_ACCEPT_RECEIVE (R362 to R364, R404). -/
def execKralynAcceptReceive (k : KrMsg) (s : State) : Host.Outcome State Fault Refusal :=
  if !(krArrives s k) then .next s
  else
    let s := bump 0xB00020 1 s
    if k.tag ≠ setupTag (partitionKey s (leAt k.payload 8 8)) (krHeaderOf 2 k) k.payload then .next (bump 0xB00028 1 s)
    else match krLookup s k.conn with
      | none => .next (refuseUnknown k s)
      | some i =>
        let c := connOf s i
        if c.phase = .connecting ∧ c.peer = leAt k.payload 0 8 ∧ c.part = leAt k.payload 8 8 then
          .next (openConn i k.aux k.level (connKey s c.part c.random (slice k.payload 20 32) (connId i c) k.aux) (setConn i { c with peerLevel := leAt k.payload 17 1 } s))
        else .next s

/-- KRALYN_REFUSE_RECEIVE (R364, R365): a setup is refused or retried, or a live connection is lost. A REFUSE itself is never answered. -/
def execKralynRefuseReceive (k : KrMsg) (s : State) : Host.Outcome State Fault Refusal :=
  if !(krArrives s k) then .next s
  else
    let s := bump 0xB00020 1 s
    let status := leAt k.payload 0 2
    let peer := leAt k.payload 4 8
    let part := ((connOfPeer s peer).map (fun i => (connOf s i).part)).getD s.fabric.id
    if k.tag ≠ setupTag (partitionKey s part) (krHeaderOf 3 k) k.payload then .next (bump 0xB00028 1 s)
    else match connOfPeer s peer with
      | none => .next s
      | some i =>
        let c := connOf s i
        if c.phase = .connecting then
          if status = 0x0301 ∨ krLookup s k.conn ≠ some i then .next s
          else .next (fillEntry i (failQueued (fun p => p == peer) status (setConn i c.freed s)))
        else if status = 0x0206 then .next (loseConn i s)
        else .next s

/-- Slots delivered and not released. -/
def rxHeldOf (s : State) (c : Nat) : Nat := sget (fun _ => 0) s.rxHeld c

/-- The 9,216 bytes of a receive slot (R327, R367); a codec fault shows as STATUS 0x0403 where R319 places STATUS (log entry 62). -/
def rxSlot (k : KrMsg) (bytes : List Byte) (bad : Bool) (tape : Nat) : List Byte :=
  let h := krHeaderOf 4 k
  let h := if bad then h.take 26 ++ leBytes 2 0x0403 ++ h.drop 28 else h
  padTo (padTo (h ++ bytes) 9152 ++ leBytes 8 tape ++ leBytes 1 k.port ++ leBytes 1 k.iface ++ leBytes 6 0 ++ leBytes 8 k.src) 9216

/-- Write a DATA message into its channel's ring, unless the channel is full or not enabled (R367, R369). -/
def intoChannel (k : KrMsg) (table : SramError) (s : State) : Option State :=
  let c := k.channel
  if 64 ≤ c ∨ !(rdB s (rxCtrl c) 63) ∨ rxEntries s c ≤ rxHeldOf s c then none
  else
    let wound := k.flags % 2 == 1
    let u : Unwound := if wound then unwindPayload k.payload (decide (table = .uncorrectable)) else ⟨k.payload, none, true, false⟩
    let s := countUnwind u (if table = .corrected then 1 else 0) (68 + k.port) 0 s
    let t := rdF s (rxCtrl c) 7 0
    let a := rdF s (rxCtrl c) 47 10 * 1024 + 9216 * t
    let s := storeBytes true (deviceCtx s) a (rxSlot k u.bytes u.fault.isSome s.tape) false s
    let s := if u.poison then (unitsOf (a + 32) (min u.bytes.length 9120)).foldl (fun s l => poisonAt l s) s else s
    let s := wrF (rxCtrl c) 7 0 ((t + 1) % rxEntries s c) { s with rxHeld := sput (fun _ => 0) s.rxHeld c (rxHeldOf s c + 1) }
    some (if serialAtLeast 64 k.tape (s.tape - s.tape % period s) then s else bump 0xB00070 1 s)

/-- Answer a peer's request for a block of a model by digest (R441): the block, nothing where it is poisoned, or 0x0208. -/
def answerReplica (k : KrMsg) (s : State) : State :=
  let d := slice k.payload 0 64
  let off := leAt k.payload 64 8
  match s.models.find? (fun e => e.2.live && padTo e.2.digest 64 == d && decide (off < e.2.size)) with
  | none => firmwareSend k.src 4 (d ++ leBytes 8 off ++ leBytes 2 0x0208) s
  | some e =>
    let r := readMem .controller (modelCtx s e.2) (e.2.base + off) 4096 s
    if r.1.poison then r.2 else firmwareSend k.src 4 (d ++ leBytes 8 off ++ r.1.bytes) r.2

/-- A replica peer's block is written while the pause of the model it belongs to runs (R441). -/
def takeReplica (k : KrMsg) (s : State) : State :=
  let d := slice k.payload 0 64
  let off := leAt k.payload 64 8
  match s.models.find? (fun e => e.2.live && pauseOn e.2 && !(pauseOver s e.2) && decide (e.2.replica = k.src) && padTo e.2.digest 64 == d && decide (off < e.2.size)) with
  | none => s
  | some e => restoreBlock e.1 (e.2.base + off) (k.payload.drop 72) s

/-- What the firmware makes of the messages of R441; their form and channel are the model's (log entry 61). -/
def firmwareTakes (k : KrMsg) (s : State) : State :=
  if k.channel ≠ 63 then s
  else if k.payload.length = 72 then answerReplica k s
  else if k.payload.length = 4168 then takeReplica k s
  else s

/-- Record a member's announcement (R372). -/
def takeCap (member : Nat) (payload : List Byte) (s : State) : State :=
  if !(rdB s 0xB00010 62) then s
  else
    let khz := leAt payload 0 4
    let index := leAt payload 8 8
    let late := decide (index ≤ tickIndex s)
    let s := if late then bump 0xB00078 1 s else s
    let rest := s.fabric.notes.filter (fun n => decide (n.member ≠ member))
    let note : List CapNote := if khz = 0 then [] else [⟨member, khz, if late then tickIndex s + 1 else index⟩]
    { s with fabric := { s.fabric with notes := rest ++ note } }

/-- Receipt of a sequenced message (R325 step 4, R366): what delivers it in turn is given; none means that it is not delivered and does not advance. -/
def krSequenced (mtype : Nat) (k : KrMsg) (deliver : Nat → State → Option State) (s : State) : State :=
  let s := bump 0xB00020 1 s
  match krLookup s k.conn with
  | none => refuseUnknown k s
  | some i =>
    let c := connOf s i
    let nonce := krNonce c.salt (if c.initiator then 1 else 0) k.csn
    if c.phase = .connecting ∨ k.tag ≠ Config.gcmTag c.key nonce (krHeaderOf mtype k) k.payload then bump 0xB00028 1 s
    else if k.csn = c.rxNext % 2 ^ 32 then
      match deliver i s with
      | none => bump 0xB00040 1 s
      | some t =>
        let d := connOf t i
        let d := { d with rxNext := d.rxNext + 1, used := t.tape, phase := if d.rxNext + 1 = 2 ^ 32 - 1 ∧ d.phase = .open_ then .closing else d.phase }
        closeFreely i (krOweAck i (setConn i d t))
    else if serialLater 32 (c.rxNext % 2 ^ 32) k.csn then krOweAck i (bump 0xB00030 1 s)
    else krOweAck i (bump 0xB00038 1 s)

/-- KRALYN_DATA_RECEIVE (R361 to R363, R366, R367, R369, R441). -/
def execKralynDataReceive (k : KrMsg) (table : SramError) (s : State) : Host.Outcome State Fault Refusal :=
  if !(krArrives s k) then .next s
  else .next (krSequenced 4 k (fun i s => (intoChannel { k with src := (connOf s i).peer } table s).map (firmwareTakes { k with src := (connOf s i).peer })) s)

/-- KRALYN_CAP_RECEIVE (R363, R366, R372). -/
def execKralynCapReceive (k : KrMsg) (s : State) : Host.Outcome State Fault Refusal :=
  if !(krArrives s k) then .next s
  else .next (krSequenced 7 k (fun i s => some (takeCap (connOf s i).peer k.payload s)) s)

/-- KRALYN_CLOSE_RECEIVE (R363, R365): acknowledged, and the entry freed, once everything this side sent has been acknowledged. -/
def execKralynCloseReceive (k : KrMsg) (s : State) : Host.Outcome State Fault Refusal :=
  if !(krArrives s k) then .next s
  else
    let s := bump 0xB00020 1 s
    match krLookup s k.conn with
    | none => .next (refuseUnknown k s)
    | some i =>
      let c := connOf s i
      if c.phase = .connecting ∨ k.tag ≠ Config.gcmTag c.key (krNonce c.salt (if c.initiator then 1 else 0) k.csn) (krHeaderOf 6 k) k.payload then .next (bump 0xB00028 1 s)
      else if k.csn = c.rxNext % 2 ^ 32 then .next (settleClose i (setConn i { c with closeDue := true } s))
      else if serialLater 32 (c.rxNext % 2 ^ 32) k.csn then .next (krOweAck i (bump 0xB00030 1 s))
      else .next (krOweAck i (bump 0xB00038 1 s))

/-- What an acknowledgement that is acted on does (R326, R365, R366, R368). -/
def krAdvance (i : Nat) (k : KrMsg) (s : State) : State :=
  let c := connOf s i
  let covered (m : KrSent) : Bool := decide (k.csn ≠ 2 ^ 32 - 1 ∨ m.csn = 2 ^ 32 - 1) && !(serialLater 32 (m.csn % 2 ^ 32) k.csn)
  let gone := c.unacked.filter covered
  let left := c.unacked.filter (fun m => !(covered m))
  let c' := { c with ackSeen := some k.aux, unacked := left }
  let c' := if gone.isEmpty then c' else { c' with timer := s.tape, advanced := s.tape, rto := krRto s, used := s.tape }
  let s := gone.foldl (fun s m => match m.origin with
    | some o => krRecord o.1 o.2 m.csn 0 s
    | none => s) (setConn i c' s)
  if c.phase = .closing ∧ gone.any (fun m => m.mtype == 6) then freeConn i s
  else
    let d := connOf s i
    let s := if k.aux = 2 ^ 32 - 1 ∧ d.phase = .open_ then setConn i { d with phase := .closing } s else s
    settleClose i (closeFreely i (flushDue i 16 s))

/-- KRALYN_ACK_RECEIVE (R362, R365, R366, R368). -/
def execKralynAckReceive (k : KrMsg) (s : State) : Host.Outcome State Fault Refusal :=
  if !(krArrives s k) then .next s
  else
    let s := bump 0xB00020 1 s
    match krLookup s k.conn with
    | none => .next (refuseUnknown k s)
    | some i =>
      let c := connOf s i
      if c.phase = .connecting ∨ k.tag ≠ Config.gcmTag c.key (krNonce c.salt (if c.initiator then 3 else 2) k.aux) (krHeaderOf 5 k) k.payload then .next (bump 0xB00028 1 s)
      else
        let new := match c.ackSeen with
          | none => true
          | some l => serialLater 32 k.aux l
        .next (if new then krAdvance i k s else s)

/-- The head descriptor of a ring (R364, R368): checked, then sent on its connection, or held while a setup runs. -/
def runDesc (r : Nat) (s : State) : State :=
  let x := ringOf s r
  let d := txDesc s r x.head
  let s := touchRange true (deviceCtx s) (txDescAt s r x.head) 32 s
  let peer := natBits d 63 0
  let channel := natBits d 71 64
  let len := natBits d 127 96
  let src := natBits d 191 128
  if 63 < channel ∨ len < 1 ∨ 9120 < len then failSlot r x.head 0x0201 s
  else if !(isMember s) then failSlot r x.head 0x0207 s
  else match connOfPeer s peer with
    | none => startSetup s.fabric.id peer [] s
    | some i =>
      let c := connOf s i
      if c.phase ≠ .open_ ∨ 256 ≤ c.unacked.length ∨ !c.due.isEmpty then s
      else
        let q := readMem (.shuttle 0) (deviceCtx s) src len s
        if q.1.poison || q.1.busError || linePoison s src len then failSlot r x.head 0x0404 q.2
        else
          let wind := natBits d 72 72 == 1 && decide (165 ≤ len)
          let w := if wind then windPayload q.1.bytes else none
          let s := if wind then countPayload len w.isSome (w.getD q.1.bytes).length q.2 else q.2
          closeFreely i (advanceRing r (sendSeq i 4 channel (if w.isSome then 1 else 0) (w.getD q.1.bytes) (some (r, x.head)) s))

/-- KRALYN_TX_DESC (R361, R364, R365, R368): an enabled ring with a descriptor at its head works on it. -/
def execKralynTxDesc (ring : Nat) (s : State) : Host.Outcome State Fault Refusal :=
  if 8 ≤ ring ∨ !(krOn s) ∨ asleep s ∨ (txQueued s ring).isEmpty then .next s else .next (runDesc ring s)

/-- KRALYN_RETRANSMIT_TIMEOUT (R364, R366): everything unacknowledged is sent again and the timeout doubles. -/
def execKralynRetransmitTimeout (conn : Nat) (s : State) : Host.Outcome State Fault Refusal :=
  let z := connOf s conn
  if z.phase = .free ∨ z.unacked.isEmpty then .next s
  else
    let s := runTo (z.timer + z.rto) s
    let c := connOf s conn
    let s := setConn conn { c with timer := s.tape, rto := min 10000000 (2 * c.rto) } s
    .next (c.unacked.foldl (fun s m => krTransmit c.peer c.port c.iface m.mtype m.header (m.payload ++ m.tag) (bump 0xB00048 1 s)) s)

/-- KRALYN_CONNECTION_LOSS (R366): LOSS_MS without an advance. -/
def execKralynConnectionLoss (conn : Nat) (s : State) : Host.Outcome State Fault Refusal :=
  let c := connOf s conn
  if c.phase = .free ∨ c.unacked.isEmpty then .next s
  else .next (loseConn conn (runTo (c.advanced + krLossNs s) s))

/-- A write of KR_TX_CTRL (R368): a ring outside the scratchpad window and the stacks is not enabled; enabling empties it. -/
def writeTxCtrl (ring : Nat) (value : Word) (s : State) : State :=
  let a := txCtrl ring
  let was := rdB s a 63
  let s := wrF a 47 5 (getBits value 47 5) (wrF a 50 48 (getBits value 50 48) s)
  let good := ringPlaced s (rdF s a 47 5 * 32) (32 * txEntries s ring) && ringPlaced s (rdF s (a + 0x10) 47 4 * 16) (16 * txEntries s ring)
  let on := getBit value 63 && good
  let s := wrB a 63 on s
  if on && !was then wrF (a + 8) 7 0 0 (setRing ring TxRing.none s) else s

/-- KR_TX_CTRL_ENABLE (R368): a write of KR_TX_CTRL; a ring outside the scratchpad window and the stacks is not enabled. -/
def execKrTxCtrlEnable (ring : Nat) (value : Word) (s : State) : Host.Outcome State Fault Refusal :=
  if 8 ≤ ring then .next s else .next (writeTxCtrl ring value s)

/-- KR_TX_TAIL_WRITE (R368): a write of KR_TX_TAIL posts descriptors. -/
def execKrTxTailWrite (ring : Nat) (value : Word) (s : State) : Host.Outcome State Fault Refusal :=
  if 8 ≤ ring then .next s else .next (wrF (txCtrl ring + 8) 7 0 (getBits value 7 0) s)

/-- A write of KR_RX_CTRL (R367): a ring outside the scratchpad window and the stacks is not enabled; enabling empties it. -/
def writeRxCtrl (channel : Nat) (value : Word) (s : State) : State :=
  let a := rxCtrl channel
  let was := rdB s a 63
  let s := wrF a 47 10 (getBits value 47 10) (wrF a 50 48 (getBits value 50 48) s)
  let on := getBit value 63 && ringPlaced s (rdF s a 47 10 * 1024) (9216 * rxEntries s channel)
  let s := wrB a 63 on s
  if on && !was then wrF (a + 8) 7 0 0 (wrF a 7 0 0 { s with rxHeld := sput (fun _ => 0) s.rxHeld channel 0 }) else s

/-- KR_RX_CTRL_ENABLE (R367): a write of KR_RX_CTRL. -/
def execKrRxCtrlEnable (channel : Nat) (value : Word) (s : State) : Host.Outcome State Fault Refusal :=
  if 64 ≤ channel then .next s else .next (writeRxCtrl channel value s)

/-- KR_RX_HEAD_WRITE (R367, R373): advancing HEAD releases the slots passed. -/
def execKrRxHeadWrite (channel : Nat) (value : Word) (s : State) : Host.Outcome State Fault Refusal :=
  if 64 ≤ channel then .next s
  else
    let a := rxCtrl channel + 8
    let n := rxEntries s channel
    let moved := (getBits value 7 0 % n + n - rdF s a 7 0 % n) % n
    .next (wrF a 7 0 (getBits value 7 0) { s with rxHeld := sput (fun _ => 0) s.rxHeld channel (rxHeldOf s channel - moved) })

end Sys2Proof.Machine
end

