-- ==== Sys2Proof/Machine/CmdModel.lean ====
section
/-! DEFINITION. The model and grammar families of commands (R32, R160, R240, R241, R341, R346, R347, R399, R401, R440, R441, R474 to R476). -/

namespace Sys2Proof.Machine

/-- A stage. -/
def stageOf (s : State) (i : Nat) : Stage := sget (fun _ => Stage.none) s.stages i
/-- Replace a stage. -/
def setStage (i : Nat) (x : Stage) (s : State) : State := { s with stages := sput (fun _ => Stage.none) s.stages i x }
/-- The lowest number below n that is not taken. -/
def lowest (n : Nat) (taken : Nat → Bool) : Option Nat := (List.range n).find? (fun i => !(taken i))

/-- The lowest free stage number. -/
def freeStageNo (s : State) : Option Nat := lowest 256 (fun i => (stageOf s i).live)
/-- The lowest free model number. -/
def freeModelNo (s : State) : Option Nat := lowest 2048 (fun m => (modelOf s m).live)

/-- MODEL_STAGE (R341, R346): a stage buffer at the image's raw size. -/
def execModelStage (r : Req) (s : State) : Host.Outcome State Fault Refusal :=
  control ⟨0x0301, [0, 1], true⟩ (exactly r 16) (fun s =>
    let owner := if roleIn r = 0 then r.mailbox else pay r 8 1
    let n := pay r 0 8
    if 64 < owner then .refuse 0x0201 8 64
    else if owner < 64 ∧ !(tenantOf s owner).live then .refuseOpen 0x0208 8
    else match freeStageNo s with
      | none => .refuse 0x0301 0xFFFF 256
      | some i => match allotBlock n s with
        | none => .refuse 0x0303 0 (min (arenaFree s) (2 ^ 32 - 1))
        | some (a, s) => .done (leBytes 2 i ++ zeros 6) (setStage i ⟨true, owner, a, n⟩ s)) r s

/-- May a sender use an object of an owner (R344)? -/
def ownsObject (r : Req) (owner : Nat) : Bool := decide (roleIn r ≠ 0) || decide (owner = r.mailbox)

/-- MODEL_PUT (R341, R405): image bytes go into a stage under its owner's key context. -/
def execModelPut (r : Req) (s : State) : Host.Outcome State Fault Refusal :=
  control ⟨0x0302, [0, 1], true⟩ (decide (13 ≤ r.payload.length) && decide (r.payload.length ≤ 9120)) (fun s =>
    let x := stageOf s (pay r 0 2)
    let off := pay r 4 8
    let bytes := r.payload.drop 12
    if !x.live then .refuseOpen 0x0208 0
    else if !(ownsObject r x.owner) then .refuseOpen 0x0502 0
    else if x.size < off + bytes.length then .refuse 0x0201 4 (min x.size (2 ^ 32 - 1))
    else .done [] (storeBytes true (tenantCtx s x.owner) (x.base + off) bytes false s)) r s

/-- The lines of a staged block as its owner reads them from now on, and the controller's reads of them as it checks the image: they allocate in the cache (R264, R405, R406). -/
def adoptBlock (ctx base n : Nat) (s : State) : State :=
  if base < capacity s then touchRange true ctx base n ((linesOf base n).foldl (fun s l => rekeyLine ctx l s) s) else s

/-- The bytes of a staged image, as its owner's key context reads them (R405). -/
def stagedBytes (s : State) (x : Stage) : List Byte := bytesAs s (tenantCtx s x.owner) x.base x.size
/-- A staged image as a reader. -/
def stagedReader (s : State) (x : Stage) : Reader := fun off n => peekAs s (tenantCtx s x.owner) (x.base + off) n

/-- The first n bytes of an image. -/
def readerBytes (r : Reader) (off n : Nat) : List Byte := (List.range n).map (fun i => BitVec.ofNat 8 (r (off + i) 1))

/-- What is wrong with an image's signature, if anything: the offset (R395, R401): a kind 7 certificate of the bound owner, and its signature over every byte before the block. ref is where the 128 bytes of the signature reference stand. -/
def signatureFault (s : State) (r : Reader) (size ref : Nat) (sigOk : Verified) : Option Nat :=
  if r ref 1 % 2 = 1 then
    let at_ := r (ref + 8) 8
    let cert := readerBytes r at_ 3137
    let w := verifier s sigOk
    if decide (at_ + 4417 ≤ size) && certKind [7] cert && ownerSigned w s.secure.ownerCert cert
        && signedBy w (certKey cert) "TUITH-IMAGE" (readerBytes r 0 at_) (readerBytes r (at_ + 3137) 1280)
    then none else some (min at_ (2 ^ 48 - 1))
  else if rdB s 0x900000 56 then some ref else none

/-- A model as it is loaded. -/
def freshModel (s : State) (owner base size : Nat) (slice_ : Bool) (d : List Byte) : Model :=
  { Model.none with live := true, owner := owner, base := base, size := size, sliceRes := slice_, digest := d, clipShift := rdF s 0x30008 12 8, headroom := rdF s 0x30008 7 0 }

/-- Record a loaded model in the measurements (R399). -/
def measureModel (owner : Nat) (d : List Byte) (s : State) : State :=
  if owner < 64 then setTenant owner { tenantOf s owner with measure := extend (tenantOf s owner).measure 1 d } s
  else { s with secure := { s.secure with m3 := extend s.secure.m3 1 d } }

/-- Place a checked image: left where it is staged, or copied into the scratchpad (R346). -/
def placeImage (slice_ : Bool) (x : Stage) (s : State) : Option (Nat × State) :=
  if slice_ then (allotScratch x.size s).map (fun z => (z.1, freeBlock x.base (copyStored 0 x.base z.1 x.size z.2)))
  else some (x.base, s)

/-- A checked image becomes model m, and its stage number is free. -/
def takeModel (i m base : Nat) (slice_ : Bool) (x : Stage) (d : List Byte) (s : State) : State :=
  setModel m (freshModel s x.owner base x.size slice_ d) (setStage i Stage.none s)

/-- The model is divided into stages and measured (R32, R399). -/
def enterModel (m owner : Nat) (d : List Byte) (s : State) : State :=
  measureModel owner d (setModel m { modelOf s m with stages := divideModel s m } s)

/-- MODEL_LOAD (R1, R32, R43, R55, R63, R99, R110, R133, R150, R152, R159, R185, R188, R192, R194, R207, R346, R399, R401, R475, R476). -/
def execModelLoad (r : Req) (sigOk : Verified) (s : State) : Host.Outcome State Fault Refusal :=
  control ⟨0x0303, [0, 1], true⟩ (exactly r 8) (fun s =>
    let i := pay r 0 2
    let x := stageOf s i
    let want := pay r 2 2
    let slice_ := pay r 4 1 % 2 == 1
    if !x.live then .refuseOpen 0x0208 0
    else if !(ownsObject r x.owner) then .refuseOpen 0x0502 0
    else if want ≠ 0xFFFF ∧ 2047 < want then .refuse 0x0201 2 2047
    else
      let s := adoptBlock (tenantCtx s x.owner) x.base x.size s
      let rd_ := stagedReader s x
      match imageFault rd_ x.size with
      | some f => if f.status = 0x0209 then .badImage 0x0209 f.offset else .refuseOpen f.status 0xFFFF
      | none => match signatureFault s rd_ x.size 128 sigOk with
        | some o => .badImage 0x0503 o
        | none =>
          match (if want = 0xFFFF then freeModelNo s else if (modelOf s want).live then none else some want) with
          | none => if want = 0xFFFF then .refuse 0x0301 2 2048 else .refuseOpen 0x0301 2
          | some m =>
            let d := digest (stagedBytes s x)
            match placeImage slice_ x s with
            | none => .refuseOpen 0x0303 4
            | some (base, s) =>
              let s := takeModel i m base slice_ x d s
              if 32 < (divideModel s m).length then .refuse 0x0304 0xFFFF 32
              else .done (leBytes 2 m ++ leBytes 1 (divideModel s m).length ++ zeros 5) (enterModel m x.owner d s)) r s

/-- Free a model: its image's block and its number; an unload that waited for its edge is done with it, and answered (R336). -/
def freeModel (m : Nat) (s : State) : State :=
  let t := { freeBlock (modelOf s m).base (setModel m Model.none s) with redivide := s.redivide.erase m }
  (modelOf s m).unload.foldl (fun s w => settle w 0 s) t

/-- The refusal of a command that acts on a model it names at payload byte 0: not present, or not the sender's (R344). -/
def modelNamed (r : Req) (s : State) (use : Bool) : Option Reply :=
  let x := modelOf s (pay r 0 2)
  if !x.live then some (.refuseOpen 0x0208 0)
  else if ownsObject r x.owner || (use && decide (x.owner = 64)) then none
  else some (.refuseOpen 0x0502 0)

/-- MODEL_UNLOAD (R347, R442): with FORCE and open sequences, at the next edge. -/
def execModelUnload (r : Req) (s : State) : Host.Outcome State Fault Refusal :=
  control ⟨0x0304, [0, 1], false⟩ (exactly r 3) (fun s =>
    match modelNamed r s false with
    | some x => x
    | none =>
      let m := pay r 0 2
      if (seqsOfModel s m).isEmpty then .done [] (freeModel m s)
      else if pay r 2 1 % 2 = 0 then .refuse 0x0207 0 (seqsOfModel s m).length
      else .later (setModel m { modelOf s m with unload := (modelOf s m).unload ++ [waiterOf r 0x0304] } s)) r s

/-- MODEL_SCALE (R160, R172): the settings apply to steps admitted at edges after the command. -/
def execModelScale (r : Req) (s : State) : Host.Outcome State Fault Refusal :=
  control ⟨0x0305, [0, 1], false⟩ (exactly r 5) (fun s =>
    match modelNamed r s false with
    | some x => x
    | none =>
      let m := pay r 0 2
      let mode := pay r 2 1
      let clip := pay r 3 1
      let head := pay r 4 1
      if 1 < mode ∧ mode ≠ 0xFF then .refuse 0x0201 2 1
      else if clip ≠ 0 ∧ (clip < 4 ∨ 20 < clip) then .refuse 0x0201 3 (if clip < 4 then 4 else 20)
      else if head ≠ 0 ∧ (head < 16 ∨ 32 < head) then .refuse 0x0201 4 (if head < 16 then 16 else 32)
      else
        let x := modelOf s m
        let z := x.scaleNext.getD (none, none, none)
        .done [] (setModel m { x with scaleNext := some (if mode = 0xFF then z.1 else some (decide (mode = 1)), if clip = 0 then z.2.1 else some clip, if head = 0 then z.2.2 else some head) } s)) r s

/-- MODEL_QUERY (R38, R132, R341, R439). -/
def execModelQuery (r : Req) (s : State) : Host.Outcome State Fault Refusal :=
  control ⟨0x0306, [0, 1], false⟩ (exactly r 2) (fun s =>
    match modelNamed r s true with
    | some x => x
    | none =>
      let x := modelOf s (pay r 0 2)
      .done (leBytes 1 (if x.faulted then 1 else if x.quarantined then 2 else 0) ++ leBytes 1 (if x.dynamic then 1 else 0) ++ leBytes 1 x.stages.length ++ leBytes 1 x.owner ++ leBytes 4 x.stretchRun) s) r s

/-- MODEL_RESTORE (R347, R440, R442). -/
def execModelRestore (r : Req) (s : State) : Host.Outcome State Fault Refusal :=
  control ⟨0x0307, [1], true⟩ (exactly r 4112) (fun s =>
    match modelNamed r s true with
    | some x => x
    | none =>
      let m := pay r 0 2
      let x := modelOf s m
      let a := pay r 8 8
      if a % 4096 ≠ 0 ∨ a + 4096 ≤ x.base ∨ x.base + x.size ≤ a then .refuse 0x0201 8 (x.base % 2 ^ 32)
      else if !x.quarantined then .refuseOpen 0x0207 0
      else .done [] (restoreBlock m a (r.payload.drop 16) s)) r s

/-- MODEL_REPLICA (R441): a peer is named, and asked for every block already listed. -/
def execModelReplica (r : Req) (s : State) : Host.Outcome State Fault Refusal :=
  control ⟨0x0308, [1], false⟩ (exactly r 16) (fun s =>
    match modelNamed r s true with
    | some x => x
    | none =>
      let m := pay r 0 2
      let x := { modelOf s m with replica := pay r 8 8 }
      let blocks := (x.quar.map (fun l => l / 4096 * 4096)).eraseDups
      .done [] (blocks.foldl (fun s b => askReplica x b s) (setModel m x s))) r s

/-- A grammar. -/
def grammarOf (s : State) (g : Nat) : Grammar := sget (fun _ => Grammar.none) s.grammars g
/-- Replace a grammar. -/
def setGrammar (g : Nat) (x : Grammar) (s : State) : State := { s with grammars := sput (fun _ => Grammar.none) s.grammars g x }

/-- The lowest free grammar number. -/
def freeGrammarNo (s : State) : Option Nat := lowest 256 (fun g => (grammarOf s g).live)

/-- Where the 128 bytes of a grammar image's signature reference stand (R401, R474): before a signature block that ends the image, or at its end. -/
def grammarRef (r : Reader) (size : Nat) : Nat :=
  let at_ := size - 4417
  if 4417 + 128 ≤ size ∧ r (at_ - 128) 1 % 2 = 1 ∧ r (at_ - 120) 8 = at_ then at_ - 128 else size - 128

/-- The ranges of a state of a grammar image: LO, HI, NEXT and the offset of each. -/
def imageRanges (r : Reader) (k : Nat) : List (Nat × Nat × Nat × Nat) :=
  let w := r (r 0 6 + 8 * k) 8
  (List.range (natBits w 47 32)).map (fun i =>
    let at_ := r 6 6 + 8 * (natBits w 31 0 + i)
    let e := r at_ 8
    (natBits e 17 0, natBits e 35 18, natBits e 59 36, at_))

/-- The checks of one state's ranges (R241). -/
def rangeChecks (r : Reader) : Option Nat → List (Nat × Nat × Nat × Nat) → List (Bool × Nat × Nat)
  | _, [] => []
  | prev, (lo, hi, next, at_) :: rest =>
    (decide (lo ≤ hi) && decide (hi < r 20 4) && decide (next < r 12 4) && (match prev with
      | some p => decide (p < lo)
      | none => true), 0x0209, at_) :: rangeChecks r (some hi) rest

/-- The first fault of a grammar image (R240, R241, R474). -/
def grammarFault (r : Reader) (size : Nat) : Option ImageFault :=
  let n := r 12 4
  let m := r 28 4
  let head := firstFault [
    (decide (160 ≤ size), 0x0209, 0), (within n 1 (2 ^ 24), 0x0209, 12), (decide (1 ≤ m), 0x0209, 28), (decide (r 16 4 < n), 0x0209, 16),
    (decide (r 0 6 + 8 * n ≤ size), 0x0209, 0), (decide (r 6 6 + 8 * m ≤ size), 0x0209, 6)]
  head.or (firstFault (((List.range n).map (fun k =>
    let w := r (r 0 6 + 8 * k) 8
    (decide (natBits w 31 0 + natBits w 47 32 ≤ m), 0x0209, r 0 6 + 8 * k) :: (if natBits w 31 0 + natBits w 47 32 ≤ m then rangeChecks r none (imageRanges r k) else []))).flatten))

/-- The descriptor of a loaded grammar (R240). -/
def grammarHead (states ranges n start vocab : Nat) : List Byte :=
  leBytes 6 states ++ leBytes 6 ranges ++ leBytes 4 n ++ leBytes 4 start ++ leBytes 4 vocab ++ leBytes 1 1 ++ zeros 7

/-- A checked grammar becomes grammar g at address a: its arrays and its descriptor are stored, it is measured, and its stage is given up (R240, R241, R399). The arrays are those of the staged image. -/
def enterGrammar (g a i : Nat) (x : Stage) (r : Req) (s t : State) : State :=
  let rd_ := stagedReader s x
  let n := rd_ 12 4
  let m := rd_ 28 4
  let t := copyStored (deviceCtx t) (x.base + rd_ 0 6) a (8 * n) t
  let t := copyStored (deviceCtx t) (x.base + rd_ 6 6) (a + 8 * n) (8 * m) t
  let t := storeBytes true (deviceCtx t) (grammarDesc t g) (grammarHead a (a + 8 * n) n (rd_ 16 4) (rd_ 20 4)) false t
  let owner := if plainProfile t then 0 else if roleIn r = 0 then r.mailbox else 64
  let t := { t with secure := { t.secure with m3 := extend t.secure.m3 2 (digest (stagedBytes s x)) } }
  freeBlock x.base (setStage i Stage.none (setGrammar g ⟨true, owner, a, 8 * n + 8 * m⟩ t))

/-- GRAMMAR_LOAD (R240, R241, R399, R401, R453 cell 15, R474). -/
def execGrammarLoad (r : Req) (sigOk : Verified) (s : State) : Host.Outcome State Fault Refusal :=
  control ⟨0x0601, [0, 1], true⟩ (exactly r 8) (fun s =>
    let i := pay r 0 2
    let x := stageOf s i
    let want := pay r 2 1
    if !x.live then .refuseOpen 0x0208 0
    else if !(ownsObject r x.owner) then .refuseOpen 0x0502 0
    else
      let s := adoptBlock (tenantCtx s x.owner) x.base x.size s
      let rd_ := stagedReader s x
      match grammarFault rd_ x.size with
      | some f => .badImage f.status f.offset
      | none => match signatureFault s rd_ x.size (grammarRef rd_ x.size) sigOk with
        | some o => .badImage 0x0503 o
        | none =>
          match (if want = 0xFF then freeGrammarNo s else if (grammarOf s want).live then none else some want) with
          | none => if want = 0xFF then .refuse 0x0301 2 256 else .refuseOpen 0x0301 2
          | some g =>
            match allotBlock (8 * rd_ 12 4 + 8 * rd_ 28 4) s with
            | none => .refuseOpen 0x0303 0xFFFF
            | some (a, t) => .done (leBytes 1 g) (enterGrammar g a i x r s t)) r s

/-- GRAMMAR_UNLOAD (R241, R344). -/
def execGrammarUnload (r : Req) (s : State) : Host.Outcome State Fault Refusal :=
  control ⟨0x0602, [0, 1], false⟩ (exactly r 1) (fun s =>
    let g := pay r 0 1
    let x := grammarOf s g
    if !x.live then .refuseOpen 0x0208 0
    else if !(ownsObject r x.owner) then .refuseOpen 0x0502 0
    else if s.seqs.any (fun e => isOpen e.2 && decide (e.2.par.grammar = some g)) then .refuseOpen 0x0207 0
    else .done [] (freeBlock x.base (setGrammar g Grammar.none (storeBytes true (deviceCtx s) (grammarDesc s g) (zeros 32) false s)))) r s

end Sys2Proof.Machine
end

