-- ==== Sys2Proof/Machine/RegRead.lean ====
section
/-! DEFINITION. Which registers monitor.regs reads (R390, R407): the blocks, the ranges of internal test, and what each role sees of them. -/

namespace Sys2Proof.Machine

/-- The blocks of R390. -/
def blockExists (b : Nat) : Bool := decide (b ≤ 0xC) || (decide (0x10 ≤ b) && decide (b ≤ 0x27)) || (decide (0x40 ≤ b) && decide (b ≤ 0x6F))

/-- The ranges each block reserves for internal test, and the repair interface of the slices, which read as zero but under the maintenance credential (spec/11_memory_system.md). -/
def testRanges (b : Nat) : List (Nat × Nat) :=
  if b = 0 then [(0x28000, 0x2FFFF), (0x31000, 0x3FFFF), (0x41000, 0x4FFFF), (0x51000, 0x5FFFF), (0xF0000, 0xFFFFF)]
  else if b = 1 then [(0x100, 0xFFFFF)]
  else if b = 2 ∨ b = 4 then [(0x1000, 0xFFFFF)]
  else if b = 3 ∨ b = 6 then [(0x1800, 0xFFFFF)]
  else if b = 5 then [(0x1400, 0xFFFFF)]
  else if b = 7 then [(0x3000, 0xFFFFF)]
  else if b ≤ 0xC then [(0x10000, 0xFFFFF)]
  else if b ≤ 0x27 then [(0x80000, 0xFFFFF)]
  else [(0x11000, 0x1FFFF), (0x21000, 0x2FFFF), (0x31000, 0x3FFFF), (0x41800, 0x4FFFF), (0x51000, 0x6FFFF), (0x71000, 0x7FFFF), (0xF0000, 0xFFFFF)]

/-- Does an offset of a block lie in a range reserved for internal test? -/
def inTest (b off : Nat) : Bool := (testRanges b).any (fun r => decide (r.1 ≤ off) && decide (off ≤ r.2))

/-- What monitor.regs reads at an offset of a block (R390, R407): the operator reads zeros from block 0x09 and from internal test; the maintenance role reads every block, and an internal test register as that register is (log entry 5). -/
def regsRead (s : State) (maintenance : Bool) (b off : Nat) : Word :=
  if !(blockExists b) || decide (blockSize ≤ off) then 0
  else if inTest b off then (if maintenance then Config.testRegister (b * blockSize + off) else 0)
  else if b = 9 ∧ !maintenance then 0
  else readReg s (b * blockSize + off)

end Sys2Proof.Machine
end

