-- ==== Sys2Proof/Machine/CmdPower.lean ====
section
/-! DEFINITION. The power, memory and fabric families of commands (R16, R212, R262, R263, R270, R274 to R277, R352 to R355, R370, R372, R410 to R412, R420, R428). -/

namespace Sys2Proof.Machine

/-- The nth edge from now and the period in force from it on: the next one stands at tape e under period p, with a period q armed, 0 for none (R14). -/
def edgeAfter (q : Nat) : Nat → Nat → Nat → Nat × Nat
  | 0, p, e => (e, p)
  | n + 1, p, e =>
    let p' := if 0 < q ∧ e % q = 0 then q else p
    if n = 0 then (e, p') else edgeAfter q n p' (e + p')

/-- The edge a cap takes effect at, with the period in force from it on: the first edge after the command, or with cap coordination on the one that R372 names (R372, R412). -/
def capEdgeAt (s : State) : Nat × Nat :=
  edgeAfter (if rdB s 0x100008 63 then rdF s 0x100008 21 0 else 0) (if rdB s 0xB00010 62 then max 1 (rdF s 0xB00008 63 56) else 1) (period s) (ordinaryEdge s)

/-- TICK_INDEX of the edge a cap takes effect at (R16, R372, R412). -/
def capIndex (s : State) : Nat := (capEdgeAt s).1 / (capEdgeAt s).2

/-- A member with cap coordination on announces the frequency that its policy has chosen, when that differs from the one in force, for the edge at which the cap takes force (R372; log entry 34). -/
def announceCap (watts index : Nat) (s : State) : State :=
  let mhz := rdF s 0x800008 31 16
  if rdB s 0xB00010 62 && isMember s && decide (mhz ≠ coreMHz s) then announce (1000 * mhz) watts index s else s

/-- A cap waits for its edge (R412). -/
def orderCap (cap window : Nat) (s : State) : State :=
  wrB 0x800000 63 true { s with power := { s.power with cap := some ⟨cap, window, (capEdgeAt s).1⟩ } }

/-- POWER_CAP (R16, R372, R410, R412). -/
def execPowerCap (r : Req) (s : State) : Host.Outcome State Fault Refusal :=
  control ⟨0x0901, [1], false⟩ (exactly r 8) (fun s =>
    let cap := pay r 0 2
    let w := pay r 4 4
    if cap < 600 ∨ 1100 < cap then .refuse 0x0201 0 (if cap < 600 then 600 else 1100)
    else if w < 10 ∨ 60000 < w then .refuse 0x0201 4 (if w < 10 then 10 else 60000)
    else .done (leBytes 8 (capIndex s)) (announceCap cap (capIndex s) (orderCap cap w s))) r s

/-- Withdraw the device's announcement, if one stands (R372). -/
def withdraw (s : State) : State := if s.fabric.sentCap = 0 then s else announce 0 (rdF s 0x800000 10 0) (tickIndex s + rdF s 0xB00008 63 56) s

/-- POWER_COORD (R372): turned off, a standing announcement is withdrawn and the others' are no longer kept (log entry 68). -/
def execPowerCoord (r : Req) (s : State) : Host.Outcome State Fault Refusal :=
  control ⟨0x0902, [1], false⟩ (exactly r 1) (fun s =>
    if pay r 0 1 % 2 = 1 then .done [] (wrB 0xB00010 62 true s)
    else
      let s := if rdB s 0xB00010 62 then withdraw s else s
      .done [] (wrB 0xB00010 62 false { s with fabric := { s.fabric with notes := [] } })) r s

/-- POWER_SLEEP (R428): sleep entry begins. -/
def execPowerSleep (r : Req) (s : State) : Host.Outcome State Fault Refusal :=
  control ⟨0x0903, [1], false⟩ (exactly r 1) (fun s =>
    let k := pay r 0 1
    if k < 1 ∨ 2 < k then .refuse 0x0201 0 (if k < 1 then 1 else 2)
    else if isMember s then .refuseOpen 0x0207 0xFFFF
    else if inPause s then .refuseOpen 0x0207 0xFFFF
    else if k = 2 ∧ (s.models.any (fun e => e.2.live) ∨ s.seqs.any (fun e => isOpen e.2)) then .refuseOpen 0x0207 0
    else if k = 1 ∧ !(rdB s 0x800028 63) then .refuseOpen 0x0207 0
    else .done [] (wrF 0xC00000 63 61 1 { s with sleepTo := k })) r s

/-- POWER_QUERY (R410, R411, R418): the window is shown in whole milliseconds, rounded down. -/
def execPowerQuery (r : Req) (s : State) : Host.Outcome State Fault Refusal :=
  control ⟨0x0904, [1], false⟩ (exactly r 0) (fun s =>
    .done (leBytes 2 (rdF s 0x800000 10 0) ++ leBytes 2 (windowNs s / 1000000) ++ leBytes 4 (rdF s 0x800010 31 0 / 1000) ++ leBytes 1 s.fuse.perfClass) s) r s

/-- POWER_ENERGY (R420). -/
def execPowerEnergy (r : Req) (s : State) : Host.Outcome State Fault Refusal :=
  control ⟨0x0905, [0, 1], false⟩ (exactly r 1) (fun s =>
    let t := pay r 0 1
    if foreign r t then .refuseOpen 0x0502 0
    else if 63 < t ∨ !(tenantOf s t).live then .refuseOpen 0x0208 0
    else .done (leBytes 8 ((rd s (0x800200 + 8 * t)).toNat / 10 ^ 6)) s) r s

/-- Is a region of the scratchpad in use beyond an end? -/
def usedBeyond (s : State) (stop : Nat) : Bool := (scratchUsed s).any (fun b => decide (stop < b.1 + b.2))

/-- MEMORY_SLICE (R263): the split waits for the next edge. -/
def execMemorySlice (r : Req) (s : State) : Host.Outcome State Fault Refusal :=
  control ⟨0x0A01, [1], false⟩ (exactly r 1) (fun s =>
    let k := pay r 0 1
    if 15 < k then .refuse 0x0201 0 15
    else if usedBeyond s (scratchBase + scratchSize k) then .refuse 0x0202 0 k
    else .done [] (wrB 0x50000 63 true (wrF 0x50000 3 0 k { s with slicePending := some k }))) r s

/-- MEMORY_HEM (R211, R212). -/
def execMemoryHem (r : Req) (s : State) : Host.Outcome State Fault Refusal :=
  control ⟨0x0A02, [1], false⟩ (exactly r 2) (fun s =>
    let mib := pay r 0 2
    let base := rdF s 0x40020 47 20 * 2 ^ 20
    let others := (scratchUsed s).filter (fun b => decide (b.1 ≠ base))
    if mib < 16 ∨ 256 < mib then .refuse 0x0201 0 (if mib < 16 then 16 else 256)
    else if s.seqs.any (fun e => !e.2.segs.isEmpty) then .refuseOpen 0x0207 0
    else if rdB s 0x40020 63 && (!(inScratch s base (mib * 2 ^ 20)) || others.any (fun b => overlaps (base, mib * 2 ^ 20) b)) then .refuse 0x0201 0 (rdF s 0x40020 56 48)
    else .done [] (wrF 0x40020 56 48 mib s)) r s

/-- Is a byte, read as signed, from −32 to 31? -/
def offsetByte (b : Nat) : Bool := decide (b ≤ 31) || decide (224 ≤ b)

/-- MEMORY_MARGIN (R275 to R277, R453 cell 10): answered when the run ends. -/
def execMemoryMargin (r : Req) (s : State) : Host.Outcome State Fault Refusal :=
  control ⟨0x0A03, [1], false⟩ (exactly r 8) (fun s =>
    let c := pay r 0 2
    let lane := pay r 2 1
    let dir := pay r 3 1
    let dwell := pay r 6 2
    if 383 < c then .refuse 0x0201 0 383
    else if 79 < lane then .refuse 0x0201 2 79
    else if 1 < dir then .refuse 0x0201 3 1
    else if !(offsetByte (pay r 4 1)) then .refuse 0x0201 4 31
    else if !(offsetByte (pay r 5 1)) then .refuse 0x0201 5 31
    else if dwell = 0 then .refuse 0x0201 6 1
    else if rdB s (chStatus c) 61 then .refuseOpen 0x0103 0
    else if sparesFree s c = 0 then .refuse 0x0305 0 0
    else
      let go (s : State) : Reply :=
        let s := wrF (chMargin c) 61 61 dir (wrF (chMargin c) 60 54 lane (wrF (chMargin c) 53 48 (pay r 4 1 % 64) (wrF (chMargin c) 47 42 (pay r 5 1 % 64) (wrF (chMargin c) 15 0 dwell s))))
        .later (startMargin c lane dwell false (some (waiterOf r 0x0A03)) s)
      match marginOf s c with
      | none => go s
      | some m => if m.rotation then go (abortMargin c s) else .busy m.ends) r s

/-- MEMORY_QUERY (R274, R275). -/
def execMemoryQuery (r : Req) (s : State) : Host.Outcome State Fault Refusal :=
  control ⟨0x0A04, [1, 2], false⟩ (exactly r 2) (fun s =>
    let c := pay r 0 2
    if 383 < c then .refuse 0x0201 0 383
    else .done (leBytes 8 (rd s (chStatus c)).toNat ++ leBytes 8 (rd s (chResult c)).toNat) s) r s

/-- The identifiers of a fabric.join. -/
def joinIds (r : Req) : List Nat := (List.range ((r.payload.length - 12) / 8)).map (fun i => pay r (12 + 8 * i) 8)

/-- Identifiers not yet in a set, each once, in order (R352). -/
def addIds : List Nat → List Nat → List Nat
  | m, [] => m
  | m, x :: xs => addIds (if m.contains x then m else m ++ [x]) xs

/-- Form the membership (R353, R354 step 1): the primary timekeeper is synchronised at once and puts the period in force under R14; another joins. -/
def formMembership (id period_ : Nat) (members : List Nat) (s : State) : State :=
  let g := { Fabric.none with id := id, members := members, standby := members[1]?, period := period_, rho := s.fabric.rho, rest := s.fabric.rest, nextIf := s.fabric.nextIf, skipTo := s.fabric.skipTo, seenAt := s.tape, anyAt := s.tape }
  let s := wrB 0x100008 63 false (wrB 0xB00010 63 true { s with fabric := g })
  if isPrimary s then armPeriod period_ (wrB 0x200010 63 true (wrB 0x200010 59 true s)) else wrB 0x200010 61 true s

/-- FABRIC_JOIN (R14, R352 to R354). -/
def execFabricJoin (r : Req) (s : State) : Host.Outcome State Fault Refusal :=
  control ⟨0x0B01, [1], false⟩ (decide (12 ≤ r.payload.length) && decide (r.payload.length ≤ 9120) && decide ((r.payload.length - 12) % 8 = 0)) (fun s =>
    let id := pay r 0 8
    let us := pay r 8 2
    let ids := joinIds r
    let set := addIds (if isMember s then s.fabric.members else []) ids
    if id = 0 then .refuse 0x0201 0 1
    else if us < 50 ∨ 4000 < us then .refuse 0x0201 8 (if us < 50 then 50 else 4000)
    else if ids.isEmpty then .refuse 0x0201 12 1
    else if isMember s && decide (s.fabric.id = id) && decide (s.fabric.period ≠ 1000 * us) then .refuse 0x0202 8 (s.fabric.period / 1000)
    else if isMember s && decide (s.fabric.id ≠ id) then .refuse 0x0207 0 (s.fabric.id % 2 ^ 32)
    else if 16384 < set.length then .refuse 0x0301 12 16384
    else if isMember s then .done [] { s with fabric := { s.fabric with members := set } }
    else .done [] (formMembership id (1000 * us) set s)) r s

/-- Close every connection (R355 step 1, R365); one still being set up is given up. -/
def closeAll (s : State) : State :=
  s.conns.foldl (fun s e =>
    let c := connOf s e.1
    if c.phase = .connecting then setConn e.1 c.freed s
    else if c.phase = .open_ then closeIfDue e.1 0x0207 (setConn e.1 { c with phase := .closing, due := [] } s)
    else s) s

/-- Complete every pending transmit descriptor (R355 step 2). -/
def failEverything (status : Nat) (s : State) : State :=
  failQueued (fun _ => true) status (s.conns.foldl (fun s e => failUnacked e.1 status s) s)

/-- FABRIC_LEAVE (R355, R372): the tape runs on at its rate. -/
def execFabricLeave (r : Req) (s : State) : Host.Outcome State Fault Refusal :=
  control ⟨0x0B02, [1], false⟩ (exactly r 0) (fun s =>
    if !(isMember s) then .done [] s
    else
      let s := failEverything 0x0207 (closeAll s)
      let s := if rdB s 0xB00010 62 then announce 0 (rdF s 0x800000 10 0) (tickIndex s + rdF s 0xB00008 63 56) s else s
      let g := { Fabric.none with rho := s.fabric.rho, rest := s.fabric.rest, nextIf := s.fabric.nextIf, skipTo := s.fabric.skipTo, wants := s.fabric.wants }
      .done [] (wrF 0x200010 63 59 0 (wrB 0xB00010 63 false { s with fabric := g }))) r s

/-- FABRIC_QUERY (R341, R370). -/
def execFabricQuery (r : Req) (s : State) : Host.Outcome State Fault Refusal :=
  control ⟨0x0B03, [1], false⟩ (exactly r 0) (fun s =>
    .done (leBytes 8 s.fabric.id ++ leBytes 4 s.fabric.members.length ++ leBytes 2 (levelInForce s)) s) r s

end Sys2Proof.Machine
end

