-- ==== Sys2Proof/Machine/Stitcher.lean ====
section
/-! DEFINITION. Stitchers: the search for a piece and stealing (R83, R104 to R108), the zipper and the panel unwinder at the take (R124 to R131, R290 to R294), table builds (R53, R75 to R77), streaming and its faults (R78 to R82, R90, R91, R93), bank swaps and draining (R84 to R87, R92). -/

namespace Sys2Proof.Machine

/-- The operation of a piece, while its step is open. -/
def opOfPiece (s : State) (x : Piece) : Option OpRun := (stepOf s x.step).bind (fun t => t.ops[x.op]?)

/-- The matrix a piece works on: MATRIX + e for a piece of expert e (R475). -/
def pieceMatrix (t : Step) (o : OpRun) (x : Piece) : Nat :=
  entMatrix o.bits + (if entExpert o.bits then ((t.dispatch.find? (fun d => d.lgroup == x.lgroup && d.gateOp == gateOf t x.op)).map (fun d => d.expert)).getD 0 else 0)

/-- Input dimension of the matrix a piece works on (R118, R119, R476). -/
def pieceIn (s : State) (x : Piece) : Nat :=
  let r := imageOf s (modelOf s x.model)
  match stepOf s x.step with
  | none => layerInDim r x.layer
  | some t => match t.ops[x.op]? with
    | some o => matIn r x.layer (pieceMatrix t o x)
    | none => layerInDim r x.layer

/-- Tile columns of the matrix a piece works on (R118). -/
def pieceCols (s : State) (x : Piece) : Nat := ceilDiv (pieceIn s x) (colInputs x.fmt)

/-- Ready pieces of a panel's queue. -/
def readyCount (s : State) (p : Nat) : Nat := ((panelOf s p).queue.filter (fun q => q.ready)).length

/-- The first active panel from p in a direction, up (1) or down (47). -/
def neighbour (s : State) (p dir : Nat) : Option Nat :=
  ((List.range 47).map (fun k => (p + (k + 1) * dir) % 48)).find? (fun q => !(isolated s q) && q != p)

/-- The queues of steps 2 and 3 of R105 in their order: panel, and 1 near or 2 far. -/
def searchOrder (s : State) (p : Nat) : List (Nat × Nat) :=
  let up := neighbour s p 1
  let down := neighbour s p 47
  let near : List Nat := match up, down with
    | some a, some b =>
      if a = b then [a]
      else if readyCount s b < readyCount s a then [a, b]
      else if readyCount s a < readyCount s b then [b, a]
      else [min a b, max a b]
    | some a, none => [a]
    | none, some b => [b]
    | none, none => []
  let ring := ((List.range 24).map (fun d => [(p + d + 1) % 48, (p + 48 - (d + 1)) % 48])).flatten
  let far := ring.filter (fun q => !(isolated s q) && !(near.contains q) && q != p)
  near.map (fun q => (q, 1)) ++ (far.eraseDups).map (fun q => (q, 2))

/-- May a thief of panel p take from a queue (R106)? -/
def mayTake (s : State) (p : Nat) (e : Nat × Nat) : Bool :=
  let ctl := panelReg p 0x10
  if e.2 = 1 then rdB s ctl 25 && decide (max 1 (rdF s ctl 7 0) ≤ readyCount s e.1)
  else rdB s ctl 24 && decide (max 1 (rdF s ctl 15 8) ≤ readyCount s e.1)

/-- What the search finds: the queue's panel, how it is reached, and the index in it (R104, R105). -/
def findPiece (s : State) (p : Nat) : Option (Nat × Nat × Nat) :=
  match (panelOf s p).queue.findIdx? (fun q => q.ready) with
  | some i => some (p, 0, i)
  | none =>
    match (searchOrder s p).find? (mayTake s p) with
    | none => none
    | some (q, how) =>
      let queue := (panelOf s q).queue
      (((List.range queue.length).filter (fun i => (queue[i]?.map (fun e => e.ready)).getD false)).getLast?).map (fun i => (q, how, i))

/-- The bytes of a piece's tile-list entries: index and key, none where the entry is poisoned (R120, R131). -/
def tileEntries (s : State) (x : Piece) : List (Nat × Option Nat) :=
  let ctx := tenantCtx s (modelOf s x.model).owner
  (List.range x.tcount).map (fun i =>
    let a := x.tlist + 4 * i
    (i, if anyPoison s a 4 then none else some (ofLe ((List.range 4).map (fun k => byteAs s ctx (a + k))) % 2 ^ 21)))

/-- The block-list entries a piece's zipper consumes: those before COL_END, and a column at or beyond the layer's count, which is a fault (R122, R124, R129). -/
def blockStream (s : State) (x : Piece) (ncols : Nat) : List (Option Nat) :=
  let n := peekAs s (deviceCtx s) x.ablk 4
  let es := (List.range n).map (fun i =>
    let a := x.ablk + 8 + 4 * i
    if anyPoison s a 4 then none else some (peekAs s (deviceCtx s) a 4 % 2 ^ 18))
  es.takeWhile (fun e => match e with
    | none => true
    | some c => decide (c < x.colEnd) || decide (ncols ≤ c))

/-- What the zipper finds for a piece. -/
structure Zipped where
  tiles : List Tile
  fault : Option ZipFault
  entries : Nat
  poisoned : Bool
  deriving DecidableEq, Repr

/-- The zipper's work on one piece (R124, R129 to R131). -/
def zipPiece (s : State) (x : Piece) : Zipped :=
  let ncols := pieceCols s x
  let ts := tileEntries s x
  let scan := scanTiles ncols (ceilDiv x.rows 32) none ts []
  let tp := ts.any (fun e => e.2.isNone)
  if x.ablk = 0 then ⟨scan.tiles, scan.fault, x.tcount, tp⟩
  else
    let bad := (getByte s (x.ablk + 4)).toNat != colInputs x.fmt
    let hp := anyPoison s x.ablk 8
    let bs := blockStream s x ncols
    let bp := hp || bs.any (fun e => e.isNone)
    let cols := bs.filterMap (fun e => e)
    if bad && !hp then ⟨[], some ⟨4, true⟩, x.tcount + bs.length, tp || bp⟩
    else
      let r := intersect scan (some (scanBlocks ncols none cols []))
      ⟨r.tiles, r.fault, x.tcount + bs.length, tp || bp⟩

/-- Raw size of a layer's tile-data region: from its start to the end of the last row block's tiles (R282, R346). -/
def regionBytes (r : Reader) (l : Nat) : Nat :=
  let fin := ((List.range (matCount r l)).map (fun w => ((List.range (matNB r l w)).map (fun k =>
    blockData r l w k + 128 * r (blockList r l w k) 4)).foldl max 0)).foldl max 0
  fin - layerTiles r l

/-- One segment of a wound layer as a panel unwinder delivers it. -/
structure SegRead where
  stored : Nat
  out : Unwound
  slot : Nat
  deriving DecidableEq, Repr

/-- Read segment g of layer l's tile data (R283, R290 to R295). -/
def readSegment (s : State) (model l g : Nat) (table : Bool) : SegRead :=
  let m := modelOf s model
  let r := imageOf s m
  let ctx := tenantCtx s m.owner
  let n := min 65536 (regionBytes r l - 65536 * g)
  let at_ := m.base + layerTiles r l + 65536 * g
  let d := m.base + layerSegDir r l + 8 * g
  let e := ofLe ((List.range 8).map (fun i => byteAs s ctx (d + i)))
  let bytes := (List.range n).map (fun i => byteAs s ctx (at_ + i))
  ⟨natBits e 33 17, unwindSegment e bytes n (anyPoison s d 8) (anyPoison s at_ (storedSpan e n)) table, at_⟩

/-- The 128 bytes of a tile, and whether any of them is poisoned (R121, R126, R293): a segment whose decode table was bad is poisoned whole (R295). -/
def tileBytes (s : State) (x : Piece) (segs : List (Nat × Nat)) (t : Tile) : List Byte × Bool :=
  let m := modelOf s x.model
  let a := x.waddr + 128 * t.index
  let ctx := tenantCtx s m.owner
  if x.wound then
    let r := imageOf s m
    let off := a - (m.base + layerTiles r x.layer)
    let g0 := off / 65536
    let g1 := (off + 127) / 65536
    let s0 := (readSegment s x.model x.layer g0 (segs.contains (g0, 6))).out
    let s1 := if g1 = g0 then s0 else (readSegment s x.model x.layer g1 (segs.contains (g1, 6))).out
    let all := if g1 = g0 then s0.bytes else padTo s0.bytes 65536 ++ s1.bytes
    (slice all (off % 65536) 128, s0.poison || s1.poison || ((s0.raw || s1.raw) && anyPoison s a 128))
  else ((List.range 128).map (fun i => byteAs s ctx (a + i)), anyPoison s a 128 || !(inMemory s a 128))

/-- The segments that hold a list of tiles, in order. -/
def segmentsOf (s : State) (x : Piece) (ts : List Tile) : List Nat :=
  let m := modelOf s x.model
  let start := m.base + layerTiles (imageOf s m) x.layer
  ts.foldl (fun l t =>
    let off := x.waddr + 128 * t.index - start
    insNat (insNat l (off / 65536)) ((off + 127) / 65536)) []

/-- Record a codec fault of a panel unwinder (R294, R297, R436). A bad decode table is an engine transient, and its entry names no model (R434; log entry 105). -/
def panelCodecFault (p kind slot : Nat) (x : Piece) (s : State) : State :=
  let s := bump (panelReg p 0x70038) 1 s
  let s := wr (panelReg p 0x70050) (BitVec.ofNat 64 (2 ^ 63 + kind * 2 ^ 59 + slot / 65536 % 2 ^ 32)) s
  tally 13 (1 + p) kind 0 0 0 (if kind = 6 then logError (1 + p) 2 none (x.step, x.attempt) s else logError (1 + p) 4 (some (slot / 64 * 64)) (x.step, x.attempt) s)

/-- What the unwinder made of a piece's segments: whether any output is poisoned, and the faults by segment. -/
structure Unwinding where
  bad : Bool
  segs : List (Nat × Nat)
  state : State
  deriving DecidableEq, Repr

/-- Expand the segments a piece's selected tiles lie in (R126, R290, R294, R295): counters, faults, and whether any output is poisoned. -/
def unwindPiece (p : Nat) (x : Piece) (ts : List Tile) (table : CodecErrors) (s : State) : Unwinding :=
  if !x.wound then ⟨false, [], s⟩
  else
    (segmentsOf s x ts).foldl (fun (acc : Unwinding) g =>
      let e := readSegment acc.state x.model x.layer g (tableBad table g)
      let here := (ts.filter (fun t => segmentsOf acc.state x [t] == [g])).length
      let s := if e.out.raw then bump (panelReg p 0x70010) 1 acc.state
        else bump (panelReg p 0x70040) (tableFixed table g) (bump (panelReg p 0x70028) (e.out.bytes.length - 128 * here)
          (bump (panelReg p 0x70020) e.out.bytes.length (bump (panelReg p 0x70018) e.stored (bump (panelReg p 0x70008) 1 acc.state))))
      match e.out.fault with
      | some k => ⟨true, acc.segs ++ [(g, k)], panelCodecFault p k e.slot x s⟩
      | none => ⟨acc.bad || e.out.poison, acc.segs, s⟩) ⟨false, [], s⟩

/-- The last chunk of a run has begun to stream. -/
def runStreamed (r : StRun) : Bool := decide ((chunksOf r.piece.fmt r.tiles).length ≤ r.done)

/-- Does a piece run a second, low-plane time after this run (R87)? -/
def lowFollows (r : StRun) : Bool := r.piece.ptag == 3 && !r.low

/-- May a stitcher take a piece now (R83)? -/
def takesNow (st : Stitcher) : Bool :=
  match st.cur with
  | none => true
  | some r => st.ahead.isNone && !(lowFollows r) && runStreamed r

/-- Count a take (R108). -/
def countTake (p src how : Nat) (s : State) : State :=
  match how with
  | 0 => bump (panelReg p 0x18) 1 s
  | 1 => bump (panelReg src 0x30) 1 (bump (panelReg p 0x20) 1 s)
  | _ => bump (panelReg src 0x30) 1 (bump (panelReg p 0x28) 1 s)

/-- Read the header n of a piece with SUB 0 and count a density breach (R127). -/
def checkDensity (p : Nat) (x : Piece) (s : State) : State :=
  let ctx := tenantCtx s (modelOf s x.model).owner
  let a := x.tlist - 16
  let n := ofLe ((List.range 4).map (fun k => byteAs s ctx (a + k)))
  let d := imgDensity (imageOf s (modelOf s x.model))
  let found := ((stepOf s x.step).map (fun t => t.breaches.contains x.tlist)).getD false
  if x.sub ≠ 0 ∨ n ≤ d ∨ found then s
  else
    let s := bump (panelReg p 0x10018) 1 s
    let b := sget (fun _ => Breach.none) s.breaches x.model
    let o := (modelOf s x.model).owner
    let s := { s with breaches := sput (fun _ => Breach.none) s.breaches x.model (if b.count = 0 then ⟨1, s.tape, o⟩ else { b with count := b.count + 1 }) }
    match stepOf s x.step with
    | some t => setStep { t with breaches := t.breaches ++ [x.tlist] } s
    | none => s

/-- The zipper's counters and its fault (R124, R130). -/
def countZip (p : Nat) (x : Piece) (z : Zipped) (s : State) : State :=
  let s := bump (panelReg p 0x10000) z.entries s
  let s := bump (panelReg p 0x10008) z.tiles.length s
  let s := bump (panelReg p 0x10010) (x.tcount - z.tiles.length) s
  match z.fault with
  | none => s
  | some f =>
    zipRecord p f.kind f.block x.model x.layer x.piece s

/-- A piece in hand, a returned one for its low plane alone (R91): the zipper and the unwinder work on it, and the stitcher holds it as its current piece or ahead (R83, R124 to R131). -/
def acceptPiece (p i src how : Nat) (x : Piece) (table : CodecErrors) (s : State) : State :=
  let s := checkDensity p x (countTake p src how s)
  let z := zipPiece s x
  let s := countZip p x z s
  let u := unwindPiece p x z.tiles table s
  let run : StRun := ⟨x, x.ptag == 4, src, how, z.tiles, z.fault.isSome || z.poisoned || u.bad, false, 0, 0, u.segs⟩
  let s := u.state
  let st := stitcherOf s p i
  let s := if st.cur.isNone then setStitcher p i { st with cur := some run } s else setStitcher p i { st with ahead := some run } s
  match z.fault with
  | none => s
  | some f => indexFault x.step x.model x.layer x.piece f.kind (if f.block then 1 else 0) s

/-- STITCHER_TAKE_PIECE (R83, R104 to R108, R124 to R131): a stitcher that may take a piece searches the queues; a search that finds none counts a clock. -/
def execStitcherTakePiece (p i : Nat) (table : CodecErrors) (s : State) : Host.Outcome State Fault Refusal :=
  if p ≥ 48 ∨ i ≥ 128 ∨ isolated s p ∨ stitcherFailed s p i ∨ !(takesNow (stitcherOf s p i)) then .next s
  else match findPiece s p with
    | none => .next (bump (panelReg p 0x58) 1 s)
    | some (q, how, k) =>
      match (panelOf s q).queue[k]? with
      | none => .next s
      | some e => .next (takeWork (.stitcherTakePiece p i table) [(e.piece.tlist, 4 * e.piece.tcount)]
          (fun s => acceptPiece p i q how e.piece table (dealWaiting (setPanel q { panelOf s q with queue := (panelOf s q).queue.eraseIdx k } s))) s)

/-- The chunks a stitcher has still to stream, with their runs, the next one first (R82, R87). -/
def upcoming (st : Stitcher) : List (StRun × (Nat × Nat)) :=
  let of (r : StRun) : List (StRun × (Nat × Nat)) := ((chunksOf r.piece.fmt r.tiles).drop r.done).map (fun c => (r, c))
  let both (r : StRun) : List (StRun × (Nat × Nat)) := of r ++ (if lowFollows r then of { r with low := true, done := 0 } else [])
  (st.cur.map both).getD [] ++ (st.ahead.map both).getD []

/-- The activation a lane's query row holds at an input, and whether it is poisoned: 0 beyond the input dimension (R77, R119). -/
def activation (x : Slot) (limit : Nat) (low : Bool) (lane row e : Nat) : Int × Bool :=
  if e ≥ x.dim ∨ e ≥ limit then (0, false)
  else
    let l := sget (fun _ => SlotLane.none) x.lanes lane
    let k := row * x.dim + e
    (codeInt x.fmt low (l.codes.getD k 0), l.poison.contains k)

/-- Lanes of a table half (R54). -/
def halfLanes (x : Piece) : Nat := if x.ptag = 1 then 16 else 8

/-- The lane that stands first in a piece's table half: a half piece of lanes 8 to 15 has them in the half's 8 places (R453). -/
def firstLane (x : Piece) : Nat := if x.ptag ≠ 1 ∧ 256 ≤ x.lanemask then 8 else 0

/-- Activations of one query row of a chunk as the activation stage holds them: lane after lane, a byte for int8 and a plane, half a byte for int4 (R56, R72, R77). -/
def feedBytes (lanes : Nat) (rows : List (List Int)) : List Byte :=
  if lanes = 16 then packNibbles ((rows.map (fun xs => xs.map (ofSigned 4))).flatten)
  else (rows.map (fun xs => xs.map (fun v => BitVec.ofNat 8 (ofSigned 8 v)))).flatten

/-- The activations the builder reads from stage bytes: n inputs of each lane. -/
def feedLanes (lanes n : Nat) (bytes : List Byte) : List (List Int) :=
  (List.range lanes).map (fun l => (List.range n).map (fun k =>
    let j := l * n + k
    if lanes = 16 then toSigned 4 ((bytes.getD (j / 2) 0).toNat / 16 ^ (j % 2) % 16) else toSigned 8 (bytes.getD j 0).toNat))

/-- Where panel q's buffer stages activations for stitcher i of panel p, its own or a thief's (R97, R108; log entry 83). -/
def stageAddr (q p i : Nat) : Nat :=
  panelBufBase + 0x200000 * q + 0x100000 + 4096 * i + 1024 * (if q = p then 0 else if q < p then 1 else 2)

/-- Where panel p's buffer stages tile n of a column for stitcher i (R97; log entry 83). -/
def weightAddr (p i n : Nat) : Nat := panelBufBase + 0x200000 * p + 8192 * i + 128 * n

/-- What the errors of a staged word do (R98): one uncorrectable is poisoned where it stands, for its reader to find. -/
def stagedError (q a : Nat) (err : SramError) (x : Piece) (s : State) : State :=
  match err with
  | .clean => s
  | .corrected => panelWordFixed q a s
  | .uncorrectable => panelWordLost q a (x.step, x.attempt) s

/-- The activations of query row q of a chunk in the piece's slot, for each lane of the half. -/
def slotRow (s : State) (r : StRun) (c : Nat × Nat) (q : Nat) : List (List (Int × Bool)) :=
  let x := r.piece
  let slot := slotOf s x.aslot
  let first := c.1 * colInputs x.fmt + c.2 * chunkInputs x.fmt
  let limit := pieceIn s x
  (List.range (halfLanes x)).map (fun l =>
    let lane := firstLane x + l
    (List.range (chunkInputs x.fmt)).map (fun k =>
      if x.lanemask / 2 ^ lane % 2 = 1 then activation slot limit r.low lane q (first + k) else (0, false)))

/-- A query row's activations on their way to the builder: bytes, and whether any of them arrived poisoned. -/
structure StagedRow where
  bytes : List Byte
  poison : Bool
  deriving DecidableEq, Repr

/-- The feed brings a query row's activations to the stage of stitcher i (R77, R96, R98, R108): through the activation stage of the panel whose queue gave the piece, or for a farther steal straight from the slot. -/
def feedRow (p i : Nat) (r : StRun) (c : Nat × Nat) (q : Nat) (err : SramError) (s : State) : StagedRow × State :=
  let acts := slotRow s r c q
  let bytes := feedBytes (halfLanes r.piece) (acts.map (fun xs => xs.map (fun v => v.1)))
  let bad := acts.any (fun xs => xs.any (fun v => v.2))
  if r.how = 2 then (⟨bytes, bad⟩, s)
  else
    let a := stageAddr r.source p i
    let s := stagedError r.source a err r.piece (storeBytes false 0 a bytes bad s)
    (⟨getBytes s a bytes.length, anyPoison s a bytes.length⟩, s)

/-- A half under construction, the bytes last staged, and the state the feed leaves. -/
structure Built where
  half : Half
  stage : List Byte
  state : State
  deriving DecidableEq, Repr

/-- Build a half for one chunk (R53, R73, R76, R77): a table for each query row of the slot; an error of a staged word meets the first. -/
def buildHalf (p i : Nat) (r : StRun) (c : Nat × Nat) (err : SramError) (old : Half) (s : State) : Built :=
  let x := r.piece
  (List.range (max 1 (slotOf s x.aslot).rows)).foldl (fun (b : Built) q =>
    let f := feedRow p i r c q (if q = 0 then err else .clean) b.state
    let words := buildWords x.fmt (halfLanes x) (feedLanes (halfLanes x) (chunkInputs x.fmt) f.1.bytes) (old.words.getD q [])
    ⟨⟨true, b.half.poison || f.1.poison, b.half.words ++ [words]⟩, f.1.bytes, f.2⟩) ⟨⟨true, false, []⟩, [], s⟩

/-- One half of a stitcher. -/
def halfOf (st : Stitcher) (h : Nat) : Half := if h = 0 then st.half0 else st.half1

/-- Replace one half. -/
def setHalf (st : Stitcher) (h : Nat) (x : Half) : Stitcher := if h = 0 then { st with half0 := x } else { st with half1 := x }

/-- Replace one half of the activation stage. -/
def setActStage (st : Stitcher) (h : Nat) (x : List Byte) : Stitcher := if h = 0 then { st with stage0 := x } else { st with stage1 := x }

/-- The tiles of a chunk column, in list order (R79). -/
def columnTiles (r : StRun) (c : Nat × Nat) : List Tile := r.tiles.filter (fun t => t.col == c.1)

/-- A line of a segment that has changed since the piece was taken may give its unwinder a fault: it is recorded, once for the run (R294, R296). -/
def lateFaults (p i : Nat) (r : StRun) (ts : List Tile) (s : State) : State :=
  if !r.piece.wound then s
  else
    let found := (segmentsOf s r.piece ts).filterMap (fun g =>
      if r.segs.any (fun z => z.1 == g) then none
      else
        let e := readSegment s r.piece.model r.piece.layer g false
        e.out.fault.map (fun k => (g, k, e.slot)))
    let s := found.foldl (fun s f => panelCodecFault p f.2.1 f.2.2 r.piece s) s
    let st := stitcherOf s p i
    let note (q : StRun) : StRun := if q.piece = r.piece then { q with segs := q.segs ++ found.map (fun f => (f.1, f.2.1)), faulted := q.faulted || !found.isEmpty } else q
    if found.isEmpty then s else setStitcher p i { st with cur := st.cur.map note, ahead := st.ahead.map note } s

/-- The feed brings a column's tiles into panel p's weight staging (R44, R96, R108, R264, R406): its reads allocate no line of a cache. -/
def feedWeights (p i : Nat) (r : StRun) (c : Nat × Nat) (s : State) : State :=
  let ts := columnTiles r c
  let ctx := tenantCtx s (modelOf s r.piece.model).owner
  (List.range ts.length).foldl (fun s n => match ts[n]? with
    | none => s
    | some t =>
      let b := tileBytes s r.piece r.segs t
      storeBytes false 0 (weightAddr p i n) b.1 b.2 (touchRange false ctx (r.piece.waddr + 128 * t.index) 128 s)) (lateFaults p i r ts s)

/-- The bytes of row k of a chunk in staged tile n (R79, R119). -/
def chunkRow (s : State) (p i n k : Nat) (fmt : Nat) (c : Nat × Nat) : List Byte :=
  getBytes s (weightAddr p i n + 4 * k + chunkBytes fmt * c.2) (chunkBytes fmt)

/-- The first bytes of a chunk's row stream, as the weight FIFO takes them (R72). -/
def firstBytes (s : State) (p i : Nat) (r : StRun) (c : Nat × Nat) : List Byte :=
  ((List.range (min 2 (columnTiles r c).length)).map (fun n => ((List.range 32).map (fun k => chunkRow s p i n k r.piece.fmt c)).flatten)).flatten.take 256

/-- The chunk's table is built in half h, and its weights are staged (R44, R53, R75 to R77, R96). -/
def buildNext (p i k : Nat) (r : StRun) (c : Nat × Nat) (err : SramError) (s : State) : State :=
  let b := buildHalf p i r c err (halfOf (stitcherOf s p i) k) s
  let s := feedWeights p i r c b.state
  setStitcher p i { setActStage (setHalf (stitcherOf s p i) k b.half) k b.stage with fifo := firstBytes s p i r c } s

/-- What the feed of a chunk reads: its tiles, or the segments they lie in with their directory entries (R44, R126). -/
def feedRanges (s : State) (r : StRun) (c : Nat × Nat) : List (Nat × Nat) :=
  let ts := columnTiles r c
  if r.piece.wound then
    let m := modelOf s r.piece.model
    let img := imageOf s m
    (segmentsOf s r.piece ts).flatMap (fun g => [(m.base + layerTiles img r.piece.layer + 65536 * g, 65536), (m.base + layerSegDir img r.piece.layer + 8 * g, 8)])
  else ts.map (fun t => (r.piece.waddr + 128 * t.index, 128))

/-- TABLE_BUILD (R44, R53, R54, R73, R75 to R77, R82, R96, R98, R108): the builder fills the half of the next chunk, which is free from the start of the stream before it on. -/
def execTableBuild (p i : Nat) (staged : SramError) (s : State) : Host.Outcome State Fault Refusal :=
  let st := stitcherOf s p i
  if p ≥ 48 ∨ i ≥ 128 ∨ isolated s p ∨ stitcherFailed s p i ∨ (halfOf st st.half).valid then .next s
  else match (upcoming st).head? with
    | none => .next s
    | some (r, c) => .next (takeWork (.tableBuild p i staged) (feedRanges s r c) (buildNext p i st.half r c staged) s)

/-- Key of an accumulator: row, lane and query row. -/
def accKey (row lane q : Nat) : Nat := 64 * (row * 16 + lane) + q

/-- Accumulators read zero until added to (R84). -/
def accZero : Nat → Int := fun _ => 0

/-- Add one row's chunk in every named lane and query row (R78, R80). -/
def addRow (x : Piece) (rows : Nat) (h : Half) (bytes : List Byte) (row : Nat) (acc : Sparse Int) : Sparse Int :=
  (lanesOf x.lanemask).foldl (fun acc l => (List.range rows).foldl (fun acc q =>
    supd accZero acc (accKey row l q) (fun v => v + rowReads x.fmt (halfLanes x) (h.words.getD q []) (l - firstLane x) bytes)) acc) acc

/-- What streaming a chunk gives: accumulators, void codes, and whether a weight byte was poisoned. -/
structure Streamed where
  acc : Sparse Int
  voids : Nat
  poisoned : Bool
  deriving DecidableEq, Repr

/-- Stream the rows of one chunk column's present tiles in ascending row order, from the panel's weight staging (R44, R78, R79, R93, R119). -/
def streamChunk (s : State) (p i : Nat) (r : StRun) (c : Nat × Nat) (h : Half) (acc : Sparse Int) : Streamed :=
  let x := r.piece
  let rows := max 1 (slotOf s x.aslot).rows
  let ts := columnTiles r c
  (List.range ts.length).foldl (fun (z : Streamed) n => match ts[n]? with
    | none => z
    | some t =>
      (List.range 32).foldl (fun (z : Streamed) k =>
        let bytes := chunkRow s p i n k x.fmt c
        let row := 32 * t.rg + k
        ⟨if row < x.rows then addRow x rows h bytes row z.acc else z.acc, z.voids + voidCodes x.fmt bytes, z.poisoned⟩)
        ⟨z.acc, z.voids, z.poisoned || anyPoison s (weightAddr p i n) 128⟩) ⟨acc, 0, false⟩

/-- Record a stitcher's error (R95); runs is the count of consecutive failing runs of the piece, 0 where none has failed (log entry 84). -/
def stitchError (p i piece runs kind : Nat) (s : State) : State :=
  wr (panelReg p (0x41008 + 0x10 * i)) (BitVec.ofNat 64 (2 ^ 63 + piece * 2 ^ 16 + runs * 2 ^ 4 + kind)) s

/-- Errors the accumulator file corrects (R92, R95). -/
def accFixed (p i : Nat) (r : StRun) (n : Nat) (s : State) : State :=
  if n = 0 then s else stitchError p i r.piece.piece r.fails 2 (bump (panelReg p 0x40018) n s)

/-- A run fails (R90 to R92): the piece runs again from its first row, the half that failed taking its first chunk (log entry 84), or, when it failed twice in a row, the stitcher fails. -/
def failRun (p i : Nat) (st : Stitcher) (r : StRun) (kind : Nat) (s : State) : State :=
  let x := r.piece
  let n := r.fails + 1
  let s := stitchError p i x.piece n kind (bump (panelReg p (if kind = 1 then 0x40010 else 0x40020)) 1 s)
  let s := logError (1 + p) 2 none (x.step, x.attempt) s
  if n ≥ 2 then failStitcher p i x.piece (logError (1 + p) 3 none (x.step, x.attempt) s)
  else
    let again : Stitcher := { st with cur := some { r with done := 0, fails := n, poisoned := false }, acc := [], half0 := { st.half0 with valid := false }, half1 := { st.half1 with valid := false }, fifo := [], stall := Stall.none, swapDue := false }
    bump (panelReg p 0x40028) 1 (setStitcher p i again s)

/-- A chunk of the current piece streams against the table of half h (R47 to R50, R74, R78 to R81): the accumulators take its terms, and the half is free. -/
def streamNext (p i : Nat) (r : StRun) (c : Nat × Nat) (hf : Half) (s : State) : State :=
  let st := stitcherOf s p i
  let z := streamChunk s p i r c hf st.acc
  let r' := { r with done := r.done + 1, poisoned := r.poisoned || hf.poison || z.poisoned }
  let st' := setHalf { st with cur := some r', acc := z.acc, half := 1 - st.half, fifo := [], stall := Stall.none, swapDue := runStreamed r' } st.half { hf with valid := false }
  bump (panelReg p 0x38) z.voids (setStitcher p i st' s)

/-- A clock in which a stitcher waits: its counter, and the wait in STITCH_STATUS (R81, R82, R84, R94, R125). -/
def stitchWaits (p i : Nat) (why : Stall) (s : State) : State :=
  let reg := match why with
    | .drain => 0x40040
    | .build => 0x40038
    | .zip => 0x10028
    | _ => 0x40030
  bump (panelReg p reg) 1 (setStitcher p i { stitcherOf s p i with stall := why } s)

/-- The kind of the failure a stream meets, parity before accumulator (R90, R92). -/
def streamFails (e : StreamErrors) : Option Nat := if e.parity then some 1 else if e.uncorrectable then some 3 else none

/-- CHUNK_STREAM_START (R47 to R50, R74, R78 to R82, R90 to R93, R98): the next chunk of the current piece streams against its table; a wait for the zipper's next column, for the table, a first build included, or for the weights counts a clock, in that order where several are awaited: a clock with no table counts in BUILD_STALL_CLK alone though the weight FIFO is empty too (R81, R82, R125; log entry 84). After the last chunk's start a failure of that stream, found once a piece is taken ahead, comes by one more such command. -/
def execChunkStreamStart (p i : Nat) (e : StreamErrors) (s : State) : Host.Outcome State Fault Refusal :=
  let st := stitcherOf s p i
  if p ≥ 48 ∨ i ≥ 128 ∨ isolated s p ∨ stitcherFailed s p i then .next s
  else match st.cur with
    | none => .next s
    | some r =>
      match (chunksOf r.piece.fmt r.tiles)[r.done]?, streamFails e with
      | none, none => .next s
      | none, some kind => if r.done = 0 then .next s else .next (failRun p i st r kind (accFixed p i r e.corrected s))
      | some c, fails =>
        let h := halfOf st st.half
        if e.unzipped then .next (stitchWaits p i .zip s)
        else if !h.valid then .next (stitchWaits p i .build s)
        else if e.empty then .next (stitchWaits p i .feed s)
        else match fails with
          | some kind => .next (failRun p i st r kind (accFixed p i r e.corrected s))
          | none => .next (streamNext p i r c h (stagedError p (weightAddr p i 0) e.staged r.piece (accFixed p i r e.corrected s)))

/-- Output elements per query row of a piece's matrix (R476). -/
def pieceOut (s : State) (x : Piece) : Nat :=
  match stepOf s x.step with
  | none => 0
  | some t => match t.ops[x.op]? with
    | some o => matOut (imageOf s (modelOf s x.model)) x.layer (pieceMatrix t o x)
    | none => 0

/-- The records a run drains, in order (R85, R87, R92, R93): of the row groups with a tile the zipper selected, which alone are streamed (log entry 84). -/
def drainRecords (s : State) (r : StRun) (acc : Sparse Int) (bad : List Nat) : List Record :=
  let x := r.piece
  let rows := max 1 (slotOf s x.aslot).rows
  let out := pieceOut s x
  let present := (List.range x.rows).filter (fun k => r.tiles.any (fun t => t.rg == k / 32))
  let keys := (present.map (fun k => ((lanesOf x.lanemask).map (fun l => (List.range rows).map (fun q => (k, l, q)))).flatten)).flatten
  (List.range keys.length).map (fun n =>
    let (k, l, q) := keys.getD n (0, 0, 0)
    let lost := bad.contains n
    { value := if lost then 0 else ofSigned 32 (sget accZero acc (accKey k l q)), elem := q * out + x.elem0 + k, slot := x.oslot,
      lane := l, ptag := if x.ptag = 3 then (if r.low then 4 else 3) else x.ptag, op := 0, piece := x.piece,
      step := x.step % 2 ^ 14, attempt := x.attempt, poison := r.faulted || r.poisoned || lost })

/-- How many of n records a list of indexes names. -/
def recordsNamed (n : Nat) (l : List Nat) : Nat := ((List.range n).filter (fun k => l.contains k)).length

/-- The drain reads the accumulator of one record: an error that it corrects, and one that it cannot, each counted and recorded as it comes (R92, R95). -/
def readAccumulator (p i : Nat) (r : StRun) (bad fixed : Bool) (s : State) : State :=
  let s := accFixed p i r (if fixed then 1 else 0) s
  if bad then stitchError p i r.piece.piece r.fails 4 (bump (panelReg p 0x40020) 1 s) else s

/-- The banks swap (R84 to R87, R92): the records of the streamed run go to the record port, and what follows becomes current. The drain's reads meet the accumulators in error, of which fixed are corrected. -/
def swapBanks (p i : Nat) (r : StRun) (bad fixed : List Nat) (s : State) : State :=
  let recs := drainRecords s r (stitcherOf s p i).acc bad
  let s := (List.range recs.length).foldl (fun s n => readAccumulator p i r (bad.contains n) (fixed.contains n) s) s
  let s := if recordsNamed recs.length bad = 0 then s else logError (1 + p) 2 none (r.piece.step, r.piece.attempt) s
  let st := stitcherOf s p i
  let follow := if lowFollows r then some { r with low := true, done := 0, fails := 0, poisoned := false } else st.ahead
  let ahead := if lowFollows r then st.ahead else none
  setStitcher p i { st with cur := follow, ahead := ahead, acc := [], port := recs, draining := !recs.isEmpty, stall := Stall.none, swapDue := false } s

/-- ACC_BANK_SWAP (R84 to R87, R92): the banks swap once the other bank has drained, the records go to the record port, and the low-plane run or the piece taken ahead becomes current. -/
def execAccBankSwap (p i : Nat) (bad fixed : List Nat) (s : State) : Host.Outcome State Fault Refusal :=
  let st := stitcherOf s p i
  if p ≥ 48 ∨ i ≥ 128 ∨ isolated s p ∨ stitcherFailed s p i then .next s
  else match st.cur with
    | none => .next s
    | some r =>
      if !(runStreamed r) then .next s
      else if st.port ≠ [] then .next (stitchWaits p i .drain s)
      else .next (swapBanks p i r bad fixed s)

/-- QUEUE_STORE_UNCORRECTABLE (R113 to R117): a fatal panel fault. -/
def execQueueStoreUncorrectable (p : Nat) (s : State) : Host.Outcome State Fault Refusal :=
  if p ≥ 48 ∨ isolated s p then .next s
  else .next (isolatePanel p 2 (logError (1 + p) 3 none noStep (panelError p 4 0 s)))

end Sys2Proof.Machine
end

