-- ==== Sys2Proof/Machine/Stall.lean ====
section
/-! DEFINITION. What waits for a channel in retrain, and the end of the retrain, which serves it (R265, R271). -/

namespace Sys2Proof.Machine

/-- The state a command leaves that answers with one. -/
def stateAfter (o : Host.Outcome State Fault Refusal) (s : State) : State :=
  match o with
  | .next t => t
  | _ => s

/-- A command that waited is carried out as if it came now: it may wait again, for another channel (R271). -/
def serveRequest (s : State) (c : Instr) : State :=
  match c with
  | .memoryAccess who addr ctx op err step => stateAfter (execMemoryAccess who addr ctx op err step s) s
  | .addI32 who addr v => stateAfter (execAddI32 who addr v s) s
  | .addF32 who addr v => stateAfter (execAddF32 who addr v s) s
  | .minI32 who addr v => stateAfter (execMinI32 who addr v s) s
  | .maxI32 who addr v => stateAfter (execMaxI32 who addr v s) s
  | .minF32 who addr v => stateAfter (execMinF32 who addr v s) s
  | .maxF32 who addr v => stateAfter (execMaxF32 who addr v s) s
  | .andOp who wide addr v => stateAfter (execAndOp who wide addr v s) s
  | .orOp who wide addr v => stateAfter (execOrOp who wide addr v s) s
  | .cas who wide addr compare v => stateAfter (execCas who wide addr compare v s) s
  | .refInc who addr => stateAfter (execRefInc who addr s) s
  | .refDec who addr => stateAfter (execRefDec who addr s) s
  | .shuttleDescHead ch => stateAfter (execShuttleDescHead ch s) s
  | .shuttleCopy ch e => stateAfter (execShuttleCopy ch e s) s
  | .shuttleFill ch => stateAfter (execShuttleFill ch s) s
  | .shuttleCompare ch e => stateAfter (execShuttleCompare ch e s) s
  | .pageListGather ch e => stateAfter (execPageListGather ch e s) s
  | .reduceInto ch e => stateAfter (execReduceInto ch e s) s
  | .shuttleWind ch e => stateAfter (execShuttleWind ch e s) s
  | .shuttleUnwind ch e => stateAfter (execShuttleUnwind ch e s) s
  | .shuttleDescComplete ch => stateAfter (execShuttleDescComplete ch s) s
  | .pageWrite e => stateAfter (execPageWrite e s) s
  | .cowCopyComplete seq layer e => stateAfter (execCowCopyComplete seq layer e s) s
  | .samplerDraw step seq bad => stateAfter (execSamplerDraw step seq bad s) s
  | .stitcherTakePiece p i table => stateAfter (execStitcherTakePiece p i table s) s
  | .tableBuild p i staged => stateAfter (execTableBuild p i staged s) s
  | .denseCommand p err => stateAfter (execDenseCommand p err s) s
  | .attentionCommand p err e => stateAfter (execAttentionCommand p err e s) s
  | .embeddingGather p err => stateAfter (execEmbeddingGather p err s) s
  | _ => s

/-- Requester of a command that can wait, and for one access its address. -/
def requestOf (c : Instr) : Option (Requester × Option Nat) :=
  match c with
  | .memoryAccess who addr _ _ _ _ => some (who, some addr)
  | .addI32 who addr _ => some (who, some addr)
  | .addF32 who addr _ => some (who, some addr)
  | .minI32 who addr _ => some (who, some addr)
  | .maxI32 who addr _ => some (who, some addr)
  | .minF32 who addr _ => some (who, some addr)
  | .maxF32 who addr _ => some (who, some addr)
  | .andOp who _ addr _ => some (who, some addr)
  | .orOp who _ addr _ => some (who, some addr)
  | .cas who _ addr _ _ => some (who, some addr)
  | .refInc who addr => some (who, some addr)
  | .refDec who addr => some (who, some addr)
  | .shuttleDescHead ch => some (.shuttle ch, none)
  | .shuttleCopy ch _ => some (.shuttle ch, none)
  | .shuttleFill ch => some (.shuttle ch, none)
  | .shuttleCompare ch _ => some (.shuttle ch, none)
  | .pageListGather ch _ => some (.shuttle ch, none)
  | .reduceInto ch _ => some (.shuttle ch, none)
  | .shuttleWind ch _ => some (.shuttle ch, none)
  | .shuttleUnwind ch _ => some (.shuttle ch, none)
  | .shuttleDescComplete ch => some (.shuttle ch, none)
  | .pageWrite _ => some (.shuttle 48, none)
  | .cowCopyComplete _ _ _ => some (.shuttle 48, none)
  | .samplerDraw _ _ _ => some (.sampler, none)
  | .stitcherTakePiece p _ _ => some (.panel p, none)
  | .tableBuild p _ _ => some (.panel p, none)
  | .denseCommand p _ => some (.panel p, none)
  | .attentionCommand p _ _ => some (.shuttle p, none)
  | .embeddingGather p _ => some (.panel p, none)
  | _ => none

/-- Place of a requester in the port order (R265). -/
def portPlace : Requester → Nat
  | .controller => 0
  | .shuttle ch => 1 + ch
  | .planEngine => 65
  | .sampler => 66
  | .gate => 67
  | .panel p => 68 + p

/-- Port place of a held request. -/
def requestPlace (c : Instr) : Nat := ((requestOf c).map (fun r => portPlace r.1)).getD 0

/-- The commands to carry out when a channel's stall ends: the accesses that wait for it, and the longer work, each of which then waits for it no longer. -/
def waitingOn (s : State) (ch : Nat) : List Instr :=
  s.stalled.filter (fun c => match (requestOf c).bind (fun r => r.2) with
    | some a => decide (channelOf a = ch)
    | none => true)

/-- The order in which the requests for a channel are served (R265, R271): the 256 that the slice queued, in order; then those whose requesters it held back, in port order, each requester's own in order. -/
def servedOrder (l : List Instr) : List Instr := l.take 256 ++ sortBy requestPlace (l.drop 256)

/-- The stall of a channel has ended: what waited for it is served (R271). -/
def serveStalled (ch : Nat) (s : State) : State :=
  let mine := waitingOn s ch
  (servedOrder mine).foldl serveRequest { s with stalled := s.stalled.filter (fun c => !(mine.contains c)) }

/-- RETRAIN_COMPLETE (R271, R273): lanes that failed while it ran take the spares that are free, the stall ends, and what waited for the channel is served. -/
def execRetrainComplete (ch : Nat) (s : State) : Host.Outcome State Fault Refusal :=
  if 384 ≤ ch ∨ !(rdB s (chStatus ch) 61) then .next s
  else .next (serveStalled ch (endRetrain ch s))

end Sys2Proof.Machine
end

