-- ==== Sys2Proof/Machine/CmdSecure.lean ====
section
/-! DEFINITION. The firmware, attest and maintenance families of commands, and a command code that is not listed (R278, R279, R335, R370, R381, R385, R386, R392 to R403, R405, R408). -/

namespace Sys2Proof.Machine

/-- Bytes of the firmware stage (R385). -/
def stageBytes : Nat := 3670016

/-- FIRMWARE_PUT (R385, R405): the stage is allotted by the first put after an update. -/
def execFirmwarePut (r : Req) (s : State) : Host.Outcome State Fault Refusal :=
  control ⟨0x0D01, [1], true⟩ (decide (9 ≤ r.payload.length) && decide (r.payload.length ≤ 9120)) (fun s =>
    let off := pay r 0 8
    let bytes := r.payload.drop 8
    if stageBytes < off + bytes.length then .refuse 0x0201 0 stageBytes
    else
      let put (a : Nat) (s : State) : Reply := .done [] (storeBytes true (deviceCtx s) (a + off) bytes false { s with fwStage := some a })
      match s.fwStage with
      | some a => put a s
      | none => match allotBlock stageBytes s with
        | none => .refuseOpen 0x0303 0xFFFF
        | some (a, s) => put a s) r s

/-- Is a level two or more from that of a peer in the connection cache (R370)? -/
def levelClash (s : State) (level : Nat) : Bool :=
  isMember s && s.conns.any (fun e => (decide (e.2.phase = .open_) || decide (e.2.phase = .closing)) && (decide (e.2.peerLevel + 2 ≤ level) || decide (level + 2 ≤ e.2.peerLevel)))

/-- FIRMWARE_UPDATE (R370, R381, R385, R386): steps 1 and 2; the pause begins at the next edge. -/
def execFirmwareUpdate (r : Req) (sigOk : Verified) (s : State) : Host.Outcome State Fault Refusal :=
  control ⟨0x0D02, [1], true⟩ (exactly r 8) (fun s =>
    let n := pay r 0 8
    let img := stagedFirmware s n
    if s.update.isSome then .refuseOpen 0x0207 0xFFFF
    else if stageBytes < n then .refuse 0x0201 0 stageBytes
    else
      let s := readStage n s
      if !(codeSound s (verifier s sigOk) img (leAt img 20 4)) then .counted 0x0503 0xFFFF 0 (bump 0x38 1 s)
      else if levelClash s (leAt img 8 1) then .refuse 0x0202 0xFFFF (ownLevel s)
      else .done [] { s with update := some ⟨n, false⟩ }) r s

/-- The identity key's signature over a domain string and data (R394), 1,280 bytes, with a draw of the random source. -/
def identitySign (domain : String) (x : List Byte) (draw : Word) (s : State) : List Byte :=
  padTo (Config.falconSign s.secure.idSeed (ascii domain ++ x) draw) 1280

/-- The KEM certificate that the device generated at its cold reset (R395, R396): kind 4, of itself by itself. -/
def kemCertificate (s : State) : List Byte :=
  let body := leBytes 4 0x54524354 ++ leBytes 1 4 ++ leBytes 1 2 ++ leBytes 2 1568 ++ idBytes s ++ idBytes s ++ orderingCode s ++ leBytes 2 s.fuse.perfClass
    ++ leBytes 6 s.fuse.macBase ++ zeros 16 ++ padTo (Config.kemKey s.secure.kemSeed) 1568
  body ++ identitySign "TUITH-CERT" body s.secure.certDraw s

/-- ATTEST_CERTS (R396). -/
def execAttestCerts (r : Req) (s : State) : Host.Outcome State Fault Refusal :=
  control ⟨0x0E01, [0, 1, 2], false⟩ (exactly r 1) (fun s =>
    match pay r 0 1 with
    | 0 => .done s.fuse.identityCert s
    | 1 => .done s.fuse.manufacturingCert s
    | 2 => .done (kemCertificate s) s
    | 3 => .done s.secure.signerCert s
    | 4 => .done s.secure.ownerCert s
    | _ => .refuse 0x0208 0 4) r s

/-- Bytes 0 to 399 of a quote (R400). -/
def quoteHead (r : Req) (s : State) : List Byte :=
  let own := if roleIn r = 0 then padTo (tenantOf s r.mailbox).measure 64 else zeros 64
  leBytes 4 0x544F5551 ++ zeros 4 ++ padTo r.payload 32 ++ idBytes s ++ leBytes 8 s.tape ++ leBytes 8 (tickIndex s)
    ++ padTo s.secure.m0 64 ++ padTo s.secure.m1 64 ++ padTo s.secure.m2 64 ++ padTo s.secure.m3 64 ++ own
    ++ leBytes 4 (fwVersion s) ++ leBytes 1 (ownLevel s) ++ leBytes 1 (rdF s 8 60 59 + 4 * rdF s 0x900000 62 62) ++ leBytes 2 r.mailbox ++ leBytes 4 (epoch s) ++ zeros 4

/-- ATTEST_QUOTE (R16, R400). -/
def execAttestQuote (r : Req) (s : State) : Host.Outcome State Fault Refusal :=
  control ⟨0x0E02, [0, 1, 2], false⟩ (exactly r 32) (fun s =>
    let h := quoteHead r s
    let f := fresh s
    .done (h ++ identitySign "TUITH-QUOTE" h f.1 s) f.2) r s

/-- The credential of an attest.session (R395, R402): a kind 8 certificate of the bound owner, and its signature over the identifier and bytes 0 to 1,575. -/
def credentialSound (r : Req) (w : Verifier) (s : State) : Bool :=
  let cert := slice r.payload 1576 3137
  certKind [8] cert && ownerSigned w s.secure.ownerCert cert && signedBy w (certKey cert) "TUITH-MAINT" (idBytes s ++ slice r.payload 0 1576) (slice r.payload 4713 1280)

/-- What is wrong with an attest.session, if anything (R395, R402, R403). -/
def sessionFault (r : Req) (certOk : Verified) (s : State) : Option Reply :=
  let m := pay r 0 2
  let k := pay r 2 1
  let cred := natBits (pay r 3 1) 1 1 = 1
  if roleOf m = 3 then some (.refuse 0x0201 0 0x41)
  else if 15 < k then some (.refuse 0x0201 2 15)
  else if cred ∧ m ≠ maintenanceBox then some (.refuse 0x0201 3 0)
  else if m = r.mailbox ∧ k = r.session then some (.refuse 0x0207 2 k)
  else if m < 64 ∧ !(tenantOf s m).live then some (.refuseOpen 0x0208 0)
  else if roleIn r = 2 ∧ m ≠ maintenanceBox then some (.refuse 0x0501 0 maintenanceBox)
  else if cred ∧ !(credentialSound r (verifier s certOk) s) then some (.counted 0x0503 3 0 (bump 0x900030 1 s))
  else none

/-- Establish a session from a shared secret (R402); one it replaces ends without a notice (R403). -/
def makeSession (m k : Nat) (wind cred : Bool) (ss : List Byte) (s : State) : State :=
  let key := kdf "TUITH-SESS" (ss ++ idBytes s ++ leBytes 2 m ++ leBytes 1 k ++ leBytes 4 (epoch s)) 36
  let s := endSession (sessionKey m k) s
  oweWakeNotice m k (bump 0x900028 1 (setSession (sessionKey m k) { Session.none with live := true, key := key.take 32, salt := (key.drop 32).take 4, windOk := wind, cred := cred } s))

/-- ATTEST_SESSION (R402, R403, R407). -/
def execAttestSession (r : Req) (certOk : Verified) (s : State) : Host.Outcome State Fault Refusal :=
  let cred := natBits (pay r 3 1) 1 1 == 1
  control ⟨0x0E03, [1, 2], false⟩ (exactly r (if cred then 5993 else 1576)) (fun s =>
    match sessionFault r certOk s with
    | some x => x
    | none =>
      let f := fresh s
      let g := fresh f.2
      let ek := slice r.payload 8 1568
      let ct := padTo (Config.kemCiphertext ek f.1) 1568
      let t := makeSession (pay r 0 2) (pay r 2 1) (natBits (pay r 3 1) 0 0 == 1) cred (Config.kemShared ek f.1) g.2
      .done (ct ++ identitySign "TUITH-SESS" (idBytes s ++ padTo r.payload 1576 ++ ct) g.1 s) t) r s

/-- Rows of a bank (R252: 16 channels of 16 banks, rows of 2 KiB). -/
def rowsOfBank (s : State) : Nat := s.fuse.stackGiB * 2 ^ 30 / (16 * 16 * 2048)

/-- Lines of a stack. -/
def stackLines (s : State) (n : Nat) : List Nat := ((List.range (capacity s / 64)).map (fun i => 64 * i)).filter (fun a => channelOf a / 16 == n)

/-- Every line of a stack is written to zero, under the device key (R279). -/
def zeroStack (n : Nat) (s : State) : State :=
  let here (a : Nat) : Bool := decide (a < capacity s) && channelOf a / 16 == n
  let keys := s.lineKey.filter (fun e => !(here e.1))
  let keys := if deviceCtx s = 0 then keys else (stackLines s n).foldl (fun k a => sput (fun _ => 0) k a (deviceCtx s)) keys
  { s with mem := s.mem.filter (fun c => !(here c.1)), poison := s.poison.filter (fun a => !(here a)), lineKey := keys, cache := s.cache.filter (fun e => !(here e.1)) }

/-- What training finds on a channel that a repair trains (R269, R270, R279): which of its 80 lanes fail and whether it locks are free, so every outcome can arise (log entry 2). -/
def freeTraining (c : Nat) (s : State) : Trained × State :=
  let f := fresh s
  let g := fresh f.2
  (⟨c, (List.range 80).filter (fun l => if l < 64 then getBit f.1 l else getBit g.1 (l - 64)), getBit g.1 16⟩, g.2)

/-- What the training of a repair takes a channel out of: a margin run is aborted (R276), and a retrain ends with it. -/
def leaveTraffic (c : Nat) (s : State) : State :=
  let s := { abortMargin c s with retrainDue := s.retrainDue.erase c, failing := s.failing.filter (fun k => k / 128 ≠ c), unspared := s.unspared.filter (fun k => k / 128 ≠ c) }
  if rdB s (chStatus c) 61 then endRetrain c s else s

/-- A repair that writes, once applied: the stack's 16 channels train, lane-fuse records first, and its lines are zeroed (R279). Requests that waited for one of them are served then (R271). -/
def afterRepair (n : Nat) (s : State) : State :=
  let cs := (List.range 16).map (fun k => 16 * n + k)
  let stalling := cs.filter (fun c => rdB s (chStatus c) 61)
  let s := cs.foldl (fun s c => leaveTraffic c s) s
  let z := cs.foldl (fun (acc : List Trained × State) c => let x := freeTraining c acc.2; (acc.1 ++ [x.1], x.2)) ([], s)
  let t := trainAll cs z.1 z.2
  stalling.foldl (fun s c => serveStalled c s) (zeroStack n (trainingFailed t.1 t.2))

/-- Spare rows left in a bank (R278). -/
def sparesLeft (s : State) (k : Nat) : Nat := Config.spareRows k - sget (fun _ => 0) s.repaired k

/-- MAINT_ROW (R278, R279). -/
def execMaintRow (r : Req) (s : State) : Host.Outcome State Fault Refusal :=
  control ⟨0x0F01, [2], false⟩ (exactly r 8) (fun s =>
    let n := pay r 0 1
    let ch := pay r 1 1
    let bank := pay r 2 1
    let k := 16 * (16 * n + ch) + bank
    if 23 < n then .refuse 0x0201 0 23
    else if 15 < ch then .refuse 0x0201 1 15
    else if 15 < bank then .refuse 0x0201 2 15
    else if rowsOfBank s ≤ pay r 4 4 then .refuse 0x0201 4 (rowsOfBank s - 1)
    else if !(drained s) then .refuseOpen 0x0207 0xFFFF
    else if sparesLeft s k = 0 then .refuse 0x0305 2 0
    else .done [] (afterRepair n { s with repaired := sput (fun _ => 0) s.repaired k (sget (fun _ => 0) s.repaired k + 1) })) r s

/-- MAINT_FUSE (R269, R278, R279): a lane joins its channel's lane-fuse record. -/
def execMaintFuse (r : Req) (s : State) : Host.Outcome State Fault Refusal :=
  control ⟨0x0F02, [2], false⟩ (exactly r 3) (fun s =>
    let n := pay r 0 1
    let ch := pay r 1 1
    let lane := pay r 2 1
    let c := 16 * n + ch
    let rec_ := sget (fun _ => []) s.laneFuse c
    if 23 < n then .refuse 0x0201 0 23
    else if 15 < ch then .refuse 0x0201 1 15
    else if 79 < lane then .refuse 0x0201 2 79
    else if !(drained s) then .refuseOpen 0x0207 0xFFFF
    else if !(rec_.contains lane) && decide (2 ≤ rec_.length) then .refuse 0x0305 2 2
    else .done [] (afterRepair n { s with laneFuse := sput (fun _ => []) s.laneFuse c (if rec_.contains lane then rec_ else rec_ ++ [lane]) })) r s

/-- MAINT_RREAD (R278): what remains, in a layout that the specification does not give (log entry 67). -/
def execMaintRread (r : Req) (s : State) : Host.Outcome State Fault Refusal :=
  control ⟨0x0F03, [2], false⟩ (exactly r 1) (fun s =>
    let n := pay r 0 1
    if 23 < n then .refuse 0x0201 0 23
    else
      let spares := (List.range 256).map (fun i => sparesLeft s (256 * n + i))
      let records := (List.range 16).map (fun k => sget (fun _ => []) s.laneFuse (16 * n + k))
      .done (padTo (Config.repairReport spares records) 256) s) r s

/-- Enable debug (R408): every tenant key is destroyed, the device key replaced, DEBUG_EN set. -/
def enableDebug (s : State) : State :=
  let s := s.tenants.foldl (fun s e => let x := tenantOf s e.1; setTenant e.1 { x with keyGen := x.keyGen + 1, hasKey := false } s) s
  wrB 0x900000 62 true (wr 0x900018 0 { s with devKey := s.devKey + 1 })

/-- MAINT_DEBUG (R408, R469): only a cold reset clears DEBUG_EN. -/
def execMaintDebug (r : Req) (s : State) : Host.Outcome State Fault Refusal :=
  control ⟨0x0F04, [2], false⟩ (exactly r 1) (fun s =>
    if pay r 0 1 % 2 = 0 then .done [] s
    else if !(drained s) then .refuseOpen 0x0207 0xFFFF
    else .done [] (enableDebug s)) r s

/-- The command codes of spec/15_obush_commands.md. -/
def listedCodes : List Nat :=
  [0x0101, 0x0102, 0x0103, 0x0104, 0x0105, 0x0106, 0x0107, 0x0201, 0x0202, 0x0203, 0x0204, 0x0205, 0x0301, 0x0302, 0x0303, 0x0304, 0x0305, 0x0306, 0x0307, 0x0308,
   0x0401, 0x0402, 0x0403, 0x0404, 0x0405, 0x0501, 0x0502, 0x0503, 0x0601, 0x0602, 0x0701, 0x0702, 0x0801, 0x0802, 0x0901, 0x0902, 0x0903, 0x0904, 0x0905,
   0x0A01, 0x0A02, 0x0A03, 0x0A04, 0x0B01, 0x0B02, 0x0B03, 0x0C01, 0x0C02, 0x0C03, 0x0C04, 0x0D01, 0x0D02, 0x0E01, 0x0E02, 0x0E03, 0x0F01, 0x0F02, 0x0F03, 0x0F04]

/-- UNKNOWN_COMMAND (R335): a code that is not listed is answered with 0x0204. -/
def execUnknownCommand (r : Req) (code : Nat) (s : State) : Host.Outcome State Fault Refusal :=
  if listedCodes.contains code then .next s else control ⟨code, [0, 1, 2], false⟩ true (fun _ => .refuseOpen 0x0204 0xFFFF) r s

end Sys2Proof.Machine
end

