-- ==== Sys2Proof/Machine/CmdSeq.lean ====
section
/-! DEFINITION. The sequence and prefix families of commands (R208, R220 to R222, R230 to R233, R249, R250, R341, R348, R440). -/

namespace Sys2Proof.Machine

/-- A prefix record. -/
def prefixOf (s : State) (i : Nat) : Prefix := sget (fun _ => Prefix.none) s.prefixes i
/-- Replace a prefix record. -/
def setPrefix (i : Nat) (x : Prefix) (s : State) : State := { s with prefixes := sput (fun _ => Prefix.none) s.prefixes i x }

/-- The handle of a prefix record (R221). -/
def handleOf (i : Nat) (x : Prefix) : Nat := i + 2 ^ 12 * x.tenant + 2 ^ 18 * x.gen

/-- What is wrong with a handle a request carries at payload offset off (R221): another tenant's, then stale. -/
def handleFault (r : Req) (off h : Nat) (s : State) : Option Reply :=
  let x := prefixOf s (h % 4096)
  if foreign r (h / 2 ^ 12 % 64) then some (.refuseOpen 0x0502 off)
  else if !x.live ∨ handleOf (h % 4096) x ≠ h then some (.refuseOpen 0x0206 off)
  else none

/-- What is wrong with the sequence a request names at payload bytes off to off + 3 (R230, R344): its generation, then its tenant. -/
def seqFault (r : Req) (off : Nat) (s : State) : Option Reply :=
  let n := pay r off 2
  let x := seqOf s n
  if 4096 ≤ n ∨ x.state = .free ∨ x.gen ≠ pay r (off + 2) 2 then some (.refuse 0x0206 (off + 2) x.gen)
  else if foreign r x.tenant then some (.refuseOpen 0x0502 off)
  else none

/-- The stop sequences a seq.open declares: their lengths (R348). -/
def stopLengths (r : Req) : List Nat := (List.range (min 4 (pay r 48 1))).map (fun i => pay r (49 + i) 1)

/-- The length rule of seq.open: 64 bytes, then the lists they count (R335, R348). -/
def openLength (r : Req) : Bool := decide (64 ≤ r.payload.length) && decide (r.payload.length = 64 + 4 * (pay r 39 1 + (stopLengths r).sum))

/-- Cut a list of ids into the stop sequences. -/
def cutIds : List Nat → List Nat → List (List Nat)
  | [], _ => []
  | n :: ns, ids => ids.take n :: cutIds ns (ids.drop n)

/-- The parameters a seq.open carries (R231, R348); top-k of 0 is 256. -/
def openParams (r : Req) : SeqParams :=
  let fl := pay r 3 1
  let nstop := pay r 39 1
  { model := pay r 0 2, dest := pay r 2 1, tag := pay r 12 8, seed := pay r 20 8, temp := BitVec.ofNat 32 (pay r 28 4),
    topK := if pay r 32 2 = 0 then 256 else pay r 32 2, topP := pay r 34 4, stopTokens := idsAt r.payload 64 nstop,
    stopSeqs := cutIds (stopLengths r) (idsAt r.payload (64 + 4 * nstop) (stopLengths r).sum), outLimit := pay r 40 4,
    grammar := if natBits fl 1 1 = 1 then some (pay r 38 1) else none, anyAccept := natBits fl 0 0 == 1,
    nlist := if natBits fl 2 2 = 1 then pay r 56 2 else 0, draftSource := natBits fl 4 3, drafterSeq := pay r 44 2, drafterGen := pay r 46 2,
    prefixRec := if natBits fl 5 5 = 1 then some (pay r 4 8) else none }

/-- The first refusal of a list of tests. -/
def firstRefusal (l : List (Bool × Reply)) : Option Reply := (l.find? (fun x => x.1)).map (fun x => x.2)

/-- The ranges of R231 that need no object. -/
def openRanges (r : Req) : Option Reply :=
  let t : F32 := BitVec.ofNat 32 (pay r 28 4)
  let lens := stopLengths r
  firstRefusal ([
    (decide (15 < pay r 2 1), .refuse 0x0201 2 15), (decide (natBits (pay r 3 1) 4 3 = 3), .refuse 0x0201 3 2),
    (!(fIsFinite t) || (fSign t && !(fIsZero t)), .refuse 0x0201 28 (pay r 28 4)), (decide (256 < pay r 32 2), .refuse 0x0201 32 256),
    (decide (pay r 34 4 < 1), .refuse 0x0201 34 1), (decide (65536 < pay r 34 4), .refuse 0x0201 34 65536),
    (decide (16 < pay r 39 1), .refuse 0x0201 39 16), (decide (pay r 40 4 = 0), .refuse 0x0201 40 1), (decide (4 < pay r 48 1), .refuse 0x0201 48 4)]
    ++ (List.range lens.length).map (fun i => (decide (lens.getD i 0 < 1) || decide (16 < lens.getD i 0), .refuse 0x0201 (49 + i) (if lens.getD i 0 < 1 then 1 else 16)))
    ++ [(decide (natBits (pay r 3 1) 2 2 = 1) && (decide (pay r 56 2 < 1) || decide (4096 < pay r 56 2)), .refuse 0x0201 56 (if pay r 56 2 < 1 then 1 else 4096))])

/-- What is wrong with the grammar of a seq.open (R231, R240, R344, R453 cell 15). -/
def openGrammar (r : Req) (p : SeqParams) (vocab : Nat) (s : State) : Option Reply :=
  match p.grammar with
  | none => none
  | some g =>
    let x := grammarOf s g
    if !(rdB s 0x500008 63) then some (.refuseOpen 0x0207 38)
    else if !x.live then some (.refuseOpen 0x0208 38)
    else if x.owner ≠ 64 ∧ x.owner ≠ r.mailbox then some (.refuseOpen 0x0502 38)
    else if vocab < devLe s (grammarDesc s g + 20) 4 then some (.refuse 0x0202 38 vocab)
    else none

/-- What is wrong with a seq.open, if anything (R221, R222, R230, R231, R440). -/
def openFault (r : Req) (s : State) : Option Reply :=
  let p := openParams r
  let m := modelOf s p.model
  let vocab := imgVocab (imageOf s m)
  if !m.live then some (.refuseOpen 0x0401 0)
  else if m.owner ≠ 64 ∧ m.owner ≠ r.mailbox then some (.refuseOpen 0x0502 0)
  else if m.faulted ∨ m.quarantined ∨ m.unload ≠ [] then some (.refuseOpen 0x0401 0)
  else
    let linked := if p.draftSource = 2 then seqFault r 44 s else none
    let pre := match p.prefixRec with
      | none => none
      | some h => (handleFault r 4 h s).or (if (prefixOf s (h % 4096)).model ≠ p.model then some (.refuse 0x0202 4 (prefixOf s (h % 4096)).model) else none)
    let ids := match firstBeyond vocab (idsAt r.payload 64 ((r.payload.length - 64) / 4)) with
      | some i => some (.refuse 0x0201 (64 + 4 * i) vocab)
      | none => none
    (((openRanges r).or pre).or linked).or ((openGrammar r p vocab s).or ids)

/-- The state a sequence's grammar starts in (R240, R242). -/
def grammarStart (s : State) (g : Option Nat) : Nat :=
  match g with
  | none => 0
  | some k => devLe s (grammarDesc s k + 16) 4

/-- Write a page list: a prefix's pages at its page indices, and no page elsewhere; each page named gains a reference (R208, R222, R223). -/
def startList (n : Nat) (x : Seq) (layers mp : Nat) (pages : List Nat) (s : State) : State :=
  let per := if layers = 0 then 0 else pages.length / layers
  (List.range layers).foldl (fun s l => (List.range mp).foldl (fun s i =>
    if i < per then
      let p := pages.getD (l * per + i) noPage
      setListEntry x mp l i p (if p < pageCount s then incPage n p s else s)
    else setListEntry x mp l i noPage s) s) s

/-- Open a sequence in context n (R208, R221 to R223, R230 to R233): its input ring and its page list are allotted. -/
def openIn (n : Nat) (r : Req) (s : State) : Reply :=
  let p := openParams r
  let img := imageOf s (modelOf s p.model)
  match allotBlock 65536 s with
  | none => .refuseOpen 0x0303 0xFFFF
  | some (ring, t) => match allotBlock (4 * imgLayers img * maxPages img) t with
    | none => .refuseOpen 0x0303 0xFFFF
    | some (list, t) =>
      let pre := match p.prefixRec with
        | none => Prefix.none
        | some h => prefixOf s (h % 4096)
      let x : Seq := { Seq.none with gen := (seqOf s n).gen, state := .idle, tenant := r.mailbox, par := p, ringAddr := ring, listAddr := list, gstate := grammarStart s p.grammar, lastServed := s.edge, flushed := pre.length, committed := pre.length }
      let t := setSeq n x (startList n x (imgLayers img) (maxPages img) pre.pages t)
      .done (leBytes 2 n ++ leBytes 2 x.gen ++ leBytes 4 pre.length ++ leBytes 4 16384) t

/-- The lowest free sequence context (R230). -/
def freeContext (s : State) : Option Nat := lowest 4096 (fun i => decide ((seqOf s i).state ≠ .free))

/-- Open a sequence in a context, or refuse where none is free. -/
def openInto (context : Option Nat) (r : Req) (s : State) : Reply :=
  match context with
  | none => .refuse 0x0301 0xFFFF 4096
  | some n => openIn n r s

/-- SEQ_OPEN (R208, R221 to R223, R230 to R233, R348, R440): the lowest free context is taken. -/
def execSeqOpen (r : Req) (s : State) : Host.Outcome State Fault Refusal :=
  control ⟨0x0401, [0], true⟩ (openLength r) (fun s =>
    match openFault r s with
    | some x => x
    | none => openInto (freeContext s) r s) r s

/-- SEQ_CANCEL (R230, R249, R250): answered at the edge where it takes effect. -/
def execSeqCancel (r : Req) (s : State) : Host.Outcome State Fault Refusal :=
  control ⟨0x0403, [0, 1], false⟩ (exactly r 4) (fun s =>
    match seqFault r 0 s with
    | some x => x
    | none =>
      let x := seqOf s (pay r 0 2)
      .later (setSeq (pay r 0 2) { x with cancel := x.cancel ++ [waiterOf r 0x0403], cancelPending := true } s)) r s

/-- The number of a sequence state, in the order of R233 (log entry 65). -/
def stateCode : SeqState → Nat
  | .free => 0
  | .idle => 1
  | .ready => 2
  | .inStep => 3
  | .ending => 4

/-- SEQ_QUERY (R230, R233, R341). -/
def execSeqQuery (r : Req) (s : State) : Host.Outcome State Fault Refusal :=
  control ⟨0x0404, [0, 1], false⟩ (exactly r 4) (fun s =>
    match seqFault r 0 s with
    | some x => x
    | none =>
      let x := seqOf s (pay r 0 2)
      .done (leBytes 1 (stateCode x.state) ++ zeros 3 ++ leBytes 4 x.committed ++ leBytes 4 x.drawn ++ leBytes 4 x.esn ++ leBytes 4 x.ringCount) s) r s

/-- The first id of a list that does not rise strictly, or is not below the vocabulary. -/
def firstNotRising (vocab : Nat) : Option Nat → Nat → List Nat → Option Nat
  | _, _, [] => none
  | prev, i, x :: xs =>
    let ok := match prev with
      | none => true
      | some p => decide (p < x)
    if ok && decide (x < vocab) then firstNotRising vocab (some x) (i + 1) xs else some i

/-- SEQ_ALLOW (R231, R341, R348). -/
def execSeqAllow (r : Req) (s : State) : Host.Outcome State Fault Refusal :=
  control ⟨0x0405, [0], false⟩ (decide (8 ≤ r.payload.length) && decide (r.payload.length = 8 + 4 * pay r 6 2)) (fun s =>
    match seqFault r 0 s with
    | some x => x
    | none =>
      let n := pay r 0 2
      let x := seqOf s n
      let count := pay r 6 2
      let ids := idsAt r.payload 8 count
      let vocab := imgVocab (imageOf s (modelOf s x.par.model))
      if count < 1 ∨ 2278 < count then .refuse 0x0201 6 (if count < 1 then 1 else 2278)
      else if pay r 4 2 ≠ x.allowed.length then .refuse 0x0201 4 x.allowed.length
      else if x.par.nlist < x.allowed.length + count then .refuse 0x0201 6 x.par.nlist
      else match firstNotRising vocab x.allowed.getLast? 0 ids with
        | some i => if ids.getD i 0 < vocab then .refuseOpen 0x0201 (8 + 4 * i) else .refuse 0x0201 (8 + 4 * i) vocab
        | none => .done [] (setSeq n (afterIntake { x with allowed := x.allowed ++ ids }) s)) r s

/-- PREFIX_PIN (R220, R230): answered when the park completes. -/
def execPrefixPin (r : Req) (s : State) : Host.Outcome State Fault Refusal :=
  control ⟨0x0501, [0], true⟩ (exactly r 8) (fun s =>
    match seqFault r 0 s with
    | some x => x
    | none =>
      let x := seqOf s (pay r 0 2)
      let n := pay r 4 4
      if x.state = .ending ∨ x.cancelPending then .refuseOpen 0x0207 0
      else if n < 1 ∨ x.committed < n then .refuse 0x0201 4 x.committed
      else if 4096 ≤ (s.prefixes.filter (fun e => e.2.live)).length then .refuse 0x0301 0xFFFF 4096
      else .later (setSeq (pay r 0 2) { x with pin := x.pin ++ [(waiterOf r 0x0501, n, none)] } s)) r s

/-- Give up a prefix record (R221 to R223): its pages lose a reference; its next use has the next generation. -/
def unpin (i : Nat) (s : State) : State :=
  let x := prefixOf s i
  let s := x.pages.foldl (fun s p => if p < pageCount s then decPage 0 p s else s) s
  setPrefix i { Prefix.none with gen := (x.gen + 1) % 2 ^ 46 } s

/-- PREFIX_UNPIN (R221 to R223). -/
def execPrefixUnpin (r : Req) (s : State) : Host.Outcome State Fault Refusal :=
  control ⟨0x0502, [0, 1], true⟩ (exactly r 8) (fun s =>
    match handleFault r 0 (pay r 0 8) s with
    | some x => x
    | none => .done [] (unpin (pay r 0 8 % 4096) s)) r s

/-- PREFIX_QUERY (R221, R341). -/
def execPrefixQuery (r : Req) (s : State) : Host.Outcome State Fault Refusal :=
  control ⟨0x0503, [0, 1], false⟩ (exactly r 8) (fun s =>
    match handleFault r 0 (pay r 0 8) s with
    | some x => x
    | none =>
      let h := pay r 0 8
      let x := prefixOf s (h % 4096)
      let open_ := (s.seqs.filter (fun e => isOpen e.2 && decide (e.2.par.prefixRec = some h))).length
      .done (leBytes 2 x.model ++ zeros 2 ++ leBytes 4 x.length ++ leBytes 4 x.pages.length ++ leBytes 4 open_) s) r s

/-- Prefix record i is made of the first len positions of sequence n (R220 steps 2 to 4): its pages gain a reference, and its handle is the answer. -/
def makePrefix (i n len : Nat) (w : Waiter) (s : State) : State :=
  let x := seqOf s n
  let img := imageOf s (modelOf s x.par.model)
  let per := ceilDiv len (pagePosOf s x)
  let pages := ((List.range (imgLayers img)).map (fun l => (List.range per).map (fun k => listEntry s x (maxPages img) l k))).flatten
  let s := pages.foldl (fun s p => if p < pageCount s then incPage n p s else s) s
  let y : Prefix := ⟨true, (prefixOf s i).gen, x.tenant, x.par.model, len, pages⟩
  respondTo w 0 (leBytes 8 (handleOf i y)) (setPrefix i y s)

/-- The lowest free prefix record (R221). -/
def freePrefix (s : State) : Option Nat := lowest 4096 (fun i => (prefixOf s i).live)

/-- Pin into a record, or refuse where none is free (R220). -/
def pinInto (record : Option Nat) (n len : Nat) (w : Waiter) (s : State) : State :=
  match record with
  | none => settle w 0x0301 s
  | some i => makePrefix i n len w s

/-- Pin the first len positions of sequence n in the lowest free record (R220). -/
def pinNow (n len : Nat) (w : Waiter) (s : State) : State := pinInto (freePrefix s) n len w s

/-- Does every position below a length stand on the pages (R217, R220)? -/
def parkDone (s : State) (n len : Nat) : Bool :=
  let x := seqOf s n
  (List.range (len - x.flushed)).all (fun k => pagesWritten s n (x.flushed + k))

/-- Keep a pin waiting. -/
def keepPin (n : Nat) (q : Waiter × Nat × Option Nat) (s : State) : State :=
  let y := seqOf s n
  setSeq n { y with pin := y.pin ++ [q] } s

/-- A pin at an edge (R217, R220): its park begins when the hem is not PENDING, and it ends once what the park writes stands on the pages. -/
def pinStep (n : Nat) (p : Waiter × Nat × Option Nat) (s : State) : State :=
  let x := seqOf s n
  match p.2.2 with
  | some target => if parkDone s n target then pinNow n p.2.1 p.1 s else keepPin n p (if x.pending.isNone then parkSeq n s else s)
  | none =>
    if x.pending.isSome then keepPin n p s
    else if parkDone s n x.committed then pinNow n p.2.1 p.1 s
    else keepPin n (p.1, p.2.1, some x.committed) (parkSeq n s)

/-- Answer the pins of a sequence whose park has completed (R220, R341). -/
def pinsParked (n : Nat) (s : State) : State :=
  let x := seqOf s n
  x.pin.foldl (fun s p => match p.2.2 with
    | some target => if parkDone s n target then pinNow n p.2.1 p.1 s else keepPin n p s
    | none => keepPin n p s) (setSeq n { x with pin := [] } s)

/-- HEM_WRITE_COMPLETE (R216, R220): the oldest write in progress completes; F advances at the next edge, and a prefix.pin whose park it completes is answered. -/
def execHemWriteComplete (s : State) : Host.Outcome State Fault Refusal :=
  match s.kvJobs.find? (fun j => j.started && !j.done) with
  | none => .next s
  | some j =>
    let s := { s with kvJobs := s.kvJobs.map (fun k => if k = j then { k with done := true } else k) }
    .next (if (seqOf s j.seq).gen = j.gen then pinsParked j.seq s else s)

/-- The pins of an edge, in ascending sequence number. -/
def settlePins (s : State) : State :=
  let ns := (s.seqs.filter (fun e => !e.2.pin.isEmpty)).map (fun e => e.1)
  ns.foldl (fun s n =>
    let x := seqOf s n
    let s := setSeq n { x with pin := [] } s
    if x.state = .ending then x.pin.foldl (fun s p => settle p.1 0x0207 s) s
    else x.pin.foldl (fun s p => pinStep n p s) s) s

end Sys2Proof.Machine
end

