-- ==== Sys2Proof/Machine/Gate.lean ====
section
/-! DEFINITION. The gate engine (R134 to R136, R141) and the expansion of expert pieces (R138, R139). -/

namespace Sys2Proof.Machine

/-- One expert's logit as the gate engine ranks it: a NaN or poisoned logit is none (R134). -/
abbrev Logit := Option F32

/-- Does expert a with logit x rank ahead of expert b with logit y (R134)? -/
def ranksAhead (a : Nat) (x : Logit) (b : Nat) (y : Logit) : Bool :=
  match x, y with
  | none, none => decide (a < b)
  | none, some _ => false
  | some _, none => true
  | some u, some v => if fLt v u then true else if fLt u v then false else decide (a < b)

/-- Insert an expert in rank order. -/
def rankInsert (x : Nat × Logit) : List (Nat × Logit) → List (Nat × Logit)
  | [] => [x]
  | y :: ys => if ranksAhead x.1 x.2 y.1 y.2 then x :: y :: ys else y :: rankInsert x ys

/-- Experts in rank order (R134). -/
def ranked (xs : List Logit) : List (Nat × Logit) :=
  (List.range xs.length).foldl (fun acc e => rankInsert (e, xs.getD e none) acc) []

/-- The first k experts, in ascending expert number. -/
def selectExperts (k : Nat) (xs : List Logit) : List Nat := sortBy (fun e => e) (((ranked xs).take k).map (fun e => e.1))

/-- The largest logit of a set that is no NaN; none when all are. -/
def largestLogit (xs : List Logit) : Option F32 :=
  xs.foldl (fun m x => match m, x with
    | none, y => y
    | some a, none => some a
    | some a, some b => some (if fLt a b then b else a)) none

/-- exp(x − m) with a NaN logit counting as −infinity (R135). -/
def expOver (m : F32) (x : Logit) : F32 := fExp (fSub (x.getD negInf) m)

/-- Sums in ascending expert number (R135). -/
def sumF (xs : List F32) : F32 :=
  match xs with
  | [] => 0#32
  | y :: ys => ys.foldl fAdd y

/-- The weights of the selected experts (R135). -/
def gateWeights (mode k : Nat) (xs : List Logit) (sel : List Nat) : List F32 :=
  let of (e : Nat) : Logit := xs.getD e none
  match mode with
  | 0 =>
    match largestLogit (sel.map of) with
    | none => sel.map (fun _ => fDiv one32 (fOfInt k))
    | some m =>
      let d := sumF (sel.map (fun e => expOver m (of e)))
      if fIsZero d then sel.map (fun _ => fDiv one32 (fOfInt k)) else sel.map (fun e => fDiv (expOver m (of e)) d)
  | 1 =>
    match largestLogit xs with
    | none => sel.map (fun _ => 0#32)
    | some m =>
      let d := sumF (xs.map (expOver m))
      if fIsZero d then sel.map (fun _ => 0#32) else sel.map (fun e => fDiv (expOver m (of e)) d)
  | 2 => sel.map (fun e => match of e with
    | none => 0#32
    | some x => fDiv one32 (fAdd one32 (fExp (fNeg x))))
  | _ => sel.map (fun _ => one32)

/-- What the gate engine makes of one token. -/
structure TokenRoute where
  routed : Routed
  nans : Nat
  deriving DecidableEq, Repr

/-- Route one token (R134, R135): logits and which of them are poisoned. -/
def routeToken (home mode k : Nat) (logits : List (F32 × Bool)) : TokenRoute :=
  let xs : List Logit := logits.map (fun l => if l.2 || fIsNaN l.1 then none else some l.1)
  let sel := selectExperts k xs
  ⟨⟨home, sel.zip (gateWeights mode k xs sel), logits.any (fun l => l.2)⟩, (xs.filter (fun x => x.isNone)).length⟩

/-- The router logits of a home lane: the E values of its last query row (log entry 22). -/
def tokenLogits (s : State) (t : Step) (o : OpRun) (e lg lane : Nat) : List (F32 × Bool) :=
  let x := slotOf s (slotFor t lg (natBits o.bits 139 128))
  let ln := sget (fun _ => SlotLane.none) x.lanes lane
  let base := (max 1 x.rows - 1) * x.dim
  (List.range e).map (fun k => (codeF32 x.fmt (ln.codes.getD (base + k) 0), ln.poison.contains (base + k)))

/-- The home keys of a step's tokens in ascending order (R136). -/
def homeKeys (t : Step) : List Nat :=
  ((stepGroups t).map (fun g => (lanesOf g.2).map (fun l => g.1 * 16 + l))).flatten

/-- The dispatch groups of a routing pass (R136): experts in ascending order, each list cut into groups of w; first is the first lane-group entry they take. -/
def dispatchGroups (gate w first : Nat) (e : Nat) (routes : List Routed) : List Dispatch :=
  ((List.range e).foldl (fun (acc : Nat × List Dispatch) k =>
    let homes := (routes.filter (fun r => r.experts.any (fun y => y.1 == k))).map (fun r => r.home)
    let cuts := chop w homes.length homes
    (acc.1 + cuts.length, acc.2 ++ (List.range cuts.length).map (fun i => ⟨gate, k, acc.1 + i, cuts.getD i []⟩))) (first, [])).2

/-- The sequence on a home key. -/
def seqAt (t : Step) (home : Nat) : Option Nat := (groupLanes t (home / 16 - t.entry.lgBase)).getD (home % 16) none

/-- The gate engine routes every token of a gate operation (R134 to R136, R139): the dispatch groups and the load counts are written, and the operation closes. -/
def routeTokens (t : Step) (i : Nat) (o : OpRun) (rest : List (Nat × Nat)) (s : State) : State :=
  let m := modelOf s t.model
  let r := imageOf s m
  let e := layerE r o.layer
  let k := layerK r o.layer
  let tokens := (homeKeys t).map (fun h => routeToken h (layerGate r o.layer) k (tokenLogits s t o e (h / 16) (h % 16)))
  let routes := tokens.map (fun x => x.routed)
  let first := t.entry.lgBase + t.entry.groups.length + t.dispatch.length
  let ds := dispatchGroups i (layerLanes r o.layer) first e routes
  let counts := (List.range 256).map (fun x => (routes.filter (fun q => q.experts.any (fun y => y.1 == x))).length)
  let s := bump 0x600008 tokens.length { s with gateQueue := rest }
  let s := bump 0x600010 (tokens.map (fun x => x.nans)).sum s
  let s := bump 0x600018 (routes.filter (fun q => q.poison)).length s
  let s := (List.range 256).foldl (fun s x => wr (0x601000 + 8 * x) (BitVec.ofNat 64 (counts.getD x 0)) s) s
  let tab := natBits o.bits 351 304
  let s := if tab = 0 then s else storeBytes false (tenantCtx s m.owner) (m.base + tab) (counts.map (leBytes 4)).flatten false s
  let s := ds.foldl (fun s d => { s with laneGroups := sput (fun _ => []) s.laneGroups d.lgroup (d.homes.map (seqAt t)) }) s
  let u := { t with routed := t.routed ++ routes.map (fun q => (i, q)), dispatch := t.dispatch ++ ds }
  closeOp u i o (setStep u s)

/-- GATE_ROUTING (R17, R130, R134 to R136, R139, R141): the gate engine serves the oldest waiting request when it is this step's: it routes every token, writes the dispatch groups and the load counts, and the gate operation closes. -/
def execGateRouting (step : Nat) (s : State) : Host.Outcome State Fault Refusal :=
  let s := atCompletion s
  match s.gateQueue, stepOf s step with
  | (n, i) :: rest, some t =>
    if n ≠ step ∨ (modelOf s t.model).faulted then .next s
    else match t.ops[i]? with
      | none => .next { s with gateQueue := rest }
      | some o => .next (routeTokens t i o rest s)
  | _, _ => .next s

/-- The union of the members' block lists (R139): none if any member has no list. -/
def unionLists (s : State) (t : Step) (hslot : Nat) (homes : List Nat) : Option (List Nat) :=
  homes.foldl (fun acc h =>
    let a := (slotOf s (slotFor t (h / 16) hslot)).list
    match acc with
    | none => none
    | some l => if a = 0 then none else some ((List.range (peekAs s (deviceCtx s) a 4)).foldl (fun l i => insNat l (peekAs s (deviceCtx s) (a + 8 + 4 * i) 4 % 2 ^ 18)) l)) (some [])

/-- The gate engine writes a dispatch group's block list (R122, R139): where the plan entry lists the dispatch slot, else in a block the firmware allots; with no room the group has no list, and every block counts as present (log entry 80). -/
def writeUnion (t : Step) (dslot lg dim width n : Nat) (cols : List Nat) (s : State) : Step × State :=
  let bytes := leBytes 4 cols.length ++ leBytes 1 width ++ leBytes 3 0 ++ (cols.map (leBytes 4)).flatten
  let put (addr : Nat) (s : State) : State := setSlot n { slotOf s n with list := addr } (storeBytes false (deviceCtx s) addr bytes false s)
  match t.entry.listed.find? (fun z => z.slot == dslot), allotScratch bytes.length s with
  | some z, _ => (t, put (z.addr + (lg - t.entry.lgBase) * listStride dim z.fmt) s)
  | none, some z => ({ t with gathered := t.gathered ++ [z.1] }, put z.1 z.2)
  | none, none => (t, s)

/-- Gather the dispatch groups' activations for the first operation of an expert, and their block lists (R139). -/
def gatherDispatch (t : Step) (gate : Nat) (g : OpRun) (s : State) : Step × State :=
  let dslot := natBits g.bits 151 140
  let hslot := natBits g.bits 163 152
  (t.dispatch.filter (fun d => d.gateOp == gate)).foldl (fun (u : Step × State) d =>
    let s := u.2
    let src (l : Nat) : Slot := slotOf s (slotFor t (d.homes.getD l 0 / 16) hslot)
    let x0 := src 0
    let lanes := (List.range d.homes.length).foldl (fun m l =>
      sput (fun _ => SlotLane.none) m l (sget (fun _ => SlotLane.none) (src l).lanes (d.homes.getD l 0 % 16))) ([] : Sparse SlotLane)
    let n := slotFor t d.lgroup dslot
    let s' := setSlot n ⟨x0.fmt, x0.dim, x0.rows, x0.dyn, lanes, 0⟩ s
    match unionLists s t hslot d.homes with
    | some cols => writeUnion u.1 dslot d.lgroup x0.dim (getByte s (x0.list + 4)).toNat n cols s'
    | none => (u.1, s')) (t, s)

/-- An expert operation is expanded, ready bits set (R128, R138): its pieces or commands are dealt, over the gathered tokens where its input is the dispatch slot. -/
def expandExpert (t : Step) (i : Nat) (o : OpRun) (s : State) : State :=
  let gate := gateOf t i
  let u := match t.ops[gate]? with
    | some g => if (entInputs o.bits).contains (natBits g.bits 151 140) then gatherDispatch t gate g s else (t, s)
    | none => (t, s)
  let s := setStep u.1 u.2
  let bad := expertFaults s u.1 i o
  if !bad.isEmpty then expandFaults u.1 bad s
  else setStep { u.1 with ops := u.1.ops.set i { o with expanded := true } } (expandOp true u.1 i s)

/-- EXPERT_PIECE_EXPANSION (R138, R139): the plan engine expands the next released expert operation of a step, ready bits set. -/
def execExpertPieceExpansion (step : Nat) (s : State) : Host.Outcome State Fault Refusal :=
  match stepOf s step with
  | none => .next s
  | some t =>
    match (List.range t.ops.length).find? (fun i => (t.ops[i]?.map (fun o => o.kind != 2 && entExpert o.bits && o.released && !o.expanded)).getD false) with
    | none => .next s
    | some i =>
      match t.ops[i]? with
      | none => .next s
      | some o => if (modelOf s t.model).faulted then .next s else .next (expandExpert t i o s)

end Sys2Proof.Machine
end

