-- ==== Sys2Proof/Machine/Monitor.lean ====
section
/-! DEFINITION. Monitors and the monitor family of commands (R42, R390, R407, R444 to R447). -/

namespace Sys2Proof.Machine

/-- MON_CFG of a monitor. -/
def monCfg (m : Nat) : Nat := 0x701000 + 0x100 * m
/-- A monitor's capture beyond its registers. -/
def monOf (s : State) (m : Nat) : MonExtra := sget (fun _ => MonExtra.none) s.monitors m
/-- Replace it. -/
def setMon (m : Nat) (x : MonExtra) (s : State) : State := { s with monitors := sput (fun _ => MonExtra.none) s.monitors m x }

/-- Clear a monitor's capture: MON_FLAGS, MIN, MAX, SAMPLES, SUM and the bins (R444, R446). -/
def clearCapture (m : Nat) (s : State) : State :=
  let s := (List.range 21).foldl (fun s k => wr (monCfg m + 0x18 + 8 * k) (regReset (monCfg m + 0x18 + 8 * k)) s) s
  setMon m MonExtra.none s

/-- The value a monitor's source gives (R444); event is the value an event or an ended tick brings, for sources 2, 3 and 7. -/
def sourceValue (s : State) (m event : Nat) : Option Int :=
  let src := rdF s (monCfg m) 55 48
  let index := rdF s (monCfg m) 47 32
  let off := rdF s (monCfg m) 31 16
  if src = 1 then some (toSigned 64 (regsRead s false index (8 * off)).toNat)
  else if src = 2 ∨ src = 3 ∨ src = 7 then some (toSigned 64 event)
  else if src = 4 then some (if index < 48 then (getBits (queueWord s index) 12 0 : Int) else 0)
  else if src = 5 then some (if index < 66 then (heldSlots s index .control : Int) else 0)
  else if src = 6 then some (if index < 16 then filt s index else 0)
  else none

/-- The bin of a sample (R445); LINEAR with a WIDTH of 0, which only a register write leaves, has no stated bin and takes a free one. -/
def binOf (s : State) (m : Nat) (v : Int) : Nat × State :=
  if rdB s (monCfg m) 1 then
    let w := (rd s (monCfg m + 0x10)).toNat
    if w = 0 then
      let f := fresh s
      (f.1.toNat % 32, f.2)
    else
      let q := (v - toSigned 64 (rd s (monCfg m + 8)).toNat) / (w : Int)
      ((max 0 (min 31 q)).toNat, s)
  else if v ≤ 0 then (0, s)
  else (min 31 (Nat.log2 v.toNat + 1), s)

/-- Count in a histogram bin, which saturates alone (R447). -/
def countBin (m b : Nat) (s : State) : State :=
  let a := monCfg m + 0x40 + 8 * (b / 2)
  let lo := 32 * (b % 2)
  let n := min (2 ^ 32 - 1) (rdF s a (lo + 31) lo + 1)
  let s := wrF a (lo + 31) lo n s
  if n = 2 ^ 32 - 1 then wrB (monCfg m + 0x18) 0 true s else s

/-- Count a sample and add it to the sum, which saturate (R447). -/
def addSample (m : Nat) (v : Int) (s : State) : State :=
  let n := min max64 ((rd s (monCfg m + 0x30)).toNat + 1)
  let s := wr (monCfg m + 0x30) (BitVec.ofNat 64 n) s
  let s := if n = max64 then wrB (monCfg m + 0x18) 1 true s else s
  let lim : Int := 2 ^ 63 - 1
  let t := max (-lim) (min lim (toSigned 64 (rd s (monCfg m + 0x38)).toNat + v))
  let s := wr (monCfg m + 0x38) (BitVec.ofInt 64 t) s
  if t = lim ∨ t = -lim then wrB (monCfg m + 0x18) 2 true s else s

/-- Take a sample into the capture (R445, R446). -/
def capture (m : Nat) (v : Int) (s : State) : State :=
  let first := decide ((rd s (monCfg m + 0x30)).toNat = 0)
  let lo := toSigned 64 (rd s (monCfg m + 0x20)).toNat
  let hi := toSigned 64 (rd s (monCfg m + 0x28)).toNat
  let x := monOf s m
  let newMax := first || decide (hi < v)
  let s := setMon m { x with first := if first then s.tape else x.first, last := s.tape, maxTape := if newMax then s.tape else x.maxTape } s
  let s := wr (monCfg m + 0x28) (BitVec.ofInt 64 (max hi v)) (wr (monCfg m + 0x20) (BitVec.ofInt 64 (min lo v)) s)
  let b := binOf s m v
  countBin m b.1 (addSample m v b.2)

/-- MONITOR_SAMPLE (R444, R445, R447): an enabled monitor samples its source; with DELTA the first reading only sets the base. -/
def execMonitorSample (m event : Nat) (s : State) : Host.Outcome State Fault Refusal :=
  if 32 ≤ m ∨ !(rdB s (monCfg m) 63) then .next s
  else match sourceValue s m event with
    | none => .next s
    | some v =>
      if rdB s (monCfg m) 0 then
        let x := monOf s m
        let t := setMon m { x with prev := some v } s
        match x.prev with
        | none => .next t
        | some p => .next (capture m (toSigned 64 (ofSigned 64 (v - p))) t)
      else .next (capture m v s)

/-- MON_CFG_WRITE (R444, R445): a write of MON_CFG sets its fields and clears the capture. -/
def execMonCfgWrite (monitor : Nat) (value : Word) (s : State) : Host.Outcome State Fault Refusal :=
  if 32 ≤ monitor then .next s else .next (clearCapture monitor (writeFields (monCfg monitor) value s))

/-- MON_CFG as monitor.set's payload gives it. -/
def monWord (r : Req) : Word :=
  let fl := pay r 6 1
  fieldsWord [(natBits fl 7 7, 63), (pay r 1 1, 48), (pay r 2 2, 32), (pay r 4 2, 16), (pay r 7 1, 8), (natBits fl 1 1, 1), (natBits fl 0 0, 0)]

/-- MONITOR_SET (R440, R444). -/
def execMonitorSet (r : Req) (s : State) : Host.Outcome State Fault Refusal :=
  control ⟨0x0C01, [1], false⟩ (exactly r 32) (fun s =>
    let m := pay r 0 1
    if m = 0xFF then
      if 60000 < pay r 8 2 then .refuse 0x0201 8 60000 else .done [] (wrF 0x700000 47 32 (pay r 8 2) s)
    else if 31 < m then .refuse 0x0201 0 31
    else if 7 < pay r 1 1 then .refuse 0x0201 1 7
    else if natBits (pay r 6 1) 1 1 = 1 ∧ pay r 16 8 = 0 then .refuse 0x0201 16 1
    else .done [] (clearCapture m (wr (monCfg m + 0x10) (BitVec.ofNat 64 (pay r 16 8)) (wr (monCfg m + 8) (BitVec.ofNat 64 (pay r 8 8)) (wr (monCfg m) (monWord r) s))))) r s

/-- The 256 bytes of monitor.read (R446). -/
def monitorBytes (s : State) (m : Nat) : List Byte :=
  let reg (k : Nat) : List Byte := leBytes 8 (rd s (monCfg m + k)).toNat
  let x := monOf s m
  reg 0x20 ++ reg 0x28 ++ reg 0x30 ++ reg 0x38 ++ leBytes 8 x.first ++ leBytes 8 x.last ++ leBytes 8 x.maxTape
    ++ leBytes 1 (rdF s (monCfg m + 0x18) 2 0) ++ zeros 7 ++ ((List.range 16).map (fun j => reg (0x40 + 8 * j))).flatten ++ zeros 64

/-- MONITOR_READ (R446). -/
def execMonitorRead (r : Req) (s : State) : Host.Outcome State Fault Refusal :=
  control ⟨0x0C02, [1], false⟩ (exactly r 1) (fun s =>
    if 31 < pay r 0 1 then .refuse 0x0201 0 31 else .done (monitorBytes s (pay r 0 1)) s) r s

/-- Every counter-control register of the blocks that satisfy a test. -/
def ctrlsIn (p : Nat → Bool) : List Nat :=
  (ctrGroups.map (fun g => ((List.range g.copies).map (fun i => g.ctrl + i * g.stride)).filter (fun c => p (blockOf c)))).flatten

/-- MONITOR_CLEAR (R341, R447, R450): every CLEAR of the blocks named; captures stay. -/
def execMonitorClear (r : Req) (s : State) : Host.Outcome State Fault Refusal :=
  control ⟨0x0C03, [1], false⟩ (exactly r 2) (fun s =>
    let scope := pay r 0 1
    let b := pay r 1 1
    if 1 < scope then .refuse 0x0201 0 1
    else .done [] ((ctrlsIn (fun k => scope == 0 || k == b)).foldl (fun s c => clearGroup c s) s)) r s

/-- Read consecutive registers of a block, in order: a read of TAPE_NS latches TAPE_FRAC for the next. -/
def readRun (maintenance : Bool) (b off : Nat) : Nat → State → List Byte × State
  | 0, s => ([], s)
  | n + 1, s =>
    let w := regsRead s maintenance b off
    let z := readRun maintenance b (off + 8) n (if b = 2 then latchFrac (b * blockSize + off) s else s)
    (leBytes 8 w.toNat ++ z.1, z.2)

/-- MONITOR_REGS (R8, R390, R407). -/
def execMonitorRegs (r : Req) (s : State) : Host.Outcome State Fault Refusal :=
  control ⟨0x0C04, [1, 2], false⟩ (exactly r 8) (fun s =>
    let n := pay r 1 1
    if n < 1 ∨ 64 < n then .refuse 0x0201 1 (if n < 1 then 1 else 64)
    else
      let z := readRun (decide (roleIn r = 2)) (pay r 0 1) (pay r 4 4) n s
      .done z.1 z.2) r s

end Sys2Proof.Machine
end

