-- ==== Sys2Proof/Machine/Registers.lean ====
section
/-! DEFINITION. Writes of registers, and the TAP (R7 to R9, R14, R251, R390, R450, R464, R469). -/

namespace Sys2Proof.Machine

/-- TICK_PERIOD_NEXT_WRITE (R14): ARM with a value that is no period from 50,000 to 4,000,000 in whole thousands leaves ARM at 0. -/
def execTickPeriodNextWrite (value : Word) (s : State) : Host.Outcome State Fault Refusal :=
  let v := getBits value 21 0
  let good := decide (50000 ≤ v) && decide (v ≤ 4000000) && decide (v % 1000 = 0)
  .next (wrB 0x100008 63 (getBit value 63 && good) (wrF 0x100008 21 0 v s))

/-- ERRLOG_HEAD_WRITE (R436, R450): the entries before HEAD are free. -/
def execErrlogHeadWrite (value : Word) (s : State) : Host.Outcome State Fault Refusal := .next (wrF 0x700010 11 0 (getBits value 11 0) s)

/-- BUCKET_LEVEL_WRITE (R235, R251). -/
def execBucketLevelWrite (tenant : Nat) (value : Word) (s : State) : Host.Outcome State Fault Refusal :=
  if 64 ≤ tenant then .next s else .next (wrF (0x501000 + 0x10 * tenant) 39 0 (getBits value 39 0) s)

/-- Is the write of a register a command of its own? -/
def ownCommand (a : Nat) : Bool :=
  regionRegs.contains a || (groupOfCtrl a).isSome || [0x50018, 0x100008, 0x100020, 0x700010, 0xC00008].contains a
    || (match regAt a with
      | some d => ["CH_MARGIN_CTRL", "CH_CTRL", "CH_TAIL", "KR_TX_CTRL", "KR_TX_TAIL", "KR_RX_CTRL", "KR_RX_HEAD", "BUCKET_LEVEL", "MON_CFG", "MBOX_CFG"].contains d.name
      | none => false)

/-- A write of PLAN_CTRL alone (R18, R25): the entries of the list below the PLAN_COMMIT written stand, and SEAL seals it. The list's entries come by PLAN_COMMIT_WRITE, so PLAN_COMMIT cannot pass them. -/
def writePlanCtrl (value : Word) (s : State) : State :=
  let u := freezeDue s
  let u := commitEntries (u.plan.take (getBits value 15 0)) u
  if getBit value 63 then sealPlan u else u

/-- A write of a register of an array that is a command of its own: i and j are its places in the array. -/
def writeArray (name : String) (i j addr : Nat) (value : Word) (s : State) : Host.Outcome State Fault Refusal :=
  match name with
  | "CH_MARGIN_CTRL" => execChMarginStart i j value s
  | "CH_CTRL" => execChCtrlEnable (56 + i) value s
  | "CH_TAIL" => execChTailWrite (56 + i) value s
  | "KR_TX_CTRL" => execKrTxCtrlEnable i value s
  | "KR_TX_TAIL" => execKrTxTailWrite i value s
  | "KR_RX_CTRL" => execKrRxCtrlEnable i value s
  | "KR_RX_HEAD" => execKrRxHeadWrite i value s
  | "BUCKET_LEVEL" => execBucketLevelWrite i value s
  | "MON_CFG" => execMonCfgWrite i value s
  | "MBOX_CFG" => execMboxRelease i value s
  | _ => .next (writeFields addr value s)

/-- A write of a register that is a command of its own acts as that command (R8: a WO field acts as its Meaning defines). -/
def writeOwn (addr : Nat) (value : Word) (s : State) : Host.Outcome State Fault Refusal :=
  if regionRegs.contains addr then execRegionEnableWrite addr value s
  else if (groupOfCtrl addr).isSome then execCounterCtrlClear addr value s
  else match addr with
    | 0x50018 => execMemRetrainStart value s
    | 0x100008 => execTickPeriodNextWrite value s
    | 0x100020 => .next (writePlanCtrl value s)
    | 0x700010 => execErrlogHeadWrite value s
    | 0xC00008 => execThWdogPet value s
    | _ => match regAt addr with
      | none => .next s
      | some d => writeArray d.name ((addr - d.off) / d.s1) (((addr - d.off) % d.s1) / d.s2) addr value s

/-- A write of a register without behaviour of its own (R7, R8, R28, R35, R464): its fields act under their access codes; a new margin moves the budget; NEXT_MHZ remembers when it was written. -/
def writePlain (addr : Nat) (value : Word) (s : State) : State :=
  let s := writeFields addr value s
  let s := if addr = 0x100018 then marginChanged s else s
  if addr = 0x800008 then { s with power := { s.power with nextAt := s.tape } } else s

/-- REGISTER_WRITE (R7 to R9, R28, R35, R464): a write of any register. -/
def execRegisterWrite (addr : Nat) (value : Word) (s : State) : Host.Outcome State Fault Refusal :=
  if ownCommand addr then writeOwn addr value s else .next (writePlain addr value s)

/-- What the TAP acts as (R469): EXTEST and its kin only while RESET_N is low, a private instruction only under DEBUG_EN; else BYPASS. -/
def tapActs (s : State) : Nat :=
  let op := s.pins.tap
  if 3 ≤ op ∧ op ≤ 5 ∧ !s.pins.resetLow then 0 else if 6 ≤ op ∧ !(rdB s 0x900000 62) then 0 else op

/-- TAP_INSTRUCTION (R469): an instruction is shifted in; what it acts as is tapActs. -/
def execTapInstruction (op : Nat) (s : State) : Host.Outcome State Fault Refusal := .next { s with pins := { s.pins with tap := op } }

/-- IDCODE (R469). -/
def idcode : Nat := 0x124485AF

end Sys2Proof.Machine
end

