-- ==== Sys2Proof/Machine/Tick.lean ====
section
/-! DEFINITION. The tick edge and everything that takes effect at one, and the end of the update pause (R10, R14, R16, R18, R20, R23, R35, R37, R39, R40, R116, R127, R132, R157, R173, R216, R217, R220, R225, R235, R236, R249, R263, R294, R347, R354, R372, R385, R386, R389, R412, R420, R440). -/

namespace Sys2Proof.Machine

/-- The notices that carry a count for the tick that ends (R127, R157, R294). They go out before the index moves: each tells the TICK_INDEX at its cause. -/
def tickNotices (s : State) : State :=
  let s := s.tallies.foldl (fun s x =>
    let body := if x.ntype = 8 then leBytes 1 x.kind ++ leBytes 1 x.node ++ leBytes 2 x.slot ++ leBytes 4 x.piece ++ leBytes 4 x.count
      else leBytes 1 x.node ++ leBytes 1 x.kind ++ leBytes 2 0 ++ leBytes 4 x.count
    notifyAt x.ntype x.source [] 0xFFFF 0xFFFF x.cause body s) s
  let s := s.breaches.foldl (fun s e =>
    let o := e.2.owner
    notifyAt 3 0 (if o < 64 then [o] else []) (if o < 64 then o else 0xFFFF) e.1 e.2.cause (leBytes 4 e.2.count) s) s
  { s with tallies := [], breaches := [], noticed := [] }

/-- A period armed takes effect at an edge whose tape is a multiple of it (R14); in a partition only the partition's does (R15, R16, R354). -/
def changePeriod (s : State) : State :=
  let p := rdF s 0x100008 21 0
  if rdB s 0x100008 63 && decide (0 < p) && decide (s.tape % p = 0) && (!(isMember s) || decide (p = s.fabric.period)) then
    redivideAll (wrB 0x100008 63 false (wrF 0x100000 21 0 p s))
  else s

/-- Refill every bucket (R235). -/
def refillBuckets (s : State) : State :=
  (List.range 64).foldl (fun s t => setBucket t (min (rdF s (bucketCfg t) 54 24 : Int) (bucketLevel s t + rdF s (bucketCfg t) 23 0)) s) s

/-- A model at an edge: the candidates of the steps that committed become its carried scales (R173), and settings that were ordered come into force (R160). -/
def edgeModel (x : Model) : Model :=
  let x := { x with scales := x.candidates.foldl (fun m (c : Nat × F32) => sinsert m c.1 c.2) x.scales, candidates := [] }
  match x.scaleNext with
  | none => x
  | some z => { x with dynamic := z.1.getD x.dynamic, clipShift := z.2.1.getD x.clipShift, headroom := z.2.2.getD x.headroom, scaleNext := none }

/-- Every model takes what waited for the edge (R160, R173). -/
def takeCandidates (s : State) : State := { s with models := s.models.map (fun e => (e.1, edgeModel e.2)) }

/-- Deferred pages return to the free list once no step is open that an edge at or before their tag admitted (R225). -/
def returnPages (s : State) : State :=
  let held (tag : Nat) : Bool := s.steps.any (fun t => serialAtLeast 64 tag t.edge)
  let back := s.deferred.filter (fun d => !(held d.2))
  { s with freePages := back.foldl (fun l d => freePut l d.1) s.freePages, deferred := s.deferred.filter (fun d => held d.2) }

/-- What keeps this edge's tick from admitting (R20): stretched work, a repartition, a join step, twelve isolated panels, sleep entry, the update pause. -/
def admissionStops (continuation : Bool) (s : State) : Bool :=
  continuation || s.repart || s.fabric.stepping || decide ((activePanels s).length ≤ 36) || decide (s.sleepTo ≠ 0)

/-- TICK_STATUS and the budget of the tick that begins (R27, R37, R40). -/
def tickStatus (s : State) : State :=
  let stretched := rdB s 0x100028 3
  let retrain := rdB s 0x50018 62 && s.retrainDue.contains (rdF s 0x50018 8 0) && !stretched
  showBudget (wr 0x100028 (BitVec.ofNat 64 ((if stretched then 48 else 0) + (if retrain then 2 else 0))) s)

/-- Apply a slice split (R262, R263): every slice shows it and REPART; converted cache lines are gone; what the scratchpad adds reads as zeros, what it loses is no memory. -/
def repartition (s : State) : State :=
  match s.slicePending with
  | none => { s with repart := false }
  | some k =>
    let lo := scratchBase + scratchSize (min k (scratchMiB s))
    let hi := scratchBase + scratchSize (max k (scratchMiB s))
    let keep (a : Nat) : Bool := decide (a < lo) || decide (hi ≤ a)
    let cache := if scratchMiB s < k then [] else s.cache
    let s := { s with slicePending := none, repart := true, cache := cache, mem := s.mem.filter (fun c => keep c.1), poison := s.poison.filter keep }
    let s := (List.range 24).foldl (fun s n => wr (sliceReg n 0) (BitVec.ofNat 64 (2 ^ 63 + (16 - k) * 16 + k)) s) s
    wrB 0x50000 63 false s

/-- The tick of a repartition ends (R263). -/
def endRepart (s : State) : State :=
  if s.repart then (List.range 24).foldl (fun s n => wrB (sliceReg n 0) 63 false s) { s with repart := false } else s

/-- Cancels of one sequence at an edge (R249, R250). The pins it overtakes are answered first (R337; log entry 16). -/
def cancelAt (n : Nat) (s : State) : State :=
  let x := seqOf s n
  if x.cancel.isEmpty || x.pending.isSome then s
  else
    let s := x.pin.foldl (fun s p => settle p.1 0x0207 s) s
    let clear (s : State) : State := setSeq n { seqOf s n with cancel := [], cancelPending := false, pin := [] } s
    if x.state = .ending then settleAll x.cancel (if x.endReason ≤ 5 then 0x0402 else x.endStatus) (clear s)
    else settleAll x.cancel 0 (clear (endSeq n 6 0 0 s))

/-- Every cancel that takes effect, in ascending sequence number, and those whose sequence has been freed. -/
def settleCancels (s : State) : State :=
  let late := s.lateCancels
  let s := late.foldl (fun s c => settle c.1 c.2 s) { s with lateCancels := [] }
  (s.seqs.map (fun e => e.1)).foldl (fun s n => cancelAt n s) s

/-- Take a tenant's lanes out of a step (R389): a step of the tenant alone ends, another is issued again without them. -/
def clearTenant (t num : Nat) (s : State) : State :=
  match stepOf s num with
  | none => s
  | some u =>
    let mine (q : StepSeq) : Bool := !q.cleared && (seqOf s q.seq).tenant == t
    if !(u.seqs.any mine) then s
    else if (laneSeqs u).all mine then endStep u s
    else
      let v := { u with seqs := u.seqs.map (fun q => if mine q then { q with cleared := true } else q) }
      let s := (u.seqs.filter mine).foldl (fun s q => dropEpoch q.seq num (rejectDrafts q s)) (setStep v s)
      rerunStep v s

/-- A tenant reset takes effect and is answered (R343, R389). -/
def resetTenant (t : Nat) (s : State) : State :=
  let x := tenantOf s t
  let s := (s.steps.map (fun u => u.num)).foldl (fun s n => clearTenant t n s) s
  let mine := (s.seqs.filter (fun e => e.2.tenant == t && decide (e.2.state ≠ .free))).map (fun e => e.1)
  let s := mine.foldl (fun s n => endSeq n 7 0x0104 0 s) s
  let recs := (s.prefixes.filter (fun e => e.2.live && e.2.tenant == t)).map (fun e => e.1)
  let s := abortTenant t (recs.foldl (fun s i => unpin i s) s)
  settleAll x.resetting 0 (setTenant t { tenantOf s t with resetting := [] } s)

/-- End every sequence and step of a model with a status (R132, R347). -/
def endModelWork (m status : Nat) (s : State) : State :=
  let s := (s.steps.filter (fun t => t.model == m)).foldl (fun s t => match stepOf s t.num with
    | some u => failStep u status s
    | none => s) s
  (seqsOfModel s m).foldl (fun s n => endSeq n 7 status 0 s) s

/-- model.unload with FORCE takes effect (R347, R442). -/
def unloadNow (m : Nat) (s : State) : State :=
  freeModel m (endModelWork m 0x0405 s)

/-- A quarantine whose list is empty lifts (R440). -/
def liftQuarantine (m : Nat) (s : State) : State :=
  let x := modelOf s m
  let who := if x.pause.isSome then tenantsOnModel s m else ownerRoute s m
  notify 18 54 who (if x.owner < 64 then x.owner else 0xFFFF) m (leBytes 1 0) (setModel m { x with quarantined := false, pause := none, lift := false } s)

/-- What waits for the edge at each model: an unload, a fault's ends, a lift. -/
def modelEdge (m : Nat) (s : State) : State :=
  let x := modelOf s m
  if !x.live then s
  else if x.unload ≠ [] then unloadNow m s
  else
    let s := if x.faulted then endModelWork m 0x0401 s else s
    if x.lift && x.quar.isEmpty && x.quarantined then liftQuarantine m s else s

/-- An update's pause begins, with its notice (R385 steps 2 and 3). -/
def beginPause (s : State) : State :=
  match s.update with
  | none => s
  | some u =>
    if u.paused then s
    else
      let live := (s.tenants.filter (fun e => e.2.live)).map (fun e => e.1)
      let s := notify 21 54 live 0xFFFF 0xFFFF (leBytes 1 0 ++ leBytes 3 0 ++ leBytes 4 (fwVersion s)) s
      wrF 8 63 61 5 { s with update := some { u with paused := true }, admits := false, frozen := true, skipped := true, core2 := false }

/-- The controller's load in the tick that ended, which the specification leaves to the firmware (log entry 2). -/
def showLoad (s : State) : State :=
  let f := fresh s
  let g := fresh f.2
  wrF 0x20 63 56 (f.1.toNat % 101) (wrF 0x20 55 48 (g.1.toNat % 101) g.2)

/-- The frequency policy; the budget of the tick is that of the frequency now in force (R10, R27, R412). -/
def policyEdge (s : State) : State := showBudget (powerEdge s)

/-- Tenants whose bucket fails the test at this edge while they have eligible sequences (R236). -/
def countEmpty (s : State) : State :=
  if !s.admits then s
  else
    let ts := ((s.seqs.filter (fun e => e.2.eligible)).map (fun e => e.2.tenant)).eraseDups
    bump 0x500040 (ts.filter (fun t => !(bucketPasses s t))).length s

/-- A sequence at the edge: eligible if its input stands pending, with the input it has then (R18, R232). -/
def edgeSeq (x : Seq) : Seq := { x with eligible := decide (x.state = .ready), ringAt := x.ringCount, draftsAt := x.drafts.length }

/-- The sequences eligible at the edge (R18). -/
def fixEligible (s : State) : State := { s with seqs := s.seqs.map (fun e => (e.1, edgeSeq e.2)) }

/-- The tape comes to the next edge (R351), the acknowledgements owed leaving on the way (R326); past the edges that a backward step repeats, none is left to repeat (R354). -/
def toEdge (s : State) : State :=
  { runTo (nextEdge s) s with tape := nextEdge s, frac := 0, fabric := { s.fabric with skipTo := if repeats s (nextEdge s) then s.fabric.skipTo else 0 } }

/-- TICK_INDEX at an edge (R16): an edge that a backward step repeats moves it not at all (R354). -/
def showIndex (s : State) : State := if repeats s s.tape then s else wr 0x100010 (BitVec.ofNat 64 (s.tape / period s)) s

/-- What stands for the tick that begins: nothing frozen, sealed or guarded, and the work that runs on from the tick before. -/
def beginTick (s : State) : State :=
  { s with edge := s.tape, frozen := false, sealed := false, guarded := false, skipped := false, retrained := false, stretchModels := [], admitted := Cost.zero, predicted := 0, worked := (unfinishedSteps s).foldl (fun l t => insNat l t.model) [], stepTenants := (unfinishedSteps s).map (fun t => (laneSeqs t).map (fun q => (seqOf s q.seq).tenant)) }

/-- What the hardware does at an edge: the tape, the energy of the tick that ended, the period, the index, the status, refills, scales, pages. -/
def edgeHardware (s : State) : State :=
  let s := tickNotices (energyEdge (toEdge s))
  let s := tickStatus (showIndex (endRepart (changePeriod s)))
  returnPages (settleWrites (takeCandidates (refillBuckets (beginTick s))))

/-- The first edge after a restart, at which the firmware writes SEAL: the run of missed ticks starts from 0 (R383). -/
def sealRun (s : State) : State :=
  if s.thimble.sealDue then { s with missedRun := 0, thimble := { s.thimble with sealDue := false } } else s

/-- What the firmware does at an edge while it runs: what waited for the edge takes effect, in this order (log entry 40). -/
def edgeFirmware (s : State) : State :=
  let s := settleCancels (sealRun s)
  let s := ((s.tenants.filter (fun e => !e.2.resetting.isEmpty)).map (fun e => e.1)).foldl (fun s t => resetTenant t s) s
  let s := (s.models.map (fun e => e.1)).foldl (fun s m => modelEdge m s) s
  let s := settlePins (parkForRoom s)
  scheduleRetrain (showLoad (redivideNow (repartition s)))

/-- A tape step that waits is taken in the tick of this edge (R354). -/
def armStep (s : State) : State := if s.fabric.stepDue then { s with fabric := { s.fabric with stepping := true } } else s

/-- Open the tick: what it admits, and the eligible set. -/
def openTick (s : State) : State :=
  let s := armStep s
  let s := { s with admits := !(admissionStops (rdB s 0x100028 4) s) }
  countEmpty (fixEligible s)

/-- A skipped edge admits nothing, plans nothing, holds no scheduled retrain and has no guard (R39, R40). -/
def skipEdge (s : State) : State := fixEligible (showBudget (wrB 0x100028 1 false { armStep s with admits := false, frozen := true, skipped := true, core2 := false }))

/-- Is the tick engine without power, clock or period? -/
def tickless (s : State) : Bool := s.pins.resetLow || s.pins.clockLost || decide (period s = 0)

/-- What the firmware and the plan engine do at an edge: a device that serves opens the tick; in a controller restart it opens without the firmware; else, in an update pause whatever the controller does (R386), and at an edge that a backward step repeats, the edge is skipped (R20, R39, R354, R383). -/
def edgeWork (s : State) : State :=
  if thState s = 4 ∨ repeats s s.tape then skipEdge s
  else if runState s = 4 then beginPause (openTick (edgeFirmware s))
  else if runState s = 6 ∧ !(inPause s) then openTick s
  else skipEdge s

/-- TICK_EDGE: the tape comes to the next edge. Asleep, the thimble's tape runs on, and the buckets of the tenants refill (R235). While the firmware does not serve, the edge is skipped; in a controller restart it passes without what the firmware does. -/
def execTickEdge (s : State) : Host.Outcome State Fault Refusal :=
  if tickless s then .next s
  else if asleep s || decide (thState s = 5) then .next (refillBuckets { s with tape := nextEdge s, frac := 0, fabric := { s.fabric with skipTo := 0 }, edge := nextEdge s, skipped := true, frozen := true, admits := false, core2 := false })
  else .next (edgeWork (policyEdge (edgeHardware s)))

/-- One clock of the 100 MHz reference with no command waiting (R351, R357; log entry 41): 10 ns of tape at the rate in force, the part below 2^-16 ns being carried to the next clock; an acknowledgement that is owed goes once it may (R326). In reset and without the clock the tape stands. -/
def idle (s : State) : State :=
  if s.pins.resetLow || s.pins.clockLost then s
  else
    let x := s.fabric.rest + s.fabric.rho
    let v := ((fineTape s : Int) + 655360 + x / 100000000).toNat % 2 ^ 80
    let s := runTo (v / 65536) s
    { s with tape := v / 65536, frac := v % 65536, fabric := { s.fabric with rest := x % 100000000 } }

/-- FIRMWARE_UPDATE_PAUSE_END (R385, R386, R399): running work has finished; the code is copied, measured and entered, and the pause ends. -/
def execFirmwareUpdatePauseEnd (s : State) : Host.Outcome State Fault Refusal :=
  match s.update with
  | none => .next s
  | some u =>
    if !u.paused ∨ runState s ≠ 5 ∨ !((unfinishedSteps s).isEmpty) then .next s
    else .next (takeUpdate u s)

end Sys2Proof.Machine
end

