-- ==== Sys2Proof/Machine/Vector.lean ====
section
/-! DEFINITION. The vector engine (R191 to R193, R203, R473): one meaning per instruction, and the program that runs them over every block of every lane in two phases. -/

namespace Sys2Proof.Machine

/-- The vector engine of a panel. -/
def vecOf (s : State) (p : Nat) : VecEngine := (panelOf s p).vec
/-- Replace the vector engine of a panel. -/
def setVec (p : Nat) (x : VecEngine) (s : State) : State := setPanel p { panelOf s p with vec := x } s

/-- Registers read +0 before anything is written to them (log entry 23). -/
def vZero : Nat → List F32 := fun _ => List.replicate 64 0#32
/-- Scalars read +0. -/
def sZero : Nat → F32 := fun _ => 0#32

/-- A vector register. -/
def vReg (x : VecEngine) (n : Nat) : List F32 := sget vZero x.v n
/-- Is element i of register n poisoned? -/
def vBad (x : VecEngine) (n i : Nat) : Bool := x.vPoison.contains (64 * n + i)

/-- Write a register: its elements and which are poisoned. -/
def putV (x : VecEngine) (n : Nat) (es : List (F32 × Bool)) : VecEngine :=
  let kept := x.vPoison.filter (fun k => !(k / 64 == n))
  { x with
    v := sput vZero x.v n (es.map (fun e => e.1))
    vPoison := (List.range es.length).foldl (fun l i => if (es.getD i (0#32, false)).2 then insNat l (64 * n + i) else l) kept }

/-- Count an instruction and its clocks (registers of spec/08). -/
def countVec (p n : Nat) (s : State) : State := bump (panelReg p 0x50048) n (bump (panelReg p 0x50040) 1 s)

/-- An elementwise instruction of one operand. -/
def vUnary (f : F32 → F32) (x : VecEngine) (d a : Nat) : VecEngine :=
  putV x d ((List.range 64).map (fun i => (f ((vReg x a).getD i 0#32), vBad x a i)))

/-- An elementwise instruction of two operands. -/
def vBinary (f : F32 → F32 → F32) (x : VecEngine) (d a b : Nat) : VecEngine :=
  putV x d ((List.range 64).map (fun i => (f ((vReg x a).getD i 0#32) ((vReg x b).getD i 0#32), vBad x a i || vBad x b i)))

/-- FMA (R192). -/
def vTernary (x : VecEngine) (d a b c : Nat) : VecEngine :=
  putV x d ((List.range 64).map (fun i =>
    (fFma ((vReg x a).getD i 0#32) ((vReg x b).getD i 0#32) ((vReg x c).getD i 0#32), vBad x a i || vBad x b i || vBad x c i)))

/-- The current block of input a, widened exactly; +0 beyond LEN (R192, R473). -/
def vLoad (s : State) (x : VecEngine) (c : MatCmd) (d a : Nat) : VecEngine :=
  let len := natBits c.bits 255 224
  let n := c.inSlots.getD (((List.range a).filter (fun k => vSlot c.bits 128 k != 0xFFF)).length) 0
  let slot := slotOf s n
  let f := vFmt c.bits 256 a
  let z := codesAs f slot (sget (fun _ => SlotLane.none) slot.lanes x.lane)
  putV x d ((List.range 64).map (fun i =>
    let e := 64 * x.block + i
    if e < len then (codeF32 f (z.1.getD (x.row * slot.dim + e) 0), z.2.contains (x.row * slot.dim + e)) else (0#32, false)))

/-- Store a register as the current block of output a (R67, R68, R69, R192, R473). -/
def vStore (p : Nat) (t : Step) (o : OpRun) (x : VecEngine) (c : MatCmd) (d a : Nat) (s : State) : State :=
  let len := natBits c.bits 255 224
  let n := c.outSlots.getD (((List.range a).filter (fun k => vSlot c.bits 176 k != 0xFFF)).length) 0
  let rows := qposOf (imageOf s (modelOf s c.model))
  let m := min 64 (len - 64 * x.block)
  let ys := (List.range m).map (fun i => ((vReg x d).getD i 0#32, vBad x d i))
  let fmt := vFmt c.bits 272 a
  engineWrite p t o (integerFmt fmt) fmt n len rows x.lane (x.row * len + 64 * x.block) ys s

/-- RSUM and RMAX (R192, R193): in phase 1 a block's result goes into scalar d; in phase 2 scalar a is broadcast into d. The first block's result becomes the scalar itself, and later ones are added to it or compared with it (DESIGN CHOICE, log entry 23: the specification names no starting value). -/
def vReduce (sum : Bool) (x : VecEngine) (d a : Nat) : VecEngine :=
  if x.phase2 then
    putV x d (List.replicate 64 (sget sZero x.scal a, x.sPoison.contains a))
  else
    let vals := vReg x a
    let v := if sum then exactSum vals else (vals.drop 1).foldl fMax (vals.getD 0 0#32)
    let old := sget sZero x.scal d
    let v' := if x.sLive.contains d then (if sum then fAdd old v else fMax old v) else v
    let bad := (List.range 64).any (fun i => vBad x a i) || (x.sLive.contains d && x.sPoison.contains d)
    { x with scal := sput sZero x.scal d v', sLive := insNat x.sLive d, sPoison := if bad then insNat x.sPoison d else x.sPoison.erase d }

/-- One instruction word on the vector engine of a panel, for the operation it belongs to (R192). A reserved opcode does nothing: no program holds one. -/
def vecInstr (p : Nat) (to_ : Option (Step × OpRun)) (op d a b c : Nat) (s : State) : State :=
  let x := vecOf s p
  let put (y : VecEngine) (n : Nat) : State := countVec p n (setVec p y s)
  match op with
  | 0 => countVec p 1 s
  | 1 => put (vBinary fAdd x d a b) 1
  | 2 => put (vBinary fSub x d a b) 1
  | 3 => put (vBinary fMul x d a b) 1
  | 4 => put (vTernary x d a b c) 1
  | 5 => put (vBinary fMax x d a b) 1
  | 6 => put (vBinary fMin x d a b) 1
  | 7 => put (vUnary fExp x d a) 4
  | 8 => put (vUnary fRcp x d a) 4
  | 9 => put (vUnary fRsq x d a) 4
  | 10 => put (vBinary fDiv x d a b) 4
  | 11 => match x.cmd with
    | some q => put (vLoad s x q d a) 1
    | none => s
  | 12 => match x.cmd, to_ with
    | some q, some (t, o) => countVec p 1 (vStore p t o x q d a s)
    | _, _ => s
  | 13 => put (vReduce true x d a) 1
  | 14 => put (vReduce false x d a) 1
  | 15 => put { x with phase2 := true } 1
  | _ => s

/-- The operation a panel's vector engine works for. -/
def vecOp (s : State) (p : Nat) : Option (Step × OpRun) :=
  (vecOf s p).cmd.bind (fun c => (stepOf s c.step).bind (fun t => (t.ops[c.op]?).map (fun o => (t, o))))

/-- Does a panel's vector engine execute instructions: the panel exists and is not isolated? -/
def vecReady (s : State) (p : Nat) : Bool := decide (p < 48) && !(isolated s p)

/-- NOP (R192). -/
def execVNop (p : Nat) (s : State) : Host.Outcome State Fault Refusal :=
  if vecReady s p then .next (vecInstr p (vecOp s p) 0 0 0 0 0 s) else .next s
/-- ADD: d = a + b (R192). -/
def execVAdd (p d a b : Nat) (s : State) : Host.Outcome State Fault Refusal :=
  if vecReady s p then .next (vecInstr p (vecOp s p) 1 (d % 32) (a % 32) (b % 32) 0 s) else .next s
/-- SUB: d = a − b (R192). -/
def execVSub (p d a b : Nat) (s : State) : Host.Outcome State Fault Refusal :=
  if vecReady s p then .next (vecInstr p (vecOp s p) 2 (d % 32) (a % 32) (b % 32) 0 s) else .next s
/-- MUL: d = a × b (R192). -/
def execVMul (p d a b : Nat) (s : State) : Host.Outcome State Fault Refusal :=
  if vecReady s p then .next (vecInstr p (vecOp s p) 3 (d % 32) (a % 32) (b % 32) 0 s) else .next s
/-- FMA: d = a × b + c with one rounding (R192). -/
def execVFma (p d a b c : Nat) (s : State) : Host.Outcome State Fault Refusal :=
  if vecReady s p then .next (vecInstr p (vecOp s p) 4 (d % 32) (a % 32) (b % 32) (c % 32) s) else .next s
/-- MAX: d = max(a, b) under R149 (R192). -/
def execVMax (p d a b : Nat) (s : State) : Host.Outcome State Fault Refusal :=
  if vecReady s p then .next (vecInstr p (vecOp s p) 5 (d % 32) (a % 32) (b % 32) 0 s) else .next s
/-- MIN: the mirror of MAX (R192). -/
def execVMin (p d a b : Nat) (s : State) : Host.Outcome State Fault Refusal :=
  if vecReady s p then .next (vecInstr p (vecOp s p) 6 (d % 32) (a % 32) (b % 32) 0 s) else .next s
/-- EXP: d = e^a (R192, R193). -/
def execVExp (p d a : Nat) (s : State) : Host.Outcome State Fault Refusal :=
  if vecReady s p then .next (vecInstr p (vecOp s p) 7 (d % 32) (a % 32) 0 0 s) else .next s
/-- RCP: d = 1 ÷ a (R192, R193). -/
def execVRcp (p d a : Nat) (s : State) : Host.Outcome State Fault Refusal :=
  if vecReady s p then .next (vecInstr p (vecOp s p) 8 (d % 32) (a % 32) 0 0 s) else .next s
/-- RSQ: d = 1 ÷ √a (R192, R193). -/
def execVRsq (p d a : Nat) (s : State) : Host.Outcome State Fault Refusal :=
  if vecReady s p then .next (vecInstr p (vecOp s p) 9 (d % 32) (a % 32) 0 0 s) else .next s
/-- DIV: d = a ÷ b (R192, R193). -/
def execVDiv (p d a b : Nat) (s : State) : Host.Outcome State Fault Refusal :=
  if vecReady s p then .next (vecInstr p (vecOp s p) 10 (d % 32) (a % 32) (b % 32) 0 s) else .next s
/-- LD: d = the current block of input a (R192). -/
def execVLd (p d a : Nat) (s : State) : Host.Outcome State Fault Refusal :=
  if vecReady s p then .next (vecInstr p (vecOp s p) 11 (d % 32) (a % 4) 0 0 s) else .next s
/-- ST: the current block of output a = d (R67 to R69, R192). -/
def execVSt (p d a : Nat) (s : State) : Host.Outcome State Fault Refusal :=
  if vecReady s p then .next (vecInstr p (vecOp s p) 12 (d % 32) (a % 4) 0 0 s) else .next s
/-- RSUM (R192, R193). -/
def execVRsum (p d a : Nat) (s : State) : Host.Outcome State Fault Refusal :=
  if vecReady s p then .next (vecInstr p (vecOp s p) 13 (d % 32) (a % 32) 0 0 s) else .next s
/-- RMAX (R192, R193). -/
def execVRmax (p d a : Nat) (s : State) : Host.Outcome State Fault Refusal :=
  if vecReady s p then .next (vecInstr p (vecOp s p) 14 (d % 32) (a % 32) 0 0 s) else .next s
/-- PHASE: ends phase 1 (R192). -/
def execVPhase (p : Nat) (s : State) : Host.Outcome State Fault Refusal :=
  if vecReady s p then .next (vecInstr p (vecOp s p) 15 0 0 0 0 s) else .next s

/-- Run a list of instruction words once for a block. -/
def runWords (p : Nat) (to_ : Option (Step × OpRun)) (ws : List Nat) (s : State) : State :=
  ws.foldl (fun s w => vecInstr p to_ (vOpcode w) (vD w) (vA w) (vB w) (vC w) s) s

/-- The words of a program before its PHASE, that word included, and those after it (R192). -/
def phases (ws : List Nat) : List Nat × List Nat :=
  let k := (ws.takeWhile (fun w => vOpcode w != 15)).length
  (ws.take (k + 1), ws.drop (k + 1))

/-- Run one phase over every block of a lane's query row in ascending order. -/
def runPhase (p : Nat) (to_ : Option (Step × OpRun)) (second : Bool) (blocks : Nat) (ws : List Nat) (s : State) : State :=
  (List.range blocks).foldl (fun s b => runWords p to_ ws (setVec p { vecOf s p with block := b, phase2 := second } s)) s

/-- A vector program runs for every row of every lane, and leaves the queue (R191, R192, R473). Every row begins with registers and scalars that nothing has written, which read +0 (log entry 23): its results do not depend on the panel that runs it (R191). -/
def runProgram (p : Nat) (c : MatCmd) (t : Step) (o : OpRun) (s : State) : State :=
  let m := modelOf s c.model
  let ws := vProgram (peekAs s (tenantCtx s m.owner)) c.bits m.base
  let ph := phases ws
  let blocks := ceilDiv (natBits c.bits 255 224) 64
  let rows := qposOf (imageOf s m)
  let s := (lanesOf c.lanemask).foldl (fun s l => (List.range rows).foldl (fun s q =>
    let s := setVec p { vecOf s p with cmd := some c, lane := l, row := q, v := [], vPoison := [], sLive := [], scal := [], sPoison := [] } s
    let s := runPhase p (some (t, o)) false blocks ph.1 s
    if ph.2.isEmpty then s else runPhase p (some (t, o)) true blocks ph.2 s) s) s
  retire p c s

/-- VECTOR_PROGRAM (R61, R191 to R193, R203, R473): the program runs once for each block of each named lane, phase 1 over every block and then phase 2. -/
def execVectorProgram (p : Nat) (err : SramError) (s : State) : Host.Outcome State Fault Refusal :=
  match headCommand s p with
  | none => .next s
  | some c =>
    if p ≥ 48 ∨ isolated s p ∨ c.opc ≠ 3 then .next s
    else match stepOf s c.step with
      | none => .next (retire p c s)
      | some t =>
        match t.ops[c.op]? with
        | none => .next (retire p c s)
        | some o => .next (underSram p c err (runProgram p c t o) s)

end Sys2Proof.Machine
end

