-- ==== Sys2Proof/Machine/Dispatch.lean ====
section
/-! DEFINITION. The dispatch: one arm per command of the table, each one call of its meaning. -/

namespace Sys2Proof.Machine

/-- What a command does to everything but the queue. -/
def exec (i : Instr) (s : State) : Host.Outcome State Fault Refusal :=
  match i with
  | .resetNAssert => Sys2Proof.Machine.execResetNAssert s
  | .coldBoot straps => Sys2Proof.Machine.execColdBoot straps s
  | .railFailure rail => Sys2Proof.Machine.execRailFailure rail s
  | .railRetry failing => Sys2Proof.Machine.execRailRetry failing s
  | .clk100Loss => Sys2Proof.Machine.execClk100Loss s
  | .refclkLoss back => Sys2Proof.Machine.execRefclkLoss back s
  | .linkStateChange back port iface up => Sys2Proof.Machine.execLinkStateChange back port iface up s
  | .memTrainingComplete results => Sys2Proof.Machine.execMemTrainingComplete results s
  | .zeroFillComplete regions => Sys2Proof.Machine.execZeroFillComplete regions s
  | .bootSolicit => Sys2Proof.Machine.execBootSolicit s
  | .bootOffer d a => Sys2Proof.Machine.execBootOffer d a s
  | .bootRequestTimeout offset => Sys2Proof.Machine.execBootRequestTimeout offset s
  | .bootBlock d a sigOk recordOk => Sys2Proof.Machine.execBootBlock d a sigOk recordOk s
  | .warmReset recordOk => Sys2Proof.Machine.execWarmReset recordOk s
  | .controllerRestart => Sys2Proof.Machine.execControllerRestart s
  | .watchdogExpiry => Sys2Proof.Machine.execWatchdogExpiry s
  | .privateMemoryUncorrectable => Sys2Proof.Machine.execPrivateMemoryUncorrectable s
  | .tickEdge => Sys2Proof.Machine.execTickEdge s
  | .planSeal => Sys2Proof.Machine.execPlanSeal s
  | .planCommitWrite entries => Sys2Proof.Machine.execPlanCommitWrite entries s
  | .planFreezeTimeout => Sys2Proof.Machine.execPlanFreezeTimeout s
  | .missedTickLimit => Sys2Proof.Machine.execMissedTickLimit s
  | .executionBegin => Sys2Proof.Machine.execExecutionBegin s
  | .cowCopyComplete seq layer e => Sys2Proof.Machine.execCowCopyComplete seq layer e s
  | .emissionGuard => Sys2Proof.Machine.execEmissionGuard s
  | .stitcherTakePiece panel stitcher table => Sys2Proof.Machine.execStitcherTakePiece panel stitcher table s
  | .tableBuild panel stitcher staged => Sys2Proof.Machine.execTableBuild panel stitcher staged s
  | .chunkStreamStart panel stitcher e => Sys2Proof.Machine.execChunkStreamStart panel stitcher e s
  | .accBankSwap panel stitcher badRecords fixedRecords => Sys2Proof.Machine.execAccBankSwap panel stitcher badRecords fixedRecords s
  | .queueStoreUncorrectable panel => Sys2Proof.Machine.execQueueStoreUncorrectable panel s
  | .seamRecordL1 panel port windowBad => Sys2Proof.Machine.execSeamRecordL1 panel port windowBad s
  | .seamRecordL2 panel storeBad => Sys2Proof.Machine.execSeamRecordL2 panel storeBad s
  | .seamReserve step => Sys2Proof.Machine.execSeamReserve step s
  | .barrierRelease step => Sys2Proof.Machine.execBarrierRelease step s
  | .seamOperationClose step censusBad storeBad => Sys2Proof.Machine.execSeamOperationClose step censusBad storeBad s
  | .stepCommit step => Sys2Proof.Machine.execStepCommit step s
  | .samplerDraw step seq grammarBad => Sys2Proof.Machine.execSamplerDraw step seq grammarBad s
  | .gateRouting step => Sys2Proof.Machine.execGateRouting step s
  | .expertPieceExpansion step => Sys2Proof.Machine.execExpertPieceExpansion step s
  | .denseCommand panel err => Sys2Proof.Machine.execDenseCommand panel err s
  | .attentionCommand p err e => Sys2Proof.Machine.execAttentionCommand p err e s
  | .embeddingGather panel err => Sys2Proof.Machine.execEmbeddingGather panel err s
  | .vectorProgram panel err => Sys2Proof.Machine.execVectorProgram panel err s
  | .vNop panel => Sys2Proof.Machine.execVNop panel s
  | .vAdd panel d a b => Sys2Proof.Machine.execVAdd panel d a b s
  | .vSub panel d a b => Sys2Proof.Machine.execVSub panel d a b s
  | .vMul panel d a b => Sys2Proof.Machine.execVMul panel d a b s
  | .vFma panel d a b c => Sys2Proof.Machine.execVFma panel d a b c s
  | .vMax panel d a b => Sys2Proof.Machine.execVMax panel d a b s
  | .vMin panel d a b => Sys2Proof.Machine.execVMin panel d a b s
  | .vExp panel d a => Sys2Proof.Machine.execVExp panel d a s
  | .vRcp panel d a => Sys2Proof.Machine.execVRcp panel d a s
  | .vRsq panel d a => Sys2Proof.Machine.execVRsq panel d a s
  | .vDiv panel d a b => Sys2Proof.Machine.execVDiv panel d a b s
  | .vLd panel d a => Sys2Proof.Machine.execVLd panel d a s
  | .vSt panel d a => Sys2Proof.Machine.execVSt panel d a s
  | .vRsum panel d a => Sys2Proof.Machine.execVRsum panel d a s
  | .vRmax panel d a => Sys2Proof.Machine.execVRmax panel d a s
  | .vPhase panel => Sys2Proof.Machine.execVPhase panel s
  | .pageWrite e => Sys2Proof.Machine.execPageWrite e s
  | .hemWriteComplete => Sys2Proof.Machine.execHemWriteComplete s
  | .pageWaitLimit seq => Sys2Proof.Machine.execPageWaitLimit seq s
  | .shuttleDescHead ch => Sys2Proof.Machine.execShuttleDescHead ch s
  | .shuttleTriggerFire ch => Sys2Proof.Machine.execShuttleTriggerFire ch s
  | .shuttleCopy ch e => Sys2Proof.Machine.execShuttleCopy ch e s
  | .shuttleFill ch => Sys2Proof.Machine.execShuttleFill ch s
  | .shuttleCompare ch e => Sys2Proof.Machine.execShuttleCompare ch e s
  | .pageListGather ch e => Sys2Proof.Machine.execPageListGather ch e s
  | .reduceInto ch e => Sys2Proof.Machine.execReduceInto ch e s
  | .shuttleWind ch e => Sys2Proof.Machine.execShuttleWind ch e s
  | .shuttleUnwind ch e => Sys2Proof.Machine.execShuttleUnwind ch e s
  | .shuttleDescComplete ch => Sys2Proof.Machine.execShuttleDescComplete ch s
  | .shuttleBusError ch addr => Sys2Proof.Machine.execShuttleBusError ch addr s
  | .shuttleResume => Sys2Proof.Machine.execShuttleResume s
  | .addI32 who addr v => Sys2Proof.Machine.execAddI32 who addr v s
  | .addF32 who addr v => Sys2Proof.Machine.execAddF32 who addr v s
  | .minI32 who addr v => Sys2Proof.Machine.execMinI32 who addr v s
  | .maxI32 who addr v => Sys2Proof.Machine.execMaxI32 who addr v s
  | .minF32 who addr v => Sys2Proof.Machine.execMinF32 who addr v s
  | .maxF32 who addr v => Sys2Proof.Machine.execMaxF32 who addr v s
  | .andOp who wide addr v => Sys2Proof.Machine.execAndOp who wide addr v s
  | .orOp who wide addr v => Sys2Proof.Machine.execOrOp who wide addr v s
  | .cas who wide addr compare v => Sys2Proof.Machine.execCas who wide addr compare v s
  | .refInc who addr => Sys2Proof.Machine.execRefInc who addr s
  | .refDec who addr => Sys2Proof.Machine.execRefDec who addr s
  | .memoryAccess who addr ctx op err step => Sys2Proof.Machine.execMemoryAccess who addr ctx op err step s
  | .patrolScrub line err => Sys2Proof.Machine.execPatrolScrub line err s
  | .laneFailing ch lane lockLost => Sys2Proof.Machine.execLaneFailing ch lane lockLost s
  | .retrain ch => Sys2Proof.Machine.execRetrain ch s
  | .retrainComplete ch => Sys2Proof.Machine.execRetrainComplete ch s
  | .marginRunEnd ch beats mismatches => Sys2Proof.Machine.execMarginRunEnd ch beats mismatches s
  | .marginRotation dir toff voff dwell => Sys2Proof.Machine.execMarginRotation dir toff voff dwell s
  | .ethernetFrameReceive f => Sys2Proof.Machine.execEthernetFrameReceive f s
  | .obushDatagramReceive d a table => Sys2Proof.Machine.execObushDatagramReceive d a table s
  | .obushRetransmitTimeout mailbox session => Sys2Proof.Machine.execObushRetransmitTimeout mailbox session s
  | .bootMessageReceive d a => Sys2Proof.Machine.execBootMessageReceive d a s
  | .wakeFrame f => Sys2Proof.Machine.execWakeFrame f s
  | .sleepEntryComplete => Sys2Proof.Machine.execSleepEntryComplete s
  | .thimbleSample r => Sys2Proof.Machine.execThimbleSample r s
  | .thermalTrip die => Sys2Proof.Machine.execThermalTrip die s
  | .powerMonitorSample watts => Sys2Proof.Machine.execPowerMonitorSample watts s
  | .droopTrip => Sys2Proof.Machine.execDroopTrip s
  | .droopEnd => Sys2Proof.Machine.execDroopEnd s
  | .monitorSample m event => Sys2Proof.Machine.execMonitorSample m event s
  | .quarantinePauseExpire model => Sys2Proof.Machine.execQuarantinePauseExpire model s
  | .kralynTxDesc ring => Sys2Proof.Machine.execKralynTxDesc ring s
  | .kralynConnectReceive k => Sys2Proof.Machine.execKralynConnectReceive k s
  | .kralynAcceptReceive k => Sys2Proof.Machine.execKralynAcceptReceive k s
  | .kralynRefuseReceive k => Sys2Proof.Machine.execKralynRefuseReceive k s
  | .kralynDataReceive k table => Sys2Proof.Machine.execKralynDataReceive k table s
  | .kralynAckReceive k => Sys2Proof.Machine.execKralynAckReceive k s
  | .kralynCloseReceive k => Sys2Proof.Machine.execKralynCloseReceive k s
  | .kralynCapReceive k => Sys2Proof.Machine.execKralynCapReceive k s
  | .kralynRetransmitTimeout conn => Sys2Proof.Machine.execKralynRetransmitTimeout conn s
  | .kralynConnectionLoss conn => Sys2Proof.Machine.execKralynConnectionLoss conn s
  | .tapeSyncSend => Sys2Proof.Machine.execTapeSyncSend s
  | .tapeSyncReceive x => Sys2Proof.Machine.execTapeSyncReceive x s
  | .tapeDelayReqReceive member seq icvOk => Sys2Proof.Machine.execTapeDelayReqReceive member seq icvOk s
  | .tapeExchangeComplete x => Sys2Proof.Machine.execTapeExchangeComplete x s
  | .joinStep => Sys2Proof.Machine.execJoinStep s
  | .timekeeperSwitch => Sys2Proof.Machine.execTimekeeperSwitch s
  | .firmwareUpdatePauseEnd => Sys2Proof.Machine.execFirmwareUpdatePauseEnd s
  | .deviceInfo r => Sys2Proof.Machine.execDeviceInfo r s
  | .deviceTick r => Sys2Proof.Machine.execDeviceTick r s
  | .devicePlan r => Sys2Proof.Machine.execDevicePlan r s
  | .devicePort r => Sys2Proof.Machine.execDevicePort r s
  | .deviceAddr r => Sys2Proof.Machine.execDeviceAddr r s
  | .deviceReset r => Sys2Proof.Machine.execDeviceReset r s
  | .deviceStatus r => Sys2Proof.Machine.execDeviceStatus r s
  | .tenantCreate r => Sys2Proof.Machine.execTenantCreate r s
  | .tenantDestroy r => Sys2Proof.Machine.execTenantDestroy r s
  | .tenantReset r => Sys2Proof.Machine.execTenantReset r s
  | .tenantSet r => Sys2Proof.Machine.execTenantSet r s
  | .tenantQuery r => Sys2Proof.Machine.execTenantQuery r s
  | .budgetSet r => Sys2Proof.Machine.execBudgetSet r s
  | .budgetQuery r => Sys2Proof.Machine.execBudgetQuery r s
  | .noticeRoute r => Sys2Proof.Machine.execNoticeRoute r s
  | .noticeQuery r => Sys2Proof.Machine.execNoticeQuery r s
  | .modelStage r => Sys2Proof.Machine.execModelStage r s
  | .modelPut r => Sys2Proof.Machine.execModelPut r s
  | .modelLoad r sigOk => Sys2Proof.Machine.execModelLoad r sigOk s
  | .modelUnload r => Sys2Proof.Machine.execModelUnload r s
  | .modelScale r => Sys2Proof.Machine.execModelScale r s
  | .modelQuery r => Sys2Proof.Machine.execModelQuery r s
  | .modelRestore r => Sys2Proof.Machine.execModelRestore r s
  | .modelReplica r => Sys2Proof.Machine.execModelReplica r s
  | .grammarLoad r sigOk => Sys2Proof.Machine.execGrammarLoad r sigOk s
  | .grammarUnload r => Sys2Proof.Machine.execGrammarUnload r s
  | .seqOpen r => Sys2Proof.Machine.execSeqOpen r s
  | .seqFeed r flags => Sys2Proof.Machine.execSeqFeed r flags s
  | .seqCancel r => Sys2Proof.Machine.execSeqCancel r s
  | .seqQuery r => Sys2Proof.Machine.execSeqQuery r s
  | .seqAllow r => Sys2Proof.Machine.execSeqAllow r s
  | .prefixPin r => Sys2Proof.Machine.execPrefixPin r s
  | .prefixUnpin r => Sys2Proof.Machine.execPrefixUnpin r s
  | .prefixQuery r => Sys2Proof.Machine.execPrefixQuery r s
  | .powerCap r => Sys2Proof.Machine.execPowerCap r s
  | .powerCoord r => Sys2Proof.Machine.execPowerCoord r s
  | .powerSleep r => Sys2Proof.Machine.execPowerSleep r s
  | .powerQuery r => Sys2Proof.Machine.execPowerQuery r s
  | .powerEnergy r => Sys2Proof.Machine.execPowerEnergy r s
  | .memorySlice r => Sys2Proof.Machine.execMemorySlice r s
  | .memoryHem r => Sys2Proof.Machine.execMemoryHem r s
  | .memoryMargin r => Sys2Proof.Machine.execMemoryMargin r s
  | .memoryQuery r => Sys2Proof.Machine.execMemoryQuery r s
  | .fabricJoin r => Sys2Proof.Machine.execFabricJoin r s
  | .fabricLeave r => Sys2Proof.Machine.execFabricLeave r s
  | .fabricQuery r => Sys2Proof.Machine.execFabricQuery r s
  | .monitorSet r => Sys2Proof.Machine.execMonitorSet r s
  | .monitorRead r => Sys2Proof.Machine.execMonitorRead r s
  | .monitorClear r => Sys2Proof.Machine.execMonitorClear r s
  | .monitorRegs r => Sys2Proof.Machine.execMonitorRegs r s
  | .firmwarePut r => Sys2Proof.Machine.execFirmwarePut r s
  | .firmwareUpdate r sigOk => Sys2Proof.Machine.execFirmwareUpdate r sigOk s
  | .attestCerts r => Sys2Proof.Machine.execAttestCerts r s
  | .attestQuote r => Sys2Proof.Machine.execAttestQuote r s
  | .attestSession r certOk => Sys2Proof.Machine.execAttestSession r certOk s
  | .maintRow r => Sys2Proof.Machine.execMaintRow r s
  | .maintFuse r => Sys2Proof.Machine.execMaintFuse r s
  | .maintRread r => Sys2Proof.Machine.execMaintRread r s
  | .maintDebug r => Sys2Proof.Machine.execMaintDebug r s
  | .tickPeriodNextWrite value => Sys2Proof.Machine.execTickPeriodNextWrite value s
  | .memRetrainStart value => Sys2Proof.Machine.execMemRetrainStart value s
  | .chMarginStart slice ch value => Sys2Proof.Machine.execChMarginStart slice ch value s
  | .chCtrlEnable ch value => Sys2Proof.Machine.execChCtrlEnable ch value s
  | .chCtrlResume ch value => Sys2Proof.Machine.execChCtrlResume ch value s
  | .chTailWrite ch value => Sys2Proof.Machine.execChTailWrite ch value s
  | .krTxCtrlEnable ring value => Sys2Proof.Machine.execKrTxCtrlEnable ring value s
  | .krTxTailWrite ring value => Sys2Proof.Machine.execKrTxTailWrite ring value s
  | .krRxCtrlEnable channel value => Sys2Proof.Machine.execKrRxCtrlEnable channel value s
  | .krRxHeadWrite channel value => Sys2Proof.Machine.execKrRxHeadWrite channel value s
  | .mboxRelease mailbox value => Sys2Proof.Machine.execMboxRelease mailbox value s
  | .errlogHeadWrite value => Sys2Proof.Machine.execErrlogHeadWrite value s
  | .bucketLevelWrite tenant value => Sys2Proof.Machine.execBucketLevelWrite tenant value s
  | .monCfgWrite monitor value => Sys2Proof.Machine.execMonCfgWrite monitor value s
  | .thWdogPet value => Sys2Proof.Machine.execThWdogPet value s
  | .regionEnableWrite addr value => Sys2Proof.Machine.execRegionEnableWrite addr value s
  | .counterCtrlClear addr value => Sys2Proof.Machine.execCounterCtrlClear addr value s
  | .registerWrite addr value => Sys2Proof.Machine.execRegisterWrite addr value s
  | .tapInstruction op => Sys2Proof.Machine.execTapInstruction op s
  | .modeChangeComplete back port => Sys2Proof.Machine.execModeChangeComplete back port s
  | .unknownCommand r code => Sys2Proof.Machine.execUnknownCommand r code s
  | .core2PlannerHelp => Sys2Proof.Machine.execCore2PlannerHelp s

end Sys2Proof.Machine
end

