-- ==== Sys2Proof/Safety.lean ====
section
/-! DEFINITION. What a safe run is, the invariant every step keeps, and the conditions in which the statements say that a command completes. -/

namespace Sys2Proof.Machine

/-- An outcome is safe when it is a next state: the block met no fault and refused nothing (R434). -/
def safe (o : Host.Outcome State Fault Refusal) : Bool :=
  match o with
  | .next _ => true
  | .fault _ => false
  | .refused _ => false

/-- The canonical form of memory: addresses strictly rising, no byte equal to what an unlisted address reads as. -/
def Memory.wf (m : List Host.Cell) : Bool := swf zeroByte m

/-- The canonical form of the register file: offsets strictly rising, no register at its reset value. -/
def regsWf (r : Sparse Word) : Bool := swf regReset r

/-- Numbers strictly rising. -/
def rising : List Nat → Bool
  | [] => true
  | n :: l => l.all (fun m => decide (n < m)) && rising l

/-- The invariant: memory, the register file and the table of key contexts are in canonical form, and the poisoned units are listed once each, rising. -/
structure Canonical (s : State) : Prop where
  mem : Memory.wf s.mem = true
  regs : regsWf s.regs = true
  poison : rising s.poison = true
  keys : swf (fun _ => 0) s.lineKey = true

/-- The controller takes the request and comes to the command's own handling: the firmware serves and core 2 does not help the planner (R375), the mailbox's role may send the command (R344), a maintenance session holds the owner's credential (R403), no reset of the sender's tenant runs (R343), the slot is not poisoned (R435), stack memory is there where the command needs it (R270), the request is the next that the controller takes, and no earlier request for the same object still waits for its end (R337). -/
structure Takes (c : CmdSpec) (r : Req) (s : State) : Prop where
  serves : serving s = true
  listens : s.core2 = false
  role : c.roles.contains (roleOf r.mailbox) = true
  credential : roleOf r.mailbox = 2 → (sessionOf s (sessionKey r.mailbox r.session)).cred = true
  settled : roleOf r.mailbox = 0 → (tenantOf s r.mailbox).resetting = []
  clean : slotPoisoned s r = false
  memory : c.stack = true → rdB s 0x50008 61 = false
  turn : inTurn r s = true
  first : behind c r s = false

/-- The outcome of a request that succeeds: the response carries its correlation, STATUS 0 and the payload (R336), and leaves from the state that its effect gives. -/
def answered (r : Req) (code : Nat) (payload : List Byte) (t : State) : Host.Outcome State Fault Refusal :=
  .next (respond r.mailbox r.session r.correlation code 0 payload t)

/-- The number that a requester of key context ctx reads in n bytes at an address (R6, R405). -/
def wordAs (s : State) (ctx a n : Nat) : Nat := ofLe ((List.range n).map (fun i => byteAs s ctx (a + i)))

/-- The state differs only in what sending a message changes: sessions, registers (the counters of the codec and of Obush), what left the device, the numbers of notices (R322, R326, R329, R332, R349), and the port activity charged to the mailbox (R420). -/
def sentOnly (s t : State) : Prop :=
  t = { s with sessions := t.sessions, regs := t.regs, out := t.out, nsn := t.nsn, free := t.free, caused := t.caused }

/-- A requester's atomic on a word of n bytes can act: the word is naturally aligned, lies in the stacks or the scratchpad window, is not poisoned, waits for no channel in retrain, and is no word of the hem pool that the requester may not write (R211, R266, R267, R271). -/
structure AtomicActs (who : Requester) (a n : Nat) (s : State) : Prop where
  aligned : a % n = 0
  place : inStack s a n = true ∨ inScratch s a n = true
  clean : anyPoison s a n = false
  served : stallsAt s a = false
  open_ : (outsideHem who && inScratch s a n && inHemPool s a n) = false

/-- What an atomic does that leaves new in its word (R266): it returns the old value with the flags, the word reads new, every other byte reads as before to the same requester, and nothing else changes but the slices' caches and counters, and the free values that say which line a full cache gives up (R261, R264). -/
structure AtomicGives (who : Requester) (a n new : Nat) (zero under : Bool) (s t : State) : Prop where
  result : t.lastAtomic = ⟨wordAs s (atomicCtx s who) a n, zero, under, false, false⟩
  word : wordAs t (atomicCtx s who) a n = new
  others : ∀ b, (b < a ∨ a + n ≤ b) → byteAs t (atomicCtx s who) b = byteAs s (atomicCtx s who) b
  frame : t = { s with free := t.free, mem := t.mem, lineKey := t.lineKey, cache := t.cache, regs := t.regs, lastAtomic := t.lastAtomic }

end Sys2Proof.Machine
end

