-- ==== Sys2Proof/Machine/Operands.lean ====
section
/-! DEFINITION. The operand forms of the commands: which numbers name a panel, a stitcher, a channel, a lane and so on, and which lists are a payload or a line. -/

namespace Sys2Proof.Machine

/-- One of the 48 panels (R1, R72). -/
def isPanel (p : Nat) : Bool := decide (p < 48)

/-- One of the seven rails the thimble turns on, in the order of R461. -/
def isRail (n : Nat) : Bool := decide (n < 7)

/-- One of the 128 stitchers of a panel (R72). -/
def isStitcher (i : Nat) : Bool := decide (i < 128)

/-- A vector register of the vector engine (R188). -/
def isVreg (v : Nat) : Bool := decide (v < 32)

/-- One of the 64 shuttle channels (R298). -/
def isShuttleChannel (c : Nat) : Bool := decide (c < 64)

/-- One of the 384 memory channels (R252). -/
def isChannel (c : Nat) : Bool := decide (c < 384)

/-- A lane of a memory channel, spares among them (R253). -/
def isLane (l : Nat) : Bool := decide (l < 82)

/-- One of the 24 slices, one a stack (R252). -/
def isSlice (n : Nat) : Bool := decide (n < 24)

/-- A sequence context (R230). -/
def isContext (q : Nat) : Bool := decide (q < 4096)

/-- A resident model number (R346). -/
def isModel (m : Nat) : Bool := decide (m < 2048)

/-- A mailbox (R327). -/
def isMailbox (m : Nat) : Bool := decide (m < 66)

/-- A session of a mailbox (R322). -/
def isSession (n : Nat) : Bool := decide (n < 16)

/-- One of the four ports of a group (R314). -/
def isPort (p : Nat) : Bool := decide (p < 4)

/-- An interface of a port in its widest split (R314). -/
def isIface (i : Nat) : Bool := decide (i < 8)

/-- A Kralyn connection entry (R365). -/
def isConn (c : Nat) : Bool := decide (c < 16384)

/-- A Kralyn transmit ring (R368). -/
def isTxRing (r : Nat) : Bool := decide (r < 8)

/-- A Kralyn receive channel (R367). -/
def isRxChannel (c : Nat) : Bool := decide (c < 64)

/-- One of the 32 monitors (R444). -/
def isMonitor (m : Nat) : Bool := decide (m < 32)

/-- A step number (R26). -/
def isStep (n : Nat) : Bool := decide (n < 2 ^ 32)

/-- A byte address of the device (R3). -/
def isAddress (a : Nat) : Bool := decide (a < 2 ^ 52)

/-- A word of 32 bits. -/
def isWord32 (v : Nat) : Bool := decide (v < 2 ^ 32)

/-- A word of 64 bits. -/
def isWord64 (v : Nat) : Bool := decide (v < 2 ^ 64)

/-- The bytes of one line (R252). -/
def isLine (b : List Byte) : Bool := decide (b.length = 64)

/-- A line address: a multiple of 64. -/
def isLineAddress (a : Nat) : Bool := isAddress a && decide (a % 64 = 0)

end Sys2Proof.Machine
end

