-- ==== Sys2Proof/WellFormed.lean ====
section
/-! DEFINITION. Which commands are well formed: every operand within the range its field, its pins or its numbering gives it. A meaning asks none of this: an operand outside its range meets what the rules say of it, or changes nothing. -/

namespace Sys2Proof

open Sys2Proof.Machine

/-- The straps within their pins (R377). -/
def Straps.wf (x : Straps) : Bool :=
  decide (x.thimble < 2) && decide (x.portmode < 4) && decide (x.cap < 8) && decide (x.profile < 4) && decide (x.bootport < 4) && decide (x.tick < 4)

/-- The lanes that failed are lanes of the channel (R270). -/
def Trained.wf (x : Trained) : Bool := isChannel x.ch && x.failed.all isLane

/-- The regions are addresses. -/
def Regions.wf (x : Regions) : Bool :=
  [x.mbox, x.freeList, x.refcnt, x.pdir, x.grammar, x.census, x.hem, x.errlog, x.save, x.arena, x.arenaEnd].all isAddress

/-- The bits in error stand in one of the 8 beats or words of a line, at lanes (R254). -/
def lineErrorWf (e : LineError) : Bool := e.all (fun u => decide (u.1 < 8) && u.2.all isLane)

/-- The errors a stream corrects are as many as a word of 32 bits counts. -/
def StreamErrors.wf (e : StreamErrors) : Bool := isWord32 e.corrected

/-- The storage errors name segments and lines of one transfer, whose length is below 2^32 (R300). -/
def codecErrorsWf (e : CodecErrors) : Bool := e.all (fun x => isWord32 x.1)

/-- As codecErrorsWf, with the lines lost. -/
def MoveErrors.wf (e : MoveErrors) : Bool := e.lost.all isWord32 && codecErrorsWf e.codec

/-- The sensors are ten, and a device of the bus has a 7-bit address (R421, R460). -/
def ThReads.wf (r : ThReads) : Bool := decide (r.die.length = 10) && r.bus.all (fun x => decide (x.1 < 128)) && r.late.all (fun a => decide (a < 128))

/-- A MAC address, an EtherType, and no more client data than a frame holds (R317). -/
def MacFrame.wf (f : MacFrame) : Bool := decide (f.dest < 2 ^ 48 ∧ f.etherType < 2 ^ 16 ∧ f.data.length ≤ 9216)

/-- A line access reads a line or writes 64 bytes. -/
def LineOp.wf : LineOp → Bool
  | .read => true
  | .write b => isLine b

/-- The requester is a port of R265. -/
def Machine.Requester.wf : Requester → Bool
  | .shuttle c => isShuttleChannel c
  | .panel p => isPanel p
  | .controller => true
  | .planEngine => true
  | .sampler => true
  | .gate => true

/-- The header fields of a datagram within their widths (R319). -/
def Machine.Datagram.wf (d : Datagram) : Bool :=
  decide (d.magic < 2 ^ 16 ∧ d.version < 2 ^ 8 ∧ d.type < 2 ^ 8 ∧ d.mailbox < 2 ^ 16 ∧ d.flags < 2 ^ 16 ∧ d.length < 2 ^ 32 ∧ d.command < 2 ^ 16 ∧ d.status < 2 ^ 16) &&
    isWord64 d.tape && isWord32 d.correlation && isWord32 d.msn

/-- A request stands in a slot of a mailbox. -/
def Machine.Req.wf (r : Req) : Bool :=
  isMailbox r.mailbox && decide (r.slot < 256) && isSession r.session && isWord32 r.correlation && decide (r.payload.length < 2 ^ 16)

/-- The header fields of a Kralyn message within their widths (R362). -/
def KrMsg.wf (k : KrMsg) : Bool :=
  decide (k.level < 2 ^ 8 ∧ k.flags < 2 ^ 16 ∧ k.channel < 2 ^ 16) && isWord32 k.conn && isWord64 k.src && isWord64 k.dst && isWord32 k.csn && isWord32 k.aux && isWord64 k.tape && isPort k.port && isIface k.iface

/-- A frame comes in on an interface of a port. -/
def Frame.wf (f : Frame) : Bool := isPort f.port && isIface f.iface && decide (f.udpPort < 2 ^ 16 ∧ f.target < 2 ^ 128)

/-- The sequenceIds of a timekeeping exchange are 16 bits (R356). -/
def Exchange.wf (x : Exchange) : Bool := decide (x.syncId < 2 ^ 16 ∧ x.followId < 2 ^ 16 ∧ x.reqId < 2 ^ 16 ∧ x.respId < 2 ^ 16)

/-- The operands of a command are within their ranges. -/
def Instr.wf : Instr → Bool
  | .resetNAssert => true
  | .coldBoot straps => straps.wf
  | .railFailure rail => isRail rail
  | .railRetry failing => failing.all isRail
  | .clk100Loss => true
  | .refclkLoss _ => true
  | .linkStateChange _ port iface _ => isPort port && isIface iface
  | .memTrainingComplete results => results.all Trained.wf
  | .zeroFillComplete regions => regions.wf
  | .bootSolicit => true
  | .bootOffer d _ => d.wf
  | .bootRequestTimeout offset => isWord32 offset
  | .bootBlock d _ _ _ => d.wf
  | .warmReset _ => true
  | .controllerRestart => true
  | .watchdogExpiry => true
  | .privateMemoryUncorrectable => true
  | .tickEdge => true
  | .planSeal => true
  | .planCommitWrite _ => true
  | .planFreezeTimeout => true
  | .missedTickLimit => true
  | .executionBegin => true
  | .cowCopyComplete seq _ e => isContext seq && e.wf
  | .emissionGuard => true
  | .stitcherTakePiece panel stitcher table => isPanel panel && isStitcher stitcher && codecErrorsWf table
  | .tableBuild panel stitcher _ => isPanel panel && isStitcher stitcher
  | .chunkStreamStart panel stitcher e => isPanel panel && isStitcher stitcher && e.wf
  | .accBankSwap panel stitcher _ _ => isPanel panel && isStitcher stitcher
  | .queueStoreUncorrectable panel => isPanel panel
  | .seamRecordL1 panel port _ => isPanel panel && port.all isStitcher
  | .seamRecordL2 panel _ => isPanel panel
  | .seamReserve step => isStep step
  | .barrierRelease step => isStep step
  | .seamOperationClose step _ bad => isStep step && bad.all (fun b => decide (b.1 < 4096) && decide (b.2.1 < 2 ^ 32) && decide (b.2.2 < 16))
  | .stepCommit step => isStep step
  | .samplerDraw step seq _ => isStep step && isContext seq
  | .gateRouting step => isStep step
  | .expertPieceExpansion step => isStep step
  | .denseCommand panel _ => isPanel panel
  | .attentionCommand panel _ e => isPanel panel && e.wf
  | .embeddingGather panel _ => isPanel panel
  | .vectorProgram panel _ => isPanel panel
  | .vNop panel => isPanel panel
  | .vAdd panel d a b => isPanel panel && isVreg d && isVreg a && isVreg b
  | .vSub panel d a b => isPanel panel && isVreg d && isVreg a && isVreg b
  | .vMul panel d a b => isPanel panel && isVreg d && isVreg a && isVreg b
  | .vFma panel d a b c => isPanel panel && isVreg d && isVreg a && isVreg b && isVreg c
  | .vMax panel d a b => isPanel panel && isVreg d && isVreg a && isVreg b
  | .vMin panel d a b => isPanel panel && isVreg d && isVreg a && isVreg b
  | .vExp panel d a => isPanel panel && isVreg d && isVreg a
  | .vRcp panel d a => isPanel panel && isVreg d && isVreg a
  | .vRsq panel d a => isPanel panel && isVreg d && isVreg a
  | .vDiv panel d a b => isPanel panel && isVreg d && isVreg a && isVreg b
  | .vLd panel d a => isPanel panel && isVreg d && isVreg a
  | .vSt panel d a => isPanel panel && isVreg d && isVreg a
  | .vRsum panel d a => isPanel panel && isVreg d && isVreg a
  | .vRmax panel d a => isPanel panel && isVreg d && isVreg a
  | .vPhase panel => isPanel panel
  | .pageWrite e => e.wf
  | .hemWriteComplete => true
  | .pageWaitLimit seq => isContext seq
  | .shuttleDescHead ch => isShuttleChannel ch
  | .shuttleTriggerFire ch => isShuttleChannel ch
  | .shuttleCopy ch e => isShuttleChannel ch && e.wf
  | .shuttleFill ch => isShuttleChannel ch
  | .shuttleCompare ch e => isShuttleChannel ch && e.wf
  | .pageListGather ch e => isShuttleChannel ch && e.wf
  | .reduceInto ch e => isShuttleChannel ch && e.wf
  | .shuttleWind ch e => isShuttleChannel ch && e.wf
  | .shuttleUnwind ch e => isShuttleChannel ch && e.wf
  | .shuttleDescComplete ch => isShuttleChannel ch
  | .shuttleBusError ch addr => isShuttleChannel ch && isAddress addr
  | .shuttleResume => true
  | .addI32 who addr v => who.wf && isAddress addr && isWord32 v
  | .addF32 who addr v => who.wf && isAddress addr && isWord32 v
  | .minI32 who addr v => who.wf && isAddress addr && isWord32 v
  | .maxI32 who addr v => who.wf && isAddress addr && isWord32 v
  | .minF32 who addr v => who.wf && isAddress addr && isWord32 v
  | .maxF32 who addr v => who.wf && isAddress addr && isWord32 v
  | .andOp who _ addr v => who.wf && isAddress addr && isWord64 v
  | .orOp who _ addr v => who.wf && isAddress addr && isWord64 v
  | .cas who _ addr compare v => who.wf && isAddress addr && isWord64 compare && isWord64 v
  | .refInc who addr => who.wf && isAddress addr
  | .refDec who addr => who.wf && isAddress addr
  | .memoryAccess who addr _ op err _ => who.wf && isLineAddress addr && op.wf && lineErrorWf err
  | .patrolScrub line err => isLineAddress line && lineErrorWf err
  | .laneFailing ch lane _ => isChannel ch && isLane lane
  | .retrain ch => isChannel ch
  | .retrainComplete ch => isChannel ch
  | .marginRunEnd ch _ _ => isChannel ch
  | .marginRotation dir toff voff dwell => decide (dir < 2 ∧ toff < 64 ∧ voff < 64 ∧ 0 < dwell ∧ dwell < 2 ^ 16)
  | .ethernetFrameReceive f => f.wf
  | .obushDatagramReceive d _ _ => d.wf
  | .obushRetransmitTimeout mailbox session => isMailbox mailbox && isSession session
  | .bootMessageReceive d _ => d.wf
  | .wakeFrame f => f.wf
  | .sleepEntryComplete => true
  | .thimbleSample r => r.wf
  | .thermalTrip die => decide (die < 6)
  | .powerMonitorSample _ => true
  | .droopTrip => true
  | .droopEnd => true
  | .monitorSample m event => isMonitor m && isWord64 event
  | .quarantinePauseExpire model => isModel model
  | .kralynTxDesc ring => isTxRing ring
  | .kralynConnectReceive k => k.wf
  | .kralynAcceptReceive k => k.wf
  | .kralynRefuseReceive k => k.wf
  | .kralynDataReceive k _ => k.wf
  | .kralynAckReceive k => k.wf
  | .kralynCloseReceive k => k.wf
  | .kralynCapReceive k => k.wf
  | .kralynRetransmitTimeout conn => isConn conn
  | .kralynConnectionLoss conn => isConn conn
  | .tapeSyncSend => true
  | .tapeSyncReceive _ => true
  | .tapeDelayReqReceive _ _ _ => true
  | .tapeExchangeComplete x => x.wf
  | .joinStep => true
  | .timekeeperSwitch => true
  | .firmwareUpdatePauseEnd => true
  | .deviceInfo r => r.wf
  | .deviceTick r => r.wf
  | .devicePlan r => r.wf
  | .devicePort r => r.wf
  | .deviceAddr r => r.wf
  | .deviceReset r => r.wf
  | .deviceStatus r => r.wf
  | .tenantCreate r => r.wf
  | .tenantDestroy r => r.wf
  | .tenantReset r => r.wf
  | .tenantSet r => r.wf
  | .tenantQuery r => r.wf
  | .budgetSet r => r.wf
  | .budgetQuery r => r.wf
  | .noticeRoute r => r.wf
  | .noticeQuery r => r.wf
  | .modelStage r => r.wf
  | .modelPut r => r.wf
  | .modelLoad r _ => r.wf
  | .modelUnload r => r.wf
  | .modelScale r => r.wf
  | .modelQuery r => r.wf
  | .modelRestore r => r.wf
  | .modelReplica r => r.wf
  | .grammarLoad r _ => r.wf
  | .grammarUnload r => r.wf
  | .seqOpen r => r.wf
  | .seqFeed r flags => r.wf && decide (flags < 2 ^ 16)
  | .seqCancel r => r.wf
  | .seqQuery r => r.wf
  | .seqAllow r => r.wf
  | .prefixPin r => r.wf
  | .prefixUnpin r => r.wf
  | .prefixQuery r => r.wf
  | .powerCap r => r.wf
  | .powerCoord r => r.wf
  | .powerSleep r => r.wf
  | .powerQuery r => r.wf
  | .powerEnergy r => r.wf
  | .memorySlice r => r.wf
  | .memoryHem r => r.wf
  | .memoryMargin r => r.wf
  | .memoryQuery r => r.wf
  | .fabricJoin r => r.wf
  | .fabricLeave r => r.wf
  | .fabricQuery r => r.wf
  | .monitorSet r => r.wf
  | .monitorRead r => r.wf
  | .monitorClear r => r.wf
  | .monitorRegs r => r.wf
  | .firmwarePut r => r.wf
  | .firmwareUpdate r _ => r.wf
  | .attestCerts r => r.wf
  | .attestQuote r => r.wf
  | .attestSession r _ => r.wf
  | .maintRow r => r.wf
  | .maintFuse r => r.wf
  | .maintRread r => r.wf
  | .maintDebug r => r.wf
  | .tickPeriodNextWrite _ => true
  | .memRetrainStart _ => true
  | .chMarginStart slice ch _ => isSlice slice && decide (ch < 16)
  | .chCtrlEnable ch _ => isShuttleChannel ch
  | .chCtrlResume ch _ => isShuttleChannel ch
  | .chTailWrite ch _ => isShuttleChannel ch
  | .krTxCtrlEnable ring _ => isTxRing ring
  | .krTxTailWrite ring _ => isTxRing ring
  | .krRxCtrlEnable channel _ => isRxChannel channel
  | .krRxHeadWrite channel _ => isRxChannel channel
  | .mboxRelease mailbox _ => isMailbox mailbox
  | .errlogHeadWrite _ => true
  | .bucketLevelWrite tenant _ => decide (tenant < 64)
  | .monCfgWrite monitor _ => isMonitor monitor
  | .thWdogPet _ => true
  | .regionEnableWrite addr _ => isAddress addr
  | .counterCtrlClear addr _ => isAddress addr
  | .registerWrite addr _ => isAddress addr
  | .tapInstruction op => decide (op < 2 ^ 8)
  | .modeChangeComplete _ port => isPort port
  | .unknownCommand r code => r.wf && decide (code < 2 ^ 16)
  | .core2PlannerHelp => true

end Sys2Proof
end

