-- ==== Sys2Proof/Certificates/Slice0/Obligations.lean ====
section
/-! DEFINITION. The statements about the model, one Prop each. -/

section

open Sys2Proof Sys2Proof.Machine

/-- A command is taken from the front of the queue and runs with the queue's rest: a step is the effect of the command in front. -/
def Obligations.StepTakesFront : Prop :=
  ∀ (c : Instr) (s : State), step { s with pending := c :: s.pending } = exec c s

/-- With no command waiting a step is a next state: in reset and without the 100 MHz clock nothing changes; otherwise the tape runs on by one reference clock at the rate in force, 10 ns and 10^-8 of it per unit of rho in 2^-16 ns, and what the rate leaves below 2^-16 ns is carried to the next clock. The model's choice of log entry 41. -/
def Obligations.IdleStepMovesTape : Prop :=
  ∀ s : State, s.pending = [] →
    ((s.pins.resetLow = true ∨ s.pins.clockLost = true) → step s = .next s) ∧
    (s.pins.resetLow = false → s.pins.clockLost = false →
      ∃ t, step s = .next t ∧ t.pending = [] ∧
        65536 * t.tape + t.frac = ((65536 * s.tape + s.frac : Nat) + 655360 + (s.fabric.rest + s.fabric.rho) / 100000000 : Int).toNat % 2 ^ 80 ∧
        t.fabric.rest = (s.fabric.rest + s.fabric.rho) % 100000000)

/-- The state after reset: RESET_N is low, every rail that the thimble turns on is off, every register reads its reset value (R8), memory lists nothing, no session, tenant, model, sequence, prefix, step or waiting command exists. What an unlisted byte reads as is the choice of log entry 6. -/
def Obligations.ResetState : Prop :=
  State.reset.pins.resetLow = true ∧ State.reset.pins.rails = [] ∧ (∀ a, rd State.reset a = regReset a) ∧ State.reset.mem = [] ∧
    (∀ a, getByte State.reset a = 0) ∧ State.reset.poison = [] ∧ State.reset.pending = [] ∧ State.reset.tape = 0 ∧
    (∀ k, (sessionOf State.reset k).live = false) ∧ (∀ n, (tenantOf State.reset n).live = false) ∧ (∀ n, (modelOf State.reset n).live = false) ∧
    (∀ n, (seqOf State.reset n).state = .free) ∧ State.reset.steps = []

/-- The state after reset is canonical. -/
def Obligations.CanonicalAtReset : Prop := Canonical State.reset

/-- Every step keeps the canonical form: memory, registers, poison and key contexts stay sorted, without repeats and without an entry that says what its absence says. -/
def Obligations.StepKeepsCanonical : Prop :=
  ∀ s t : State, Canonical s → step s = .next t → Canonical t

/-- No command touches the waiting commands behind it or the fuses (R392: what is fused stays). -/
def Obligations.CommandsKeepQueueAndFuses : Prop :=
  ∀ (c : Instr) (s t : State), exec c s = .next t → t.pending = s.pending ∧ t.fuse = s.fuse

/-- Every command in every state answers a next state: an error of the device is state, and nothing stops the block (R434 and following). -/
def Obligations.EveryCommandAnswers : Prop := ∀ (c : Instr) (s : State), ∃ t, exec c s = .next t

/-- A bit field that was set reads as the value set, cut to the field's width, and every field apart from it reads as before (R5, R8); the bytes of an n-byte field are n in number, spell its value cut to n bytes, and stand least significant first (R6). -/
def Obligations.FieldsAndBytesReadBack : Prop :=
  (∀ (w : Word) (hi lo v : Nat), lo ≤ hi → hi < 64 →
    getBits (setBits w hi lo v) hi lo = v % 2 ^ (hi + 1 - lo) ∧
    ∀ hi' lo' : Nat, (hi < lo' ∨ hi' < lo) → getBits (setBits w hi lo v) hi' lo' = getBits w hi' lo') ∧
  ∀ n v : Nat, (leBytes n v).length = n ∧ ofLe (leBytes n v) = v % 2 ^ (8 * n) ∧
    ∀ i, (h : i < (leBytes n v).length) → (leBytes n v)[i] = BitVec.ofNat 8 (v / 256 ^ i)

/-- Serial-number order (R448): a is later than b exactly when (a − b) mod 2^n lies from 1 to 2^(n−1) − 1; the two are equal only when they are the same; and a difference of exactly 2^(n−1) makes neither a later nor an equal number. -/
def Obligations.SerialNumberOrder : Prop :=
  ∀ n a b : Nat, 1 ≤ n → a < 2 ^ n → b < 2 ^ n →
    (serialLater n a b = true ↔ 1 ≤ (a + 2 ^ n - b) % 2 ^ n ∧ (a + 2 ^ n - b) % 2 ^ n ≤ 2 ^ (n - 1) - 1) ∧
    (serialAtLeast n a b = true ↔ a = b ∨ serialLater n a b = true) ∧
    ((a + 2 ^ n - b) % 2 ^ n = 2 ^ (n - 1) → serialAtLeast n a b = false)

/-- The halves of a split-mode activation (R58). -/
def Obligations.SplitHalves : Prop :=
  ∀ x : Int, -32639 ≤ x → x ≤ 32639 →
    splitLow x = (x + 128) % 256 - 128 ∧ splitHigh x = (x - splitLow x) / 256 ∧
    -128 ≤ splitLow x ∧ splitLow x ≤ 127 ∧ -127 ≤ splitHigh x ∧ splitHigh x ≤ 127 ∧ x = 256 * splitHigh x + splitLow x

/-- A write of n bytes under a key context, as the requester of that context reads it afterwards (R253, R405): the bytes written read as written, and every other byte of memory reads as before. -/
def Obligations.StoredBytesReadBack : Prop :=
  ∀ (s : State) (alloc : Bool) (ctx a : Nat) (bytes : List Byte) (poison : Bool), Canonical s →
    (inStack s a bytes.length = true ∨ capacity s ≤ a) →
    (∀ i, (h : i < bytes.length) → byteAs (storeBytes alloc ctx a bytes poison s) ctx (a + i) = bytes[i]) ∧
    ∀ b, (b < a ∨ a + bytes.length ≤ b) → byteAs (storeBytes alloc ctx a bytes poison s) ctx b = byteAs s ctx b

/-- A 64-bit counter of the tick block that reaches 2^64 − 1 stays there and sets its overflow bit; it reads so until COUNTER_CTRL.CLEAR is written, which zeroes the counters and the overflow bits (R42). -/
def Obligations.TickCountersSaturate : Prop :=
  ∀ (s : State) (k n : Nat), Canonical s → k < 3 → 0 < n →
    ((rd s (0x100030 + 8 * k)).toNat + n ≥ 2 ^ 64 - 1 →
      (rd (bump (0x100030 + 8 * k) n s) (0x100030 + 8 * k)).toNat = 2 ^ 64 - 1 ∧ rdB (bump (0x100030 + 8 * k) n s) 0x100048 k = true) ∧
    ((rd s (0x100030 + 8 * k)).toNat + n < 2 ^ 64 - 1 →
      (rd (bump (0x100030 + 8 * k) n s) (0x100030 + 8 * k)).toNat = (rd s (0x100030 + 8 * k)).toNat + n) ∧
    ∀ value : Word, getBit value 63 = true → ∃ t, exec (.counterCtrlClear 0x100048 value) s = .next t ∧
      rd t (0x100030 + 8 * k) = 0 ∧ rdB t 0x100048 k = false

/-- What a register write does to each field, by the field's access code (R7, R8): an RO or WO field keeps what it holds, an RW field that takes every value takes the bits written, a W1C bit is cleared by a 1 and kept by a 0. No other register, no memory, and nothing else changes, but for the time of a write of NEXT_MHZ and what a new PLAN_BUDGET margin moves: the budget shown, until the list is frozen, and the models to be divided again (R35, R464). A write of a reserved offset changes nothing. A register whose write is a command of its own takes the write as that command. -/
def Obligations.RegisterWriteObeysAccess : Prop :=
  (∀ (s : State) (a : Nat) (value : Word), regAt a = none → ownCommand a = false → a ≠ 0x800008 → exec (.registerWrite a value) s = .next s) ∧
  (∀ (s : State) (a : Nat) (value : Word) (d : RegDesc), Canonical s → regAt a = some d → ownCommand a = false →
    ∃ t, exec (.registerWrite a value) s = .next t ∧ t = { s with regs := t.regs, power := t.power, redivide := t.redivide } ∧ (∀ b, b ≠ a → rd t b = rd s b) ∧
      (a ≠ 0x100018 → t.redivide = s.redivide) ∧ (a ≠ 0x800008 → t.power = s.power) ∧
      (a = 0x100018 → rdF t a 31 0 = if s.frozen then rdF s a 31 0 else budgetOf t (rdB s 0x100028 1) % 2 ^ 32) ∧
      ∀ f ∈ d.fields,
        (f.acc = .ro ∨ f.acc = .wo → a ≠ 0x100018 → rdF t a f.hi f.lo = rdF s a f.hi f.lo) ∧
        (f.acc = .rw → f.rule = .any → rdF t a f.hi f.lo = getBits value f.hi f.lo) ∧
        (f.acc = .w1c → ∀ i, f.lo ≤ i → i ≤ f.hi → rdB t a i = (rdB s a i && !(getBit value i)))) ∧
  (∀ (s : State) (a : Nat) (value : Word),
    (regionRegs.contains a = true → exec (.registerWrite a value) s = exec (.regionEnableWrite a value) s) ∧
    (regionRegs.contains a = false → (groupOfCtrl a).isSome = true → exec (.registerWrite a value) s = exec (.counterCtrlClear a value) s)) ∧
  (∀ (s : State) (value : Word),
    exec (.registerWrite 0x50018 value) s = exec (.memRetrainStart value) s ∧ exec (.registerWrite 0x100008 value) s = exec (.tickPeriodNextWrite value) s ∧
    exec (.registerWrite 0x700010 value) s = exec (.errlogHeadWrite value) s ∧ exec (.registerWrite 0xC00008 value) s = exec (.thWdogPet value) s ∧
    exec (.registerWrite 0x100020 value) s = .next (writePlanCtrl value s)) ∧
  (∀ (s : State) (i : Nat) (value : Word),
    (i < 8 → exec (.registerWrite (0x301700 + 0x20 * i) value) s = exec (.chCtrlEnable (56 + i) value) s ∧
      exec (.registerWrite (0x301708 + 0x20 * i) value) s = exec (.chTailWrite (56 + i) value) s ∧
      exec (.registerWrite (0xB01000 + 0x20 * i) value) s = exec (.krTxCtrlEnable i value) s ∧
      exec (.registerWrite (0xB01008 + 0x20 * i) value) s = exec (.krTxTailWrite i value) s) ∧
    (i < 64 → exec (.registerWrite (0xB01800 + 0x10 * i) value) s = exec (.krRxCtrlEnable i value) s ∧
      exec (.registerWrite (0xB01808 + 0x10 * i) value) s = exec (.krRxHeadWrite i value) s) ∧
    (∀ j, i < 24 → j < 16 → exec (.registerWrite (0x1001008 + blockSize * i + 0x20 * j) value) s = exec (.chMarginStart i j value) s) ∧
    (i < 64 → exec (.registerWrite (0x501000 + 0x10 * i) value) s = exec (.bucketLevelWrite i value) s) ∧
    (i < 32 → exec (.registerWrite (0x701000 + 0x100 * i) value) s = exec (.monCfgWrite i value) s) ∧
    (i < 66 → exec (.registerWrite (mboxCfg i) value) s = exec (.mboxRelease i value) s))
/-- RESET_N, the loss of CLK100 and of a reference clock, and a change of a link (R314, R382, R384, R462, R466, R467). Reset and a lost clock take the tape to 0, every register to its reset value, memory, sessions, models and sequences to nothing, and every rail off; a lost reference clock takes the links of its die's ports down and nothing else; a link change sets or clears its interface's bit, and on the back the connections follow their interfaces (R361); asleep, only interface 0 of F0 is there (R431). The waiting commands and the fuses stay. -/
def Obligations.ResetAndClockEvents : Prop :=
  (∀ s, ∃ t, exec .resetNAssert s = .next t ∧ t.pins.resetLow = true ∧ t.pins.faultLow = false ∧ t.pins.rails = [] ∧ t.tape = 0 ∧
    (∀ a, rd t a = regReset a) ∧ t.mem = [] ∧ t.sessions = [] ∧ t.models = [] ∧ t.seqs = [] ∧ t.steps = [] ∧ t.pending = s.pending ∧ t.fuse = s.fuse) ∧
  (∀ s, ∃ t, exec .clk100Loss s = .next t ∧ t.pins.clockLost = true ∧ t.pins.faultLow = true ∧ t.pins.rails = [] ∧ t.tape = 0 ∧
    (∀ a, rd t a = regReset a) ∧ t.mem = [] ∧ t.sessions = [] ∧ t.models = [] ∧ t.seqs = [] ∧ t.pending = s.pending ∧ t.fuse = s.fuse) ∧
  (∀ s back, Canonical s → ∃ t, exec (.refclkLoss back) s = .next t ∧ t = { s with pins := t.pins, regs := t.regs, conns := t.conns } ∧ t.conns.length = s.conns.length ∧ (back = false → t.conns = s.conns) ∧
    (if back then t.pins.refBack else t.pins.refFront) = false ∧ (∀ p ∈ diePorts back, rdF t (portStatus p) 7 0 = 0) ∧
    ∀ a, (∀ p ∈ diePorts back, a ≠ portStatus p) → rd t a = rd s a) ∧
  (∀ s back port iface up, Canonical s → port < 4 → iface < ifaces (rdF s (portCfg ((if back then 4 else 0) + port)) 57 56) →
    (up = true → rdB s (portCfg ((if back then 4 else 0) + port)) 63 = false) → (asleep s = false ∨ back = false ∧ port = 0 ∧ iface = 0) →
    ∃ t, exec (.linkStateChange back port iface up) s = .next (if back then moveConns t else t) ∧ t = { s with pins := t.pins, regs := t.regs } ∧
      rdB t (portStatus ((if back then 4 else 0) + port)) iface = up ∧
      ∀ a, a ≠ portStatus ((if back then 4 else 0) + port) → rd t a = rd s a) ∧
  (∀ s back port iface up, asleep s = true → (back = true ∨ port ≠ 0 ∨ iface ≠ 0) → exec (.linkStateChange back port iface up) s = .next s)

/-- The tick period, the profile, the cap and the port mode that a cold boot takes from the straps (R12, R314, R377): with STRAP_THIMBLE 0 the tape stands 50,000 ns after RESET_N deasserts, the rails are up, and STATE is 1. -/
def Obligations.ColdBootTakesStraps : Prop :=
  ∀ (x : Straps) (s : State), s.pins.resetLow = true → s.pins.clockLost = false → x.thimble = 0 → x.tick < 4 → x.profile < 4 → x.cap < 8 → x.portmode < 4 → x.bootport < 4 →
    ∃ t, exec (.coldBoot x) s = .next t ∧ t.pins.resetLow = false ∧ t.pins.rails = allRails ∧ t.tape = 50000 ∧ rdF t 0x8 63 61 = 1 ∧
      period t = (if x.tick = 0 then 250000 else if x.tick = 1 then 125000 else if x.tick = 2 then 500000 else 1000000) ∧
      rdF t 0x8 60 59 = x.profile ∧
      rdF t 0x800000 10 0 = [600, 700, 800, 900, 950, 1000, 1050, 1100].getD x.cap 0 ∧
      (∀ p, p < 8 → rdF t (portCfg p) 57 56 = x.portmode) ∧ t.mem = [] ∧ t.pending = s.pending ∧ t.fuse = s.fuse

/-- Rails, training and the zero fill (R269, R270, R378, R461 to R463). -/
def Obligations.PowerAndTrainingEvents : Prop :=
  (∀ s rail, s.pins.resetLow = false → rail ∈ s.pins.rails →
    ∃ t, exec (.railFailure rail) s = .next t ∧ t.pins.rails = [] ∧ t.pins.faultLow = true ∧ t.pins.railCause = true ∧ t.pins.failures = s.pins.failures + 1 ∧
      t.pins.retryAt = (if s.pins.failures + 1 < 3 then some (s.tape + 1000000000) else none) ∧ t.mem = [] ∧ t.models = [] ∧ t.seqs = []) ∧
  (∀ s at_ rail, s.pins.retryAt = some at_ →
    ∃ t, exec (.railRetry (some rail)) s = .next t ∧ t.pins.failures = s.pins.failures + 1 ∧ t.tape = tapeTo at_ s ∧
      t.pins.retryAt = (if s.pins.failures + 1 < 3 then some (tapeTo at_ s + 1000000000) else none)) ∧
  (∀ s at_, s.pins.retryAt = some at_ →
    ∃ t, exec (.railRetry none) s = .next t ∧ t.pins.rails = allRails ∧ t.pins.failures = 0 ∧ t.pins.faultLow = false ∧ t.tape = tapeTo at_ s ∧ rdF t 0x18 60 57 = 10) ∧
  (∀ s results, s.boot.started = true → rdB s 0x50008 63 = false →
    exec (.memTrainingComplete results) s = .next (trained results s)) ∧
  (∀ s regions, rdB s 0x50008 63 = true → rdB s 0x50008 62 = false → (s.boot.entered && decide (rdF s 8 63 61 = 3)) = true →
    exec (.zeroFillComplete regions) s = .next (reloadWdog (startFirmware regions (zeroFilled regions s)))) ∧
  (∀ s regions, rdB s 0x50008 63 = true → rdB s 0x50008 62 = false → (s.boot.entered && decide (rdF s 8 63 61 = 3)) = false → Canonical s →
    ∃ t, exec (.zeroFillComplete regions) s = .next t ∧ rdB t 0x50008 62 = true ∧ ∀ ctx a, a < capacity s → a < scratchBase → getByte t a = 0 ∧ (ctx = 0 → byteAs t ctx a = 0))

/-- The boot fetch (R333, R379). -/
def Obligations.BootFetchEvents : Prop :=
  (∀ s, fetching s = true → s.boot.service = none →
    ∃ t, exec .bootSolicit s = .next { t with boot := { t.boot with solicitAt := tapeTo s.boot.solicitAt s + 1000000000 } } ∧
      t = sendBoot 1 (idBytes s ++ orderingCode s ++ leBytes 4 s.fuse.romVersion) { s with tape := tapeTo s.boot.solicitAt s }) ∧
  (∀ command payload s, ∃ d dest frame, (sendBoot command payload s).out = .boot d dest frame :: s.out ∧ d = bootMessage command payload s ∧ d.mailbox = 0xFFFF ∧
    d.command = command ∧ d.payload = payload ∧ flagClear d.flags = true ∧ dest.udp = (s.boot.service.map (fun p => p.udp)).getD (obushPort s) ∧
    dest.addr = (s.boot.service.map (fun p => p.addr)).getD allNodes ∧ dest.port = rdF s 0x10 3 2 ∧ dest.iface = 0 ∧
    frame.udpFrom = obushPort s ∧ frame.udpTo = dest.udp ∧ frame.ipv6 = true) ∧
  (∀ d a s, (bootReceipt d a s).1 = true → d.command = 2 → exec (.bootOffer d a) s = .next (takeOffer d a (bootReceipt d a s).2)) ∧
  (∀ d a sig rec_ s, (bootReceipt d a s).1 = true → d.command = 4 → exec (.bootBlock d a sig rec_) s = .next (takeBlock d a (verifier s sig) rec_ (bootReceipt d a s).2)) ∧
  (∀ d a s, (bootReceipt d a s).1 = true → d.command = 2 → exec (.bootMessageReceive d a) s = .next (takeOffer d a (bootReceipt d a s).2)) ∧
  (∀ s off q, s.boot.asked.find? (fun q => q.offset == off) = some q → 16 ≤ q.resends →
    ∃ t, exec (.bootRequestTimeout off) s = .next t ∧ t = { s with tape := tapeTo (q.sent + 10000000) s, boot := t.boot } ∧
      t.boot.service = none ∧ t.boot.asked = [] ∧ t.boot.blocks = [] ∧ t.boot.solicitAt = tapeTo (q.sent + 10000000) s) ∧
  (∀ s off q, s.boot.asked.find? (fun q => q.offset == off) = some q → q.resends < 16 →
    ∃ t u, exec (.bootRequestTimeout off) s = .next t ∧ u = sendBoot 3 (leBytes 4 q.offset ++ leBytes 4 q.want) { s with tape := tapeTo (q.sent + 10000000) s } ∧
      t = { u with boot := { u.boot with asked := u.boot.asked.map (fun x => if x = q then { q with sent := u.tape, resends := q.resends + 1 } else x) } })

/-- Warm resets and restarts of the controller (R20, R342, R380, R382, R383, R427). A reset waits for the acknowledgement of its response, or for its limit. A controller restart of a device whose private memory is sound answers what the journal holds as not done and ends with STATE 4; inside an update pause the new image is taken. The missed ticks stand until the seal of the first edge. -/
def Obligations.RestartEvents : Prop :=
  (∀ s w, s.warmDue = some w → w.acked = true →
    exec (.warmReset true) s = .next (warmReset w.cause s) ∧ exec (.warmReset false) s = .next (coldReset 5 s)) ∧
  (∀ s w, s.warmDue = some w → w.acked = false →
    exec (.warmReset true) s = .next (warmReset w.cause (runTo w.by_ s)) ∧
      ((∀ e ∈ s.sessions, e.2.ackDue = false) → (∀ e ∈ s.conns, e.2.ackDue = false) → runTo w.by_ s = { s with tape := tapeTo w.by_ s })) ∧
  (∀ s k acked w, s.warmDue = some w → ((noteWarm k acked s).warmDue.map (fun x => x.acked) = some true ↔
    w.acked = true ∨ (w.session = k ∧ acked.any (fun m => m.msn == w.msn) = true))) ∧
  (∀ s t, Canonical s → rdF s 8 63 61 = 6 → rdF s 0xC00000 63 61 ≠ 4 → s.warmDue = none → s.secure.damaged = false →
    t = reloadWdog (wrF 8 63 61 4 { settleJournal s with thimble := { (settleJournal s).thimble with sealDue := true } }) →
    (s.update = none → exec .controllerRestart s = .next t ∧ rdF t 8 63 61 = 4 ∧ t.missedRun = s.missedRun) ∧
    ∀ u, s.update = some u → u.paused = true → exec .controllerRestart s = .next (takeUpdate u t) ∧ rdF (takeUpdate u t) 8 63 61 = 4 ∧ (takeUpdate u t).missedRun = 0) ∧
  (∀ s at_, s.thimble.wdogAt = some at_ → restartable s = true → exec .watchdogExpiry s = .next (restart 3 (runTo at_ s))) ∧
  (∀ s, restartable s = true → exec .privateMemoryUncorrectable s = .next (restart 4 (damageWord s))) ∧
  (∀ s, 4 ≤ s.missedRun → serving s = true → s.thimble.sealDue = false → exec .missedTickLimit s = .next (restart 2 s))

/-- The tick (R10, R16 to R22, R25, R39, R172, R375, R385). The edge of an awake serving device, of one whose edges pass unserved, the plan list and its freezing, the begin of execution and the emission guard. -/
def Obligations.TickEvents : Prop :=
  (∀ s, tickless s = false → asleep s = false → thState s ≠ 5 → exec .tickEdge s = .next (edgeWork (policyEdge (edgeHardware s)))) ∧
  (∀ s, tickless s = false → (asleep s = true ∨ thState s = 5) →
    ∃ t, exec .tickEdge s = .next t ∧ t = refillBuckets { s with tape := nextEdge s, frac := 0, fabric := { s.fabric with skipTo := 0 }, edge := nextEdge s, skipped := true, frozen := true, admits := false, core2 := false } ∧
      t.tape = nextEdge s ∧ t.tape % period s = 0) ∧
  (∀ s entries, Canonical s → (s.frozen || serialAtLeast 64 (s.edge + 1000) s.tape) = true → ∃ t, exec (.planCommitWrite entries) s = .next t ∧ t.plan = entries.takeWhile (entryValid s) ∧
    rdF t 0x100020 15 0 = (entries.takeWhile (entryValid s)).length % 65536 ∧ t = { s with plan := t.plan, regs := t.regs } ∧ ∀ a, a ≠ 0x100020 → rd t a = rd s a) ∧
  (∀ s entries, s.frozen = false → serialAtLeast 64 (s.edge + 1000) s.tape = false →
    ∃ t, exec (.planCommitWrite entries) s = .next t ∧ t.plan = entries.takeWhile (entryValid (freezePlan false s)) ∧ t.steps = (freezePlan false s).steps) ∧
  (∀ s, s.frozen = false → exec .planSeal s = .next (freezePlan (serialAtLeast 64 (s.edge + 1000) s.tape) s)) ∧
  (∀ s, s.frozen = false → exec .planFreezeTimeout s = .next (freezePlan false (runTo (s.edge + 1000) s))) ∧
  (∀ s, Canonical s → s.frozen = true → rdB s 0x100028 0 = false →
    ∃ t, exec .executionBegin s = .next t ∧ rdB t 0x100028 0 = true ∧ t = { s with regs := t.regs, predicted := t.predicted, execAt := s.tape } ∧
      t.predicted = clocks s (s.tape - s.edge) + (if rdB s 0x100028 1 then clocks s 8000 else 0) + s.admitted.clocks ∧ ∀ a, a ≠ 0x100028 → rd t a = rd s a) ∧
  (∀ s u, u = runTo (s.edge + period s - 20000) s → runState u = 4 → nextAdmits u = true → u.plan = [] → u.seqs.any (fun e => decide (e.2.state = .ready)) = true →
    exec .core2PlannerHelp s = .next { u with core2 := true }) ∧
  (∀ s, s.guarded = false → s.skipped = false →
    exec .emissionGuard s = .next (emitAll (closeWork { runTo (guardTape s) s with guarded := true }))) ∧
  (∀ s u, s.update = some u → u.paused = true → runState s = 5 → unfinishedSteps s = [] → exec .firmwareUpdatePauseEnd s = .next (takeUpdate u s))

/-- The sum tables (R45, R47 to R50, R53, R54, R73, R74, R76): a weight byte adds, in each lane, exactly the sum of its weights times the group's activations, whatever the half held before; a void code adds nothing. The packed words of a half give the same: 8 lanes of 16 bits for 8-bit activations, 16 lanes of 8 bits for 4-bit ones. -/
def Obligations.TableLookupIsDotProduct : Prop :=
  (∀ (fmt n v j lane : Nat) (lanes : List (List Int)) (old : List TableWord), fmt < 3 → v < 256 → j < chunkBytes fmt → lane < n → lanes.length = n →
    (n = 8 ∧ (∀ l ∈ lanes, ∀ a ∈ l, -128 ≤ a ∧ a ≤ 127) ∨ n = 16 ∧ ∀ l ∈ lanes, ∀ a ∈ l, -8 ≤ a ∧ a ≤ 7) →
    byteReads fmt n (buildWords fmt n lanes old) lane j v =
      (if fmt = 0 ∧ 243 ≤ v then 0 else patternSum fmt v ((lanes.getD lane []).drop (j * byteInputs fmt)))) ∧
  ∀ (fmt v j lane : Nat) (lanes old : List (List Int)), fmt < 3 → v < 256 → j < chunkBytes fmt → lane < lanes.length →
    byteAdds fmt (buildEntries fmt lanes old) lane j v =
      (if fmt = 0 ∧ 243 ≤ v then 0 else patternSum fmt v ((lanes.getD lane []).drop (j * byteInputs fmt)))

/-- The fp32 maximum (R149): a NaN operand gives 0x7FC00000; +0 is greater than −0; otherwise the IEEE order; and it is commutative and associative, so that the order of records does not matter. -/
def Obligations.MaximumIgnoresOrder : Prop :=
  (∀ a b : F32, (fIsNaN a = true ∨ fIsNaN b = true) → fMax a b = 0x7FC00000#32) ∧
  fMax 0#32 0x80000000#32 = 0#32 ∧ fMax 0x80000000#32 0#32 = 0#32 ∧
  (∀ a b : F32, fIsNaN a = false → fIsNaN b = false → fLt a b = true → fMax a b = b ∧ fMax b a = b) ∧
  (∀ a b : F32, fMax a b = fMax b a) ∧ ∀ a b c : F32, fMax (fMax a b) c = fMax a (fMax b c)

/-- Two records of one element-lane merge to the same entry in either order, and neither meets a seam fault (R148, R150, R151): integer sums of one tag, the two planes of split mode, maxima, and fp32 records of different pieces. -/
def Obligations.MergeIgnoresOrder : Prop :=
  ∀ (e : MergeEntry) (a b : Record), a.op = e.op → b.op = e.op → combination e.op a.ptag = true → combination e.op b.ptag = true →
    tagsAgree e.ptag a.ptag = true → tagsAgree e.ptag b.ptag = true →
    (e.op ≠ 1 → a.ptag = 2 → a.piece ≠ b.piece ∧ e.pending.length ≤ 6 ∧ ∀ x ∈ e.pending, x.1 ≠ a.piece ∧ x.1 ≠ b.piece) →
    (mergeInto (mergeInto e a).1 b).1 = (mergeInto (mergeInto e b).1 a).1 ∧ (mergeInto (mergeInto e a).1 b).2 = none ∧ (mergeInto (mergeInto e b).1 a).2 = none

/-- Stitchers of a panel in use that have not failed (R44, R53, R72 to R93, R104 to R117): a take, a build of the next chunk's half, which waits while that half holds a table, a chunk that streams, one that waits for the zipper, for its table or for weights, one that meets a parity or storage error before or after the last chunk's start, a swap of the banks, and a lost word of the queue store. -/
def Obligations.StitcherEvents : Prop :=
  (∀ s p i table q how k e, p < 48 → i < 128 → isolated s p = false → stitcherFailed s p i = false → takesNow (stitcherOf s p i) = true →
    findPiece s p = some (q, how, k) → (panelOf s q).queue[k]? = some e → heldUp s [(e.piece.tlist, 4 * e.piece.tcount)] = false →
    exec (.stitcherTakePiece p i table) s = .next (acceptPiece p i q how e.piece table (dealWaiting (setPanel q { panelOf s q with queue := (panelOf s q).queue.eraseIdx k } s)))) ∧
  (∀ s p i r c staged, p < 48 → i < 128 → isolated s p = false → stitcherFailed s p i = false → (upcoming (stitcherOf s p i)).head? = some (r, c) →
    ((halfOf (stitcherOf s p i) (stitcherOf s p i).half).valid = false → heldUp s (feedRanges s r c) = false → exec (.tableBuild p i staged) s = .next (buildNext p i (stitcherOf s p i).half r c staged s)) ∧
    ((halfOf (stitcherOf s p i) (stitcherOf s p i).half).valid = true → exec (.tableBuild p i staged) s = .next s)) ∧
  (∀ s p i r c e, p < 48 → i < 128 → isolated s p = false → stitcherFailed s p i = false → (stitcherOf s p i).cur = some r → (chunksOf r.piece.fmt r.tiles)[r.done]? = some c →
    ((halfOf (stitcherOf s p i) (stitcherOf s p i).half).valid = true → e.unzipped = false → e.empty = false → e.parity = false → e.uncorrectable = false →
      exec (.chunkStreamStart p i e) s = .next (streamNext p i r c (halfOf (stitcherOf s p i) (stitcherOf s p i).half)
        (stagedError p (weightAddr p i 0) e.staged r.piece (accFixed p i r e.corrected s)))) ∧
    (e.unzipped = true → exec (.chunkStreamStart p i e) s = .next (stitchWaits p i .zip s)) ∧
    ((halfOf (stitcherOf s p i) (stitcherOf s p i).half).valid = true → e.unzipped = false → e.empty = true → exec (.chunkStreamStart p i e) s = .next (stitchWaits p i .feed s)) ∧
    ((halfOf (stitcherOf s p i) (stitcherOf s p i).half).valid = false → e.unzipped = false → exec (.chunkStreamStart p i e) s = .next (stitchWaits p i .build s)) ∧
    ((halfOf (stitcherOf s p i) (stitcherOf s p i).half).valid = true → e.unzipped = false → e.empty = false → (e.parity = true ∨ e.uncorrectable = true) →
      exec (.chunkStreamStart p i e) s = .next (failRun p i (stitcherOf s p i) r (if e.parity then 1 else 3) (accFixed p i r e.corrected s)))) ∧
  (∀ s p i r e, p < 48 → i < 128 → isolated s p = false → stitcherFailed s p i = false → (stitcherOf s p i).cur = some r → (chunksOf r.piece.fmt r.tiles)[r.done]? = none →
    r.done ≠ 0 → (e.parity = true ∨ e.uncorrectable = true) →
    exec (.chunkStreamStart p i e) s = .next (failRun p i (stitcherOf s p i) r (if e.parity then 1 else 3) (accFixed p i r e.corrected s))) ∧
  (∀ s p i r bad fixed, p < 48 → i < 128 → isolated s p = false → stitcherFailed s p i = false → (stitcherOf s p i).cur = some r → runStreamed r = true →
    ((stitcherOf s p i).port = [] → exec (.accBankSwap p i bad fixed) s = .next (swapBanks p i r bad fixed s)) ∧
    ((stitcherOf s p i).port ≠ [] → exec (.accBankSwap p i bad fixed) s = .next (stitchWaits p i .drain s))) ∧
  (∀ s p, p < 48 → isolated s p = false →
    exec (.queueStoreUncorrectable p) s = .next (isolatePanel p 2 (logError (1 + p) 3 none noStep (panelError p 4 0 s))))

/-- The seam tree and its plan engine (R110, R144 to R157): a record enters a window and a merge store, one of another attempt is dropped with no other effect, words are reserved, a level is released and an operation closes; a close after the emission guard's start, by the tape, follows the guard, a lost word of census staging has the panel isolated and the step run again, and no step of a faulted model closes an operation. -/
def Obligations.SeamEvents : Prop :=
  (∀ s p port r s', p < 48 → isolated s p = false → popPort p port s = some (r, s') → dropped s r = false → (panelOf s p).window.length < 1024 →
    exec (.seamRecordL1 p port false) s = .next (acceptRecord p r s')) ∧
  (∀ s p port r s', p < 48 → isolated s p = false → popPort p port s = some (r, s') → dropped s r = true →
    exec (.seamRecordL1 p port false) s = .next (bump (panelReg p 0x20010) 1 s')) ∧
  (∀ s p r rs t bad, p < 48 → isolated s p = false → (panelOf s p).window = r :: rs → stepOfRecord s r = some t → t.attempt = r.attempt →
    exec (.seamRecordL2 p bad) s = .next (mergeRecord (nodeOfRecord s t r) t r bad (setPanel p { panelOf s p with window := rs } s))) ∧
  (∀ s p r rs t bad, p < 48 → isolated s p = false → (panelOf s p).window = r :: rs → stepOfRecord s r = some t → t.attempt ≠ r.attempt →
    exec (.seamRecordL2 p bad) s = .next (bump (node2Reg (nodeOfRecord s t r) 0x10) 1 (setPanel p { panelOf s p with window := rs } s))) ∧
  (∀ s n t k i o, stepOf s n = some t → nextLevel t = some k → mayRelease s t = true → levelReady t k = true →
    (List.range t.ops.length).find? (fun i => (t.ops[i]?.map (fun o => atLevel k o && sendsRecords o && !o.reserved && !o.released)).getD false) = some i →
    t.ops[i]? = some o → (∀ m, m < 8 → reservedIn s m + reserveWords s t i o m ≤ 524288) →
    exec (.seamReserve n) s = .next (reserveOp t i o s)) ∧
  (∀ s n t k, stepOf s n = some t → nextLevel t = some k → mayRelease s t = true → levelReady t k = true →
    s.gateQueue.length + (gatesReleased s t k).length ≤ 127 → exec (.barrierRelease n) s = .next (releaseLevel t k s)) ∧
  (∀ s n t i o bad u, u = atCompletion s → stepOf u n = some t → t.phase = .running → (modelOf u t.model).faulted = false → closable u t = some i → t.ops[i]? = some o →
    exec (.seamOperationClose n none bad) s = .next (finishClose t i o (if sendsRecords o then handOverLost t i o bad u else u))) ∧
  (∀ s n t i p bad u, u = atCompletion s → stepOf u n = some t → t.phase = .running → (modelOf u t.model).faulted = false → closable u t = some i → p < 48 → isolated u p = false →
    exec (.seamOperationClose n (some p) bad) s = .next (rerunWhere (fun v => v.num == t.num && v.attempt == t.attempt) (isolatePanel p 4 (logError (1 + p) 3 none (t.num, t.attempt) u)))) ∧
  (∀ s n t bad c, stepOf (atCompletion s) n = some t → (modelOf (atCompletion s) t.model).faulted = true → exec (.seamOperationClose n c bad) s = .next (atCompletion s))

/-- Sampling, commit, gate routing and the expansion of an expert operation (R17, R134 to R140, R213 to R215, R233 to R245): a commit or a routing after the emission guard's start, by the tape, follows the guard, and a step of a faulted model completes nothing (R130). -/
def Obligations.StepEvents : Prop :=
  (∀ s, (tapePast s (guardTape s) = true → atCompletion s = beginGuard s) ∧ (tapePast s (guardTape s) = false → atCompletion s = s)) ∧
  (∀ s n t u, u = atCompletion s → stepOf u n = some t → t.phase = .sampling → t.seqs.any stillDraws = false → (modelOf u t.model).faulted = false → exec (.stepCommit n) s = .next (commitStep t u)) ∧
  (∀ s n x t q bad u, stepOf s n = some t → partOf t x = some q → t.phase = .sampling → stillDraws q = true → (modelOf s t.model).faulted = false →
    heldUp s (drawRanges s x q) = false → u = touchAll (deviceCtx s) (drawRanges s x q) s →
    ((logitRow u t q).2 = false → badGrammar u x q bad = false → exec (.samplerDraw n x bad) s = .next (drawNext t q x u)) ∧
    (((logitRow u t q).2 = true ∨ badGrammar u x q bad = true) → exec (.samplerDraw n x bad) s = .next (poisonedDraw t q x bad u))) ∧
  (∀ s n i rest t o u, u = atCompletion s → u.gateQueue = (n, i) :: rest → stepOf u n = some t → (modelOf u t.model).faulted = false → t.ops[i]? = some o →
    exec (.gateRouting n) s = .next (routeTokens t i o rest u)) ∧
  (∀ s n t i o, stepOf s n = some t → (modelOf s t.model).faulted = false →
    (List.range t.ops.length).find? (fun i => (t.ops[i]?.map (fun o => o.kind != 2 && entExpert o.bits && o.released && !o.expanded)).getD false) = some i →
    t.ops[i]? = some o → exec (.expertPieceExpansion n) s = .next (expandExpert t i o s))

/-- The engine of a panel runs the ready command at the head of its queue when it is of its kind; attention waits while the shuttle is stopped, and work that needs a channel in retrain waits for it (R181 to R203, R271, R312). -/
def Obligations.EngineCommands : Prop :=
  (∀ s p c err, p < 48 → isolated s p = false → headCommand s p = some c → c.opc = 0 → heldUp s (denseRanges s c) = false →
    exec (.denseCommand p err) s = .next (underSram p c err (runDense p c) (touchWeights c (denseRanges s c) s))) ∧
  (∀ s p c t o err e, p < 48 → isolated s p = false → stopped s = false → headCommand s p = some c → c.opc = 1 → stepOf s c.step = some t → t.ops[c.op]? = some o →
    heldUp s ((lanesOf c.lanemask).flatMap (fetchRanges s t c)) = false →
    exec (.attentionCommand p err e) s = .next (underSram p c err (runAttention p e c t o) s)) ∧
  (∀ s p err e, stopped s = true → exec (.attentionCommand p err e) s = .next s) ∧
  (∀ s p c t o err, p < 48 → isolated s p = false → headCommand s p = some c → c.opc = 2 → stepOf s c.step = some t → t.ops[c.op]? = some o →
    heldUp s (embedRanges s c t) = false → exec (.embeddingGather p err) s = .next (underSram p c err (runEmbedding p c t o) (touchWeights c (embedRanges s c t) s))) ∧
  (∀ c s ranges f, heldUp s ranges = true → takeWork c ranges f s = { s with stalled := s.stalled ++ [c] }) ∧
  (∀ s p c t o err, p < 48 → isolated s p = false → headCommand s p = some c → c.opc = 3 → stepOf s c.step = some t → t.ops[c.op]? = some o →
    exec (.vectorProgram p err) s = .next (underSram p c err (runProgram p c t o) s))

/-- Writing a vector register (R192, R193): the register reads the 64 elements written, each poisoned as written, every other register reads as before, and the registers keep their canonical form. -/
def Obligations.VectorRegistersReadBack : Prop :=
  ∀ (x : VecEngine) (n : Nat) (es : List (F32 × Bool)), swf vZero x.v = true → es.length = 64 →
    vReg (putV x n es) n = es.map (fun e => e.1) ∧ (∀ i, (h : i < es.length) → vBad (putV x n es) n i = es[i].2) ∧
    (∀ m, m ≠ n → vReg (putV x n es) m = vReg x m ∧ ∀ i, i < 64 → vBad (putV x n es) m i = vBad x m i) ∧ swf vZero (putV x n es).v = true

/-- The sixteen vector instructions on a panel that is in use (R192, R193): the elementwise ones, LD and ST of the command at hand, the reductions and PHASE, each with its clocks counted. -/
def Obligations.VectorInstructions : Prop :=
  ∀ (s : State) (p : Nat), p < 48 → isolated s p = false →
    exec (.vNop p) s = .next (countVec p 1 s) ∧
    (∀ d a b, d < 32 → a < 32 → b < 32 →
      exec (.vAdd p d a b) s = .next (countVec p 1 (setVec p (vBinary fAdd (vecOf s p) d a b) s)) ∧
      exec (.vSub p d a b) s = .next (countVec p 1 (setVec p (vBinary fSub (vecOf s p) d a b) s)) ∧
      exec (.vMul p d a b) s = .next (countVec p 1 (setVec p (vBinary fMul (vecOf s p) d a b) s)) ∧
      (∀ c, c < 32 → exec (.vFma p d a b c) s = .next (countVec p 1 (setVec p (vTernary (vecOf s p) d a b c) s))) ∧
      exec (.vMax p d a b) s = .next (countVec p 1 (setVec p (vBinary fMax (vecOf s p) d a b) s)) ∧
      exec (.vMin p d a b) s = .next (countVec p 1 (setVec p (vBinary fMin (vecOf s p) d a b) s)) ∧
      exec (.vDiv p d a b) s = .next (countVec p 4 (setVec p (vBinary fDiv (vecOf s p) d a b) s)) ∧
      exec (.vExp p d a) s = .next (countVec p 4 (setVec p (vUnary fExp (vecOf s p) d a) s)) ∧
      exec (.vRcp p d a) s = .next (countVec p 4 (setVec p (vUnary fRcp (vecOf s p) d a) s)) ∧
      exec (.vRsq p d a) s = .next (countVec p 4 (setVec p (vUnary fRsq (vecOf s p) d a) s)) ∧
      exec (.vRsum p d a) s = .next (countVec p 1 (setVec p (vReduce true (vecOf s p) d a) s)) ∧
      exec (.vRmax p d a) s = .next (countVec p 1 (setVec p (vReduce false (vecOf s p) d a) s))) ∧
    (∀ d a c, d < 32 → a < 4 → (vecOf s p).cmd = some c →
      exec (.vLd p d a) s = .next (countVec p 1 (setVec p (vLoad s (vecOf s p) c d a) s)) ∧
      ∀ t o, stepOf s c.step = some t → t.ops[c.op]? = some o → exec (.vSt p d a) s = .next (countVec p 1 (vStore p t o (vecOf s p) c d a s))) ∧
    exec (.vPhase p) s = .next (countVec p 1 (setVec p { vecOf s p with phase2 := true } s))

/-- Writes of the hem and copies on write while the shuttle runs, and the end of a wait for pages (R206, R215, R217, R224 to R227). -/
def Obligations.CacheEvents : Prop :=
  (∀ s j e, nextJob s = some j → stopped s = false → heldUp s [jobRange s j] = false → exec (.pageWrite e) s = .next (writePage j e s)) ∧
  (∀ s j, s.kvJobs.find? (fun j => j.started && !j.done) = some j → (seqOf s j.seq).gen = j.gen →
    exec .hemWriteComplete s = .next (pinsParked j.seq { s with kvJobs := s.kvJobs.map (fun k => if k = j then { k with done := true } else k) })) ∧
  (∀ s seq layer j e, s.cowJobs.find? (fun j => j.seq == seq && j.layer == layer) = some j → stopped s = false → rdB s 0x100028 0 = true → heldUp s [pageRange j.src, pageRange j.dst] = false →
    exec (.cowCopyComplete seq layer e) s = .next (copyPage j e s)) ∧
  (∀ s seq, 4000 ≤ (seqOf s seq).pageWait → ((seqOf s seq).state = .idle ∨ (seqOf s seq).state = .ready) →
    exec (.pageWaitLimit seq) s = .next (endSeq seq 7 0x0303 0 (hemError 4 seq 0xFFFFFFFF s)))

/-- The moves of the shuttle (R302 to R304): a firmware channel, neither stopped nor paused, whose head descriptor moves, with no channel that it touches in retrain (R271), carries out the operation that the descriptor names. -/
def Obligations.ShuttleMoves : Prop :=
  ∀ (s : State) (ch : Nat) (e : MoveErrors), 56 ≤ ch → ch < 64 → stopped s = false → (chanOf s ch).paused = false → (chanOf s ch).phase = .moving →
    heldUp s (descRanges s (chCtx s ch) (chanOf s ch).bits) = false →
    (dOp (chanOf s ch).bits = 0 → exec (.shuttleCopy ch e) s = .next (settleMove ch (moveCopy (.shuttle ch) (chCtx s ch) (dSrc (chanOf s ch).bits) (dDst (chanOf s ch).bits) (dLen (chanOf s ch).bits) e s))) ∧
    (dOp (chanOf s ch).bits = 1 → exec (.shuttleFill ch) s = .next (settleMove ch (moveFill (.shuttle ch) (chCtx s ch) (dDst (chanOf s ch).bits) (dLen (chanOf s ch).bits) (dFill (chanOf s ch).bits) s))) ∧
    (dOp (chanOf s ch).bits = 2 → exec (.shuttleCompare ch e) s = .next (settleMove ch (moveCompare (.shuttle ch) (chCtx s ch) (dSrc (chanOf s ch).bits) (dDst (chanOf s ch).bits) (dLen (chanOf s ch).bits) e s))) ∧
    (dOp (chanOf s ch).bits = 3 → exec (.pageListGather ch e) s = .next (settleMove ch (moveGather ch (chCtx s ch) (dSrc (chanOf s ch).bits) (dDst (chanOf s ch).bits) (dCount (chanOf s ch).bits)
      (dOff (chanOf s ch).bits) (dSpan (chanOf s ch).bits) e s))) ∧
    (dOp (chanOf s ch).bits = 4 → exec (.reduceInto ch e) s = .next (settleMove ch (moveReduce ch (chCtx s ch) (dRtype (chanOf s ch).bits) (dSrc (chanOf s ch).bits) (dDst (chanOf s ch).bits) (dLen (chanOf s ch).bits) e s))) ∧
    (dOp (chanOf s ch).bits = 5 → exec (.shuttleWind ch e) s = .next (settleMove ch (moveWind ch (chCtx s ch) (dSrc (chanOf s ch).bits) (dDst (chanOf s ch).bits) (dDir (chanOf s ch).bits) (dLen (chanOf s ch).bits) e s))) ∧
    (dOp (chanOf s ch).bits = 6 → exec (.shuttleUnwind ch e) s = .next (settleMove ch (moveUnwind ch (chCtx s ch) (dSrc (chanOf s ch).bits) (dDst (chanOf s ch).bits) (dDir (chanOf s ch).bits) (dLen (chanOf s ch).bits) e s)))

/-- A fill in the stacks (R302, R405): byte i of the destination reads byte (DST + i) mod 8 of FILL to the channel's context, every other byte reads as before, and the move counts every byte done with no failed access. -/
def Obligations.FillWritesPattern : Prop :=
  ∀ (s : State) (ch ctx dst len pat : Nat), Canonical s → inStack s dst len = true →
    (moveFill (.shuttle ch) ctx dst len pat s).bad = none ∧ (moveFill (.shuttle ch) ctx dst len pat s).done = len ∧
    (∀ i, i < len → byteAs (moveFill (.shuttle ch) ctx dst len pat s).s ctx (dst + i) = BitVec.ofNat 8 (natBits pat (8 * ((dst + i) % 8) + 7) (8 * ((dst + i) % 8)))) ∧
    ∀ b, (b < dst ∨ dst + len ≤ b) → byteAs (moveFill (.shuttle ch) ctx dst len pat s).s ctx b = byteAs s ctx b

/-- A channel's descriptors and registers (R300 to R312): the head is taken, a trigger that is met starts the move, one that failed completes the descriptor, one that waits leaves everything, a finished move gets its record, an access outside every region stops the shuttle, and a resume ends the stop and carries out the moves of carry slots that waited for it; a channel enabled with its rings placed in memory starts at head 0 with TAIL 0 (R300), and a descriptor that still moves keeps its own slot for its record (R307), RESUME ends its pause (R311), TAIL takes the value written. -/
def Obligations.ShuttleControl : Prop :=
  (∀ s ch, 56 ≤ ch → ch < 64 → chEnabled s ch = true → (chanOf s ch).phase = .idle → (chanOf s ch).head ≠ chTail s ch → stopped s = false → (chanOf s ch).paused = false →
    heldUp s [(headAt s ch, 64)] = false → exec (.shuttleDescHead ch) s = .next (takeHead ch s)) ∧
  (∀ s ch, 56 ≤ ch → ch < 64 → stopped s = false → (chanOf s ch).paused = false → (chanOf s ch).phase = .waiting →
    (trigNow s (chanOf s ch) = .fires → exec (.shuttleTriggerFire ch) s = .next (setChan ch { chanOf s ch with phase := .moving } s)) ∧
    (trigNow s (chanOf s ch) = .fails → exec (.shuttleTriggerFire ch) s = .next (chComplete ch 0x0203 s)) ∧
    (trigNow s (chanOf s ch) = .waits → exec (.shuttleTriggerFire ch) s = .next s) ∧
    (dTrig (chanOf s ch).bits = 0 ∨ dTrig (chanOf s ch).bits = 1 ∧ serialAtLeast 64 s.tape (dTime (chanOf s ch).bits) = true → trigNow s (chanOf s ch) = .fires)) ∧
  (∀ s ch, 56 ≤ ch → ch < 64 → (chanOf s ch).phase = .moved → heldUp s [(recordAt s ch, 32)] = false → exec (.shuttleDescComplete ch) s = .next (chComplete ch (chanOf s ch).status s)) ∧
  (∀ s ch addr, ch < 64 → addr < 2 ^ 48 → inMap s addr 1 = false → exec (.shuttleBusError ch addr) s = .next (busStop addr (bump 0x50028 1 s))) ∧
  (∀ s ch addr, inMap s addr 1 = true → exec (.shuttleBusError ch addr) s = .next s) ∧
  (∀ s, exec .shuttleResume s = .next (movesResumed (wrB 0x300000 63 false s))) ∧
  (∀ s, Canonical s → (∀ t ∈ s.steps, ∀ c, t.carry = some c → c.waits = false) →
    ∃ t, exec .shuttleResume s = .next t ∧ stopped t = false ∧ t = { s with regs := t.regs } ∧ ∀ a, a ≠ 0x300000 → rd t a = rd s a) ∧
  (∀ s ch value, 56 ≤ ch → ch < 64 → exec (.chCtrlEnable ch value) s = .next (writeChannel ch value s)) ∧
  (∀ s ch value x, Canonical s → x = chanOf s ch → 56 ≤ ch → ch < 64 → chEnabled s ch = false → getBit value 63 = true → getBit value 62 = false → ringPlaced s (getBits value 47 6 * 64) (64 * 2 ^ (getBits value 50 48 + 1)) = true →
    ringPlaced s (rdF s (chCtrl ch + 0x10) 47 5 * 32) (32 * 2 ^ (getBits value 50 48 + 1)) = true → ∃ t, exec (.chCtrlEnable ch value) s = .next t ∧
      chEnabled t ch = true ∧ t.channels = (setChan ch { x with head := 0, slot := if x.phase = .moving ∨ x.phase = .moved then some (x.slot.getD x.head) else none } s).channels ∧ chTail t ch = 0 ∧ rdF t (chCtrl ch) 47 6 = getBits value 47 6 ∧ rdF t (chCtrl ch) 50 48 = getBits value 50 48 ∧
      t = { s with regs := t.regs, channels := t.channels } ∧ ∀ a, a ≠ chCtrl ch → a ≠ chCtrl ch + 8 → rd t a = rd s a) ∧
  (∀ s ch value, 56 ≤ ch → ch < 64 → getBit value 62 = true →
    exec (.chCtrlResume ch value) s = .next (setChan ch { chanOf (writeChCtrl ch value s) ch with paused := false } (writeChCtrl ch value s))) ∧
  (∀ s ch value, Canonical s → 56 ≤ ch → ch < 64 → ∃ t, exec (.chTailWrite ch value) s = .next t ∧ rdF t (chCtrl ch + 8) 7 0 = getBits value 7 0 ∧
    t = { s with regs := t.regs } ∧ ∀ a, a ≠ chCtrl ch + 8 → rd t a = rd s a)

/-- Atomics (R266): each acts on one naturally aligned word and returns the word's old value; REF_INC saturates; REF_DEC returns ZERO when the new value is 0, and of 0 it returns UNDERFLOW, which is counted and recorded and never enters a page in the deferred list; a misaligned atomic is an out-of-range access; one on a poisoned word changes no memory and returns poison (R267), and where it is a page's count that the plan engine increments, the page is leaked (R228); one on a channel in retrain waits (R271). -/
def Obligations.AtomicsActInSlices : Prop :=
  (∀ (s : State) (who : Requester) (a v : Nat), Canonical s → v < 2 ^ 32 → AtomicActs who a 4 s →
    (∃ t, exec (.addI32 who a v) s = .next t ∧ AtomicGives who a 4 ((wordAs s (atomicCtx s who) a 4 + v) % 2 ^ 32) false false s t) ∧
    (∃ t, exec (.addF32 who a v) s = .next t ∧ AtomicGives who a 4 (fAdd (BitVec.ofNat 32 (wordAs s (atomicCtx s who) a 4)) (BitVec.ofNat 32 v)).toNat false false s t) ∧
    (∃ t, exec (.minI32 who a v) s = .next t ∧
      AtomicGives who a 4 (if toSigned 32 v < toSigned 32 (wordAs s (atomicCtx s who) a 4) then v else wordAs s (atomicCtx s who) a 4) false false s t) ∧
    (∃ t, exec (.maxI32 who a v) s = .next t ∧
      AtomicGives who a 4 (if toSigned 32 (wordAs s (atomicCtx s who) a 4) < toSigned 32 v then v else wordAs s (atomicCtx s who) a 4) false false s t) ∧
    (∃ t, exec (.minF32 who a v) s = .next t ∧ AtomicGives who a 4 (fMin (BitVec.ofNat 32 (wordAs s (atomicCtx s who) a 4)) (BitVec.ofNat 32 v)).toNat false false s t) ∧
    (∃ t, exec (.maxF32 who a v) s = .next t ∧ AtomicGives who a 4 (fMax (BitVec.ofNat 32 (wordAs s (atomicCtx s who) a 4)) (BitVec.ofNat 32 v)).toNat false false s t)) ∧
  (∀ (s : State) (who : Requester) (wide : Bool) (a v : Nat), Canonical s → v < 2 ^ (8 * wordBytes wide) → AtomicActs who a (wordBytes wide) s →
    (∃ t, exec (.andOp who wide a v) s = .next t ∧ AtomicGives who a (wordBytes wide) (wordAs s (atomicCtx s who) a (wordBytes wide) &&& v) false false s t) ∧
    (∃ t, exec (.orOp who wide a v) s = .next t ∧ AtomicGives who a (wordBytes wide) (wordAs s (atomicCtx s who) a (wordBytes wide) ||| v) false false s t) ∧
    ∀ compare, compare < 2 ^ (8 * wordBytes wide) → ∃ t, exec (.cas who wide a compare v) s = .next t ∧
      AtomicGives who a (wordBytes wide) (if wordAs s (atomicCtx s who) a (wordBytes wide) = compare then v else wordAs s (atomicCtx s who) a (wordBytes wide)) false false s t) ∧
  (∀ (s : State) (who : Requester) (a : Nat), Canonical s → AtomicActs who a 4 s →
    (∃ t, exec (.refInc who a) s = .next t ∧ AtomicGives who a 4 (min (wordAs s (atomicCtx s who) a 4 + 1) (2 ^ 32 - 1)) false false s t) ∧
    ∃ t, exec (.refDec who a) s = .next t ∧
      AtomicGives who a 4 (wordAs s (atomicCtx s who) a 4 - 1) (decide (wordAs s (atomicCtx s who) a 4 = 1)) (decide (wordAs s (atomicCtx s who) a 4 = 0)) s { t with deferred := s.deferred } ∧
      (wordAs s (atomicCtx s who) a 4 ≠ 1 → t.deferred = s.deferred) ∧
      (wordAs s (atomicCtx s who) a 4 = 0 →
        (rd t (sliceReg (sliceOf a) 0x20)).toNat = min ((rd s (sliceReg (sliceOf a) 0x20)).toNat + 1) (2 ^ 64 - 1) ∧
        rd t (sliceReg (sliceOf a) 0x40) = BitVec.ofNat 64 (2 ^ 63 + 2 * 2 ^ 60 + a / 64 % 2 ^ 42))) ∧
  (∀ (s : State) (who : Requester) (a v compare : Nat) (c : Instr), Canonical s → (∀ ch, who ≠ .shuttle ch) → stallsAt s a = false →
    (a % 4 ≠ 0 ∧ c ∈ [.addI32 who a v, .addF32 who a v, .minI32 who a v, .maxI32 who a v, .minF32 who a v, .maxF32 who a v, .andOp who false a v, .orOp who false a v,
        .cas who false a compare v, .refInc who a, .refDec who a] ∨
      a % 8 ≠ 0 ∧ c ∈ [.andOp who true a v, .orOp who true a v, .cas who true a compare v]) →
    ∃ t, exec c s = .next t ∧ t.lastAtomic = ⟨0, false, false, true, true⟩ ∧ t = { s with regs := t.regs, lastAtomic := t.lastAtomic } ∧
      (rd t 0x50028).toNat = min ((rd s 0x50028).toNat + 1) (2 ^ 64 - 1)) ∧
  (∀ (s : State) (who : Requester) (wide : Bool) (a v compare : Nat) (c : Instr), stallsAt s a = true →
    c ∈ [.addI32 who a v, .addF32 who a v, .minI32 who a v, .maxI32 who a v, .minF32 who a v, .maxF32 who a v, .andOp who wide a v, .orOp who wide a v,
      .cas who wide a compare v, .refInc who a, .refDec who a] → exec c s = .next { s with stalled := s.stalled ++ [c] }) ∧
  (∀ (s : State) (a p : Nat), pageAtRef s a = some p → stallsAt s a = false → (atomicStep .planEngine a 4 incWord s).lastAtomic.poisoned = true →
    exec (.refInc .planEngine a) s = .next (leakPage 0 p (atomicStep .planEngine a 4 incWord s))) ∧
  ∀ (s : State) (who : Requester) (a n v compare : Nat) (c : Instr), a % n = 0 → (inStack s a n = true ∨ inScratch s a n = true) → anyPoison s a n = true → stallsAt s a = false →
    (n = 4 ∧ c ∈ [.addI32 who a v, .addF32 who a v, .minI32 who a v, .maxI32 who a v, .minF32 who a v, .maxF32 who a v, .andOp who false a v, .orOp who false a v,
        .cas who false a compare v] ∨
      n = 4 ∧ who ≠ .planEngine ∧ c = .refInc who a ∨ n = 8 ∧ c ∈ [.andOp who true a v, .orOp who true a v, .cas who true a compare v]) →
    ∃ t, exec c s = .next t ∧ t.lastAtomic = ⟨wordAs s (atomicCtx s who) a n, false, false, true, false⟩ ∧ t = { s with free := t.free, cache := t.cache, regs := t.regs, lastAtomic := t.lastAtomic }

/-- One line access without a bit error, and the scrubber (R253 to R259, R271, R405, R435): an access of a channel in retrain waits; a read returns the bytes of the line from the address on as the context reads them, with the poison of their units; a write of bytes of one line in the stacks is read back and leaves every other byte; outside every region the answer is zeros, poisoned, with a bus error. -/
def Obligations.LineAccesses : Prop :=
  (∀ s who addr ctx step, Canonical s → inStack s addr (64 - addr % 64) = true → stallsAt s addr = false →
    ∃ t, exec (.memoryAccess who addr ctx .read [] step) s = .next t ∧
      t.lastResp = ⟨(List.range (64 - addr % 64)).map (fun i => byteAs s ctx (addr + i)), anyPoison s addr (64 - addr % 64), false⟩ ∧
      t = { s with free := t.free, laneBits := t.laneBits, cache := t.cache, regs := t.regs, lastResp := t.lastResp }) ∧
  (∀ s who addr ctx bytes step, Canonical s → bytes ≠ [] → addr % 64 + bytes.length ≤ 64 → inStack s addr bytes.length = true → stallsAt s addr = false →
    ∃ t, exec (.memoryAccess who addr ctx (.write bytes) [] step) s = .next t ∧ t.lastResp.busError = false ∧
      (∀ i, (h : i < bytes.length) → byteAs t ctx (addr + i) = bytes[i]) ∧ (∀ b, (b < addr ∨ addr + bytes.length ≤ b) → byteAs t ctx b = byteAs s ctx b) ∧
      t = { s with free := t.free, laneBits := t.laneBits, mem := t.mem, lineKey := t.lineKey, poison := t.poison, cache := t.cache, regs := t.regs, lastResp := t.lastResp }) ∧
  (∀ s who addr ctx err step, Canonical s → inMemory s addr 1 = false → inMap s addr (64 - addr % 64) = false → stallsAt s addr = false → (∀ ch, who ≠ .shuttle ch) →
    ∃ t, exec (.memoryAccess who addr ctx .read err step) s = .next t ∧ t.lastResp = ⟨List.replicate (64 - addr % 64) 0, true, true⟩ ∧
      t = { s with regs := t.regs, lastResp := t.lastResp } ∧ (rd t 0x50028).toNat = min ((rd s 0x50028).toNat + 1) (2 ^ 64 - 1)) ∧
  (∀ s who addr ctx op err step, stallsAt s addr = true →
    exec (.memoryAccess who addr ctx op err step) s = .next { s with stalled := s.stalled ++ [.memoryAccess who addr ctx op err step] }) ∧
  (∀ s line err, rdB s 0x50010 63 = true → line / 64 * 64 < capacity s → stallsAt s (line / 64 * 64) = false → (scrubPass s).scrubbed.contains (line / 64 * 64) = false →
    exec (.patrolScrub line err) s = .next (scrubLine (line / 64 * 64) err (scrubPass s)))

/-- Lanes, retrains and margin runs of a channel (R40, R271 to R277, R345). -/
def Obligations.ChannelEvents : Prop :=
  (∀ s ch lane lost, ch < 384 → laneServes s ch lane = true → s.failing.contains (128 * ch + lane) = false → s.unspared.contains (128 * ch + lane) = false → rdB s (chStatus ch) 63 = true →
    (lost = true ∨ failLimit s ≤ bitsOn s ch lane) →
    (0 < sparesFree s ch → exec (.laneFailing ch lane lost) s = .next (laneSpared ch lane s)) ∧ (sparesFree s ch = 0 → exec (.laneFailing ch lane lost) s = .next (laneDegraded ch lane s))) ∧
  (∀ s ch, ch < 384 → s.retrainDue.contains ch = true → rdB s (chStatus ch) 61 = false → retrainWaits s ch = false → exec (.retrain ch) s = .next (beginRetrain ch s)) ∧
  (∀ s ch, ch < 384 → rdB s (chStatus ch) 61 = true → exec (.retrainComplete ch) s = .next (serveStalled ch (endRetrain ch s))) ∧
  (∀ s value, Canonical s → getBit value 63 = true → getBits value 8 0 ≤ 383 → rdB s 0x50018 62 = false →
    ∃ t, exec (.memRetrainStart value) s = .next t ∧ rdF t 0x50018 8 0 = getBits value 8 0 ∧ rdB t 0x50018 62 = true ∧
      t.retrainDue = insNat s.retrainDue (getBits value 8 0) ∧ t = { s with regs := t.regs, retrainDue := t.retrainDue } ∧
      (s.frozen = false → s.retrained = false → rdB s 0x100028 4 = false → rdB t 0x100028 1 = true ∧ rdF t 0x100018 31 0 = budgetOf t true % 2 ^ 32)) ∧
  (∀ s ch beats bad m, marginOf s ch = some m → m.waiter = none → exec (.marginRunEnd ch beats bad) s = .next (recordMargin ch beats bad m s)) ∧
  (∀ s ch beats bad m w, marginOf s ch = some m → m.waiter = some w →
    exec (.marginRunEnd ch beats bad) s = .next (respondTo w 0 (leBytes 8 beats ++ leBytes 4 bad) (recordMargin ch beats bad m s))) ∧
  (∀ s slice ch value, slice < 24 → ch < 16 → marginOf s (16 * slice + ch) = none → getBit value 63 = false →
    exec (.chMarginStart slice ch value) s =
      .next (wrF (chMargin (16 * slice + ch)) 61 42 (getBits value 61 42) (wrF (chMargin (16 * slice + ch)) 15 0 (getBits value 15 0) s))) ∧
  (∀ s slice ch value, Canonical s → slice < 24 → ch < 16 → marginOf s (16 * slice + ch) = none → getBit value 63 = true → getBits value 60 54 ≤ 79 →
    getBits value 15 0 ≠ 0 → 0 < sparesFree s (16 * slice + ch) → rdB s (chStatus (16 * slice + ch)) 61 = false →
    exec (.chMarginStart slice ch value) s = .next (startMargin (16 * slice + ch) (getBits value 60 54) (getBits value 15 0) false none
      (wrF (chMargin (16 * slice + ch)) 61 42 (getBits value 61 42) (wrF (chMargin (16 * slice + ch)) 15 0 (getBits value 15 0) s)))) ∧
  (∀ s dir toff voff dwell c, serving s = true → 2 ≤ rdF s 8 60 59 → 1 ≤ dwell → dwell ≤ 65535 → rotationNext s = some c →
    exec (.marginRotation dir toff voff dwell) s = .next (startMargin c (rotationLane s c) dwell true none (rotatePast c
      (wrF (chMargin c) 61 61 dir (wrF (chMargin c) 60 54 (rotationLane s c) (wrF (chMargin c) 53 48 toff (wrF (chMargin c) 47 42 voff (wrF (chMargin c) 15 0 dwell s))))))))

/-- A frame at an interface that has link (R317, R318). It is counted. A codeword in error or a bad FCS, a size above 9,216, a wrong tag, a fragment or a packet that is not served is dropped and counted with no reply; Neighbour Solicitation, ARP and Echo Requests that are served, the first two for an address of that interface, are answered on it, from its own address and with the port's tag; Obush and Kralyn go on to their own commands. -/
def Obligations.FramesReceived : Prop :=
  ∀ (s u : State) (f : Frame) (p : Nat), f.port < 4 → f.iface < 8 → p = (if f.back then 4 else 0) + f.port → rdB s (portStatus p) f.iface = true → rdF s 8 63 61 ≠ 7 →
    u = bump (portCfg p + 0x28) f.fecCorrected (bump (portCfg p + 0x10) 1 s) →
    (f.fecOk = false → exec (.ethernetFrameReceive f) s = .next (bump (portCfg p + 0x38) 1 (bump (portCfg p + 0x30) 1 u))) ∧
    (f.fecOk = true → f.fcsOk = false → exec (.ethernetFrameReceive f) s = .next (bump (portCfg p + 0x38) 1 (bump (portCfg p + 0x20) 1 u))) ∧
    (f.fecOk = true → f.fcsOk = true → (9216 < f.size ∨ vlanOk s p f.vid = false ∨ f.fragment = true ∨ frameServed u f = false) →
      exec (.ethernetFrameReceive f) s = .next (bump (portCfg p + 0x38) 1 u)) ∧
    (f.fecOk = true → f.fcsOk = true → f.size ≤ 9216 → vlanOk s p f.vid = true → f.fragment = false →
      (f.kind = 1 ∧ (ifaceAddrs u p f.iface 6).contains f.target = true ∨
        f.kind = 2 ∧ (ifaceAddrs u p f.iface 4).contains f.target = true ∧ rdB s (if f.back then 0xB00000 else 0xA00000) (if f.back then 62 else 63) = true ∨ f.kind = 3 ∧ rdB s 0xA00000 62 = true ∨
        f.kind = 7 ∧ rdB s (if f.back then 0xB00000 else 0xA00000) (if f.back then 62 else 63) = true ∧ rdB s 0xA00000 62 = true →
        ∃ t, exec (.ethernetFrameReceive f) s = .next t ∧ t.out = .link f.kind f.target (wireOf u p f.iface (decide (f.kind = 1 ∨ f.kind = 3)) 0 0) :: s.out ∧ t = { bump (portCfg p + 0x18) 1 u with out := t.out }) ∧
      (f.kind = 5 → f.udpPort = rdF s (if f.back then 0xB00000 else 0xA00000) 15 0 → f.checksumOk = true → exec (.ethernetFrameReceive f) s = .next u) ∧
      (f.kind = 6 → rdB s (if f.back then 0xB00000 else 0xA00000) (if f.back then 62 else 63) = true → f.udpPort = rdF s (if f.back then 0xB00000 else 0xA00000) 15 0 → f.checksumOk = true →
        exec (.ethernetFrameReceive f) s = .next u))

/-- A datagram of Obush at a device that is awake (R325, R326, R328): a bad header or tag is counted and goes no further; an acknowledgement is acted on; the next message is admitted; an old one is acknowledged again; one beyond the next is counted. Its bits are charged to its mailbox (R420). A device that sleeps takes none (R429). -/
def Obligations.DatagramsReceived : Prop :=
  (∀ s d a e, asleep s = true → exec (.obushDatagramReceive d a e) s = .next s) ∧
  (∀ s d a e u, asleep s = false → u = bump 0xA00018 1 (charge d.mailbox 0 (frameBits (!(mappedV4 a.peer.addr)) (decide (rdF s (portCfg a.peer.port) 43 32 ≠ 0)) a.udpLength) s) →
    obHeaderBad d a u = true → exec (.obushDatagramReceive d a e) s = .next (bump 0xA00028 1 u)) ∧
  (∀ s d a e x u, asleep s = false → u = bump 0xA00018 1 (charge d.mailbox 0 (frameBits (!(mappedV4 a.peer.addr)) (decide (rdF s (portCfg a.peer.port) 43 32 ≠ 0)) a.udpLength) s) →
    obHeaderBad d a u = false → x = sessionOf u (sessionKey d.mailbox (d.flags % 16)) →
    (d.tag ≠ Config.gcmTag x.key (obushNonce x.salt (if flagAck d.flags then 2 else 0) (d.flags % 16) d.mailbox (if flagAck d.flags then d.correlation else d.msn)) (headerBytes d) d.payload →
      exec (.obushDatagramReceive d a e) s = .next (bump 0xA00030 1 u)) ∧
    (d.tag = Config.gcmTag x.key (obushNonce x.salt (if flagAck d.flags then 2 else 0) (d.flags % 16) d.mailbox (if flagAck d.flags then d.correlation else d.msn)) (headerBytes d) d.payload →
      (flagAck d.flags = true → exec (.obushDatagramReceive d a e) s = .next (takeAck d u)) ∧
      (flagAck d.flags = false → d.msn = x.rxNext → exec (.obushDatagramReceive d a e) s = .next (admitMessage d a e u)) ∧
      (flagAck d.flags = false → d.msn ≠ x.rxNext → serialLater 32 x.rxNext d.msn = true →
        exec (.obushDatagramReceive d a e) s = .next (oweAck d.mailbox (d.flags % 16) (bump 0xA00038 1 u))) ∧
      (flagAck d.flags = false → d.msn ≠ x.rxNext → serialLater 32 x.rxNext d.msn = false →
        exec (.obushDatagramReceive d a e) s = .next (oweAck d.mailbox (d.flags % 16) (bump 0xA00040 1 u)))))

/-- A retransmission timeout of a session (R332), and a release of a mailbox slot, after which the turn is past its tenant (R328, R334, R337). -/
def Obligations.TransportEvents : Prop :=
  (∀ s m k u x, (sessionOf s (sessionKey m k)).live = true → (sessionOf s (sessionKey m k)).unacked ≠ [] →
    u = runTo ((sessionOf s (sessionKey m k)).timer + rdF s 0xA00010 23 0) s → x = sessionOf u (sessionKey m k) →
    (x.expiries + 1 < rdF u 0xA00010 55 48 → exec (.obushRetransmitTimeout m k) s = .next (x.unacked.foldl (fun z d => transmit x d (bump 0xA00058 1 z))
      (setSession (sessionKey m k) { x with expiries := x.expiries + 1, timer := u.tape } u))) ∧
    (rdF u 0xA00010 55 48 ≤ x.expiries + 1 → exec (.obushRetransmitTimeout m k) s = .next (noticeSessions 8 [(16, m, k % 16, x.unacked.length + x.queue.length)]
      (endSession (sessionKey m k) u)))) ∧
  (∀ s m value, m < 66 → getBit value 62 = true → slotKind s m (getBits value 23 16) = .control →
    exec (.mboxRelease m value) s = .next (setSlotKind m (getBits value 23 16) .free { writeFields (mboxCfg m) value s with boxTurn := if m < 64 then m else s.boxTurn })) ∧
  (∀ s m value, m < 66 → getBit value 62 = false → exec (.mboxRelease m value) s = .next (writeFields (mboxCfg m) value s)) ∧
  (∀ s back port, port < 4 → rdB s (portCfg ((if back then 4 else 0) + port)) 63 = true →
    exec (.modeChangeComplete back port) s = .next (raiseLinks ((if back then 4 else 0) + port) (wrB (portCfg ((if back then 4 else 0) + port)) 63 false s)))

/-- Sleep, samples, the trip, gating and droop (R414, R416, R421 to R432): a wake frame is held while the device enters sleep and judged while it sleeps; a good one wakes it; a droop is counted and lengthens the clocks until it ends; an estimate above 1,400 W gates issue. -/
def Obligations.PowerEvents : Prop :=
  (∀ (s : State) (f : MacFrame), thState s = 1 → exec (.wakeFrame f) s = .next { s with thimble := { s.thimble with heldFrames := s.thimble.heldFrames ++ [f] } }) ∧
  (∀ (s : State) (f : MacFrame), asleep s = true → acting s 4 = [] → f.etherType = 0x88B5 → (f.dest = s.fuse.macBase ∨ f.dest = 2 ^ 48 - 1) → 48 ≤ f.data.length → leAt f.data 0 4 = 0x454B4157 →
    leAt f.data 4 8 = s.fuse.deviceId.toNat → (rd s 0xC00018).toNat < leAt f.data 12 8 →
    ((∃ key, s.thimble.wakeKey = some key ∧ leAt f.data 20 1 = 1 ∧ slice f.data 32 16 = kdf "TUITH-WAKE" (key ++ slice f.data 0 32) 16) ∨ s.thimble.wakeKey = none ∧ leAt f.data 20 1 = 0) →
    exec (.wakeFrame f) s = .next (bump 0xC00028 1 (wake (wr 0xC00018 (BitVec.ofNat 64 (leAt f.data 12 8)) s)))) ∧
  (∀ (s : State) (f : MacFrame), asleep s = true → acting s 4 = [] → (f.etherType ≠ 0x88B5 ∨ leAt f.data 4 8 ≠ s.fuse.deviceId.toNat ∨ leAt f.data 12 8 ≤ (rd s 0xC00018).toNat ∨ leAt f.data 20 1 = 0 ∧ s.thimble.wakeKey ≠ none ∨ leAt f.data 20 1 ≠ 0 ∧ s.thimble.wakeKey = none) →
    exec (.wakeFrame f) s = .next (bump 0xC00030 1 s)) ∧
  (∀ s, thState s = 1 → s.steps.all (fun t => decide (t.phase = .stageDone)) = true →
    exec .sleepEntryComplete s = .next (judgeHeld (if s.sleepTo = 1 then sleepRetained s else sleepOff 8 s))) ∧
  (∀ s readings, s.pins.resetLow = false → s.pins.clockLost = false →
    exec (.thimbleSample readings) s = .next (judge readings (!((acting s 4).isEmpty)) (!((setEntries s 1).isEmpty)) (sampleAll readings s))) ∧
  (∀ s die, s.pins.resetLow = false → die < 6 → ∃ t, exec (.thermalTrip die) s = .next t ∧ t = trip s ∧ t.pins.rails = [] ∧ t.pins.faultLow = true) ∧
  (∀ s watts, Canonical s → rdB s 0x800018 63 = false → (1400 < watts ∨ rdF s 0x800000 10 0 < watts ∧ 4999 ≤ s.power.above) →
    ∃ t, exec (.powerMonitorSample watts) s = .next t ∧ rdB t 0x800018 63 = true ∧ (rd t 0x800040).toNat = min ((rd s 0x800040).toNat + 1) (2 ^ 64 - 1) ∧
      t = { s with regs := t.regs, power := t.power }) ∧
  (∀ s watts, watts ≤ 1400 → watts ≤ rdF s 0x800000 10 0 → exec (.powerMonitorSample watts) s = .next { s with power := { s.power with above := 0 } }) ∧
  (∀ s, Canonical s → ∃ t, exec .droopTrip s = .next t ∧ t.power.droop = true ∧ (rd t 0x800030).toNat = min ((rd s 0x800030).toNat + 1) (2 ^ 64 - 1) ∧
    t = { s with regs := t.regs, power := t.power }) ∧
  (∀ s, s.power.droop = true → ∃ t, exec .droopEnd s = .next t ∧ t.power.droop = false ∧ t = { s with regs := t.regs, power := t.power }) ∧
  (∀ s value, Canonical s → s.thimble.wdogAt ≠ none → getBit value 63 = true →
    ∃ t, exec (.thWdogPet value) s = .next t ∧ t.thimble.wdogAt = some (s.tape + wdogNs t) ∧ t = { s with regs := t.regs, thimble := t.thimble } ∧
      (10 ≤ getBits value 15 0 → getBits value 15 0 ≤ 1000 → rdF t 0xC00008 15 0 = getBits value 15 0))

/-- A sample of a thimble channel (R422): y becomes y + ⌊(x − y) ÷ 2^A⌋, A the channel's ALPHA; at cold reset, which the first sample follows, y takes the first sample. -/
def Obligations.SamplesAreFiltered : Prop :=
  ∀ (s : State) (c : Nat) (x : Int), Canonical s → c < 15 → -32768 ≤ x → x ≤ 32767 →
    toSigned 16 (rdF (sampleChannel c (.value x) s) (thCh c) 63 48) = x ∧ rdB (sampleChannel c (.value x) s) (thCh c) 31 = true ∧
    (s.thimble.primed.contains c = true → filt (sampleChannel c (.value x) s) c = filt s c + (x - filt s c) / ((2 ^ rdF s (thCh c) 2 0 : Nat) : Int)) ∧
    (s.thimble.primed.contains c = false → filt (sampleChannel c (.value x) s) c = x) ∧
    filt (sampleChannel c .failed s) c = filt s c ∧ rdB (sampleChannel c .failed s) (thCh c) 31 = false

/-- Monitors (R440 to R442, R444 to R447): a sample of an enabled monitor with DELTA clear enters the capture, which counts it and keeps least, greatest and sum, with DELTA set the first only sets the base and a later one enters as the difference; a write of MON_CFG clears the capture; a quarantine pause that runs out ends every sequence of its model with 0x0401, and its tenants are told, unless the last of its lines was restored before. -/
def Obligations.MonitorEvents : Prop :=
  (∀ s m event v, m < 32 → rdB s (monCfg m) 63 = true → sourceValue s m event = some v → rdB s (monCfg m) 0 = false →
    exec (.monitorSample m event) s = .next (capture m v s)) ∧
  (∀ s m event v, m < 32 → rdB s (monCfg m) 63 = true → sourceValue s m event = some v → rdB s (monCfg m) 0 = true → (monOf s m).prev = none →
    exec (.monitorSample m event) s = .next (setMon m { monOf s m with prev := some v } s)) ∧
  (∀ s m event v p, m < 32 → rdB s (monCfg m) 63 = true → sourceValue s m event = some v → rdB s (monCfg m) 0 = true → (monOf s m).prev = some p →
    exec (.monitorSample m event) s = .next (capture m (toSigned 64 (ofSigned 64 (v - p))) (setMon m { monOf s m with prev := some v } s))) ∧
  (∀ s m value, Canonical s → m < 32 → ∃ t, exec (.monCfgWrite m value) s = .next t ∧ rdB t (monCfg m) 63 = getBit value 63 ∧ rdF t (monCfg m) 55 48 = getBits value 55 48 ∧
    rd t (monCfg m + 0x30) = 0 ∧ rd t (monCfg m + 0x38) = 0 ∧ rd t (monCfg m + 0x18) = 0 ∧ t = { s with regs := t.regs, monitors := t.monitors }) ∧
  (∀ s m event v, Canonical s → m < 32 → rdB s (monCfg m) 63 = true → (rdF s (monCfg m) 55 48 = 2 ∨ rdF s (monCfg m) 55 48 = 3 ∨ rdF s (monCfg m) 55 48 = 7) → rdB s (monCfg m) 0 = false →
    v = toSigned 64 event → ∃ t, exec (.monitorSample m event) s = .next t ∧
      (rd t (monCfg m + 0x30)).toNat = min (2 ^ 64 - 1) ((rd s (monCfg m + 0x30)).toNat + 1) ∧
      rd t (monCfg m + 0x20) = BitVec.ofInt 64 (min (toSigned 64 (rd s (monCfg m + 0x20)).toNat) v) ∧
      rd t (monCfg m + 0x28) = BitVec.ofInt 64 (max (toSigned 64 (rd s (monCfg m + 0x28)).toNat) v) ∧
      rd t (monCfg m + 0x38) = BitVec.ofInt 64 (max (-(2 ^ 63 - 1)) (min (2 ^ 63 - 1) (toSigned 64 (rd s (monCfg m + 0x38)).toNat + v))) ∧
      t = { s with regs := t.regs, monitors := t.monitors, free := t.free }) ∧
  (∀ s u model t, (modelOf s model).pause = some t → u = runTo t s → pauseOn (modelOf u model) = true →
    ((modelOf u model).lift = true → exec (.quarantinePauseExpire model) s = .next u) ∧
    ((modelOf u model).lift = false → exec (.quarantinePauseExpire model) s = .next (notify 18 54 (tenantsOnModel u model) (if (modelOf u model).owner < 64 then (modelOf u model).owner else 0xFFFF) model (leBytes 1 1)
      ((seqsOfModel u model).foldl (fun z n => endSeq n 7 0x0401 0 z) (setModel model { modelOf u model with pause := none } u)))))

/-- Kralyn at a device whose Kralyn is on and that is awake (R361 to R369, R372, R404): set-up, refusal, data, acknowledgement, close and cap messages that arrive whole, a descriptor at a ring's head, a timeout and a loss. -/
def Obligations.KralynMessages : Prop :=
  (∀ s k u, krArrives s k = true → u = bump 0xB00020 1 s → k.tag = setupTag (partitionKey u (leAt k.payload 8 8)) (krHeaderOf 1 k) k.payload → isMember u = true →
    leAt k.payload 8 8 = u.fabric.id → u.fabric.members.contains (leAt k.payload 0 8) = true → max 1 (ownLevel u - 1) ≤ leAt k.payload 17 1 → leAt k.payload 16 1 ≤ ownLevel u →
    connOfPeer u (leAt k.payload 0 8) = none →
    exec (.kralynConnectReceive k) s = .next (acceptConnect k (leAt k.payload 0 8) (min (leAt k.payload 17 1) (ownLevel u)) [] u)) ∧
  (∀ s k u, krArrives s k = true → u = bump 0xB00020 1 s → k.tag ≠ setupTag (partitionKey u (leAt k.payload 8 8)) (krHeaderOf 1 k) k.payload →
    exec (.kralynConnectReceive k) s = .next (bump 0xB00028 1 u)) ∧
  (∀ s k u i, krArrives s k = true → u = bump 0xB00020 1 s → k.tag = setupTag (partitionKey u (leAt k.payload 8 8)) (krHeaderOf 2 k) k.payload → krLookup u k.conn = some i →
    (connOf u i).phase = .connecting → (connOf u i).peer = leAt k.payload 0 8 → (connOf u i).part = leAt k.payload 8 8 →
    exec (.kralynAcceptReceive k) s = .next (openConn i k.aux k.level (connKey u (connOf u i).part (connOf u i).random (slice k.payload 20 32) (connId i (connOf u i)) k.aux)
      (setConn i { connOf u i with peerLevel := leAt k.payload 17 1 } u))) ∧
  (∀ s k u i, krArrives s k = true → u = bump 0xB00020 1 s → k.tag = setupTag (partitionKey u (connOf u i).part) (krHeaderOf 3 k) k.payload → connOfPeer u (leAt k.payload 4 8) = some i →
    (connOf u i).phase = .connecting → leAt k.payload 0 2 ≠ 0x0301 → krLookup u k.conn = some i →
    exec (.kralynRefuseReceive k) s = .next (fillEntry i (failQueued (fun p => p == leAt k.payload 4 8) (leAt k.payload 0 2) (setConn i (connOf u i).freed u)))) ∧
  (∀ s k e u i v t, krArrives s k = true → u = bump 0xB00020 1 s → krLookup u k.conn = some i → (connOf u i).phase ≠ .connecting → k.csn = (connOf u i).rxNext % 2 ^ 32 →
    (k.tag = Config.gcmTag (connOf u i).key (krNonce (connOf u i).salt (if (connOf u i).initiator then 1 else 0) k.csn) (krHeaderOf 4 k) k.payload →
      intoChannel { k with src := (connOf u i).peer } e u = some v → t = firmwareTakes { k with src := (connOf u i).peer } v →
      exec (.kralynDataReceive k e) s = .next (closeFreely i (krOweAck i (setConn i { connOf t i with
        rxNext := (connOf t i).rxNext + 1, used := t.tape, phase := if (connOf t i).rxNext + 1 = 2 ^ 32 - 1 ∧ (connOf t i).phase = .open_ then .closing else (connOf t i).phase } t)))) ∧
    (k.tag = Config.gcmTag (connOf u i).key (krNonce (connOf u i).salt (if (connOf u i).initiator then 1 else 0) k.csn) (krHeaderOf 4 k) k.payload →
      intoChannel { k with src := (connOf u i).peer } e u = none → exec (.kralynDataReceive k e) s = .next (bump 0xB00040 1 u)) ∧
    (k.tag = Config.gcmTag (connOf u i).key (krNonce (connOf u i).salt (if (connOf u i).initiator then 1 else 0) k.csn) (krHeaderOf 7 k) k.payload →
      t = takeCap (connOf u i).peer k.payload u →
      exec (.kralynCapReceive k) s = .next (closeFreely i (krOweAck i (setConn i { connOf t i with
        rxNext := (connOf t i).rxNext + 1, used := t.tape, phase := if (connOf t i).rxNext + 1 = 2 ^ 32 - 1 ∧ (connOf t i).phase = .open_ then .closing else (connOf t i).phase } t))))) ∧
  (∀ s k u i, krArrives s k = true → u = bump 0xB00020 1 s → krLookup u k.conn = some i → (connOf u i).phase ≠ .connecting →
    k.tag = Config.gcmTag (connOf u i).key (krNonce (connOf u i).salt (if (connOf u i).initiator then 3 else 2) k.aux) (krHeaderOf 5 k) k.payload →
    (connOf u i).ackSeen = none → exec (.kralynAckReceive k) s = .next (krAdvance i k u)) ∧
  (∀ s k u i, krArrives s k = true → u = bump 0xB00020 1 s → krLookup u k.conn = some i → (connOf u i).phase ≠ .connecting →
    k.tag = Config.gcmTag (connOf u i).key (krNonce (connOf u i).salt (if (connOf u i).initiator then 1 else 0) k.csn) (krHeaderOf 6 k) k.payload →
    k.csn = (connOf u i).rxNext % 2 ^ 32 → exec (.kralynCloseReceive k) s = .next (settleClose i (setConn i { connOf u i with closeDue := true } u))) ∧
  (∀ s ring, ring < 8 → krOn s = true → asleep s = false → txQueued s ring ≠ [] → exec (.kralynTxDesc ring) s = .next (runDesc ring s)) ∧
  (∀ s i u, (connOf s i).phase ≠ .free → (connOf s i).unacked ≠ [] → u = runTo ((connOf s i).timer + (connOf s i).rto) s →
    exec (.kralynRetransmitTimeout i) s = .next ((connOf u i).unacked.foldl (fun z m => krTransmit (connOf u i).peer (connOf u i).port (connOf u i).iface m.mtype m.header (m.payload ++ m.tag) (bump 0xB00048 1 z))
      (setConn i { connOf u i with timer := u.tape, rto := min 10000000 (2 * (connOf u i).rto) } u)) ∧
    exec (.kralynConnectionLoss i) s = .next (loseConn i (runTo ((connOf s i).advanced + krLossNs s) s)))

/-- The registers of Kralyn's rings (R367, R368, R373): TAIL takes the value written; HEAD does too, and the slots it passes are free; a ring placed in memory that is enabled stands empty, every enabling write goes through that check, and clearing ENABLE disables. -/
def Obligations.KralynRegisters : Prop :=
  (∀ s ring value, ring < 8 → exec (.krTxCtrlEnable ring value) s = .next (writeTxCtrl ring value s)) ∧
  (∀ s channel value, channel < 64 → exec (.krRxCtrlEnable channel value) s = .next (writeRxCtrl channel value s)) ∧
  (∀ s ring value, Canonical s → ring < 8 → ∃ t, exec (.krTxTailWrite ring value) s = .next t ∧ rdF t (txCtrl ring + 8) 7 0 = getBits value 7 0 ∧ t = { s with regs := t.regs } ∧
    ∀ a, a ≠ txCtrl ring + 8 → rd t a = rd s a) ∧
  (∀ s channel value, Canonical s → channel < 64 → ∃ t, exec (.krRxHeadWrite channel value) s = .next t ∧ rdF t (rxCtrl channel + 8) 7 0 = getBits value 7 0 ∧
    t = { s with regs := t.regs, rxHeld := t.rxHeld } ∧ (∀ a, a ≠ rxCtrl channel + 8 → rd t a = rd s a) ∧ ∀ b, b ≠ channel → rxHeldOf t b = rxHeldOf s b) ∧
  (∀ s ring value, Canonical s → ring < 8 → rdB s (txCtrl ring) 63 = false → getBit value 63 = true → ringPlaced s (getBits value 47 5 * 32) (32 * 2 ^ (getBits value 50 48 + 1)) = true →
    ringPlaced s (rdF s (txCtrl ring + 0x10) 47 4 * 16) (16 * 2 ^ (getBits value 50 48 + 1)) = true → ∃ t, exec (.krTxCtrlEnable ring value) s = .next t ∧
      rdB t (txCtrl ring) 63 = true ∧ rdF t (txCtrl ring) 47 5 = getBits value 47 5 ∧ rdF t (txCtrl ring) 50 48 = getBits value 50 48 ∧ txTail t ring = 0 ∧
      t = { s with regs := t.regs, txRings := t.txRings } ∧ ∀ a, a ≠ txCtrl ring → a ≠ txCtrl ring + 8 → rd t a = rd s a) ∧
  (∀ s channel value, Canonical s → channel < 64 → rdB s (rxCtrl channel) 63 = false → getBit value 63 = true →
    ringPlaced s (getBits value 47 10 * 1024) (9216 * 2 ^ (getBits value 50 48 + 1)) = true → ∃ t, exec (.krRxCtrlEnable channel value) s = .next t ∧
      rdB t (rxCtrl channel) 63 = true ∧ rdF t (rxCtrl channel) 47 10 = getBits value 47 10 ∧ rdF t (rxCtrl channel) 50 48 = getBits value 50 48 ∧ rdF t (rxCtrl channel) 7 0 = 0 ∧
      rdF t (rxCtrl channel + 8) 7 0 = 0 ∧ t = { s with regs := t.regs, rxHeld := t.rxHeld } ∧ ∀ a, a ≠ rxCtrl channel → a ≠ rxCtrl channel + 8 → rd t a = rd s a) ∧
  (∀ s ring value, Canonical s → ring < 8 → getBit value 63 = false → ∃ t, exec (.krTxCtrlEnable ring value) s = .next t ∧ rdB t (txCtrl ring) 63 = false) ∧
  (∀ s channel value, Canonical s → channel < 64 → getBit value 63 = false → ∃ t, exec (.krRxCtrlEnable channel value) s = .next t ∧ rdB t (rxCtrl channel) 63 = false)

/-- Time in a partition (R351, R354, R356 to R359): the timekeeper sends Sync and Follow_Up to every other member and answers a Delay_Req with the arrival time; a member answers a Sync with a Delay_Req; each message leaves from the port and with the tag that R356 gives it, by the lowest back interface that is up, or not at all; a valid exchange steers the tape and an invalid one, or one whose sequence numbers do not match, is counted and does nothing else; a join step moves the tape; a member turns to the standby. -/
def Obligations.TimeExchanges : Prop :=
  (∀ s k, isMember s = true → isKeeper s = true → nextBack s 0 = some k → ∃ t, exec .tapeSyncSend s = .next t ∧ t.fabric = { s.fabric with syncSeq := (s.fabric.syncSeq + 1) % 65536 } ∧
    t = { s with fabric := t.fabric, out := t.out, regs := t.regs } ∧ t.out.length = s.out.length + 2 * (s.fabric.members.filter (fun m => decide (m ≠ ownId s))).length) ∧
  (∀ s dest m seq stamp k, nextBack s 0 = some k → (tapeSend dest m seq stamp s).out = .tape dest m seq stamp 0 (tapeIcv dest m seq stamp s)
    (wireOf s (4 + k / 8) (k % 8) true (if m < 8 then 319 else 320) (if m < 8 then 319 else 320)) :: s.out) ∧
  (∀ s dest m seq stamp, nextBack s 0 = none → tapeSend dest m seq stamp s = s) ∧
  (∀ s x, isMember s = true → isPrimary s = false → x.icvOk = true → exec (.tapeSyncReceive x) s =
    .next (tapeSend (if x.standby then s.fabric.standby.getD 0 else s.fabric.members.headD 0) ptDelayReq s.fabric.syncSeq (fineTape s) { s with fabric := { s.fabric with syncSeq := (s.fabric.syncSeq + 1) % 65536 } })) ∧
  (∀ s m n, isMember s = true → isKeeper s = true → s.fabric.members.contains m = true →
    exec (.tapeDelayReqReceive m n true) s = .next (tapeSend m ptDelayResp n (fineTape s) s)) ∧
  (∀ s x, isMember s = true → isPrimary s = false → (x.icvOk = false ∨ x.syncId ≠ x.followId ∨ x.reqId ≠ x.respId ∨ exchangeDelay x < 0 ∨ wideLimit < exchangeDelay x) →
    exec (.tapeExchangeComplete x) s = .next (bump 0x200030 1 s)) ∧
  (∀ s x, isMember s = true → isPrimary s = false → x.icvOk = true → x.syncId = x.followId → x.reqId = x.respId → 0 ≤ exchangeDelay x → exchangeDelay x ≤ wideLimit →
    (x.standby = onStandby s → isKeeper s = false → exec (.tapeExchangeComplete x) s = .next (takeExchange x s)) ∧
    (x.standby = false → onStandby s = true → exec (.tapeExchangeComplete x) s = .next (countBack s))) ∧
  (∀ s, s.fabric.stepping = true → ∃ t, exec .joinStep s = .next t ∧ t = stepTape s ∧ t.fabric.stepping = false ∧
    65536 * t.tape + t.frac = ((((65536 * s.tape + s.frac : Nat) : Int) - filteredOf s.fabric.last) % ((2 ^ 80 : Nat) : Int)).toNat) ∧
  (∀ s u, isMember s = true → isPrimary s = false → (isStandby s && isKeeper s) = false → onStandby s = false → s.fabric.standby.isSome = true → u = runTo (s.fabric.seenAt + switchNs s) s →
    exec .timekeeperSwitch s = .next (wrB 0x200010 (if isStandby u then 59 else 60) true { u with fabric := { u.fabric with back := 0, seenAt := u.tape, anyAt := u.tape } }))

/-- Registers whose write is a command of its own (R14, R42, R235, R250, R436, R450, R469): TICK_PERIOD_NEXT arms only a legal period, HEAD of the error log and a bucket's level take the value written, a region register goes through the check of its place, CLEAR of a counter control zeroes, the TAP takes an instruction. -/
def Obligations.RegisterCommands : Prop :=
  (∀ s value, Canonical s → ∃ t, exec (.tickPeriodNextWrite value) s = .next t ∧ rdF t 0x100008 21 0 = getBits value 21 0 ∧
    rdB t 0x100008 63 = (getBit value 63 && decide (50000 ≤ getBits value 21 0 ∧ getBits value 21 0 ≤ 4000000 ∧ getBits value 21 0 % 1000 = 0)) ∧
    t = { s with regs := t.regs } ∧ ∀ a, a ≠ 0x100008 → rd t a = rd s a) ∧
  (∀ s value, Canonical s → ∃ t, exec (.errlogHeadWrite value) s = .next t ∧ rdF t 0x700010 11 0 = getBits value 11 0 ∧ rdF t 0x700010 43 32 = rdF s 0x700010 43 32 ∧
    t = { s with regs := t.regs } ∧ ∀ a, a ≠ 0x700010 → rd t a = rd s a) ∧
  (∀ s n value, Canonical s → n < 64 → ∃ t, exec (.bucketLevelWrite n value) s = .next t ∧ rdF t (0x501000 + 0x10 * n) 39 0 = getBits value 39 0 ∧
    t = { s with regs := t.regs } ∧ ∀ a, a ≠ 0x501000 + 0x10 * n → rd t a = rd s a) ∧
  (∀ s a value, Canonical s → regionRegs.contains a = true → ∃ t, exec (.regionEnableWrite a value) s = .next t ∧ t = writeRegion a value s ∧
    (getBit value 63 = false → rdB t a 63 = false) ∧ rdF t a 47 20 = getBits value 47 20 ∧
    (getBit value 63 = true → (a = 0x40020 → 16 ≤ getBits value 56 48 ∧ getBits value 56 48 ≤ 256) → regionFits s a value = true → rdB t a 63 = true) ∧ t = { s with regs := t.regs } ∧ ∀ b, b ≠ a → rd t b = rd s b) ∧
  (∀ s c value g i, Canonical s → groupOfCtrl c = some (g, i) → getBit value 63 = true → ∃ t, exec (.counterCtrlClear c value) s = .next t ∧
    t = { s with regs := t.regs } ∧ (∀ a ∈ g.addrs i, a ≠ c → rd t a = 0) ∧ rd t c = 0 ∧ ∀ a, a ≠ c → a ∉ g.addrs i → rd t a = rd s a) ∧
  (∀ s op, exec (.tapInstruction op) s = .next { s with pins := { s.pins with tap := op } })


/-- What every request passes before its own handling, in the order of log entry 30: the role of its mailbox, else 0x0501; the owner's credential for maintenance, else 0x0504; no reset of the sender's tenant, else 0x0101; its layout's length, else 0x0205; a clean slot, else 0x0404; stack memory where the command needs it, else 0x0404 (R270, R335, R343, R344, R435). Nothing changes, and the request stays in its slot, while the firmware hears no request of its kind (R376, R386, R428; and none while core 2 helps the planner, R375), while a request delivered to a slot stands before it in the order of R337, and while an earlier deferred request on the same object has not completed (R337, log entry 58). -/
def Obligations.RequestGates : Prop :=
  ∀ (c : CmdSpec) (len : Bool) (b : State → Reply) (r : Req) (s : State),
    (heard c s = (!s.core2 && (serving s || decide (runState s = 5) && [0x0903, 0x0D02].contains c.code))) ∧
    (heard c s = false → Machine.control c len b r s = .next s) ∧
    (inTurn r s = false → Machine.control c len b r s = .next s) ∧
    (heard c s = true → inTurn r s = true →
      (c.roles.contains (roleOf r.mailbox) = false → Machine.control c len b r s = .next (refuseAt r.mailbox r.session r.correlation c.code 0x0501 0xFFFF s.tape s)) ∧
      (c.roles.contains (roleOf r.mailbox) = true →
        (roleOf r.mailbox = 2 → (sessionOf s (sessionKey r.mailbox r.session)).cred = false →
          Machine.control c len b r s = .next (refuseAt r.mailbox r.session r.correlation c.code 0x0504 0xFFFF s.tape s)) ∧
        (roleOf r.mailbox = 0 → (tenantOf s r.mailbox).resetting ≠ [] →
          Machine.control c len b r s = .next (refuseAt r.mailbox r.session r.correlation c.code 0x0101 0xFFFF (ordinaryEdge s) s)) ∧
        ((roleOf r.mailbox = 2 → (sessionOf s (sessionKey r.mailbox r.session)).cred = true) → (roleOf r.mailbox = 0 → (tenantOf s r.mailbox).resetting = []) →
          (len = false → Machine.control c len b r s = .next (refuseAt r.mailbox r.session r.correlation c.code 0x0205 0xFFFF s.tape s)) ∧
          (len = true → slotPoisoned s r = true → Machine.control c len b r s = .next (respond r.mailbox r.session r.correlation c.code 0x0404 [] s)) ∧
          (len = true → slotPoisoned s r = false → c.stack = true → rdB s 0x50008 61 = true →
            Machine.control c len b r s = .next (refuseAt r.mailbox r.session r.correlation c.code 0x0404 0xFFFF s.tape s)) ∧
          (len = true → slotPoisoned s r = false → (c.stack = true → rdB s 0x50008 61 = false) → behind c r s = true → Machine.control c len b r s = .next s))))

/-- Sending a response changes sessions, counters, what left the device, the numbers of notices and the counter of free values, and nothing else (R322, R326, R332, R349), and a refused request changes nothing but that (R336). The one refusal with a counter of its own, of a signature, is the exception that R397 and R403 make. -/
def Obligations.RefusedRequestChangesNothing : Prop :=
  (∀ (mailbox session correlation code status : Nat) (payload : List Byte) (s : State), sentOnly s (respond mailbox session correlation code status payload s)) ∧
  ∀ (c : CmdSpec) (len : Bool) (b : State → Reply) (r : Req) (s : State),
    ((∃ st f v, b s = .refuse st f v) ∨ (∃ st f, b s = .refuseOpen st f) ∨ (∃ st o, b s = .badImage st o) ∨ ∃ at_, b s = .busy at_) →
    ∃ t, Machine.control c len b r s = .next t ∧ sentOnly s t

/-- device.info, device.status, device.plan, device.port, device.addr and device.reset when they succeed (R16, R28, R35, R109, R314, R315, R317, R341, R342); device.tick has a statement of its own. -/
def Obligations.DeviceCommands : Prop :=
  (∀ s r, Takes ⟨0x0101, [0, 1, 2], false⟩ r s → r.payload = [] → exec (.deviceInfo r) s = answered r 0x0101
    (orderingCode s ++ leBytes 2 s.fuse.perfClass ++ leBytes 2 (ownLevel s) ++ leBytes 4 (fwVersion s) ++ leBytes 1 (rdF s 8 60 59) ++ zeros 7 ++ leBytes 8 (tickIndex s)) s) ∧
  (∀ s r, Takes ⟨0x0107, [0, 1, 2], false⟩ r s → r.payload = [] → exec (.deviceStatus r) s = answered r 0x0107
    (leBytes 8 (tickIndex s) ++ leBytes 8 (rd s 0x100030).toNat ++ leBytes 8 (rd s 0x100038).toNat ++ leBytes 1 (activePanels s).length ++ leBytes 1 (rdF s 0x50008 63 61) ++ zeros 6) s) ∧
  (∀ s r u, Takes ⟨0x0103, [1], false⟩ r s → r.payload.length = 4 → (pay r 0 1 = 0xFF ∨ pay r 0 1 ≤ 40) → (pay r 2 2 = 0 ∨ 16 ≤ pay r 2 2) → pay r 2 2 ≤ 4096 →
    u = (if pay r 0 1 = 0xFF then s else wrF 0x100018 55 48 (pay r 0 1) s) →
    exec (.devicePlan r) s = answered r 0x0103 [] (marginChanged (if pay r 2 2 = 0 then u else { u with split := pay r 2 2 }))) ∧
  (∀ s r, Takes ⟨0x0104, [1], false⟩ r s → r.payload.length = 2 → pay r 0 1 ≤ 7 → pay r 1 1 ≤ 3 → (4 ≤ pay r 0 1 → isMember s = false) → rdB s (portCfg (pay r 0 1)) 63 = false →
    exec (.devicePort r) s = answered r 0x0104 [] (startMode (pay r 0 1) (pay r 1 1) s)) ∧
  (∀ s r, Takes ⟨0x0105, [1], false⟩ r s → r.payload.length = 20 → pay r 0 1 ≤ 3 → pay r 1 1 < ifaces (rdF s (portCfg (pay r 0 1)) 57 56) → (pay r 2 1 = 4 ∧ pay r 3 1 ≤ 32 ∨ pay r 2 1 = 6 ∧ pay r 3 1 ≤ 128) →
    exec (.deviceAddr r) s = answered r 0x0105 []
      { s with addrs := s.addrs.filter (fun x => !(x.port == pay r 0 1 && x.iface == pay r 1 1 && x.family == pay r 2 1)) ++
          [⟨pay r 0 1, pay r 1 1, pay r 2 1, pay r 3 1, if pay r 2 1 = 4 then slice r.payload 4 4 else slice r.payload 4 16⟩] }) ∧
  (∀ s r, Takes ⟨0x0106, [1, 2], false⟩ r s → r.payload.length = 1 → pay r 0 1 = 0 → exec (.deviceReset r) s = answered r 0x0106 []
    { s with warmDue := some ⟨1, s.tape + 1000000, sessionKey r.mailbox r.session, (sessionOf s (sessionKey r.mailbox r.session)).txNext % 2 ^ 32, false⟩ })

/-- device.tick (R13): a whole number of microseconds from 50 to 4,000 is armed as the next period, in force under R14; any other value is refused with 0x0201 and neither the period in force nor the armed one changes. The payload counts whole microseconds, so no other value can be sent. -/
def Obligations.TickPeriodCommand : Prop :=
  ∀ (s : State) (r : Req), Takes ⟨0x0102, [1], false⟩ r s → r.payload.length = 4 →
    (50 ≤ pay r 0 4 → pay r 0 4 ≤ 4000 → isMember s = false → Canonical s → ∃ t, exec (.deviceTick r) s = answered r 0x0102 [] t ∧
      rdF t 0x100008 21 0 = 1000 * pay r 0 4 ∧ rdB t 0x100008 63 = true ∧ period t = period s ∧ t = { s with regs := t.regs } ∧ ∀ a, a ≠ 0x100008 → rd t a = rd s a) ∧
    ((pay r 0 4 < 50 ∨ 4000 < pay r 0 4) → ∃ v, exec (.deviceTick r) s = .next (respond r.mailbox r.session r.correlation 0x0102 0x0201 (detail 0 v) s))

/-- The tenant, budget and notice families when they succeed (R235, R341, R343, R345, R350, R387); tenant.reset is answered at its end. -/
def Obligations.TenantCommands : Prop :=
  (∀ s r, Takes ⟨0x0201, [1], false⟩ r s → r.payload.length = 8 → pay r 0 1 ≤ 63 → pay r 1 1 ≤ 15 → pay r 2 2 ≠ 0 → plainProfile s = false → (tenantOf s (pay r 0 1)).live = false →
    exec (.tenantCreate r) s = answered r 0x0201 [] (makeTenant (pay r 0 1) (pay r 1 1) (pay r 2 2) (pay r 4 4) s)) ∧
  (∀ s r, Takes ⟨0x0202, [1], false⟩ r s → r.payload.length = 1 → plainProfile s = false → pay r 0 1 ≤ 63 → (tenantOf s (pay r 0 1)).live = true → ownedModels s (pay r 0 1) = 0 →
    openSeqs s (pay r 0 1) = 0 → exec (.tenantDestroy r) s = answered r 0x0202 [] (dropTenant (pay r 0 1) s)) ∧
  (∀ s r, Takes ⟨0x0203, [1], false⟩ r s → r.payload.length = 1 → pay r 0 1 ≤ 63 → (tenantOf s (pay r 0 1)).live = true →
    exec (.tenantReset r) s = .next (setTenant (pay r 0 1) { tenantOf s (pay r 0 1) with resetting := (tenantOf s (pay r 0 1)).resetting ++ [waiterOf r 0x0203] } s)) ∧
  (∀ s r, Takes ⟨0x0204, [1], false⟩ r s → r.payload.length = 8 → pay r 0 1 ≤ 63 → pay r 1 1 ≤ 15 → pay r 2 2 ≠ 0 → (tenantOf s (pay r 0 1)).live = true →
    ∃ t, exec (.tenantSet r) s = answered r 0x0204 [] t ∧ t = { s with tenants := t.tenants, routes := t.routes } ∧
      t.tenants = (setTenant (pay r 0 1) { tenantOf s (pay r 0 1) with qos := pay r 2 2, quota := pay r 4 4 } s).tenants ∧
      ∀ n, n ≠ pay r 0 1 → sget (fun _ => Route.all) t.routes n = sget (fun _ => Route.all) s.routes n) ∧
  (∀ s r, Takes ⟨0x0205, [0, 1], false⟩ r s → r.payload.length = 1 → pay r 0 1 ≤ 63 → foreign r (pay r 0 1) = false → (tenantOf s (pay r 0 1)).live = true →
    exec (.tenantQuery r) s = answered r 0x0205 (leBytes 2 (tenantOf s (pay r 0 1)).qos ++ leBytes 1 (sget (fun _ => Route.all) s.routes (pay r 0 1)).session ++ zeros 1 ++
      leBytes 4 (tenantOf s (pay r 0 1)).quota ++ leBytes 4 (tenantPages s (pay r 0 1)) ++ leBytes 2 (openSeqs s (pay r 0 1)) ++ leBytes 2 (ownedModels s (pay r 0 1))) s) ∧
  (∀ s r, Takes ⟨0x0701, [1], false⟩ r s → r.payload.length = 12 → pay r 0 1 ≤ 63 → (tenantOf s (pay r 0 1)).live = true → pay r 2 2 ≤ 256 → pay r 4 4 < 2 ^ 24 → pay r 8 4 < 2 ^ 31 → Canonical s →
    ∃ t, exec (.budgetSet r) s = answered r 0x0701 [] t ∧ rdF t (bucketCfg (pay r 0 1)) 23 0 = pay r 4 4 ∧ rdF t (bucketCfg (pay r 0 1)) 54 24 = pay r 8 4 ∧
      rdF t (bucketCfg (pay r 0 1)) 63 55 = pay r 2 2 ∧ t = { s with regs := t.regs } ∧ ∀ a, a ≠ bucketCfg (pay r 0 1) → rd t a = rd s a) ∧
  (∀ s r, Takes ⟨0x0702, [0, 1], false⟩ r s → r.payload.length = 1 → pay r 0 1 ≤ 63 → foreign r (pay r 0 1) = false → (tenantOf s (pay r 0 1)).live = true →
    exec (.budgetQuery r) s = answered r 0x0702 (leBytes 8 (ofSigned 64 (bucketLevel s (pay r 0 1))) ++ leBytes 4 (rdF s (bucketCfg (pay r 0 1)) 23 0) ++
      leBytes 4 (rdF s (bucketCfg (pay r 0 1)) 54 24) ++ leBytes 2 (rdF s (bucketCfg (pay r 0 1)) 63 55) ++ zeros 2) s) ∧
  (∀ s r, Takes ⟨0x0801, [0, 1], false⟩ r s → r.payload.length = 12 → routeNamed r s = none → pay r 1 1 ≤ 15 →
    exec (.noticeRoute r) s = answered r 0x0801 [] { s with routes := sput (fun _ => Route.all) s.routes (pay r 0 1) ⟨pay r 1 1, pay r 4 8⟩ }) ∧
  (∀ s r, Takes ⟨0x0802, [0, 1], false⟩ r s → r.payload.length = 1 → routeNamed r s = none →
    exec (.noticeQuery r) s = answered r 0x0802 (leBytes 2 (sget (fun _ => Route.all) s.routes (pay r 0 1)).session ++ leBytes 8 (sget (fun _ => Route.all) s.routes (pay r 0 1)).mask) s)

/-- The model family when it succeeds (R32, R160, R341, R346, R347, R399, R401, R405, R440, R441); an unload with FORCE and open sequences is answered at the next edge; a scale command takes effect at the next edge (R160). -/
def Obligations.ModelCommands : Prop :=
  (∀ s r owner i a t, Takes ⟨0x0301, [0, 1], true⟩ r s → r.payload.length = 16 → owner = (if roleOf r.mailbox = 0 then r.mailbox else pay r 8 1) → owner ≤ 64 →
    (owner < 64 → (tenantOf s owner).live = true) → freeStageNo s = some i → allotBlock (pay r 0 8) s = some (a, t) →
    exec (.modelStage r) s = answered r 0x0301 (leBytes 2 i ++ zeros 6) (setStage i ⟨true, owner, a, pay r 0 8⟩ t)) ∧
  (∀ s r x, Takes ⟨0x0302, [0, 1], true⟩ r s → 13 ≤ r.payload.length → r.payload.length ≤ 9120 → x = stageOf s (pay r 0 2) → x.live = true → ownsObject r x.owner = true →
    pay r 4 8 + (r.payload.drop 12).length ≤ x.size →
    exec (.modelPut r) s = answered r 0x0302 [] (storeBytes true (tenantCtx s x.owner) (x.base + pay r 4 8) (r.payload.drop 12) false s)) ∧
  (∀ s r ok x u m base v w d, Takes ⟨0x0303, [0, 1], true⟩ r s → r.payload.length = 8 → x = stageOf s (pay r 0 2) → x.live = true → ownsObject r x.owner = true →
    u = adoptBlock (tenantCtx s x.owner) x.base x.size s → imageFault (stagedReader u x) x.size = none → signatureFault u (stagedReader u x) x.size 128 ok = none →
    (pay r 2 2 = 0xFFFF ∧ freeModelNo u = some m ∨ pay r 2 2 ≤ 2047 ∧ m = pay r 2 2 ∧ (modelOf u m).live = false) → d = digest (stagedBytes u x) → placeImage (pay r 4 1 % 2 == 1) x u = some (base, v) → w = takeModel (pay r 0 2) m base (pay r 4 1 % 2 == 1) x d v →
    (divideModel w m).length ≤ 32 →
    exec (.modelLoad r ok) s = answered r 0x0303 (leBytes 2 m ++ leBytes 1 (divideModel w m).length ++ zeros 5) (enterModel m x.owner d w)) ∧
  (∀ s r, Takes ⟨0x0304, [0, 1], false⟩ r s → r.payload.length = 3 → modelNamed r s false = none →
    (seqsOfModel s (pay r 0 2) = [] → exec (.modelUnload r) s = answered r 0x0304 [] (freeModel (pay r 0 2) s)) ∧
    (seqsOfModel s (pay r 0 2) ≠ [] → pay r 2 1 % 2 = 1 → exec (.modelUnload r) s =
      .next (setModel (pay r 0 2) { modelOf s (pay r 0 2) with unload := (modelOf s (pay r 0 2)).unload ++ [waiterOf r 0x0304] } s))) ∧
  (∀ s r z, Takes ⟨0x0305, [0, 1], false⟩ r s → r.payload.length = 5 → z = (modelOf s (pay r 0 2)).scaleNext.getD (none, none, none) → modelNamed r s false = none → (pay r 2 1 ≤ 1 ∨ pay r 2 1 = 0xFF) → (pay r 3 1 = 0 ∨ 4 ≤ pay r 3 1) → pay r 3 1 ≤ 20 → (pay r 4 1 = 0 ∨ 16 ≤ pay r 4 1) → pay r 4 1 ≤ 32 →
    exec (.modelScale r) s = answered r 0x0305 [] (setModel (pay r 0 2) { modelOf s (pay r 0 2) with
      scaleNext := some (if pay r 2 1 = 0xFF then z.1 else some (decide (pay r 2 1 = 1)), if pay r 3 1 = 0 then z.2.1 else some (pay r 3 1), if pay r 4 1 = 0 then z.2.2 else some (pay r 4 1)) } s)) ∧
  (∀ s r x, Takes ⟨0x0306, [0, 1], false⟩ r s → r.payload.length = 2 → modelNamed r s true = none → x = modelOf s (pay r 0 2) →
    exec (.modelQuery r) s = answered r 0x0306 (leBytes 1 (if x.faulted then 1 else if x.quarantined then 2 else 0) ++ leBytes 1 (if x.dynamic then 1 else 0) ++
      leBytes 1 x.stages.length ++ leBytes 1 x.owner ++ leBytes 4 x.stretchRun) s) ∧
  (∀ s r x, Takes ⟨0x0307, [1], true⟩ r s → r.payload.length = 4112 → modelNamed r s true = none → x = modelOf s (pay r 0 2) → pay r 8 8 % 4096 = 0 → x.base < pay r 8 8 + 4096 →
    pay r 8 8 < x.base + x.size → x.quarantined = true → exec (.modelRestore r) s = answered r 0x0307 [] (restoreBlock (pay r 0 2) (pay r 8 8) (r.payload.drop 16) s)) ∧
  (∀ s r x, Takes ⟨0x0308, [1], false⟩ r s → r.payload.length = 16 → modelNamed r s true = none → x = { modelOf s (pay r 0 2) with replica := pay r 8 8 } →
    exec (.modelReplica r) s = answered r 0x0308 [] (((x.quar.map (fun l => l / 4096 * 4096)).eraseDups).foldl (fun z b => askReplica x b z) (setModel (pay r 0 2) x s)))

/-- The grammar family when it succeeds (R240, R241, R344, R399, R474). -/
def Obligations.GrammarCommands : Prop :=
  (∀ s r ok x u g a t, Takes ⟨0x0601, [0, 1], true⟩ r s → r.payload.length = 8 → x = stageOf s (pay r 0 2) → x.live = true → ownsObject r x.owner = true →
    u = adoptBlock (tenantCtx s x.owner) x.base x.size s → grammarFault (stagedReader u x) x.size = none →
    signatureFault u (stagedReader u x) x.size (grammarRef (stagedReader u x) x.size) ok = none →
    (pay r 2 1 = 0xFF ∧ freeGrammarNo u = some g ∨ pay r 2 1 ≠ 0xFF ∧ g = pay r 2 1 ∧ (grammarOf u g).live = false) →
    allotBlock (8 * stagedReader u x 12 4 + 8 * stagedReader u x 28 4) u = some (a, t) →
    exec (.grammarLoad r ok) s = answered r 0x0601 (leBytes 1 g) (enterGrammar g a (pay r 0 2) x r u t)) ∧
  (∀ s r x, Takes ⟨0x0602, [0, 1], false⟩ r s → r.payload.length = 1 → x = grammarOf s (pay r 0 1) → x.live = true → ownsObject r x.owner = true →
    s.seqs.any (fun e => isOpen e.2 && decide (e.2.par.grammar = some (pay r 0 1))) = false →
    exec (.grammarUnload r) s = answered r 0x0602 [] (freeBlock x.base (setGrammar (pay r 0 1) Grammar.none (storeBytes true (deviceCtx s) (grammarDesc s (pay r 0 1)) (zeros 32) false s))))

/-- The sequence family when it succeeds (R230 to R233, R249, R250, R329, R341, R348): open takes the lowest free context, feed appends to the ring, or with DRAFT to the drafts, and answers unless NORESP, cancel is answered at its edge. -/
def Obligations.SequenceCommands : Prop :=
  (∀ s r n p img pre ring list t u x, Takes ⟨0x0401, [0], true⟩ r s → openLength r = true → openFault r s = none → freeContext s = some n → p = openParams r →
    img = imageOf s (modelOf s p.model) → pre = (match p.prefixRec with | none => Prefix.none | some h => prefixOf s (h % 4096)) →
    allotBlock 65536 s = some (ring, t) → allotBlock (4 * imgLayers img * maxPages img) t = some (list, u) →
    x = { Seq.none with
      gen := (seqOf s n).gen, state := .idle, tenant := r.mailbox, par := p, ringAddr := ring, listAddr := list, gstate := grammarStart s p.grammar, lastServed := s.edge, flushed := pre.length, committed := pre.length } →
    exec (.seqOpen r) s = answered r 0x0401 (leBytes 2 n ++ leBytes 2 x.gen ++ leBytes 4 pre.length ++ leBytes 4 16384)
      (setSeq n x (startList n x (imgLayers img) (maxPages img) pre.pages u))) ∧
  (∀ s r flags x u, (modelOf s (seqOf s (pay r 0 2)).par.model).faulted = false → slotPoisoned s r = false → rdB s 0x50008 61 = false → r.mailbox < 64 → x = seqOf s (pay r 0 2) → pay r 0 2 < 4096 → x.state ≠ .free → x.state ≠ .ending → x.gen = pay r 2 2 →
    x.tenant = r.mailbox → fedLate r x s = false → r.payload.length = 8 + 4 * pay r 4 4 → 1 ≤ pay r 4 4 → pay r 4 4 ≤ 2278 → flagDraft flags = false →
    firstBeyond (imgVocab (imageOf s (modelOf s x.par.model))) (idsAt r.payload 8 (pay r 4 4)) = none → pay r 4 4 ≤ 16384 - x.ringCount → u = ringAppend (pay r 0 2) (idsAt r.payload 8 (pay r 4 4)) s →
    exec (.seqFeed r flags) s =
      (if flagNoresp flags then .next (if slotKind u r.mailbox r.slot = .data ∨ slotKind u r.mailbox r.slot = .late then setSlotKind r.mailbox r.slot .free u else u)
       else answered r 0x0402 (leBytes 4 (16384 - x.ringCount - pay r 4 4)) (if slotKind u r.mailbox r.slot = .data ∨ slotKind u r.mailbox r.slot = .late then setSlotKind r.mailbox r.slot .free u else u))) ∧
  (∀ s r flags x u, (modelOf s (seqOf s (pay r 0 2)).par.model).faulted = false → slotPoisoned s r = false → rdB s 0x50008 61 = false → r.mailbox < 64 → x = seqOf s (pay r 0 2) → pay r 0 2 < 4096 → x.state ≠ .free → x.state ≠ .ending →
    x.gen = pay r 2 2 → x.tenant = r.mailbox → fedLate r x s = false → r.payload.length = 8 + 4 * pay r 4 4 → 1 ≤ pay r 4 4 → pay r 4 4 ≤ 2278 → flagDraft flags = true → x.par.draftSource = 1 →
    firstBeyond (imgVocab (imageOf s (modelOf s x.par.model))) (idsAt r.payload 8 (pay r 4 4)) = none → u = setSeq (pay r 0 2) { x with drafts := x.drafts ++ idsAt r.payload 8 (pay r 4 4) } s →
    exec (.seqFeed r flags) s =
      (if flagNoresp flags then .next (if slotKind u r.mailbox r.slot = .data ∨ slotKind u r.mailbox r.slot = .late then setSlotKind r.mailbox r.slot .free u else u)
       else answered r 0x0402 (leBytes 4 (16384 - x.ringCount)) (if slotKind u r.mailbox r.slot = .data ∨ slotKind u r.mailbox r.slot = .late then setSlotKind r.mailbox r.slot .free u else u))) ∧
  (∀ s r x, Takes ⟨0x0403, [0, 1], false⟩ r s → r.payload.length = 4 → seqFault r 0 s = none → x = seqOf s (pay r 0 2) →
    exec (.seqCancel r) s = .next (setSeq (pay r 0 2) { x with cancel := x.cancel ++ [waiterOf r 0x0403], cancelPending := true } s)) ∧
  (∀ s r x, Takes ⟨0x0404, [0, 1], false⟩ r s → r.payload.length = 4 → seqFault r 0 s = none → x = seqOf s (pay r 0 2) →
    exec (.seqQuery r) s = answered r 0x0404 (leBytes 1 (stateCode x.state) ++ zeros 3 ++ leBytes 4 x.committed ++ leBytes 4 x.drawn ++ leBytes 4 x.esn ++ leBytes 4 x.ringCount) s) ∧
  (∀ s r x, Takes ⟨0x0405, [0], false⟩ r s → r.payload.length = 8 + 4 * pay r 6 2 → seqFault r 0 s = none → x = seqOf s (pay r 0 2) → 1 ≤ pay r 6 2 → pay r 6 2 ≤ 2278 →
    pay r 4 2 = x.allowed.length → x.allowed.length + pay r 6 2 ≤ x.par.nlist →
    firstNotRising (imgVocab (imageOf s (modelOf s x.par.model))) x.allowed.getLast? 0 (idsAt r.payload 8 (pay r 6 2)) = none →
    exec (.seqAllow r) s = answered r 0x0405 [] (setSeq (pay r 0 2) (afterIntake { x with allowed := x.allowed ++ idsAt r.payload 8 (pay r 6 2) }) s))

/-- The prefix family when it succeeds (R220 to R223, R341); a pin is answered when its park completes. -/
def Obligations.PrefixCommands : Prop :=
  (∀ s r x, Takes ⟨0x0501, [0], true⟩ r s → r.payload.length = 8 → seqFault r 0 s = none → x = seqOf s (pay r 0 2) → x.state ≠ .ending → x.cancelPending = false →
    1 ≤ pay r 4 4 → pay r 4 4 ≤ x.committed → (s.prefixes.filter (fun e => e.2.live)).length < 4096 →
    exec (.prefixPin r) s = .next (setSeq (pay r 0 2) { x with pin := x.pin ++ [(waiterOf r 0x0501, pay r 4 4, none)] } s)) ∧
  (∀ s r, Takes ⟨0x0502, [0, 1], true⟩ r s → r.payload.length = 8 → handleFault r 0 (pay r 0 8) s = none → exec (.prefixUnpin r) s = answered r 0x0502 [] (unpin (pay r 0 8 % 4096) s)) ∧
  (∀ s r x, Takes ⟨0x0503, [0, 1], false⟩ r s → r.payload.length = 8 → handleFault r 0 (pay r 0 8) s = none → x = prefixOf s (pay r 0 8 % 4096) →
    exec (.prefixQuery r) s = answered r 0x0503 (leBytes 2 x.model ++ zeros 2 ++ leBytes 4 x.length ++ leBytes 4 x.pages.length ++
      leBytes 4 (s.seqs.filter (fun e => isOpen e.2 && decide (e.2.par.prefixRec = some (pay r 0 8)))).length) s)

/-- The power family when it succeeds (R372, R410 to R412, R420, R428). The window in force is the larger of W and ten tick periods, and power.query reports it, by the model's choice of log entry 35 in whole milliseconds. -/
def Obligations.PowerCommands : Prop :=
  (∀ s : State, windowNs s = max (rdF s 0x800000 47 32 * 1000000) (10 * period s)) ∧
  (∀ s r, Takes ⟨0x0904, [1], false⟩ r s → r.payload = [] → exec (.powerQuery r) s = answered r 0x0904
    (leBytes 2 (rdF s 0x800000 10 0) ++ leBytes 2 (windowNs s / 1000000) ++ leBytes 4 (rdF s 0x800010 31 0 / 1000) ++ leBytes 1 s.fuse.perfClass) s) ∧
  (∀ s r, Takes ⟨0x0901, [1], false⟩ r s → r.payload.length = 8 → 600 ≤ pay r 0 2 → pay r 0 2 ≤ 1100 → 10 ≤ pay r 4 4 → pay r 4 4 ≤ 60000 →
    exec (.powerCap r) s = answered r 0x0901 (leBytes 8 (capIndex s)) (announceCap (pay r 0 2) (capIndex s) (orderCap (pay r 0 2) (pay r 4 4) s))) ∧
  (∀ (cap w : Nat) (s : State), orderCap cap w s = wrB 0x800000 63 true { s with power := { s.power with cap := some ⟨cap, w, (capEdgeAt s).1⟩ } }) ∧
  (∀ s r, Takes ⟨0x0902, [1], false⟩ r s → r.payload.length = 1 →
    (pay r 0 1 % 2 = 1 → exec (.powerCoord r) s = answered r 0x0902 [] (wrB 0xB00010 62 true s)) ∧
    (pay r 0 1 % 2 = 0 → rdB s 0xB00010 62 = false → exec (.powerCoord r) s = answered r 0x0902 [] (wrB 0xB00010 62 false { s with fabric := { s.fabric with notes := [] } })) ∧
    (pay r 0 1 % 2 = 0 → rdB s 0xB00010 62 = true → exec (.powerCoord r) s = answered r 0x0902 [] (wrB 0xB00010 62 false { withdraw s with fabric := { (withdraw s).fabric with notes := [] } }))) ∧
  (∀ s r, Takes ⟨0x0903, [1], false⟩ r s → r.payload.length = 1 → isMember s = false → inPause s = false →
    (pay r 0 1 = 1 → rdB s 0x800028 63 = true → Canonical s → ∃ t, exec (.powerSleep r) s = answered r 0x0903 [] t ∧ thState t = 1 ∧ t.sleepTo = 1 ∧ t = { s with regs := t.regs, sleepTo := 1 }) ∧
    (pay r 0 1 = 2 → s.models.any (fun e => e.2.live) = false → s.seqs.any (fun e => isOpen e.2) = false → Canonical s →
      ∃ t, exec (.powerSleep r) s = answered r 0x0903 [] t ∧ thState t = 1 ∧ t.sleepTo = 2 ∧ t = { s with regs := t.regs, sleepTo := 2 })) ∧
  (∀ s r, Takes ⟨0x0905, [0, 1], false⟩ r s → r.payload.length = 1 → foreign r (pay r 0 1) = false → pay r 0 1 ≤ 63 → (tenantOf s (pay r 0 1)).live = true →
    exec (.powerEnergy r) s = answered r 0x0905 (leBytes 8 ((rd s (0x800200 + 8 * pay r 0 1)).toNat / 10 ^ 6)) s)

/-- The memory and fabric families when they succeed (R211, R212, R263, R274 to R277, R341, R352 to R355, R370); memory.margin is answered when its run ends, and takes the channel from a rotation run. -/
def Obligations.MemoryAndFabricCommands : Prop :=
  (∀ s r, Takes ⟨0x0A01, [1], false⟩ r s → r.payload.length = 1 → pay r 0 1 ≤ 15 → usedBeyond s (scratchBase + scratchSize (pay r 0 1)) = false →
    exec (.memorySlice r) s = answered r 0x0A01 [] (wrB 0x50000 63 true (wrF 0x50000 3 0 (pay r 0 1) { s with slicePending := some (pay r 0 1) }))) ∧
  (∀ s r, Takes ⟨0x0A02, [1], false⟩ r s → r.payload.length = 2 → 16 ≤ pay r 0 2 → pay r 0 2 ≤ 256 → s.seqs.any (fun e => !e.2.segs.isEmpty) = false →
    (rdB s 0x40020 63 = true → inScratch s (rdF s 0x40020 47 20 * 2 ^ 20) (pay r 0 2 * 2 ^ 20) = true ∧
      ((scratchUsed s).filter (fun b => decide (b.1 ≠ rdF s 0x40020 47 20 * 2 ^ 20))).any (fun b => overlaps (rdF s 0x40020 47 20 * 2 ^ 20, pay r 0 2 * 2 ^ 20) b) = false) →
    exec (.memoryHem r) s = answered r 0x0A02 [] (wrF 0x40020 56 48 (pay r 0 2) s)) ∧
  (∀ s r c, Takes ⟨0x0A03, [1], false⟩ r s → r.payload.length = 8 → c = pay r 0 2 → c ≤ 383 → pay r 2 1 ≤ 79 → pay r 3 1 ≤ 1 → offsetByte (pay r 4 1) = true → offsetByte (pay r 5 1) = true → pay r 6 2 ≠ 0 →
    rdB s (chStatus c) 61 = false → 0 < sparesFree s c → marginOf s c = none →
    exec (.memoryMargin r) s = .next (startMargin c (pay r 2 1) (pay r 6 2) false (some (waiterOf r 0x0A03)) (wrF (chMargin c) 61 61 (pay r 3 1) (wrF (chMargin c) 60 54 (pay r 2 1)
      (wrF (chMargin c) 53 48 (pay r 4 1 % 64) (wrF (chMargin c) 47 42 (pay r 5 1 % 64) (wrF (chMargin c) 15 0 (pay r 6 2) s))))))) ∧
  (∀ s r c m u, Takes ⟨0x0A03, [1], false⟩ r s → r.payload.length = 8 → c = pay r 0 2 → c ≤ 383 → pay r 2 1 ≤ 79 → pay r 3 1 ≤ 1 → offsetByte (pay r 4 1) = true → offsetByte (pay r 5 1) = true → pay r 6 2 ≠ 0 →
    rdB s (chStatus c) 61 = false → 0 < sparesFree s c → marginOf s c = some m → m.rotation = true → u = abortMargin c s →
    exec (.memoryMargin r) s = .next (startMargin c (pay r 2 1) (pay r 6 2) false (some (waiterOf r 0x0A03)) (wrF (chMargin c) 61 61 (pay r 3 1) (wrF (chMargin c) 60 54 (pay r 2 1)
      (wrF (chMargin c) 53 48 (pay r 4 1 % 64) (wrF (chMargin c) 47 42 (pay r 5 1 % 64) (wrF (chMargin c) 15 0 (pay r 6 2) u))))))) ∧
  (∀ s r, Takes ⟨0x0A04, [1, 2], false⟩ r s → r.payload.length = 2 → pay r 0 2 ≤ 383 →
    exec (.memoryQuery r) s = answered r 0x0A04 (leBytes 8 (rd s (chStatus (pay r 0 2))).toNat ++ leBytes 8 (rd s (chResult (pay r 0 2))).toNat) s) ∧
  (∀ s r, Takes ⟨0x0B01, [1], false⟩ r s → 20 ≤ r.payload.length → r.payload.length ≤ 9120 → (r.payload.length - 12) % 8 = 0 → pay r 0 8 ≠ 0 → 50 ≤ pay r 8 2 → pay r 8 2 ≤ 4000 →
    (isMember s = false → (addIds [] (joinIds r)).length ≤ 16384 →
      exec (.fabricJoin r) s = answered r 0x0B01 [] (formMembership (pay r 0 8) (1000 * pay r 8 2) (addIds [] (joinIds r)) s)) ∧
    (isMember s = true → s.fabric.id = pay r 0 8 → s.fabric.period = 1000 * pay r 8 2 → (addIds s.fabric.members (joinIds r)).length ≤ 16384 →
      exec (.fabricJoin r) s = answered r 0x0B01 [] { s with fabric := { s.fabric with members := addIds s.fabric.members (joinIds r) } })) ∧
  (∀ s r, Takes ⟨0x0B02, [1], false⟩ r s → r.payload = [] →
    (isMember s = false → exec (.fabricLeave r) s = answered r 0x0B02 [] s) ∧
    (isMember s = true → Canonical s → ∃ t, exec (.fabricLeave r) s = answered r 0x0B02 [] t ∧ isMember t = false ∧ t.fabric.id = 0 ∧ t.fabric.members = [] ∧ rdF t 0x200010 63 59 = 0)) ∧
  (∀ s r, Takes ⟨0x0B03, [1], false⟩ r s → r.payload = [] →
    exec (.fabricQuery r) s = answered r 0x0B03 (leBytes 8 s.fabric.id ++ leBytes 4 s.fabric.members.length ++ leBytes 2 (levelInForce s)) s)

/-- The monitor family when it succeeds (R341, R390, R407, R440, R444, R446, R447, R450). -/
def Obligations.MonitorCommands : Prop :=
  (∀ s r, Takes ⟨0x0C01, [1], false⟩ r s → r.payload.length = 32 →
    (pay r 0 1 = 0xFF → pay r 8 2 ≤ 60000 → exec (.monitorSet r) s = answered r 0x0C01 [] (wrF 0x700000 47 32 (pay r 8 2) s)) ∧
    (pay r 0 1 ≤ 31 → pay r 1 1 ≤ 7 → (natBits (pay r 6 1) 1 1 = 1 → pay r 16 8 ≠ 0) → exec (.monitorSet r) s = answered r 0x0C01 [] (clearCapture (pay r 0 1)
      (wr (monCfg (pay r 0 1) + 0x10) (BitVec.ofNat 64 (pay r 16 8)) (wr (monCfg (pay r 0 1) + 8) (BitVec.ofNat 64 (pay r 8 8)) (wr (monCfg (pay r 0 1)) (monWord r) s)))))) ∧
  (∀ s r, Takes ⟨0x0C02, [1], false⟩ r s → r.payload.length = 1 → pay r 0 1 ≤ 31 → exec (.monitorRead r) s = answered r 0x0C02 (monitorBytes s (pay r 0 1)) s) ∧
  (∀ s r, Takes ⟨0x0C03, [1], false⟩ r s → r.payload.length = 2 → pay r 0 1 ≤ 1 →
    exec (.monitorClear r) s = answered r 0x0C03 [] ((ctrlsIn (fun k => pay r 0 1 == 0 || k == pay r 1 1)).foldl (fun z c => clearGroup c z) s)) ∧
  (∀ s r, Takes ⟨0x0C04, [1, 2], false⟩ r s → r.payload.length = 8 → 1 ≤ pay r 1 1 → pay r 1 1 ≤ 64 →
    exec (.monitorRegs r) s = answered r 0x0C04 (readRun (decide (roleIn r = 2)) (pay r 0 1) (pay r 4 4) (pay r 1 1) s).1 (readRun (decide (roleIn r = 2)) (pay r 0 1) (pay r 4 4) (pay r 1 1) s).2)

/-- The firmware and attestation families when they succeed (R385, R396, R400, R402, R403, R405). -/
def Obligations.SecurityCommands : Prop :=
  (∀ s r a, Takes ⟨0x0D01, [1], true⟩ r s → 9 ≤ r.payload.length → r.payload.length ≤ 9120 → pay r 0 8 + (r.payload.drop 8).length ≤ stageBytes →
    (s.fwStage = some a → exec (.firmwarePut r) s = answered r 0x0D01 [] (storeBytes true (deviceCtx s) (a + pay r 0 8) (r.payload.drop 8) false s)) ∧
    ∀ t, s.fwStage = none → allotBlock stageBytes s = some (a, t) →
      exec (.firmwarePut r) s = answered r 0x0D01 [] (storeBytes true (deviceCtx t) (a + pay r 0 8) (r.payload.drop 8) false { t with fwStage := some a })) ∧
  (∀ s r ok img u, Takes ⟨0x0D02, [1], true⟩ r s → r.payload.length = 8 → s.update = none → pay r 0 8 ≤ stageBytes → img = stagedFirmware s (pay r 0 8) → u = readStage (pay r 0 8) s →
    codeSound u (verifier u ok) img (leAt img 20 4) = true → levelClash u (leAt img 8 1) = false →
    exec (.firmwareUpdate r ok) s = answered r 0x0D02 [] { u with update := some ⟨pay r 0 8, false⟩ }) ∧
  (∀ (s : State) (w : Verifier) (img : List Byte) (trail : Nat), codeSound s w img trail = true → leAt img 0 4 = 0x4D555242 ∧ leAt img trail 4 = 0x4C525454 ∧ leAt img (trail + 4) 4 = 4425 ∧
    signedBy w (certKey (slice img (trail + 8) 3137)) "TUITH-FW" (img.take trail) (slice img (trail + 3145) 1280) = true) ∧
  (∀ s r, Takes ⟨0x0E01, [0, 1, 2], false⟩ r s → r.payload.length = 1 → pay r 0 1 ≤ 4 →
    exec (.attestCerts r) s = answered r 0x0E01 (if pay r 0 1 = 0 then s.fuse.identityCert else if pay r 0 1 = 1 then s.fuse.manufacturingCert
      else if pay r 0 1 = 2 then kemCertificate s else if pay r 0 1 = 3 then s.secure.signerCert else s.secure.ownerCert) s) ∧
  (∀ s r, Takes ⟨0x0E02, [0, 1, 2], false⟩ r s → r.payload.length = 32 →
    exec (.attestQuote r) s = answered r 0x0E02 (quoteHead r s ++ identitySign "TUITH-QUOTE" (quoteHead r s) (fresh s).1 s) (fresh s).2) ∧
  (∀ s r ok cred ct, Takes ⟨0x0E03, [1, 2], false⟩ r s → cred = (natBits (pay r 3 1) 1 1 == 1) → r.payload.length = (if cred then 5993 else 1576) → sessionFault r ok s = none →
    ct = padTo (Config.kemCiphertext (slice r.payload 8 1568) (fresh s).1) 1568 →
    exec (.attestSession r ok) s = answered r 0x0E03 (ct ++ identitySign "TUITH-SESS" (idBytes s ++ padTo r.payload 1576 ++ ct) (fresh (fresh s).2).1 s)
      (makeSession (pay r 0 2) (pay r 2 1) (natBits (pay r 3 1) 0 0 == 1) cred (Config.kemShared (slice r.payload 8 1568) (fresh s).1) (fresh (fresh s).2).2))

/-- The maintenance family of an owner's session when it succeeds on a drained device, and a code that is not listed (R278, R279, R335, R408). -/
def Obligations.MaintenanceCommands : Prop :=
  (∀ s r k, Takes ⟨0x0F01, [2], false⟩ r s → r.payload.length = 8 → pay r 0 1 ≤ 23 → pay r 1 1 ≤ 15 → pay r 2 1 ≤ 15 → pay r 4 4 < rowsOfBank s → drained s = true →
    k = 16 * (16 * pay r 0 1 + pay r 1 1) + pay r 2 1 →
    exec (.maintRow r) s = (if sparesLeft s k = 0 then .next (respond r.mailbox r.session r.correlation 0x0F01 0x0305 (detail 2 0) s)
      else answered r 0x0F01 [] (afterRepair (pay r 0 1) { s with repaired := sput (fun _ => 0) s.repaired k (sget (fun _ => 0) s.repaired k + 1) }))) ∧
  (∀ s r c l, Takes ⟨0x0F02, [2], false⟩ r s → r.payload.length = 3 → pay r 0 1 ≤ 23 → pay r 1 1 ≤ 15 → pay r 2 1 ≤ 79 → drained s = true → c = 16 * pay r 0 1 + pay r 1 1 →
    l = sget (fun _ => []) s.laneFuse c → (l.contains (pay r 2 1) = true ∨ l.length < 2) →
    exec (.maintFuse r) s = answered r 0x0F02 [] (afterRepair (pay r 0 1) { s with laneFuse := sput (fun _ => []) s.laneFuse c (if l.contains (pay r 2 1) then l else l ++ [pay r 2 1]) })) ∧
  (∀ s r, Takes ⟨0x0F03, [2], false⟩ r s → r.payload.length = 1 → pay r 0 1 ≤ 23 → exec (.maintRread r) s = answered r 0x0F03
    (padTo (Config.repairReport ((List.range 256).map (fun i => sparesLeft s (256 * pay r 0 1 + i))) ((List.range 16).map (fun k => sget (fun _ => []) s.laneFuse (16 * pay r 0 1 + k)))) 256) s) ∧
  (∀ s r, Takes ⟨0x0F04, [2], false⟩ r s → r.payload.length = 1 →
    (pay r 0 1 % 2 = 0 → exec (.maintDebug r) s = answered r 0x0F04 [] s) ∧
    (pay r 0 1 % 2 = 1 → drained s = true → exec (.maintDebug r) s = answered r 0x0F04 [] (enableDebug s))) ∧
  (∀ s r code, listedCodes.contains code = false → Takes ⟨code, [0, 1, 2], false⟩ r s →
    exec (.unknownCommand r code) s = .next (refuseAt r.mailbox r.session r.correlation code 0x0204 0xFFFF s.tape s))

end
end

