-- ==== Sys2Proof/Laws/Answer.lean ====
section
/-! SUPPORT. How the controller answers a request: one lemma for each way (R335, R336, R343, R344, R403, R270, R435). -/

namespace Sys2Proof.Laws

open Sys2Proof.Machine

/-- A request that the controller takes is answered as its handling says. -/
theorem control_taken (c : CmdSpec) (b : State → Reply) (r : Req) (s : State) (h : Takes c r s) :
    Machine.control c true b r s = .next (conclude c r s (b s)) := by
  unfold Machine.control
  rw [if_neg (by simp [heard, h.serves, h.listens, h.turn])]
  dsimp only
  rw [if_neg (by simp only [h.role]; simp), if_neg (fun z => by simp [h.credential z.1] at z),
    if_neg (fun z => by simp [h.settled z.1] at z), if_neg (by simp), if_neg (by simp [h.clean]), if_neg, if_neg (by simp [h.first])]
  intro z
  simp only [Bool.and_eq_true] at z
  rw [h.memory z.1] at z
  simp at z

/-- The success of a request. -/
theorem control_done (c : CmdSpec) (len : Bool) (b : State → Reply) (r : Req) (s t : State) (p : List Byte) (h : Takes c r s) (k : len = true)
    (d : b s = .done p t) : Machine.control c len b r s = .next (respond r.mailbox r.session r.correlation c.code 0 p t) := by
  rw [k, control_taken c b r s h, d]
  rfl

/-- The refusal of a request by its handling: a response with the status, and no other change. -/
theorem control_refused (c : CmdSpec) (len : Bool) (b : State → Reply) (r : Req) (s : State) (st f v : Nat) (h : Takes c r s) (k : len = true)
    (d : b s = .refuse st f v) : Machine.control c len b r s = .next (respond r.mailbox r.session r.correlation c.code st (detail f v) s) := by
  rw [k, control_taken c b r s h, d]
  rfl

/-- A request whose answer comes later. -/
theorem control_later (c : CmdSpec) (len : Bool) (b : State → Reply) (r : Req) (s t : State) (h : Takes c r s) (k : len = true)
    (d : b s = .later t) : Machine.control c len b r s = .next t := by
  rw [k, control_taken c b r s h, d]
  rfl

/-- A mailbox whose role may not send the command is refused with 0x0501 (R344). -/
theorem control_role (c : CmdSpec) (len : Bool) (b : State → Reply) (r : Req) (s : State) (h : serving s = true) (f : s.core2 = false) (q : inTurn r s = true)
    (k : c.roles.contains (roleOf r.mailbox) = false) :
    Machine.control c len b r s = .next (refuseAt r.mailbox r.session r.correlation c.code 0x0501 0xFFFF s.tape s) := by
  unfold Machine.control
  rw [if_neg (by simp [heard, h, f, q])]
  dsimp only
  rw [if_pos (by simp only [k]; rfl)]

end Sys2Proof.Laws
end

