-- ==== Sys2Proof/Laws/Fields.lean ====
section
/-! SUPPORT. Bit fields and byte order: what a field reads after one was set (R5), and what little-endian bytes spell (R6). -/

namespace Sys2Proof.Laws

open Sys2Proof.Machine

theorem natBits_lt (w hi lo : Nat) : natBits w hi lo < 2 ^ (hi + 1 - lo) := Nat.mod_lt _ (Nat.two_pow_pos _)

/-- The number below a field, the field and the number above it make the whole. -/
theorem split_field (w hi lo : Nat) (h : lo ≤ hi) :
    w = w / 2 ^ (hi + 1) * 2 ^ (hi + 1) + natBits w hi lo * 2 ^ lo + w % 2 ^ lo := by
  have e : 2 ^ (hi + 1) = 2 ^ lo * 2 ^ (hi + 1 - lo) := by rw [← Nat.pow_add]; congr 1; omega
  have a := Nat.div_add_mod w (2 ^ lo)
  have b := Nat.div_add_mod (w / 2 ^ lo) (2 ^ (hi + 1 - lo))
  have c : w / 2 ^ (hi + 1) = w / 2 ^ lo / 2 ^ (hi + 1 - lo) := by rw [e, Nat.div_div_eq_div_mul]
  unfold natBits
  rw [c, e]
  generalize w / 2 ^ lo / 2 ^ (hi + 1 - lo) = q at *
  generalize w / 2 ^ lo % 2 ^ (hi + 1 - lo) = f at *
  generalize 2 ^ (hi + 1 - lo) = K at *
  generalize 2 ^ lo = L at *
  rw [← b] at a
  rw [← a]
  have : (L * (K * q + f) + w % L) % L = w % L := by rw [Nat.mul_add_mod, Nat.mod_mod]
  rw [this]
  ring

/-- What setting a field makes of a register. -/
theorem setBits_toNat (w : Word) (hi lo v : Nat) (h : lo ≤ hi) (k : hi < 64) :
    (setBits w hi lo v).toNat = w.toNat / 2 ^ (hi + 1) * 2 ^ (hi + 1) + v % 2 ^ (hi + 1 - lo) * 2 ^ lo + w.toNat % 2 ^ lo := by
  have s := split_field w.toNat hi lo h
  have e : 2 ^ (hi + 1) = 2 ^ (hi + 1 - lo) * 2 ^ lo := by rw [← Nat.pow_add]; congr 1; omega
  have e64 : 2 ^ 64 = 2 ^ (63 - hi) * 2 ^ (hi + 1) := by rw [← Nat.pow_add]; congr 1; omega
  have q : w.toNat / 2 ^ (hi + 1) < 2 ^ (63 - hi) := by
    rw [Nat.div_lt_iff_lt_mul (Nat.two_pow_pos _), ← e64]; exact w.isLt
  have f : v % 2 ^ (hi + 1 - lo) < 2 ^ (hi + 1 - lo) := Nat.mod_lt _ (Nat.two_pow_pos _)
  have r : w.toNat % 2 ^ lo < 2 ^ lo := Nat.mod_lt _ (Nat.two_pow_pos _)
  unfold setBits
  rw [BitVec.toNat_ofNat]
  have n : w.toNat - natBits w.toNat hi lo * 2 ^ lo + v % 2 ^ (hi + 1 - lo) * 2 ^ lo
      = w.toNat / 2 ^ (hi + 1) * 2 ^ (hi + 1) + v % 2 ^ (hi + 1 - lo) * 2 ^ lo + w.toNat % 2 ^ lo := by omega
  rw [n]
  apply Nat.mod_eq_of_lt
  rw [e64]
  calc w.toNat / 2 ^ (hi + 1) * 2 ^ (hi + 1) + v % 2 ^ (hi + 1 - lo) * 2 ^ lo + w.toNat % 2 ^ lo
      < w.toNat / 2 ^ (hi + 1) * 2 ^ (hi + 1) + (v % 2 ^ (hi + 1 - lo) + 1) * 2 ^ lo := by rw [Nat.add_mul, Nat.one_mul]; omega
    _ ≤ w.toNat / 2 ^ (hi + 1) * 2 ^ (hi + 1) + 2 ^ (hi + 1 - lo) * 2 ^ lo := by gcongr; omega
    _ = (w.toNat / 2 ^ (hi + 1) + 1) * 2 ^ (hi + 1) := by rw [e]; ring
    _ ≤ 2 ^ (63 - hi) * 2 ^ (hi + 1) := by gcongr; omega

/-- A field that was set reads as the value set, cut to its width. -/
theorem getBits_setBits_same (w : Word) (hi lo v : Nat) (h : lo ≤ hi) (k : hi < 64) :
    getBits (setBits w hi lo v) hi lo = v % 2 ^ (hi + 1 - lo) := by
  have e : 2 ^ (hi + 1) = 2 ^ lo * 2 ^ (hi + 1 - lo) := by rw [← Nat.pow_add]; congr 1; omega
  unfold getBits natBits
  rw [setBits_toNat w hi lo v h k, e]
  have r : w.toNat % 2 ^ lo < 2 ^ lo := Nat.mod_lt _ (Nat.two_pow_pos _)
  have : (w.toNat / (2 ^ lo * 2 ^ (hi + 1 - lo)) * (2 ^ lo * 2 ^ (hi + 1 - lo)) + v % 2 ^ (hi + 1 - lo) * 2 ^ lo + w.toNat % 2 ^ lo) / 2 ^ lo
      = w.toNat / (2 ^ lo * 2 ^ (hi + 1 - lo)) * 2 ^ (hi + 1 - lo) + v % 2 ^ (hi + 1 - lo) := by
    rw [show w.toNat / (2 ^ lo * 2 ^ (hi + 1 - lo)) * (2 ^ lo * 2 ^ (hi + 1 - lo)) + v % 2 ^ (hi + 1 - lo) * 2 ^ lo + w.toNat % 2 ^ lo
        = w.toNat % 2 ^ lo + 2 ^ lo * (w.toNat / (2 ^ lo * 2 ^ (hi + 1 - lo)) * 2 ^ (hi + 1 - lo) + v % 2 ^ (hi + 1 - lo)) by ring]
    rw [Nat.add_mul_div_left _ _ (Nat.two_pow_pos _), Nat.div_eq_of_lt r, Nat.zero_add]
  rw [this, Nat.mul_comm, Nat.mul_add_mod, Nat.mod_mod]

/-- A field apart from the one that was set reads as before. -/
theorem getBits_setBits_other (w : Word) (hi lo v hi' lo' : Nat) (h : lo ≤ hi) (k : hi < 64) (d : hi < lo' ∨ hi' < lo) :
    getBits (setBits w hi lo v) hi' lo' = getBits w hi' lo' := by
  have s := split_field w.toNat hi lo h
  have n := natBits_lt w.toNat hi lo
  have f : v % 2 ^ (hi + 1 - lo) < 2 ^ (hi + 1 - lo) := Nat.mod_lt _ (Nat.two_pow_pos _)
  have r : w.toNat % 2 ^ lo < 2 ^ lo := Nat.mod_lt _ (Nat.two_pow_pos _)
  have e : 2 ^ (hi + 1) = 2 ^ (hi + 1 - lo) * 2 ^ lo := by rw [← Nat.pow_add]; congr 1; omega
  have low : ∀ x, x < 2 ^ (hi + 1 - lo) → x * 2 ^ lo + w.toNat % 2 ^ lo < 2 ^ (hi + 1) := by
    intro x hx
    rw [e]
    calc x * 2 ^ lo + w.toNat % 2 ^ lo < (x + 1) * 2 ^ lo := by rw [Nat.add_mul, Nat.one_mul]; omega
      _ ≤ 2 ^ (hi + 1 - lo) * 2 ^ lo := by gcongr; omega
  unfold getBits natBits
  rw [setBits_toNat w hi lo v h k]
  rcases d with d | d
  · have e' : 2 ^ lo' = 2 ^ (hi + 1) * 2 ^ (lo' - (hi + 1)) := by rw [← Nat.pow_add]; congr 1; omega
    congr 1
    rw [e', ← Nat.div_div_eq_div_mul, ← Nat.div_div_eq_div_mul]
    congr 1
    rw [show w.toNat / 2 ^ (hi + 1) * 2 ^ (hi + 1) + v % 2 ^ (hi + 1 - lo) * 2 ^ lo + w.toNat % 2 ^ lo
        = (v % 2 ^ (hi + 1 - lo) * 2 ^ lo + w.toNat % 2 ^ lo) + 2 ^ (hi + 1) * (w.toNat / 2 ^ (hi + 1)) by ring]
    rw [Nat.add_mul_div_left _ _ (Nat.two_pow_pos _), Nat.div_eq_of_lt (low _ f), Nat.zero_add]
  · by_cases z : lo' ≤ hi'
    · have e' : 2 ^ lo = 2 ^ lo' * (2 ^ (hi' + 1 - lo') * 2 ^ (lo - (hi' + 1))) := by
        rw [← Nat.pow_add, ← Nat.pow_add]; congr 1; omega
      have m : ∀ x y : Nat, x % 2 ^ lo = y % 2 ^ lo → x / 2 ^ lo' % 2 ^ (hi' + 1 - lo') = y / 2 ^ lo' % 2 ^ (hi' + 1 - lo') := by
        intro x y q
        have c : ∀ x : Nat, x / 2 ^ lo' % 2 ^ (hi' + 1 - lo') = x % 2 ^ lo / 2 ^ lo' % 2 ^ (hi' + 1 - lo') := by
          intro x
          rw [e', Nat.mod_mul_right_div_self, Nat.mod_mul_right_mod]
        rw [c x, c y, q]
      apply m
      rw [e]
      rw [show w.toNat / (2 ^ (hi + 1 - lo) * 2 ^ lo) * (2 ^ (hi + 1 - lo) * 2 ^ lo) + v % 2 ^ (hi + 1 - lo) * 2 ^ lo + w.toNat % 2 ^ lo
        = w.toNat % 2 ^ lo + 2 ^ lo * (w.toNat / (2 ^ (hi + 1 - lo) * 2 ^ lo) * 2 ^ (hi + 1 - lo) + v % 2 ^ (hi + 1 - lo)) by ring]
      rw [Nat.add_mul_mod_self_left, Nat.mod_mod]
    · rw [show hi' + 1 - lo' = 0 by omega]
      simp [Nat.mod_one]

@[simp] theorem getBit_setBit_same (w : Word) (i : Nat) (b : Bool) (k : i < 64) : getBit (setBit w i b) i = b := by
  unfold getBit setBit
  rw [getBits_setBits_same w i i _ (Nat.le_refl _) k]
  cases b <;> simp

theorem getBit_setBit_other (w : Word) (i j : Nat) (b : Bool) (k : i < 64) (h : j ≠ i) : getBit (setBit w i b) j = getBit w j := by
  unfold getBit setBit
  rw [getBits_setBits_other w i i _ j j (Nat.le_refl _) k (by omega)]

/-- n little-endian bytes are n bytes. -/
@[simp] theorem leBytes_length (n v : Nat) : (leBytes n v).length = n := by
  induction n generalizing v with
  | zero => rfl
  | succ n ih => simp [leBytes, ih]

/-- The n little-endian bytes of a number spell it, cut to n bytes. -/
theorem ofLe_leBytes (n v : Nat) : ofLe (leBytes n v) = v % 2 ^ (8 * n) := by
  induction n generalizing v with
  | zero => simp [leBytes, ofLe, Nat.mod_one]
  | succ n ih =>
    simp only [leBytes, ofLe, ih, BitVec.toNat_ofNat]
    rw [show 8 * (n + 1) = 8 + 8 * n by ring, Nat.pow_add, Nat.mod_mul, show (2 : Nat) ^ 8 = 256 from rfl]
    omega

end Sys2Proof.Laws
end

