-- ==== Sys2Proof/Laws/Sparse.lean ====
section
/-! SUPPORT. Laws of the sparse canonical lists: reading after writing, and that writing keeps the canonical form. -/

namespace Sys2Proof.Laws

open Sys2Proof.Machine

variable {α : Type}

theorem sget_above (d : Nat → α) (m : Sparse α) (k : Nat) (h : ∀ e ∈ m, k < e.1) : sget d m k = d k := by
  induction m with
  | nil => rfl
  | cons e m ih =>
    have h1 : k < e.1 := h e (by simp)
    have h2 := ih (fun x hx => h x (by simp [hx]))
    obtain ⟨k', v⟩ := e
    simp only [sget]
    rw [if_neg (by simp at h1; omega), h2]

theorem sget_sinsert_same (d : Nat → α) (m : Sparse α) (k : Nat) (v : α) : sget d (sinsert m k v) k = v := by
  induction m with
  | nil => simp [sinsert, sget]
  | cons e m ih =>
    obtain ⟨k', v'⟩ := e
    simp only [sinsert]
    split
    · simp [sget]
    · split
      · simp [sget]
      · simp [sget, *]

theorem sget_sinsert_other (d : Nat → α) (m : Sparse α) (k j : Nat) (v : α) (h : j ≠ k) :
    sget d (sinsert m k v) j = sget d m j := by
  induction m with
  | nil => simp [sinsert, sget, h]
  | cons e m ih =>
    obtain ⟨k', v'⟩ := e
    simp only [sinsert]
    split
    · simp [sget, h]
    · split
      · subst_vars; simp [sget, h]
      · simp [sget, ih]

theorem sget_serase_other (d : Nat → α) (m : Sparse α) (k j : Nat) (h : j ≠ k) : sget d (serase m k) j = sget d m j := by
  induction m with
  | nil => rfl
  | cons e m ih =>
    obtain ⟨k', v'⟩ := e
    simp only [serase]
    split
    · subst_vars; simp [sget, h]
    · simp [sget, ih]

variable [DecidableEq α]

/-- A read of another key is not changed by a write. -/
theorem sget_sput_other (d : Nat → α) (m : Sparse α) (k j : Nat) (v : α) (h : j ≠ k) : sget d (sput d m k v) j = sget d m j := by
  unfold sput
  split
  · exact sget_serase_other d m k j h
  · exact sget_sinsert_other d m k j v h

theorem swf_cons (d : Nat → α) (k : Nat) (v : α) (m : Sparse α) :
    swf d ((k, v) :: m) = true ↔ v ≠ d k ∧ (∀ e ∈ m, k < e.1) ∧ swf d m = true := by
  simp [swf, and_assoc]

theorem keys_sinsert (m : Sparse α) (k : Nat) (v : α) (e : Nat × α) (h : e ∈ sinsert m k v) : e = (k, v) ∨ e ∈ m := by
  induction m with
  | nil => simpa [sinsert] using h
  | cons x m ih =>
    obtain ⟨k', v'⟩ := x
    simp only [sinsert] at h
    split at h
    · simpa using h
    · split at h
      · rcases List.mem_cons.1 h with h | h
        · exact .inl h
        · exact .inr (List.mem_cons_of_mem _ h)
      · rcases List.mem_cons.1 h with h | h
        · exact .inr (by simp [h])
        · exact (ih h).imp id (List.mem_cons_of_mem _)

theorem mem_serase (m : Sparse α) (k : Nat) (e : Nat × α) (h : e ∈ serase m k) : e ∈ m := by
  induction m with
  | nil => simpa [serase] using h
  | cons x m ih =>
    obtain ⟨k', v'⟩ := x
    simp only [serase] at h
    split at h
    · exact List.mem_cons_of_mem _ h
    · rcases List.mem_cons.1 h with h | h
      · simp [h]
      · exact List.mem_cons_of_mem _ (ih h)

theorem swf_sinsert (d : Nat → α) (m : Sparse α) (k : Nat) (v : α) (hv : v ≠ d k) (h : swf d m = true) :
    swf d (sinsert m k v) = true := by
  induction m with
  | nil => simp [sinsert, swf, hv]
  | cons x m ih =>
    obtain ⟨k', v'⟩ := x
    have hx := (swf_cons d k' v' m).1 h
    simp only [sinsert]
    split
    · refine (swf_cons d _ _ _).2 ⟨hv, ?_, h⟩
      intro e he
      rcases List.mem_cons.1 he with he | he
      · simpa [he]
      · have := hx.2.1 e he; omega
    · split
      · subst_vars
        exact (swf_cons d _ _ _).2 ⟨hv, hx.2⟩
      · refine (swf_cons d _ _ _).2 ⟨hx.1, ?_, ih hx.2.2⟩
        intro e he
        rcases keys_sinsert m k v e he with he | he
        · simp only [he]; omega
        · exact hx.2.1 e he

theorem swf_serase (d : Nat → α) (m : Sparse α) (k : Nat) (h : swf d m = true) : swf d (serase m k) = true := by
  induction m with
  | nil => rfl
  | cons x m ih =>
    obtain ⟨k', v'⟩ := x
    have hx := (swf_cons d k' v' m).1 h
    simp only [serase]
    split
    · exact hx.2.2
    · exact (swf_cons d _ _ _).2 ⟨hx.1, fun e he => hx.2.1 e (mem_serase m k e he), ih hx.2.2⟩

/-- A write keeps the canonical form. -/
theorem swf_sput (d : Nat → α) (m : Sparse α) (k : Nat) (v : α) (h : swf d m = true) : swf d (sput d m k v) = true := by
  unfold sput
  split
  · exact swf_serase d m k h
  · exact swf_sinsert d m k v ‹_› h

theorem swf_filter (d : Nat → α) (m : Sparse α) (p : Nat × α → Bool) (h : swf d m = true) : swf d (m.filter p) = true := by
  induction m with
  | nil => rfl
  | cons x m ih =>
    obtain ⟨k', v'⟩ := x
    have hx := (swf_cons d k' v' m).1 h
    simp only [List.filter]
    split
    · exact (swf_cons d _ _ _).2 ⟨hx.1, fun e he => hx.2.1 e (List.mem_filter.1 he).1, ih hx.2.2⟩
    · exact ih hx.2.2

/-- In canonical form a write is read back. -/
theorem sget_sput_same (d : Nat → α) (m : Sparse α) (k : Nat) (v : α) (h : swf d m = true) : sget d (sput d m k v) k = v := by
  unfold sput
  split
  · rename_i hv
    induction m with
    | nil => simp [serase, sget, hv]
    | cons x m ih =>
      obtain ⟨k', v'⟩ := x
      have hx := (swf_cons d k' v' m).1 h
      simp only [serase]
      split
      · subst_vars; exact sget_above d m _ hx.2.1
      · rw [sget, if_neg ‹_›]; exact ih hx.2.2
  · exact sget_sinsert_same d m k v

omit [DecidableEq α] in
theorem rising_cons (n : Nat) (l : List Nat) : rising (n :: l) = true ↔ (∀ m ∈ l, n < m) ∧ rising l = true := by simp [rising]

theorem mem_insNat (l : List Nat) (n x : Nat) (h : x ∈ insNat l n) : x = n ∨ x ∈ l := by
  induction l with
  | nil => simpa [insNat] using h
  | cons m l ih =>
    simp only [insNat] at h
    split at h
    · simpa using h
    · split at h
      · exact .inr h
      · rcases List.mem_cons.1 h with h | h
        · exact .inr (by simp [h])
        · exact (ih h).imp id (List.mem_cons_of_mem _)

theorem rising_insNat (l : List Nat) (n : Nat) (h : rising l = true) : rising (insNat l n) = true := by
  induction l with
  | nil => rfl
  | cons m l ih =>
    have hx := (rising_cons m l).1 h
    simp only [insNat]
    split
    · refine (rising_cons _ _).2 ⟨?_, h⟩
      intro e he
      rcases List.mem_cons.1 he with he | he
      · omega
      · have := hx.1 e he; omega
    · split
      · exact h
      · refine (rising_cons _ _).2 ⟨?_, ih hx.2⟩
        intro e he
        rcases mem_insNat l n e he with he | he
        · omega
        · exact hx.1 e he

theorem rising_sublist (l m : List Nat) (h : l.Sublist m) (hm : rising m = true) : rising l = true := by
  induction h with
  | slnil => rfl
  | cons a _ ih => exact ih ((rising_cons _ _).1 hm).2
  | cons_cons a hs ih => exact (rising_cons _ _).2 ⟨fun e he => ((rising_cons _ _).1 hm).1 e (hs.subset he), ih ((rising_cons _ _).1 hm).2⟩

theorem rising_erase (l : List Nat) (n : Nat) (h : rising l = true) : rising (l.erase n) = true :=
  rising_sublist _ _ List.erase_sublist h

theorem rising_filter (l : List Nat) (p : Nat → Bool) (h : rising l = true) : rising (l.filter p) = true :=
  rising_sublist _ _ List.filter_sublist h

end Sys2Proof.Laws
end

