-- ==== Sys2Proof/Laws/Keeps.lean ====
section
/-! SUPPORT. The relation that every command's effect satisfies: the queue and the fuses stay, and the canonical forms are kept. -/

namespace Sys2Proof.Laws

open Sys2Proof.Machine

/-- t follows from s by a command's effect: the waiting commands and the fuses are those of s, and the invariant is kept. -/
structure Keeps (s t : State) : Prop where
  pending : t.pending = s.pending
  fuse : t.fuse = s.fuse
  inv : Canonical s → Canonical t

theorem Keeps.refl (s : State) : Keeps s s := ⟨rfl, rfl, id⟩

theorem Keeps.trans {s t u : State} (h : Keeps s t) (k : Keeps t u) : Keeps s u :=
  ⟨k.pending.trans h.pending, k.fuse.trans h.fuse, fun i => k.inv (h.inv i)⟩

/-- An update of fields other than these keeps. -/
theorem keeps_upd (s0 s : State) (straps_ : Straps) (free_ : Nat) (tape_ : Nat) (frac_ : Nat) (devKey_ : Nat) (cache_ : Sparse CacheLine) (lastAtomic_ : AtomicResult) (margins_ : Sparse (Option MarginRun)) (failing_ : List Nat) (unspared_ : List Nat) (laneBits_ : List (Nat × Nat)) (centred_ : Sparse (List LaneOffset)) (offsets_ : Sparse (List LaneOffset)) (scrubbed_ : List Nat) (scrubSince_ : Nat) (stalled_ : List Instr) (sessions_ : Sparse Session) (slotKinds_ : Sparse SlotKind) (out_ : List Sent) (nsn_ : Sparse Nat) (noticed_ : List Nat) (breaches_ : Sparse Breach) (tallies_ : List Tally) (routes_ : Sparse Route) (tenants_ : Sparse Tenant) (stages_ : Sparse Stage) (models_ : Sparse Model) (grammars_ : Sparse Grammar) (seqs_ : Sparse Seq) (prefixes_ : Sparse Prefix) (allotted_ : List (Nat × Nat)) (arena_ : Nat × Nat) (freePages_ : List (Nat × Nat)) (deferred_ : List (Nat × Nat)) (leaked_ : List Nat) (kvJobs_ : List KvJob) (cowJobs_ : List CowJob) (plan_ : List PlanEntry) (frozen_ : Bool) (sealed_ : Bool) (admits_ : Bool) (edge_ : Nat) (stepNext_ : Nat) (dealNext_ : Nat) (steps_ : List Step) (execAt_ : Nat) (missedRun_ : Nat) (predicted_ : Nat) (admitted_ : Cost) (split_ : Nat) (laneGroups_ : Sparse (List (Option Nat))) (slots_ : Sparse Slot) (panels_ : Sparse Panel) (nodes_ : Sparse Node2) (gateQueue_ : List (Nat × Nat)) (undealt_ : List QEntry) (undealtMat_ : List MatCmd) (redivide_ : List Nat) (monitors_ : Sparse MonExtra) (lateCancels_ : List (Waiter × Nat)) (turn_ : Nat) (boxTurn_ : Nat) (stretchModels_ : List Nat) (worked_ : List Nat) (stepTenants_ : List (List Nat)) (caused_ : Sparse (Nat × Nat)) (guarded_ : Bool) (skipped_ : Bool) (core2_ : Bool) (channels_ : Sparse Channel) (lastStop_ : Option (Nat × Nat)) (lastResp_ : Resp) (retrainDue_ : List Nat) (trainedAt_ : Sparse Nat) (trainedTemp_ : Sparse Int) (retrainLast_ : Nat) (retrained_ : Bool) (rotation_ : Nat) (rotAt_ : Sparse Nat) (rotLane_ : Sparse Nat) (laneFuse_ : Sparse (List Nat)) (repaired_ : Sparse Nat) (slicePending_ : Option Nat) (repart_ : Bool) (boot_ : Boot) (zeroRegions_ : Option Regions) (secure_ : Secure) (fabric_ : Fabric) (conns_ : Sparse Conn) (txRings_ : Sparse TxRing) (rxHeld_ : Sparse Nat) (thimble_ : Thimble) (pins_ : Pins) (power_ : Power) (warmDue_ : Option WarmDue) (update_ : Option Update) (fwStage_ : Option Nat) (sleepTo_ : Nat) (addrs_ : List IfAddr) : Keeps s0 { s with straps := straps_, free := free_, tape := tape_, frac := frac_, devKey := devKey_, cache := cache_, lastAtomic := lastAtomic_, margins := margins_, failing := failing_, unspared := unspared_, laneBits := laneBits_, centred := centred_, offsets := offsets_, scrubbed := scrubbed_, scrubSince := scrubSince_, stalled := stalled_, sessions := sessions_, slotKinds := slotKinds_, out := out_, nsn := nsn_, noticed := noticed_, breaches := breaches_, tallies := tallies_, routes := routes_, tenants := tenants_, stages := stages_, models := models_, grammars := grammars_, seqs := seqs_, prefixes := prefixes_, allotted := allotted_, arena := arena_, freePages := freePages_, deferred := deferred_, leaked := leaked_, kvJobs := kvJobs_, cowJobs := cowJobs_, plan := plan_, frozen := frozen_, sealed := sealed_, admits := admits_, edge := edge_, stepNext := stepNext_, dealNext := dealNext_, steps := steps_, execAt := execAt_, missedRun := missedRun_, predicted := predicted_, admitted := admitted_, split := split_, laneGroups := laneGroups_, slots := slots_, panels := panels_, nodes := nodes_, gateQueue := gateQueue_, undealt := undealt_, undealtMat := undealtMat_, redivide := redivide_, monitors := monitors_, lateCancels := lateCancels_, turn := turn_, boxTurn := boxTurn_, stretchModels := stretchModels_, worked := worked_, stepTenants := stepTenants_, caused := caused_, guarded := guarded_, skipped := skipped_, core2 := core2_, channels := channels_, lastStop := lastStop_, lastResp := lastResp_, retrainDue := retrainDue_, trainedAt := trainedAt_, trainedTemp := trainedTemp_, retrainLast := retrainLast_, retrained := retrained_, rotation := rotation_, rotAt := rotAt_, rotLane := rotLane_, laneFuse := laneFuse_, repaired := repaired_, slicePending := slicePending_, repart := repart_, boot := boot_, zeroRegions := zeroRegions_, secure := secure_, fabric := fabric_, conns := conns_, txRings := txRings_, rxHeld := rxHeld_, thimble := thimble_, pins := pins_, power := power_, warmDue := warmDue_, update := update_, fwStage := fwStage_, sleepTo := sleepTo_, addrs := addrs_ } ↔ Keeps s0 s :=
  ⟨fun h => ⟨h.pending, h.fuse, fun i => ⟨(h.inv i).mem, (h.inv i).regs, (h.inv i).poison, (h.inv i).keys⟩⟩,
    fun h => ⟨h.pending, h.fuse, fun i => ⟨(h.inv i).mem, (h.inv i).regs, (h.inv i).poison, (h.inv i).keys⟩⟩⟩

theorem Keeps.foldl {α : Type} {s0 s : State} {f : State → α → State} (l : List α) (h : Keeps s0 s) (k : ∀ t a, Keeps s0 t → Keeps s0 (f t a)) : Keeps s0 (l.foldl f s) := by
  induction l generalizing s with
  | nil => exact h
  | cons a l ih => exact ih (k s a h)

theorem Keeps.foldl2 {α β : Type} {s0 : State} {z : β × State} {f : β × State → α → β × State} (l : List α) (h : Keeps s0 z.2)
    (k : ∀ t a, Keeps s0 t.2 → Keeps s0 (f t a).2) : Keeps s0 (l.foldl f z).2 := by
  induction l generalizing z with
  | nil => exact h
  | cons a l ih => exact ih (k z a h)

/-- The same of a loop that carries more than the state. -/
theorem Keeps.foldOn {α β : Type} (g : β → State) {s0 : State} {z : β} {f : β → α → β} (l : List α) (h : Keeps s0 (g z))
    (k : ∀ t a, Keeps s0 (g t) → Keeps s0 (g (f t a))) : Keeps s0 (g (l.foldl f z)) := by
  induction l generalizing z with
  | nil => exact h
  | cons a l ih => exact ih (k z a h)

/-- An outcome whose next state follows from s. -/
def KeepsOut (s : State) (o : Host.Outcome State Fault Refusal) : Prop := ∀ t, o = .next t → Keeps s t

theorem KeepsOut.next {s0 s : State} (h : Keeps s0 s) : KeepsOut s0 (.next s) := by
  intro t e
  cases e
  exact h

end Sys2Proof.Laws
end

