-- ==== Sys2Proof/Laws/KeepsBase.lean ====
section
/-! SUPPORT. What the shared operations, the sending queue and the attempts keep: the queue, the fuses and the canonical forms. -/

namespace Sys2Proof.Laws

open Sys2Proof.Machine

theorem keeps_fresh {s0 : State} (s : State) (h : Keeps s0 s) : Keeps s0 (fresh s).2 := by
  unfold fresh
  try dsimp only
  repeat' first
    | with_reducible assumption
    | simp only [keeps_upd]

theorem keeps_fresh_eq {s0 : State} {s : State} {res : Word} {out_ : State} (h : Keeps s0 s) (e : fresh s = (res, out_)) : Keeps s0 out_ := by
  have k := keeps_fresh s h
  rwa [e] at k



theorem keeps_wr {s0 : State} (a : Nat) (v : Word) (s : State) (h : Keeps s0 s) : Keeps s0 (wr a v s) :=
  ⟨h.pending, h.fuse, fun i => ⟨(h.inv i).mem, swf_sput _ _ _ _ (h.inv i).regs, (h.inv i).poison, (h.inv i).keys⟩⟩

theorem keeps_wrF {s0 : State} (a hi lo v : Nat) (s : State) (h : Keeps s0 s) : Keeps s0 (wrF a hi lo v s) := by
  unfold wrF
  try dsimp only
  repeat' first
    | with_reducible assumption
    | with_reducible apply keeps_wr

theorem keeps_wrB {s0 : State} (a i : Nat) (b : Bool) (s : State) (h : Keeps s0 s) : Keeps s0 (wrB a i b s) := by
  unfold wrB
  try dsimp only
  repeat' first
    | with_reducible assumption
    | with_reducible apply keeps_wr

theorem keeps_setOverflow {s0 : State} (a : Nat) (s : State) (h : Keeps s0 s) : Keeps s0 (setOverflow a s) := by
  unfold setOverflow
  try dsimp only
  repeat' first
    | with_reducible assumption
    | with_reducible apply keeps_wrB
    | simp only [keeps_upd]
    | split

theorem keeps_bump {s0 : State} (a n : Nat) (s : State) (h : Keeps s0 s) : Keeps s0 (bump a n s) := by
  unfold bump
  try dsimp only
  repeat' first
    | with_reducible assumption
    | with_reducible apply keeps_wr
    | with_reducible apply keeps_setOverflow
    | simp only [keeps_upd]
    | split

theorem keeps_putByte {s0 : State} (a : Nat) (b : Byte) (s : State) (h : Keeps s0 s) : Keeps s0 (putByte a b s) :=
  ⟨h.pending, h.fuse, fun i => ⟨swf_sput _ _ _ _ (h.inv i).mem, (h.inv i).regs, (h.inv i).poison, (h.inv i).keys⟩⟩

theorem keeps_putBytes {s0 : State} (a : Nat) (bs : List Byte) (s : State) (h : Keeps s0 s) : Keeps s0 (putBytes a bs s) := by
  induction bs generalizing a s with
  | nil => exact h
  | cons b bs ih => exact ih _ _ (keeps_putByte _ _ _ h)

theorem keeps_poisonAt {s0 : State} (a : Nat) (s : State) (h : Keeps s0 s) : Keeps s0 (poisonAt a s) :=
  ⟨h.pending, h.fuse, fun i => ⟨(h.inv i).mem, (h.inv i).regs, rising_insNat _ _ (h.inv i).poison, (h.inv i).keys⟩⟩

theorem keeps_unpoisonAt {s0 : State} (a : Nat) (s : State) (h : Keeps s0 s) : Keeps s0 (unpoisonAt a s) :=
  ⟨h.pending, h.fuse, fun i => ⟨(h.inv i).mem, (h.inv i).regs, rising_erase _ _ (h.inv i).poison, (h.inv i).keys⟩⟩

theorem keeps_makeRoom {s0 : State} (n : Nat) (s : State) (h : Keeps s0 s) : Keeps s0 (makeRoom n s) := by
  unfold makeRoom
  try dsimp only
  repeat' first
    | with_reducible assumption
    | with_reducible apply keeps_fresh
    | with_reducible refine keeps_fresh_eq ?_ (by assumption)
    | simp only [keeps_upd]
    | split

theorem keeps_touchLine {s0 : State} (alloc : Bool) (ctx : Nat) (write : Bool) (line : Nat) (s : State) (h : Keeps s0 s) : Keeps s0 (touchLine alloc ctx write line s) := by
  unfold touchLine
  try dsimp only
  repeat' first
    | with_reducible assumption
    | with_reducible apply keeps_bump
    | with_reducible apply keeps_makeRoom
    | simp only [keeps_upd]
    | split

theorem keeps_touchRange {s0 : State} (alloc : Bool) (ctx a n : Nat) (s : State) (h : Keeps s0 s) : Keeps s0 (touchRange alloc ctx a n s) := by
  unfold touchRange
  try dsimp only
  repeat' first
    | with_reducible assumption
    | with_reducible apply keeps_touchLine
    | (with_reducible refine Keeps.foldl _ ?_ ?_)
    | (with_reducible refine Keeps.foldl2 _ ?_ ?_)
    | intro _
    | simp only [keeps_upd]
    | split

theorem keeps_rekeyLine {s0 : State} (ctx line : Nat) (s : State) (h : Keeps s0 s) : Keeps s0 (rekeyLine ctx line s) := by
  unfold rekeyLine
  dsimp only
  split
  · exact h
  · have k := keeps_putBytes line ((List.range 64).map (fun i => byteAs s ctx (line + i))) s h
    exact ⟨k.pending, k.fuse, fun i => ⟨(k.inv i).mem, (k.inv i).regs, (k.inv i).poison, swf_sput _ _ _ _ (k.inv i).keys⟩⟩

theorem keeps_outOfRange {s0 : State} (n : Nat) (s : State) (h : Keeps s0 s) : Keeps s0 (outOfRange n s).2 := by
  unfold outOfRange
  try dsimp only
  repeat' first
    | with_reducible assumption
    | with_reducible apply keeps_bump

theorem keeps_outOfRange_eq {s0 : State} {n : Nat} {s : State} {res : Resp} {out_ : State} (h : Keeps s0 s) (e : outOfRange n s = (res, out_)) : Keeps s0 out_ := by
  have k := keeps_outOfRange n s h
  rwa [e] at k

theorem keeps_hemError {s0 : State} (kind seq page : Nat) (s : State) (h : Keeps s0 s) : Keeps s0 (hemError kind seq page s) := by
  unfold hemError
  try dsimp only
  repeat' first
    | with_reducible assumption
    | with_reducible apply keeps_wr

theorem keeps_panelError {s0 : State} (p kind off : Nat) (s : State) (h : Keeps s0 s) : Keeps s0 (panelError p kind off s) := by
  unfold panelError
  try dsimp only
  repeat' first
    | with_reducible assumption
    | with_reducible apply keeps_wr

theorem keeps_settlePoison {s0 : State} (a n : Nat) (poison : Bool) (s : State) (h : Keeps s0 s) : Keeps s0 (settlePoison a n poison s) := by
  unfold settlePoison
  try dsimp only
  repeat' first
    | with_reducible assumption
    | with_reducible apply keeps_poisonAt
    | with_reducible apply keeps_unpoisonAt
    | (with_reducible refine Keeps.foldl _ ?_ ?_)
    | (with_reducible refine Keeps.foldl2 _ ?_ ?_)
    | intro _
    | simp only [keeps_upd]
    | split

theorem keeps_noteLost {s0 : State} (ls : List Nat) (s : State) (h : Keeps s0 s) : Keeps s0 (noteLost ls s) := by
  unfold noteLost
  try dsimp only
  repeat' first
    | with_reducible assumption
    | with_reducible apply keeps_wr
    | (with_reducible refine Keeps.foldl _ ?_ ?_)
    | (with_reducible refine Keeps.foldl2 _ ?_ ?_)
    | intro _

theorem keeps_storeBytes {s0 : State} (alloc : Bool) (ctx a : Nat) (bytes : List Byte) (poison : Bool) (s : State) (h : Keeps s0 s) : Keeps s0 (storeBytes alloc ctx a bytes poison s) := by
  unfold storeBytes
  try dsimp only
  repeat' first
    | with_reducible assumption
    | with_reducible apply keeps_putBytes
    | with_reducible apply keeps_touchLine
    | with_reducible apply keeps_rekeyLine
    | with_reducible apply keeps_settlePoison
    | (with_reducible refine Keeps.foldl _ ?_ ?_)
    | (with_reducible refine Keeps.foldl2 _ ?_ ?_)
    | intro _
    | simp only [keeps_upd]
    | split

theorem keeps_copyStored {s0 : State} (ctx src dst n : Nat) (s : State) (h : Keeps s0 s) : Keeps s0 (copyStored ctx src dst n s) := by
  unfold copyStored
  try dsimp only
  repeat' first
    | with_reducible assumption
    | with_reducible apply keeps_storeBytes
    | (with_reducible refine Keeps.foldl _ ?_ ?_)
    | (with_reducible refine Keeps.foldl2 _ ?_ ?_)
    | intro _

theorem keeps_writeIn {s0 : State} (g : Region) (who : Requester) (ctx a : Nat) (bytes : List Byte) (poison : Bool) (s : State) (h : Keeps s0 s) : Keeps s0 (writeIn g who ctx a bytes poison s) := by
  unfold writeIn
  try dsimp only
  repeat' first
    | with_reducible assumption
    | with_reducible apply keeps_bump
    | with_reducible apply keeps_hemError
    | with_reducible apply keeps_panelError
    | with_reducible apply keeps_storeBytes
    | simp only [keeps_upd]
    | split

theorem keeps_writeMem {s0 : State} (who : Requester) (ctx a : Nat) (bytes : List Byte) (poison : Bool) (s : State) (h : Keeps s0 s) : Keeps s0 (writeMem who ctx a bytes poison s).2 := by
  unfold writeMem
  try dsimp only
  repeat' first
    | with_reducible assumption
    | with_reducible apply keeps_bump
    | with_reducible apply keeps_writeIn
    | simp only [keeps_upd]
    | split

theorem keeps_writeMem_eq {s0 : State} {who : Requester} {ctx : Nat} {a : Nat} {bytes : List Byte} {poison : Bool} {s : State} {res : Bool} {out_ : State} (h : Keeps s0 s) (ev : writeMem who ctx a bytes poison s = (res, out_)) : Keeps s0 out_ := by
  have k := keeps_writeMem who ctx a bytes poison s h
  rwa [ev] at k

theorem keeps_sliceError {s0 : State} (n kind a : Nat) (s : State) (h : Keeps s0 s) : Keeps s0 (sliceError n kind a s) := by
  unfold sliceError
  try dsimp only
  repeat' first
    | with_reducible assumption
    | with_reducible apply keeps_wr

theorem keeps_logError {s0 : State} (source cls : Nat) (addr : Option Nat) (step : Nat × Nat) (s : State) (h : Keeps s0 s) : Keeps s0 (logError source cls addr step s) := by
  unfold logError
  try dsimp only
  repeat' first
    | with_reducible assumption
    | with_reducible apply keeps_wrF
    | with_reducible apply keeps_bump
    | with_reducible apply keeps_putBytes
    | with_reducible apply keeps_settlePoison
    | simp only [keeps_upd]
    | split

theorem keeps_panelWordLost {s0 : State} (p a : Nat) (step : Nat × Nat) (s : State) (h : Keeps s0 s) : Keeps s0 (panelWordLost p a step s) := by
  unfold panelWordLost
  try dsimp only
  repeat' first
    | with_reducible assumption
    | with_reducible apply keeps_bump
    | with_reducible apply keeps_poisonAt
    | with_reducible apply keeps_panelError
    | with_reducible apply keeps_logError

theorem keeps_panelWordFixed {s0 : State} (p a : Nat) (s : State) (h : Keeps s0 s) : Keeps s0 (panelWordFixed p a s) := by
  unfold panelWordFixed
  try dsimp only
  repeat' first
    | with_reducible assumption
    | with_reducible apply keeps_bump
    | with_reducible apply keeps_panelError

theorem keeps_takeWork {s0 : State} (c : Instr) (ranges : List (Nat × Nat)) (f : State → State) (s : State) (h : Keeps s0 s) (k : Keeps s0 (f s)) : Keeps s0 (takeWork c ranges f s) := by
  unfold takeWork
  split
  · exact (keeps_upd ..).2 h
  · exact k

theorem keeps_setPanel {s0 : State} (p : Nat) (x : Panel) (s : State) (h : Keeps s0 s) : Keeps s0 (setPanel p x s) := by
  unfold setPanel
  try dsimp only
  repeat' first
    | with_reducible assumption
    | simp only [keeps_upd]

theorem keeps_setStitcher {s0 : State} (p i : Nat) (x : Stitcher) (s : State) (h : Keeps s0 s) : Keeps s0 (setStitcher p i x s) := by
  unfold setStitcher
  try dsimp only
  repeat' first
    | with_reducible assumption
    | with_reducible apply keeps_setPanel

theorem keeps_setSlot {s0 : State} (n : Nat) (x : Slot) (s : State) (h : Keeps s0 s) : Keeps s0 (setSlot n x s) := by
  unfold setSlot
  try dsimp only
  repeat' first
    | with_reducible assumption
    | simp only [keeps_upd]

theorem keeps_setSeq {s0 : State} (n : Nat) (x : Seq) (s : State) (h : Keeps s0 s) : Keeps s0 (setSeq n x s) := by
  unfold setSeq
  try dsimp only
  repeat' first
    | with_reducible assumption
    | simp only [keeps_upd]

theorem keeps_setModel {s0 : State} (n : Nat) (x : Model) (s : State) (h : Keeps s0 s) : Keeps s0 (setModel n x s) := by
  unfold setModel
  try dsimp only
  repeat' first
    | with_reducible assumption
    | simp only [keeps_upd]

theorem keeps_setTenant {s0 : State} (n : Nat) (x : Tenant) (s : State) (h : Keeps s0 s) : Keeps s0 (setTenant n x s) := by
  unfold setTenant
  try dsimp only
  repeat' first
    | with_reducible assumption
    | simp only [keeps_upd]

theorem keeps_setSession {s0 : State} (k : Nat) (x : Session) (s : State) (h : Keeps s0 s) : Keeps s0 (setSession k x s) := by
  unfold setSession
  try dsimp only
  repeat' first
    | with_reducible assumption
    | simp only [keeps_upd]

theorem keeps_setNode {s0 : State} (n : Nat) (x : Node2) (s : State) (h : Keeps s0 s) : Keeps s0 (setNode n x s) := by
  unfold setNode
  try dsimp only
  repeat' first
    | with_reducible assumption
    | simp only [keeps_upd]

theorem keeps_setStep {s0 : State} (t : Step) (s : State) (h : Keeps s0 s) : Keeps s0 (setStep t s) := by
  unfold setStep
  try dsimp only
  repeat' first
    | with_reducible assumption
    | simp only [keeps_upd]

theorem keeps_dropStep {s0 : State} (n : Nat) (s : State) (h : Keeps s0 s) : Keeps s0 (dropStep n s) := by
  unfold dropStep
  try dsimp only
  repeat' first
    | with_reducible assumption
    | simp only [keeps_upd]

theorem keeps_charge {s0 : State} (account lines bits : Nat) (s : State) (h : Keeps s0 s) : Keeps s0 (charge account lines bits s) := by
  unfold charge
  try dsimp only
  repeat' first
    | with_reducible assumption
    | simp only [keeps_upd]

theorem keeps_emitOut {s0 : State} (x : Sent) (s : State) (h : Keeps s0 s) : Keeps s0 (emitOut x s) := by
  unfold emitOut
  try dsimp only
  repeat' first
    | with_reducible assumption
    | simp only [keeps_upd]

theorem keeps_dealPiece {s0 : State} (ready : Bool) (s : State) (x : Piece) (h : Keeps s0 s) : Keeps s0 (dealPiece ready s x) := by
  unfold dealPiece
  try dsimp only
  repeat' first
    | with_reducible assumption
    | with_reducible apply keeps_setPanel
    | simp only [keeps_upd]
    | split

theorem keeps_dealCommand {s0 : State} (s : State) (c : MatCmd) (h : Keeps s0 s) : Keeps s0 (dealCommand s c) := by
  unfold dealCommand
  try dsimp only
  repeat' first
    | with_reducible assumption
    | with_reducible apply keeps_setPanel
    | simp only [keeps_upd]
    | split

theorem keeps_dealWaiting {s0 : State} (s : State) (h : Keeps s0 s) : Keeps s0 (dealWaiting s) := by
  unfold dealWaiting
  try dsimp only
  repeat' first
    | with_reducible assumption
    | with_reducible apply keeps_dealPiece
    | with_reducible apply keeps_dealCommand
    | (with_reducible refine Keeps.foldl _ ?_ ?_)
    | (with_reducible refine Keeps.foldl2 _ ?_ ?_)
    | intro _
    | simp only [keeps_upd]

theorem keeps_expandOp {s0 : State} (ready : Bool) (t : Step) (i : Nat) (s : State) (h : Keeps s0 s) : Keeps s0 (expandOp ready t i s) := by
  unfold expandOp
  try dsimp only
  repeat' first
    | with_reducible assumption
    | with_reducible apply keeps_dealPiece
    | with_reducible apply keeps_dealCommand
    | (with_reducible refine Keeps.foldl _ ?_ ?_)
    | (with_reducible refine Keeps.foldl2 _ ?_ ?_)
    | intro _
    | simp only [keeps_upd]
    | split

theorem keeps_expandStep {s0 : State} (t : Step) (s : State) (h : Keeps s0 s) : Keeps s0 (expandStep t s) := by
  unfold expandStep
  try dsimp only
  repeat' first
    | with_reducible assumption
    | with_reducible apply keeps_setStep
    | with_reducible apply keeps_expandOp
    | (with_reducible refine Keeps.foldl _ ?_ ?_)
    | (with_reducible refine Keeps.foldl2 _ ?_ ?_)
    | intro _

theorem keeps_purgeStep {s0 : State} (n : Nat) (s : State) (h : Keeps s0 s) : Keeps s0 (purgeStep n s) := by
  unfold purgeStep
  try dsimp only
  repeat' first
    | with_reducible assumption
    | with_reducible apply keeps_setPanel
    | (with_reducible refine Keeps.foldl _ ?_ ?_)
    | (with_reducible refine Keeps.foldl2 _ ?_ ?_)
    | intro _
    | simp only [keeps_upd]

theorem keeps_showBudget {s0 : State} (s : State) (h : Keeps s0 s) : Keeps s0 (showBudget s) := by
  unfold showBudget
  try dsimp only
  repeat' first
    | with_reducible assumption
    | with_reducible apply keeps_wrF

theorem keeps_markStretched {s0 : State} (s : State) (h : Keeps s0 s) : Keeps s0 (markStretched s) := by
  unfold markStretched
  try dsimp only
  repeat' first
    | with_reducible assumption
    | with_reducible apply keeps_wrB
    | with_reducible apply keeps_bump
    | simp only [keeps_upd]
    | split

theorem keeps_fitAttempt {s0 : State} (t : Step) (s : State) (h : Keeps s0 s) : Keeps s0 (fitAttempt t s) := by
  unfold fitAttempt
  try dsimp only
  repeat' first
    | with_reducible assumption
    | with_reducible apply keeps_markStretched
    | simp only [keeps_upd]
    | split

theorem keeps_keepBlock {s0 : State} (a n : Nat) (s : State) (h : Keeps s0 s) : Keeps s0 (keepBlock a n s) := by
  unfold keepBlock
  try dsimp only
  repeat' first
    | with_reducible assumption
    | simp only [keeps_upd]

theorem keeps_allotScratch_eq {s0 : State} {n : Nat} {s t : State} {a : Nat} (h : Keeps s0 s) (e : allotScratch n s = some (a, t)) : Keeps s0 t := by
  unfold allotScratch at e
  obtain ⟨b, -, hb⟩ := Option.map_eq_some_iff.1 e
  cases hb
  exact keeps_keepBlock _ _ _ h

theorem keeps_setSlotKind {s0 : State} (m i : Nat) (k : SlotKind) (s : State) (h : Keeps s0 s) : Keeps s0 (setSlotKind m i k s) := by
  unfold setSlotKind
  try dsimp only
  repeat' first
    | with_reducible assumption
    | simp only [keeps_upd]

theorem keeps_latchFrac {s0 : State} (a : Nat) (s : State) (h : Keeps s0 s) : Keeps s0 (latchFrac a s) := by
  unfold latchFrac
  try dsimp only
  repeat' first
    | with_reducible assumption
    | with_reducible apply keeps_wrF
    | simp only [keeps_upd]
    | split

theorem keeps_latchOver {s0 : State} (a n : Nat) (s : State) (h : Keeps s0 s) : Keeps s0 (latchOver a n s) := by
  unfold latchOver
  try dsimp only
  repeat' first
    | with_reducible assumption
    | with_reducible apply keeps_latchFrac
    | simp only [keeps_upd]
    | split

theorem keeps_readMem {s0 : State} (who : Requester) (ctx a n : Nat) (s : State) (h : Keeps s0 s) : Keeps s0 (readMem who ctx a n s).2 := by
  unfold readMem
  try dsimp only
  repeat' first
    | with_reducible assumption
    | with_reducible apply keeps_touchRange
    | with_reducible apply keeps_outOfRange
    | with_reducible refine keeps_outOfRange_eq ?_ (by assumption)
    | with_reducible apply keeps_latchOver
    | simp only [keeps_upd]
    | split


theorem keeps_readMem_eq {s0 : State} {who : Requester} {ctx : Nat} {a : Nat} {n : Nat} {s : State} {res : Resp} {out_ : State} (h : Keeps s0 s) (ev : readMem who ctx a n s = (res, out_)) : Keeps s0 out_ := by
  have k := keeps_readMem who ctx a n s h
  rwa [ev] at k

theorem keeps_countPayload {s0 : State} (raw : Nat) (wound : Bool) (out : Nat) (s : State) (h : Keeps s0 s) : Keeps s0 (countPayload raw wound out s) := by
  unfold countPayload
  try dsimp only
  repeat' first
    | with_reducible assumption
    | with_reducible apply keeps_bump

theorem keeps_undelivered {s0 : State} (n : Nat) (s : State) (h : Keeps s0 s) : Keeps s0 (undelivered n s) := by
  unfold undelivered
  try dsimp only
  repeat' first
    | with_reducible assumption
    | with_reducible apply keeps_bump

theorem keeps_transmit {s0 : State} (x : Session) (d : Datagram) (s : State) (h : Keeps s0 s) : Keeps s0 (transmit x d s) := by
  unfold transmit
  try dsimp only
  repeat' first
    | with_reducible assumption
    | with_reducible apply keeps_bump
    | with_reducible apply keeps_charge
    | with_reducible apply keeps_emitOut
    | simp only [keeps_upd]
    | split

theorem keeps_endSession {s0 : State} (k : Nat) (s : State) (h : Keeps s0 s) : Keeps s0 (endSession k s) := by
  unfold endSession
  try dsimp only
  repeat' first
    | with_reducible assumption
    | with_reducible apply keeps_setSession
    | with_reducible apply keeps_undelivered
    | simp only [keeps_upd]
    | split

theorem keeps_enqueueRaw {s0 : State} (k : Nat) (d : Datagram) (s : State) (h : Keeps s0 s) : Keeps s0 (enqueueRaw k d s) := by
  unfold enqueueRaw
  try dsimp only
  repeat' first
    | with_reducible assumption
    | with_reducible apply keeps_setSession
    | with_reducible apply keeps_transmit
    | simp only [keeps_upd]
    | split

theorem keeps_enqueue {s0 : State} (d : Datagram) (s : State) (h : Keeps s0 s) : Keeps s0 (enqueue d s).2 := by
  unfold enqueue
  try dsimp only
  repeat' first
    | with_reducible assumption
    | with_reducible apply keeps_countPayload
    | with_reducible apply keeps_undelivered
    | with_reducible apply keeps_endSession
    | with_reducible apply keeps_enqueueRaw
    | simp only [keeps_upd]
    | split

theorem keeps_enqueue_eq {s0 : State} {d : Datagram} {s : State} {res : Sending} {out_ : State} (h : Keeps s0 s) (e : enqueue d s = (res, out_)) : Keeps s0 out_ := by
  have k := keeps_enqueue d s h
  rwa [e] at k

theorem keeps_noticeOnce {s0 : State} (ntype source : Nat) (tenants : List Nat) (tenant model cause : Nat) (body : List Byte) (s : State) (h : Keeps s0 s) : Keeps s0 (noticeOnce ntype source tenants tenant model cause body s).2 := by
  unfold noticeOnce
  try dsimp only
  repeat' first
    | with_reducible assumption
    | with_reducible apply keeps_enqueue
    | with_reducible refine keeps_enqueue_eq ?_ (by assumption)
    | (with_reducible refine Keeps.foldl _ ?_ ?_)
    | (with_reducible refine Keeps.foldl2 _ ?_ ?_)
    | intro _
    | simp only [keeps_upd]
    | split

theorem keeps_noticeOnce_eq {s0 : State} {ntype : Nat} {source : Nat} {tenants : List Nat} {tenant : Nat} {model : Nat} {cause : Nat} {body : List Byte} {s : State} {res : List (Nat × Nat × Nat × Nat)} {out_ : State} (h : Keeps s0 s) (e : noticeOnce ntype source tenants tenant model cause body s = (res, out_)) : Keeps s0 out_ := by
  have k := keeps_noticeOnce ntype source tenants tenant model cause body s h
  rwa [e] at k

theorem keeps_noticeSessions {s0 : State} (f : Nat) (l : List (Nat × Nat × Nat × Nat)) (s : State) (h : Keeps s0 s) : Keeps s0 (noticeSessions f l s) := by
  induction f generalizing l s with
  | zero => exact h
  | succ f ih =>
    cases l with
    | nil => exact h
    | cons x l => exact ih _ _ (keeps_noticeOnce _ _ _ _ _ _ _ _ h)

theorem keeps_notifyAt {s0 : State} (ntype source : Nat) (tenants : List Nat) (tenant model cause : Nat) (body : List Byte) (s : State) (h : Keeps s0 s) : Keeps s0 (notifyAt ntype source tenants tenant model cause body s) := by
  unfold notifyAt
  try dsimp only
  repeat' first
    | with_reducible assumption
    | with_reducible apply keeps_noticeOnce
    | with_reducible refine keeps_noticeOnce_eq ?_ (by assumption)
    | with_reducible apply keeps_noticeSessions

theorem keeps_sendAck {s0 : State} (mailbox session : Nat) (s : State) (h : Keeps s0 s) : Keeps s0 (sendAck mailbox session s) := by
  unfold sendAck
  try dsimp only
  repeat' first
    | with_reducible assumption
    | with_reducible apply keeps_setSession
    | with_reducible apply keeps_transmit
    | with_reducible apply keeps_endSession
    | with_reducible apply keeps_noticeSessions
    | simp only [keeps_upd]
    | split

theorem keeps_oweAck {s0 : State} (mailbox session : Nat) (s : State) (h : Keeps s0 s) : Keeps s0 (oweAck mailbox session s) := by
  unfold oweAck
  try dsimp only
  repeat' first
    | with_reducible assumption
    | with_reducible apply keeps_setSession
    | with_reducible apply keeps_sendAck
    | simp only [keeps_upd]
    | split

theorem keeps_flushAcks {s0 : State} (t : Nat) (s : State) (h : Keeps s0 s) : Keeps s0 (flushAcks t s) := by
  unfold flushAcks
  try dsimp only
  repeat' first
    | with_reducible assumption
    | with_reducible apply keeps_sendAck
    | (with_reducible refine Keeps.foldl _ ?_ ?_)
    | (with_reducible refine Keeps.foldl2 _ ?_ ?_)
    | intro _
    | simp only [keeps_upd]

theorem keeps_sendMsg {s0 : State} (d : Datagram) (s : State) (h : Keeps s0 s) : Keeps s0 (sendMsg d s) := by
  unfold sendMsg
  try dsimp only
  repeat' first
    | with_reducible assumption
    | with_reducible apply keeps_enqueue
    | with_reducible refine keeps_enqueue_eq ?_ (by assumption)
    | with_reducible apply keeps_noticeSessions
    | simp only [keeps_upd]
    | split

theorem keeps_setConn {s0 : State} (i : Nat) (c : Conn) (s : State) (h : Keeps s0 s) : Keeps s0 (setConn i c s) := by
  unfold setConn
  try dsimp only
  repeat' first
    | with_reducible assumption
    | simp only [keeps_upd]

theorem keeps_krTransmit {s0 : State} (dest port iface mtype : Nat) (header payload : List Byte) (s : State) (h : Keeps s0 s) : Keeps s0 (krTransmit dest port iface mtype header payload s) := by
  unfold krTransmit
  try dsimp only
  repeat' first
    | with_reducible assumption
    | with_reducible apply keeps_bump
    | with_reducible apply keeps_emitOut
    | simp only [keeps_upd]
    | split

theorem keeps_refuseTo {s0 : State} (dest id conn status : Nat) (port iface : Nat) (s : State) (h : Keeps s0 s) : Keeps s0 (refuseTo dest id conn status port iface s) := by
  unfold refuseTo
  try dsimp only
  repeat' first
    | with_reducible assumption
    | with_reducible apply keeps_bump
    | with_reducible apply keeps_krTransmit

theorem keeps_sendSeq {s0 : State} (i mtype channel flags : Nat) (payload : List Byte) (origin : Option (Nat × Nat)) (s : State) (h : Keeps s0 s) : Keeps s0 (sendSeq i mtype channel flags payload origin s) := by
  unfold sendSeq
  try dsimp only
  repeat' first
    | with_reducible assumption
    | with_reducible apply keeps_setConn
    | with_reducible apply keeps_krTransmit

theorem keeps_closeIfDue {s0 : State} (i reason : Nat) (s : State) (h : Keeps s0 s) : Keeps s0 (closeIfDue i reason s) := by
  unfold closeIfDue
  try dsimp only
  repeat' first
    | with_reducible assumption
    | with_reducible apply keeps_setConn
    | with_reducible apply keeps_sendSeq
    | simp only [keeps_upd]
    | split

theorem keeps_closeFreely {s0 : State} (i : Nat) (s : State) (h : Keeps s0 s) : Keeps s0 (closeFreely i s) := by
  unfold closeFreely
  try dsimp only
  repeat' first
    | with_reducible assumption
    | with_reducible apply keeps_fresh
    | with_reducible refine keeps_fresh_eq ?_ (by assumption)
    | with_reducible apply keeps_closeIfDue
    | simp only [keeps_upd]
    | split

theorem keeps_krAck {s0 : State} (i : Nat) (s : State) (h : Keeps s0 s) : Keeps s0 (krAck i s) := by
  unfold krAck
  try dsimp only
  repeat' first
    | with_reducible assumption
    | with_reducible apply keeps_setConn
    | with_reducible apply keeps_krTransmit
    | with_reducible apply keeps_closeFreely

theorem keeps_krOweAck {s0 : State} (i : Nat) (s : State) (h : Keeps s0 s) : Keeps s0 (krOweAck i s) := by
  unfold krOweAck
  try dsimp only
  repeat' first
    | with_reducible assumption
    | with_reducible apply keeps_setConn
    | with_reducible apply keeps_krAck
    | simp only [keeps_upd]
    | split

theorem keeps_flushKrAcks {s0 : State} (t : Nat) (s : State) (h : Keeps s0 s) : Keeps s0 (flushKrAcks t s) := by
  unfold flushKrAcks
  try dsimp only
  repeat' first
    | with_reducible assumption
    | with_reducible apply keeps_krAck
    | (with_reducible refine Keeps.foldl _ ?_ ?_)
    | (with_reducible refine Keeps.foldl2 _ ?_ ?_)
    | intro _
    | simp only [keeps_upd]

theorem keeps_runTo {s0 : State} (t : Nat) (s : State) (h : Keeps s0 s) : Keeps s0 (runTo t s) := by
  unfold runTo
  try dsimp only
  repeat' first
    | with_reducible assumption
    | with_reducible apply keeps_flushAcks
    | with_reducible apply keeps_flushKrAcks
    | simp only [keeps_upd]

theorem keeps_setRing {s0 : State} (r : Nat) (x : TxRing) (s : State) (h : Keeps s0 s) : Keeps s0 (setRing r x s) := by
  unfold setRing
  try dsimp only
  repeat' first
    | with_reducible assumption
    | simp only [keeps_upd]

theorem keeps_krRecord {s0 : State} (r slot csn status : Nat) (s : State) (h : Keeps s0 s) : Keeps s0 (krRecord r slot csn status s) := by
  unfold krRecord
  try dsimp only
  repeat' first
    | with_reducible assumption
    | with_reducible apply keeps_storeBytes
    | simp only [keeps_upd]
    | split

theorem keeps_advanceRing {s0 : State} (r : Nat) (s : State) (h : Keeps s0 s) : Keeps s0 (advanceRing r s) := by
  unfold advanceRing
  try dsimp only
  repeat' first
    | with_reducible assumption
    | with_reducible apply keeps_setRing

theorem keeps_failSlot {s0 : State} (r slot status : Nat) (s : State) (h : Keeps s0 s) : Keeps s0 (failSlot r slot status s) := by
  unfold failSlot
  try dsimp only
  repeat' first
    | with_reducible assumption
    | with_reducible apply keeps_setRing
    | with_reducible apply keeps_krRecord
    | with_reducible apply keeps_advanceRing
    | simp only [keeps_upd]
    | split

theorem keeps_failQueued {s0 : State} (p : Nat → Bool) (status : Nat) (s : State) (h : Keeps s0 s) : Keeps s0 (failQueued p status s) := by
  unfold failQueued
  try dsimp only
  repeat' first
    | with_reducible assumption
    | with_reducible apply keeps_failSlot
    | (with_reducible refine Keeps.foldl _ ?_ ?_)
    | (with_reducible refine Keeps.foldl2 _ ?_ ?_)
    | intro _

theorem keeps_failUnacked {s0 : State} (i status : Nat) (s : State) (h : Keeps s0 s) : Keeps s0 (failUnacked i status s) := by
  unfold failUnacked
  try dsimp only
  repeat' first
    | with_reducible assumption
    | with_reducible apply keeps_setConn
    | with_reducible apply keeps_krRecord
    | (with_reducible refine Keeps.foldl _ ?_ ?_)
    | (with_reducible refine Keeps.foldl2 _ ?_ ?_)
    | intro _
    | simp only [keeps_upd]
    | split

theorem keeps_evict {s0 : State} (s : State) (h : Keeps s0 s) : Keeps s0 (evict s) := by
  unfold evict
  try dsimp only
  repeat' first
    | with_reducible assumption
    | with_reducible apply keeps_bump
    | with_reducible apply keeps_setConn
    | with_reducible apply keeps_closeFreely
    | simp only [keeps_upd]
    | split

theorem keeps_random32 {s0 : State} (s : State) (h : Keeps s0 s) : Keeps s0 (random32 s).2 := by
  unfold random32
  try dsimp only
  repeat' first
    | with_reducible assumption
    | with_reducible apply keeps_fresh

theorem keeps_random32_eq {s0 : State} {s : State} {res : List Byte} {out_ : State} (h : Keeps s0 s) (e : random32 s = (res, out_)) : Keeps s0 out_ := by
  have k := keeps_random32 s h
  rwa [e] at k

theorem keeps_startAt {s0 : State} (i part peer : Nat) (due : List (Nat × List Byte)) (s : State) (h : Keeps s0 s) : Keeps s0 (startAt i part peer due s) := by
  unfold startAt
  try dsimp only
  repeat' first
    | with_reducible assumption
    | with_reducible apply keeps_setConn
    | with_reducible apply keeps_krTransmit
    | with_reducible apply keeps_random32
    | with_reducible refine keeps_random32_eq ?_ (by assumption)
    | simp only [keeps_upd]

theorem keeps_startSetup {s0 : State} (part peer : Nat) (due : List (Nat × List Byte)) (s : State) (h : Keeps s0 s) : Keeps s0 (startSetup part peer due s) := by
  unfold startSetup
  try dsimp only
  repeat' first
    | with_reducible assumption
    | with_reducible apply keeps_evict
    | with_reducible apply keeps_startAt
    | simp only [keeps_upd]
    | split

theorem keeps_flushDue {s0 : State} (i f : Nat) (s : State) (h : Keeps s0 s) : Keeps s0 (flushDue i f s) := by
  induction f generalizing s with
  | zero => exact h
  | succ f ih =>
    unfold flushDue
    dsimp only
    split
    · exact h
    · split
      · exact h
      · exact ih _ (keeps_sendSeq _ _ _ _ _ _ _ (keeps_setConn _ _ _ h))

theorem keeps_openConn {s0 : State} (i peerConn level : Nat) (ks : List Byte) (s : State) (h : Keeps s0 s) : Keeps s0 (openConn i peerConn level ks s) := by
  unfold openConn
  try dsimp only
  repeat' first
    | with_reducible assumption
    | with_reducible apply keeps_bump
    | with_reducible apply keeps_setConn
    | with_reducible apply keeps_closeIfDue
    | with_reducible apply keeps_flushDue
    | simp only [keeps_upd]
    | split

theorem keeps_sendAccept {s0 : State} (i : Nat) (s : State) (h : Keeps s0 s) : Keeps s0 (sendAccept i s) := by
  unfold sendAccept
  try dsimp only
  repeat' first
    | with_reducible assumption
    | with_reducible apply keeps_krTransmit

theorem keeps_acceptAt {s0 : State} (i : Nat) (w : ConnWait) (due : List (Nat × List Byte)) (s : State) (h : Keeps s0 s) : Keeps s0 (acceptAt i w due s) := by
  unfold acceptAt
  try dsimp only
  repeat' first
    | with_reducible assumption
    | with_reducible apply keeps_setConn
    | with_reducible apply keeps_random32
    | with_reducible refine keeps_random32_eq ?_ (by assumption)
    | with_reducible apply keeps_openConn
    | with_reducible apply keeps_sendAccept
    | simp only [keeps_upd]

theorem keeps_firmwareSend {s0 : State} (peer mtype : Nat) (payload : List Byte) (s : State) (h : Keeps s0 s) : Keeps s0 (firmwareSend peer mtype payload s) := by
  unfold firmwareSend
  try dsimp only
  repeat' first
    | with_reducible assumption
    | with_reducible apply keeps_setConn
    | with_reducible apply keeps_sendSeq
    | with_reducible apply keeps_startSetup
    | with_reducible apply keeps_flushDue
    | simp only [keeps_upd]
    | split

theorem keeps_fillEntry {s0 : State} (i : Nat) (s : State) (h : Keeps s0 s) : Keeps s0 (fillEntry i s) := by
  unfold fillEntry
  try dsimp only
  repeat' first
    | with_reducible assumption
    | with_reducible apply keeps_setConn
    | with_reducible apply keeps_startAt
    | with_reducible apply keeps_flushDue
    | with_reducible apply keeps_acceptAt
    | simp only [keeps_upd]
    | split

theorem keeps_freeConn {s0 : State} (i : Nat) (s : State) (h : Keeps s0 s) : Keeps s0 (freeConn i s) := by
  unfold freeConn
  try dsimp only
  repeat' first
    | with_reducible assumption
    | with_reducible apply keeps_setConn
    | with_reducible apply keeps_startSetup
    | with_reducible apply keeps_fillEntry
    | simp only [keeps_upd]
    | split

theorem keeps_loseConn {s0 : State} (i : Nat) (s : State) (h : Keeps s0 s) : Keeps s0 (loseConn i s) := by
  unfold loseConn
  try dsimp only
  repeat' first
    | with_reducible assumption
    | with_reducible apply keeps_bump
    | with_reducible apply keeps_setConn
    | with_reducible apply keeps_failQueued
    | with_reducible apply keeps_failUnacked
    | with_reducible apply keeps_fillEntry

theorem keeps_announce {s0 : State} (khz watts index : Nat) (s : State) (h : Keeps s0 s) : Keeps s0 (announce khz watts index s) := by
  unfold announce
  try dsimp only
  repeat' first
    | with_reducible assumption
    | with_reducible apply keeps_firmwareSend
    | (with_reducible refine Keeps.foldl _ ?_ ?_)
    | (with_reducible refine Keeps.foldl2 _ ?_ ?_)
    | intro _
    | simp only [keeps_upd]

theorem keeps_askReplica {s0 : State} (m : Model) (block : Nat) (s : State) (h : Keeps s0 s) : Keeps s0 (askReplica m block s) := by
  unfold askReplica
  try dsimp only
  repeat' first
    | with_reducible assumption
    | with_reducible apply keeps_firmwareSend
    | simp only [keeps_upd]
    | split

theorem keeps_atomicAt {s0 : State} (who : Requester) (ctx a n : Nat) (f : Nat → AtomicNew) (s : State) (h : Keeps s0 s) : Keeps s0 (atomicAt who ctx a n f s).2 := by
  unfold atomicAt
  try dsimp only
  repeat' first
    | with_reducible assumption
    | with_reducible apply keeps_bump
    | with_reducible apply keeps_touchLine
    | with_reducible apply keeps_outOfRange
    | with_reducible refine keeps_outOfRange_eq ?_ (by assumption)
    | with_reducible apply keeps_hemError
    | with_reducible apply keeps_storeBytes
    | with_reducible apply keeps_sliceError
    | simp only [keeps_upd]
    | split

theorem keeps_atomicAt_eq {s0 : State} {who : Requester} {ctx : Nat} {a : Nat} {n : Nat} {f : Nat → AtomicNew} {s : State} {res : AtomicResult} {out_ : State} (h : Keeps s0 s) (ev : atomicAt who ctx a n f s = (res, out_)) : Keeps s0 out_ := by
  have k := keeps_atomicAt who ctx a n f s h
  rwa [ev] at k

theorem keeps_notify {s0 : State} (ntype source : Nat) (tenants : List Nat) (tenant model : Nat) (body : List Byte) (s : State) (h : Keeps s0 s) : Keeps s0 (notify ntype source tenants tenant model body s) := by
  unfold notify
  try dsimp only
  repeat' first
    | with_reducible assumption
    | with_reducible apply keeps_notifyAt

theorem keeps_notifyOnce {s0 : State} (key ntype source : Nat) (tenants : List Nat) (tenant model : Nat) (body : List Byte) (s : State) (h : Keeps s0 s) : Keeps s0 (notifyOnce key ntype source tenants tenant model body s) := by
  unfold notifyOnce
  try dsimp only
  repeat' first
    | with_reducible assumption
    | with_reducible apply keeps_notify
    | simp only [keeps_upd]
    | split

theorem keeps_tally {s0 : State} (ntype source kind node slot piece : Nat) (s : State) (h : Keeps s0 s) : Keeps s0 (tally ntype source kind node slot piece s) := by
  unfold tally
  try dsimp only
  repeat' first
    | with_reducible assumption
    | simp only [keeps_upd]
    | split

theorem keeps_deviceFault {s0 : State} (source kind detail : Nat) (s : State) (h : Keeps s0 s) : Keeps s0 (deviceFault source kind detail s) := by
  unfold deviceFault
  try dsimp only
  repeat' first
    | with_reducible assumption
    | with_reducible apply keeps_notify

theorem keeps_leakPage {s0 : State} (seq page : Nat) (s : State) (h : Keeps s0 s) : Keeps s0 (leakPage seq page s) := by
  unfold leakPage
  try dsimp only
  repeat' first
    | with_reducible assumption
    | with_reducible apply keeps_bump
    | with_reducible apply keeps_hemError
    | with_reducible apply keeps_deviceFault
    | simp only [keeps_upd]
    | split

theorem keeps_incPage {s0 : State} (seq page : Nat) (s : State) (h : Keeps s0 s) : Keeps s0 (incPage seq page s) := by
  unfold incPage
  try dsimp only
  repeat' first
    | with_reducible assumption
    | with_reducible apply keeps_atomicAt
    | with_reducible refine keeps_atomicAt_eq ?_ (by assumption)
    | with_reducible apply keeps_leakPage
    | simp only [keeps_upd]
    | split

theorem keeps_decPage {s0 : State} (seq page : Nat) (s : State) (h : Keeps s0 s) : Keeps s0 (decPage seq page s) := by
  unfold decPage
  try dsimp only
  repeat' first
    | with_reducible assumption
    | with_reducible apply keeps_atomicAt
    | with_reducible refine keeps_atomicAt_eq ?_ (by assumption)
    | with_reducible apply keeps_leakPage
    | simp only [keeps_upd]
    | split

theorem keeps_setListEntry {s0 : State} (q : Seq) (mp l i page : Nat) (s : State) (h : Keeps s0 s) : Keeps s0 (setListEntry q mp l i page s) := by
  unfold setListEntry
  try dsimp only
  repeat' first
    | with_reducible assumption
    | with_reducible apply keeps_storeBytes

theorem keeps_releaseSeq {s0 : State} (n : Nat) (s : State) (h : Keeps s0 s) : Keeps s0 (releaseSeq n s) := by
  unfold releaseSeq
  try dsimp only
  repeat' first
    | with_reducible assumption
    | with_reducible apply keeps_bump
    | with_reducible apply keeps_setSeq
    | with_reducible apply keeps_decPage
    | with_reducible apply keeps_setListEntry
    | (with_reducible refine Keeps.foldl _ ?_ ?_)
    | (with_reducible refine Keeps.foldl2 _ ?_ ?_)
    | intro _
    | simp only [keeps_upd]
    | split

theorem keeps_endSeq {s0 : State} (n reason status stops : Nat) (s : State) (h : Keeps s0 s) : Keeps s0 (endSeq n reason status stops s) := by
  unfold endSeq
  try dsimp only
  repeat' first
    | with_reducible assumption
    | with_reducible apply keeps_bump
    | with_reducible apply keeps_setSeq
    | with_reducible apply keeps_releaseSeq
    | simp only [keeps_upd]
    | split

theorem keeps_truncateHem {s0 : State} (n step attempt lo hi : Nat) (s : State) (h : Keeps s0 s) : Keeps s0 (truncateHem n step attempt lo hi s) := by
  unfold truncateHem
  try dsimp only
  repeat' first
    | with_reducible assumption
    | with_reducible apply keeps_bump
    | with_reducible apply keeps_setSeq

theorem keeps_rejectDrafts {s0 : State} (q : StepSeq) (s : State) (h : Keeps s0 s) : Keeps s0 (rejectDrafts q s) := by
  unfold rejectDrafts
  try dsimp only
  repeat' first
    | with_reducible assumption
    | with_reducible apply keeps_bump

theorem keeps_dropEpoch {s0 : State} (n step : Nat) (s : State) (h : Keeps s0 s) : Keeps s0 (dropEpoch n step s) := by
  unfold dropEpoch
  try dsimp only
  repeat' first
    | with_reducible assumption
    | with_reducible apply keeps_bump
    | with_reducible apply keeps_setSeq

theorem keeps_clearWindows {s0 : State} (step : Nat) (s : State) (h : Keeps s0 s) : Keeps s0 (clearWindows step s) := by
  unfold clearWindows
  try dsimp only
  repeat' first
    | with_reducible assumption
    | with_reducible apply keeps_bump
    | with_reducible apply keeps_setPanel
    | (with_reducible refine Keeps.foldl _ ?_ ?_)
    | (with_reducible refine Keeps.foldl2 _ ?_ ?_)
    | intro _
    | simp only [keeps_upd]
    | split

theorem keeps_clearNodes {s0 : State} (step : Nat) (s : State) (h : Keeps s0 s) : Keeps s0 (clearNodes step s) := by
  unfold clearNodes
  try dsimp only
  repeat' first
    | with_reducible assumption
    | with_reducible apply keeps_setNode
    | with_reducible apply keeps_clearWindows
    | (with_reducible refine Keeps.foldl _ ?_ ?_)
    | (with_reducible refine Keeps.foldl2 _ ?_ ?_)
    | intro _

theorem keeps_samplerError {s0 : State} (kind seq grammar : Nat) (s : State) (h : Keeps s0 s) : Keeps s0 (samplerError kind seq grammar s) := by
  unfold samplerError
  try dsimp only
  repeat' first
    | with_reducible assumption
    | with_reducible apply keeps_wr

theorem keeps_clearGate {s0 : State} (step : Nat) (s : State) (h : Keeps s0 s) : Keeps s0 (clearGate step s) := by
  unfold clearGate
  try dsimp only
  repeat' first
    | with_reducible assumption
    | simp only [keeps_upd]

theorem keeps_resetCensus {s0 : State} (t : Step) (k : Nat) (s : State) (h : Keeps s0 s) : Keeps s0 (resetCensus t k s) := by
  unfold resetCensus
  try dsimp only
  repeat' first
    | with_reducible assumption
    | with_reducible apply keeps_storeBytes

theorem keeps_freeGathered {s0 : State} (t : Step) (s : State) (h : Keeps s0 s) : Keeps s0 (freeGathered t s) := by
  unfold freeGathered
  try dsimp only
  repeat' first
    | with_reducible assumption
    | simp only [keeps_upd]

theorem keeps_freeCarry {s0 : State} (t : Step) (s : State) (h : Keeps s0 s) : Keeps s0 (freeCarry t s) := by
  unfold freeCarry
  try dsimp only
  repeat' first
    | with_reducible assumption
    | simp only [keeps_upd]

theorem keeps_storeLane {s0 : State} (a : Nat) (x : CarryLane) (s : State) (h : Keeps s0 s) : Keeps s0 (storeLane a x s) := by
  unfold storeLane
  try dsimp only
  repeat' first
    | with_reducible assumption
    | with_reducible apply keeps_storeBytes

theorem keeps_moveCarry {s0 : State} (t : Step) (lanes : List CarryLane) (s : State) (h : Keeps s0 s) : Keeps s0 (moveCarry t lanes s) := by
  unfold moveCarry
  try dsimp only
  repeat' first
    | with_reducible assumption
    | with_reducible apply keeps_bump
    | with_reducible apply keeps_setStep
    | with_reducible refine keeps_allotScratch_eq ?_ (by assumption)
    | with_reducible apply keeps_storeLane
    | (with_reducible refine Keeps.foldl _ ?_ ?_)
    | (with_reducible refine Keeps.foldl2 _ ?_ ?_)
    | intro _
    | simp only [keeps_upd]
    | split

theorem keeps_keepCarry {s0 : State} (t : Step) (s : State) (h : Keeps s0 s) : Keeps s0 (keepCarry t s) := by
  unfold keepCarry
  try dsimp only
  repeat' first
    | with_reducible assumption
    | with_reducible apply keeps_setStep
    | with_reducible apply keeps_freeCarry
    | with_reducible apply keeps_moveCarry
    | simp only [keeps_upd]
    | split

theorem keeps_movesResumed {s0 : State} (s : State) (h : Keeps s0 s) : Keeps s0 (movesResumed s) := by
  unfold movesResumed
  try dsimp only
  repeat' first
    | with_reducible assumption
    | with_reducible apply keeps_moveCarry
    | (with_reducible refine Keeps.foldl _ ?_ ?_)
    | (with_reducible refine Keeps.foldl2 _ ?_ ?_)
    | intro _

theorem keeps_restoreLane {s0 : State} (t : Step) (x : CarryLane) (l : SlotLane) (s : State) (h : Keeps s0 s) : Keeps s0 (restoreLane t x l s) := by
  unfold restoreLane
  exact keeps_setSlot _ _ _ h

theorem keeps_clearSlots {s0 : State} (r : Nat × Nat) (s : State) (h : Keeps s0 s) : Keeps s0 (clearSlots r s) := by
  unfold clearSlots
  try dsimp only
  repeat' first
    | with_reducible assumption
    | simp only [keeps_upd]

theorem keeps_restoreCarry {s0 : State} (t : Step) (s : State) (h : Keeps s0 s) : Keeps s0 (restoreCarry t s) := by
  unfold restoreCarry
  try dsimp only
  repeat' first
    | with_reducible assumption
    | with_reducible apply keeps_restoreLane
    | with_reducible apply keeps_clearSlots
    | (with_reducible refine Keeps.foldl _ ?_ ?_)
    | (with_reducible refine Keeps.foldl2 _ ?_ ?_)
    | intro _
    | simp only [keeps_upd]
    | split

theorem keeps_leaveStep {s0 : State} (t : Step) (s : State) (h : Keeps s0 s) : Keeps s0 (leaveStep t s) := by
  unfold leaveStep
  try dsimp only
  repeat' first
    | with_reducible assumption
    | with_reducible apply keeps_dropStep
    | with_reducible apply keeps_purgeStep
    | with_reducible apply keeps_dropEpoch
    | with_reducible apply keeps_clearNodes
    | with_reducible apply keeps_clearGate
    | (with_reducible refine Keeps.foldl _ ?_ ?_)
    | (with_reducible refine Keeps.foldl2 _ ?_ ?_)
    | intro _

theorem keeps_endStep {s0 : State} (t : Step) (s : State) (h : Keeps s0 s) : Keeps s0 (endStep t s) := by
  unfold endStep
  try dsimp only
  repeat' first
    | with_reducible assumption
    | with_reducible apply keeps_rejectDrafts
    | with_reducible apply keeps_leaveStep
    | (with_reducible refine Keeps.foldl _ ?_ ?_)
    | (with_reducible refine Keeps.foldl2 _ ?_ ?_)
    | intro _

theorem keeps_backToReady {s0 : State} (t : Step) (s : State) (h : Keeps s0 s) : Keeps s0 (backToReady t s) := by
  unfold backToReady
  try dsimp only
  repeat' first
    | with_reducible assumption
    | with_reducible apply keeps_setSeq
    | with_reducible apply keeps_rejectDrafts
    | with_reducible apply keeps_leaveStep
    | (with_reducible refine Keeps.foldl _ ?_ ?_)
    | (with_reducible refine Keeps.foldl2 _ ?_ ?_)
    | intro _
    | simp only [keeps_upd]
    | split

theorem keeps_zipRecord {s0 : State} (p kind : Nat) (block : Bool) (model layer piece : Nat) (s : State) (h : Keeps s0 s) : Keeps s0 (zipRecord p kind block model layer piece s) := by
  unfold zipRecord
  try dsimp only
  repeat' first
    | with_reducible assumption
    | with_reducible apply keeps_wr
    | with_reducible apply keeps_bump

theorem keeps_failStep {s0 : State} (t : Step) (status : Nat) (s : State) (h : Keeps s0 s) : Keeps s0 (failStep t status s) := by
  unfold failStep
  try dsimp only
  repeat' first
    | with_reducible assumption
    | with_reducible apply keeps_endSeq
    | with_reducible apply keeps_endStep
    | (with_reducible refine Keeps.foldl _ ?_ ?_)
    | (with_reducible refine Keeps.foldl2 _ ?_ ?_)
    | intro _

theorem keeps_indexFault {s0 : State} (step model layer piece kind stream : Nat) (s : State) (h : Keeps s0 s) : Keeps s0 (indexFault step model layer piece kind stream s) := by
  unfold indexFault
  try dsimp only
  repeat' first
    | with_reducible assumption
    | with_reducible apply keeps_setModel
    | with_reducible apply keeps_purgeStep
    | with_reducible apply keeps_notify
    | with_reducible apply keeps_notifyOnce
    | with_reducible apply keeps_endSeq
    | with_reducible apply keeps_failStep
    | (with_reducible refine Keeps.foldl _ ?_ ?_)
    | (with_reducible refine Keeps.foldl2 _ ?_ ?_)
    | intro _
    | simp only [keeps_upd]
    | split

theorem keeps_expandFaults {s0 : State} (t : Step) (os : List OpRun) (s : State) (h : Keeps s0 s) : Keeps s0 (expandFaults t os s) := by
  unfold expandFaults
  try dsimp only
  repeat' first
    | with_reducible assumption
    | with_reducible apply keeps_zipRecord
    | with_reducible apply keeps_indexFault
    | (with_reducible refine Keeps.foldl _ ?_ ?_)
    | (with_reducible refine Keeps.foldl2 _ ?_ ?_)
    | intro _
    | simp only [keeps_upd]
    | split

theorem keeps_dispatchStep {s0 : State} (t : Step) (s : State) (h : Keeps s0 s) : Keeps s0 (dispatchStep t s) := by
  unfold dispatchStep
  try dsimp only
  repeat' first
    | with_reducible assumption
    | with_reducible apply keeps_expandStep
    | with_reducible apply keeps_expandFaults
    | simp only [keeps_upd]
    | split

theorem keeps_newAttempt {s0 : State} (t : Step) (s : State) (h : Keeps s0 s) : Keeps s0 (newAttempt t s) := by
  unfold newAttempt
  try dsimp only
  repeat' first
    | with_reducible assumption
    | with_reducible apply keeps_fresh
    | with_reducible refine keeps_fresh_eq ?_ (by assumption)
    | with_reducible apply keeps_setSeq
    | with_reducible apply keeps_setStep
    | with_reducible apply keeps_purgeStep
    | with_reducible apply keeps_truncateHem
    | with_reducible apply keeps_clearNodes
    | with_reducible apply keeps_clearGate
    | with_reducible apply keeps_resetCensus
    | with_reducible apply keeps_freeGathered
    | with_reducible apply keeps_restoreCarry
    | with_reducible apply keeps_dispatchStep
    | (with_reducible refine Keeps.foldl _ ?_ ?_)
    | (with_reducible refine Keeps.foldl2 _ ?_ ?_)
    | intro _
    | simp only [keeps_upd]
    | split

theorem keeps_rerunStep {s0 : State} (t : Step) (s : State) (h : Keeps s0 s) : Keeps s0 (rerunStep t s) := by
  unfold rerunStep
  try dsimp only
  repeat' first
    | with_reducible assumption
    | with_reducible apply keeps_fitAttempt
    | with_reducible apply keeps_deviceFault
    | with_reducible apply keeps_newAttempt
    | with_reducible apply keeps_failStep
    | simp only [keeps_upd]
    | split

theorem keeps_rerunWhere {s0 : State} (p : Step → Bool) (s : State) (h : Keeps s0 s) : Keeps s0 (rerunWhere p s) := by
  unfold rerunWhere
  try dsimp only
  repeat' first
    | with_reducible assumption
    | with_reducible apply keeps_rerunStep
    | (with_reducible refine Keeps.foldl _ ?_ ?_)
    | (with_reducible refine Keeps.foldl2 _ ?_ ?_)
    | intro _
    | simp only [keeps_upd]
    | split

theorem keeps_isolatePanel {s0 : State} (p cause : Nat) (s : State) (h : Keeps s0 s) : Keeps s0 (isolatePanel p cause s) := by
  unfold isolatePanel
  try dsimp only
  repeat' first
    | with_reducible assumption
    | with_reducible apply keeps_wrF
    | with_reducible apply keeps_wrB
    | with_reducible apply keeps_setPanel
    | with_reducible apply keeps_dealPiece
    | with_reducible apply keeps_dealWaiting
    | with_reducible apply keeps_notify
    | with_reducible apply keeps_deviceFault
    | with_reducible apply keeps_rerunWhere
    | (with_reducible refine Keeps.foldl _ ?_ ?_)
    | (with_reducible refine Keeps.foldl2 _ ?_ ?_)
    | intro _
    | simp only [keeps_upd]
    | split

theorem keeps_failStitcher {s0 : State} (p i : Nat) (piece : Nat) (s : State) (h : Keeps s0 s) : Keeps s0 (failStitcher p i piece s) := by
  unfold failStitcher
  try dsimp only
  repeat' first
    | with_reducible assumption
    | with_reducible apply keeps_wrF
    | with_reducible apply keeps_wrB
    | with_reducible apply keeps_setPanel
    | with_reducible apply keeps_setStitcher
    | with_reducible apply keeps_notify
    | with_reducible apply keeps_isolatePanel
    | simp only [keeps_upd]
    | split

theorem keeps_failPause {s0 : State} (model : Nat) (s : State) (h : Keeps s0 s) : Keeps s0 (failPause model s) := by
  unfold failPause
  try dsimp only
  repeat' first
    | with_reducible assumption
    | with_reducible apply keeps_setModel
    | with_reducible apply keeps_notify
    | with_reducible apply keeps_endSeq
    | (with_reducible refine Keeps.foldl _ ?_ ?_)
    | (with_reducible refine Keeps.foldl2 _ ?_ ?_)
    | intro _
    | simp only [keeps_upd]
    | split

theorem keeps_expirePause {s0 : State} (model : Nat) (s : State) (h : Keeps s0 s) : Keeps s0 (expirePause model s) := by
  unfold expirePause
  split
  · exact keeps_failPause model s h
  · exact h

theorem keeps_askNew {s0 : State} (m : Model) (line : Nat) (s : State) (h : Keeps s0 s) : Keeps s0 (askNew m line s) := by
  unfold askNew
  try dsimp only
  repeat' first
    | with_reducible assumption
    | with_reducible apply keeps_askReplica
    | simp only [keeps_upd]
    | split

theorem keeps_quarantine {s0 : State} (model line : Nat) (s : State) (h : Keeps s0 s) : Keeps s0 (quarantine model line s) := by
  unfold quarantine
  try dsimp only
  repeat' first
    | with_reducible assumption
    | with_reducible apply keeps_bump
    | with_reducible apply keeps_setModel
    | with_reducible apply keeps_notify
    | with_reducible apply keeps_backToReady
    | with_reducible apply keeps_failPause
    | with_reducible apply keeps_askNew
    | (with_reducible refine Keeps.foldl _ ?_ ?_)
    | (with_reducible refine Keeps.foldl2 _ ?_ ?_)
    | intro _
    | simp only [keeps_upd]
    | split

end Sys2Proof.Laws
end

