-- ==== Sys2Proof/Laws/KeepsData.lean ====
section
/-! SUPPORT. What answers, regions, the guard, the seam, finishers, engines, the shuttle and the memories keep: the queue, the fuses and the canonical forms. -/

namespace Sys2Proof.Laws

open Sys2Proof.Machine

theorem keeps_respond {s0 : State} (mailbox session correlation command status : Nat) (payload : List Byte) (s : State) (h : Keeps s0 s) : Keeps s0 (respond mailbox session correlation command status payload s) := by
  unfold respond
  try dsimp only
  repeat' first
    | with_reducible assumption
    | with_reducible apply keeps_sendMsg

theorem keeps_respondTo {s0 : State} (w : Waiter) (status : Nat) (payload : List Byte) (s : State) (h : Keeps s0 s) : Keeps s0 (respondTo w status payload s) := by
  unfold respondTo
  try dsimp only
  repeat' first
    | with_reducible assumption
    | with_reducible apply keeps_respond

theorem keeps_openDetail {s0 : State} (field : Nat) (s : State) (h : Keeps s0 s) : Keeps s0 (openDetail field s).2 := by
  unfold openDetail
  try dsimp only
  repeat' first
    | with_reducible assumption
    | with_reducible apply keeps_fresh

theorem keeps_openDetail_eq {s0 : State} {field : Nat} {s : State} {res : List Byte} {out_ : State} (h : Keeps s0 s) (e : openDetail field s = (res, out_)) : Keeps s0 out_ := by
  have k := keeps_openDetail field s h
  rwa [e] at k

theorem keeps_refuseAt {s0 : State} (mailbox session correlation command status field tape : Nat) (s : State) (h : Keeps s0 s) : Keeps s0 (refuseAt mailbox session correlation command status field tape s) := by
  unfold refuseAt
  try dsimp only
  repeat' first
    | with_reducible assumption
    | with_reducible apply keeps_sendMsg
    | with_reducible apply keeps_openDetail

theorem keeps_settle {s0 : State} (w : Waiter) (status : Nat) (s : State) (h : Keeps s0 s) : Keeps s0 (settle w status s) := by
  unfold settle
  try dsimp only
  repeat' first
    | with_reducible assumption
    | with_reducible apply keeps_respondTo
    | with_reducible apply keeps_refuseAt
    | simp only [keeps_upd]
    | split

theorem keeps_settleAll {s0 : State} (ws : List Waiter) (status : Nat) (s : State) (h : Keeps s0 s) : Keeps s0 (settleAll ws status s) := by
  unfold settleAll
  try dsimp only
  repeat' first
    | with_reducible assumption
    | with_reducible apply keeps_settle
    | (with_reducible refine Keeps.foldl _ ?_ ?_)
    | (with_reducible refine Keeps.foldl2 _ ?_ ?_)
    | intro _

/-- A reply whose changed state follows from s. -/
def KeepsReply (s : State) (x : Reply) : Prop :=
  match x with
  | .done _ t => Keeps s t
  | .counted _ _ _ t => Keeps s t
  | .later t => Keeps s t
  | _ => True

theorem keeps_conclude {s0 : State} (c : CmdSpec) (r : Req) (s : State) (x : Reply) (h : Keeps s0 s) (k : KeepsReply s0 x) : Keeps s0 (conclude c r s x) := by
  cases x with
  | done p t => exact keeps_respond _ _ _ _ _ _ _ k
  | refuse a b c => exact keeps_respond _ _ _ _ _ _ _ h
  | refuseOpen a b => exact keeps_refuseAt _ _ _ _ _ _ _ _ h
  | badImage a b => exact keeps_respond _ _ _ _ _ _ _ h
  | counted a b c t => exact keeps_respond _ _ _ _ _ _ _ k
  | busy t => exact keeps_refuseAt _ _ _ _ _ _ _ _ h
  | later t => exact k

/-- The controller's handling of a request keeps what the command's own handling keeps. -/
theorem keeps_control {s0 : State} (c : CmdSpec) (lenOk : Bool) (body : State → Reply) (r : Req) (s : State) (h : Keeps s0 s) (k : KeepsReply s0 (body s)) :
    KeepsOut s0 (Machine.control c lenOk body r s) := by
  unfold Machine.control
  dsimp only
  repeat' first
    | with_reducible assumption
    | with_reducible apply KeepsOut.next
    | with_reducible apply keeps_refuseAt
    | with_reducible apply keeps_respond
    | with_reducible apply keeps_conclude
    | split

theorem keeps_writeRegion {s0 : State} (a : Nat) (v : Word) (s : State) (h : Keeps s0 s) : Keeps s0 (writeRegion a v s) := by
  unfold writeRegion
  try dsimp only
  repeat' first
    | with_reducible assumption
    | with_reducible apply keeps_wrF
    | with_reducible apply keeps_wrB
    | simp only [keeps_upd]
    | split

theorem keeps_placeRegion {s0 : State} (a at_ : Nat) (s : State) (h : Keeps s0 s) : Keeps s0 (placeRegion a at_ s) := by
  unfold placeRegion
  try dsimp only
  repeat' first
    | with_reducible assumption
    | with_reducible apply keeps_writeRegion

theorem keeps_makeTenant {s0 : State} (t session weight quota : Nat) (s : State) (h : Keeps s0 s) : Keeps s0 (makeTenant t session weight quota s) := by
  unfold makeTenant
  try dsimp only
  repeat' first
    | with_reducible assumption
    | with_reducible apply keeps_wr
    | with_reducible apply keeps_wrB
    | with_reducible apply keeps_setTenant
    | simp only [keeps_upd]

theorem keeps_startFirmware {s0 : State} (g : Regions) (s : State) (h : Keeps s0 s) : Keeps s0 (startFirmware g s) := by
  unfold startFirmware
  try dsimp only
  repeat' first
    | with_reducible assumption
    | with_reducible apply keeps_wrF
    | with_reducible apply keeps_wrB
    | with_reducible apply keeps_placeRegion
    | with_reducible apply keeps_makeTenant
    | simp only [keeps_upd]
    | split

theorem keeps_stretchNotices {s0 : State} (models tenants : List Nat) (s : State) (h : Keeps s0 s) : Keeps s0 (stretchNotices models tenants s) := by
  unfold stretchNotices
  try dsimp only
  repeat' first
    | with_reducible assumption
    | with_reducible apply keeps_notify
    | (with_reducible refine Keeps.foldl _ ?_ ?_)
    | (with_reducible refine Keeps.foldl2 _ ?_ ?_)
    | intro _

theorem keeps_countStretch {s0 : State} (unfinished : List Nat) (m : Nat) (s : State) (h : Keeps s0 s) : Keeps s0 (countStretch unfinished m s) := by
  unfold countStretch
  try dsimp only
  repeat' first
    | with_reducible assumption
    | with_reducible apply keeps_setModel
    | with_reducible apply keeps_notify
    | simp only [keeps_upd]
    | split

theorem keeps_freeBlock {s0 : State} (base : Nat) (s : State) (h : Keeps s0 s) : Keeps s0 (freeBlock base s) := by
  unfold freeBlock
  try dsimp only
  repeat' first
    | with_reducible assumption
    | simp only [keeps_upd]

theorem keeps_freeSeq {s0 : State} (n : Nat) (s : State) (h : Keeps s0 s) : Keeps s0 (freeSeq n s) := by
  unfold freeSeq
  try dsimp only
  repeat' first
    | with_reducible assumption
    | with_reducible apply keeps_setSeq
    | with_reducible apply keeps_freeBlock
    | simp only [keeps_upd]

theorem keeps_takeRecord {s0 : State} (n : Nat) (s : State) (h : Keeps s0 s) : Keeps s0 (takeRecord n s).2 := by
  unfold takeRecord
  try dsimp only
  repeat' first
    | with_reducible assumption
    | with_reducible apply keeps_fresh
    | with_reducible refine keeps_fresh_eq ?_ (by assumption)
    | with_reducible apply keeps_setSeq
    | simp only [keeps_upd]
    | split

theorem keeps_takeRecord_eq {s0 : State} {n : Nat} {s : State} {res : List Byte} {out_ : State} (h : Keeps s0 s) (e : takeRecord n s = (res, out_)) : Keeps s0 out_ := by
  have k := keeps_takeRecord n s h
  rwa [e] at k

theorem keeps_emitTo {s0 : State} (tenant dest : Nat) (seqs : List Nat) (s : State) (h : Keeps s0 s) : Keeps s0 (emitTo tenant dest seqs s) := by
  unfold emitTo
  try dsimp only
  repeat' first
    | with_reducible assumption
    | with_reducible apply keeps_sendMsg
    | with_reducible apply keeps_takeRecord
    | with_reducible refine keeps_takeRecord_eq ?_ (by assumption)
    | (with_reducible refine Keeps.foldl _ ?_ ?_)
    | (with_reducible refine Keeps.foldl2 _ ?_ ?_)
    | intro _

theorem keeps_emitAll {s0 : State} (s : State) (h : Keeps s0 s) : Keeps s0 (emitAll s) := by
  unfold emitAll
  try dsimp only
  repeat' first
    | with_reducible assumption
    | with_reducible apply keeps_freeSeq
    | with_reducible apply keeps_emitTo
    | (with_reducible refine Keeps.foldl _ ?_ ?_)
    | (with_reducible refine Keeps.foldl2 _ ?_ ?_)
    | intro _

theorem keeps_closeWork {s0 : State} (s : State) (h : Keeps s0 s) : Keeps s0 (closeWork s) := by
  unfold closeWork
  try dsimp only
  repeat' first
    | with_reducible assumption
    | with_reducible apply keeps_markStretched
    | with_reducible apply keeps_stretchNotices
    | with_reducible apply keeps_countStretch
    | (with_reducible refine Keeps.foldl _ ?_ ?_)
    | (with_reducible refine Keeps.foldl2 _ ?_ ?_)
    | intro _
    | simp only [keeps_upd]
    | split

theorem keeps_beginGuard {s0 : State} (s : State) (h : Keeps s0 s) : Keeps s0 (beginGuard s) := by
  unfold beginGuard
  try dsimp only
  repeat' first
    | with_reducible assumption
    | with_reducible apply keeps_runTo
    | with_reducible apply keeps_emitAll
    | with_reducible apply keeps_closeWork
    | simp only [keeps_upd]
    | split

theorem keeps_atCompletion {s0 : State} (s : State) (h : Keeps s0 s) : Keeps s0 (atCompletion s) := by
  unfold atCompletion
  try dsimp only
  repeat' first
    | with_reducible assumption
    | with_reducible apply keeps_beginGuard
    | simp only [keeps_upd]
    | split

theorem keeps_seamFaultReg {s0 : State} (a kind : Nat) (r : Record) (s : State) (h : Keeps s0 s) : Keeps s0 (seamFaultReg a kind r s) := by
  unfold seamFaultReg
  try dsimp only
  repeat' first
    | with_reducible assumption
    | with_reducible apply keeps_wr

theorem keeps_seamFault1 {s0 : State} (p kind : Nat) (r : Record) (s : State) (h : Keeps s0 s) : Keeps s0 (seamFault1 p kind r s) := by
  unfold seamFault1
  try dsimp only
  repeat' first
    | with_reducible assumption
    | with_reducible apply keeps_bump
    | with_reducible apply keeps_tally
    | with_reducible apply keeps_seamFaultReg

theorem keeps_seamFault2 {s0 : State} (n kind : Nat) (r : Record) (s : State) (h : Keeps s0 s) : Keeps s0 (seamFault2 n kind r s) := by
  unfold seamFault2
  try dsimp only
  repeat' first
    | with_reducible assumption
    | with_reducible apply keeps_bump
    | with_reducible apply keeps_tally
    | with_reducible apply keeps_seamFaultReg

theorem keeps_popPort_eq {s0 : State} {p : Nat} {port : Option Nat} {s t : State} {r : Record} (h : Keeps s0 s) (e : popPort p port s = some (r, t)) : Keeps s0 t := by
  unfold popPort at e
  dsimp only at e
  split at e <;> split at e <;> cases e
  · exact keeps_setStitcher _ _ _ _ h
  · exact keeps_setPanel _ _ _ h

theorem keeps_poisonLane {s0 : State} (r : Record) (s : State) (h : Keeps s0 s) : Keeps s0 (poisonLane r s) := by
  unfold poisonLane
  try dsimp only
  repeat' first
    | with_reducible assumption
    | with_reducible apply keeps_setNode
    | simp only [keeps_upd]
    | split

theorem keeps_acceptRecord {s0 : State} (p : Nat) (r : Record) (s : State) (h : Keeps s0 s) : Keeps s0 (acceptRecord p r s) := by
  unfold acceptRecord
  try dsimp only
  repeat' first
    | with_reducible assumption
    | with_reducible apply keeps_bump
    | with_reducible apply keeps_setPanel
    | with_reducible apply keeps_seamFault1
    | with_reducible apply keeps_poisonLane
    | simp only [keeps_upd]
    | split

theorem keeps_storeLost {s0 : State} (t : Step) (r : Record) (s : State) (h : Keeps s0 s) : Keeps s0 (storeLost t r s) := by
  unfold storeLost
  try dsimp only
  repeat' first
    | with_reducible assumption
    | with_reducible apply keeps_logError
    | with_reducible apply keeps_seamFault2
    | with_reducible apply keeps_poisonLane

theorem keeps_mergeRecord {s0 : State} (n : Nat) (t : Step) (r : Record) (storeBad : Bool) (s : State) (h : Keeps s0 s) : Keeps s0 (mergeRecord n t r storeBad s) := by
  unfold mergeRecord
  try dsimp only
  repeat' first
    | with_reducible assumption
    | with_reducible apply keeps_bump
    | with_reducible apply keeps_setNode
    | with_reducible apply keeps_rerunStep
    | with_reducible apply keeps_seamFault2
    | with_reducible apply keeps_storeLost
    | simp only [keeps_upd]
    | split

theorem keeps_reserveOp {s0 : State} (t : Step) (i : Nat) (o : OpRun) (s : State) (h : Keeps s0 s) : Keeps s0 (reserveOp t i o s) := by
  unfold reserveOp
  try dsimp only
  repeat' first
    | with_reducible assumption
    | with_reducible apply keeps_setNode
    | with_reducible apply keeps_setStep
    | (with_reducible refine Keeps.foldl _ ?_ ?_)
    | (with_reducible refine Keeps.foldl2 _ ?_ ?_)
    | intro _
    | simp only [keeps_upd]
    | split

theorem keeps_setReady {s0 : State} (step i : Nat) (s : State) (h : Keeps s0 s) : Keeps s0 (setReady step i s) := by
  unfold setReady
  try dsimp only
  repeat' first
    | with_reducible assumption
    | with_reducible apply keeps_setPanel
    | (with_reducible refine Keeps.foldl _ ?_ ?_)
    | (with_reducible refine Keeps.foldl2 _ ?_ ?_)
    | intro _
    | simp only [keeps_upd]

theorem keeps_releaseLevel {s0 : State} (t : Step) (k : Nat × Nat) (s : State) (h : Keeps s0 s) : Keeps s0 (releaseLevel t k s) := by
  unfold releaseLevel
  try dsimp only
  repeat' first
    | with_reducible assumption
    | with_reducible apply keeps_setStep
    | with_reducible apply keeps_setReady
    | (with_reducible refine Keeps.foldl _ ?_ ?_)
    | (with_reducible refine Keeps.foldl2 _ ?_ ?_)
    | intro _
    | simp only [keeps_upd]

theorem keeps_countFinisher {s0 : State} (t : Step) (rb slot : Nat) (o : LaneOut) (s : State) (h : Keeps s0 s) : Keeps s0 (countFinisher t rb slot o s) := by
  unfold countFinisher
  try dsimp only
  repeat' first
    | with_reducible assumption
    | with_reducible apply keeps_bump
    | (with_reducible refine Keeps.foldl _ ?_ ?_)
    | (with_reducible refine Keeps.foldl2 _ ?_ ?_)
    | intro _

theorem keeps_putLane {s0 : State} (n fmt dim rows lane : Nat) (x : SlotLane) (s : State) (h : Keeps s0 s) : Keeps s0 (putLane n fmt dim rows lane x s) := by
  unfold putLane
  try dsimp only
  repeat' first
    | with_reducible assumption
    | with_reducible apply keeps_setSlot

theorem keeps_mergeCensus {s0 : State} (t : Step) (k : Nat) (p : Partial) (s : State) (h : Keeps s0 s) : Keeps s0 (mergeCensus t k p s) := by
  unfold mergeCensus
  try dsimp only
  repeat' first
    | with_reducible assumption
    | with_reducible apply keeps_storeBytes
    | simp only [keeps_upd]
    | split

theorem keeps_stagePartial {s0 : State} (p model : Nat) (q : Partial) (s : State) (h : Keeps s0 s) : Keeps s0 (stagePartial p model q s) := by
  unfold stagePartial
  try dsimp only
  repeat' first
    | with_reducible assumption
    | with_reducible apply keeps_storeBytes
    | with_reducible apply keeps_setPanel
    | simp only [keeps_upd]
    | split

theorem keeps_stageAll {s0 : State} (model : Nat) (parts : Sparse Partial) (s : State) (h : Keeps s0 s) : Keeps s0 (stageAll model parts s) := by
  unfold stageAll
  try dsimp only
  repeat' first
    | with_reducible assumption
    | with_reducible apply keeps_stagePartial
    | (with_reducible refine Keeps.foldl _ ?_ ?_)
    | (with_reducible refine Keeps.foldl2 _ ?_ ?_)
    | intro _

theorem keeps_gatherPartials {s0 : State} (t : Step) (k : Nat) (s : State) (h : Keeps s0 s) : Keeps s0 (gatherPartials t k s) := by
  unfold gatherPartials
  try dsimp only
  repeat' first
    | with_reducible assumption
    | with_reducible apply keeps_setPanel
    | with_reducible apply keeps_mergeCensus
    | (with_reducible refine Keeps.foldl _ ?_ ?_)
    | (with_reducible refine Keeps.foldl2 _ ?_ ?_)
    | intro _

theorem keeps_writeList {s0 : State} (addr fmt n mask : Nat) (s : State) (h : Keeps s0 s) : Keeps s0 (writeList addr fmt n mask s) := by
  unfold writeList
  try dsimp only
  repeat' first
    | with_reducible assumption
    | with_reducible apply keeps_storeBytes
    | with_reducible apply keeps_setSlot

theorem keeps_writeLists {s0 : State} (t : Step) (o : OpRun) (groups : List (Nat × Nat)) (s : State) (h : Keeps s0 s) : Keeps s0 (writeLists t o groups s) := by
  unfold writeLists
  try dsimp only
  repeat' first
    | with_reducible assumption
    | with_reducible apply keeps_setSlot
    | with_reducible apply keeps_writeList
    | (with_reducible refine Keeps.foldl _ ?_ ?_)
    | (with_reducible refine Keeps.foldl2 _ ?_ ?_)
    | intro _
    | simp only [keeps_upd]
    | split

theorem keeps_hemPut {s0 : State} (n step attempt l pos side : Nat) (c : CacheRec) (s : State) (h : Keeps s0 s) : Keeps s0 (hemPut n step attempt l pos side c s) := by
  unfold hemPut
  try dsimp only
  repeat' first
    | with_reducible assumption
    | with_reducible apply keeps_bump
    | with_reducible apply keeps_setSeq

theorem keeps_writeCache {s0 : State} (t : Step) (o : OpRun) (dim rows : Nat) (q : StepSeq) (ys : List (F32 × Bool)) (s : State) (h : Keeps s0 s) : Keeps s0 (writeCache t o dim rows q ys s) := by
  unfold writeCache
  try dsimp only
  repeat' first
    | with_reducible assumption
    | with_reducible apply keeps_hemPut
    | (with_reducible refine Keeps.foldl _ ?_ ?_)
    | (with_reducible refine Keeps.foldl2 _ ?_ ?_)
    | intro _

theorem keeps_writeLane {s0 : State} (t : Step) (i : Nat) (o : OpRun) (loc slot lane dim rows : Nat) (ys : List (F32 × Bool)) (part : Sparse Partial) (s : State) (h : Keeps s0 s) : Keeps s0 (writeLane t i o loc slot lane dim rows ys part s).2 := by
  unfold writeLane
  try dsimp only
  repeat' first
    | with_reducible assumption
    | with_reducible apply keeps_countFinisher
    | with_reducible apply keeps_putLane
    | with_reducible apply keeps_writeCache
    | simp only [keeps_upd]
    | split


theorem keeps_writeLane_eq {s0 : State} {t : Step} {i : Nat} {o : OpRun} {loc : Nat} {slot : Nat} {lane : Nat} {dim : Nat} {rows : Nat} {ys : List (F32 × Bool)} {part : Sparse Partial} {s : State} {res : Sparse Partial} {out_ : State} (h : Keeps s0 s) (ev : writeLane t i o loc slot lane dim rows ys part s = (res, out_)) : Keeps s0 out_ := by
  have k := keeps_writeLane t i o loc slot lane dim rows ys part s h
  rwa [ev] at k

theorem keeps_finishOp {s0 : State} (t : Step) (i : Nat) (o : OpRun) (combined : Bool) (s : State) (h : Keeps s0 s) : Keeps s0 (finishOp t i o combined s) := by
  unfold finishOp
  try dsimp only
  repeat' first
    | with_reducible assumption
    | with_reducible apply keeps_stageAll
    | with_reducible apply keeps_gatherPartials
    | with_reducible apply keeps_writeLists
    | with_reducible apply keeps_writeLane
    | with_reducible refine keeps_writeLane_eq ?_ (by assumption)
    | (with_reducible refine Keeps.foldl _ ?_ ?_)
    | (with_reducible refine Keeps.foldl2 _ ?_ ?_)
    | intro _
    | simp only [keeps_upd]
    | split

theorem keeps_combineOp {s0 : State} (t : Step) (i : Nat) (o : OpRun) (s : State) (h : Keeps s0 s) : Keeps s0 (combineOp t i o s) := by
  unfold combineOp
  try dsimp only
  repeat' first
    | with_reducible assumption
    | with_reducible apply keeps_setPanel
    | (with_reducible refine Keeps.foldl _ ?_ ?_)
    | (with_reducible refine Keeps.foldl2 _ ?_ ?_)
    | intro _

theorem keeps_freeWords {s0 : State} (t : Step) (i : Nat) (slots : List Nat) (keep : Nat → Nat) (s : State) (h : Keeps s0 s) : Keeps s0 (freeWords t i slots keep s) := by
  unfold freeWords
  try dsimp only
  repeat' first
    | with_reducible assumption
    | with_reducible apply keeps_setNode
    | (with_reducible refine Keeps.foldl _ ?_ ?_)
    | (with_reducible refine Keeps.foldl2 _ ?_ ?_)
    | intro _

theorem keeps_dynamicPass {s0 : State} (t : Step) (o : OpRun) (s : State) (h : Keeps s0 s) : Keeps s0 (dynamicPass t o s) := by
  unfold dynamicPass
  try dsimp only
  repeat' first
    | with_reducible assumption
    | with_reducible apply keeps_setSlot
    | with_reducible apply keeps_countFinisher
    | with_reducible apply keeps_stageAll
    | with_reducible apply keeps_gatherPartials
    | (with_reducible refine Keeps.foldl _ ?_ ?_)
    | (with_reducible refine Keeps.foldl2 _ ?_ ?_)
    | intro _
    | simp only [keeps_upd]
    | split

theorem keeps_markFail {s0 : State} (i fails : Nat) (s : State) (h : Keeps s0 s) : Keeps s0 (markFail i fails s) := by
  unfold markFail
  try dsimp only
  repeat' first
    | with_reducible assumption
    | with_reducible apply keeps_putBytes

theorem keeps_censusNotices {s0 : State} (t : Step) (failing : List (Nat × PointState)) (s : State) (h : Keeps s0 s) : Keeps s0 (censusNotices t failing s) := by
  unfold censusNotices
  try dsimp only
  repeat' first
    | with_reducible assumption
    | with_reducible apply keeps_notify
    | (with_reducible refine Keeps.foldl _ ?_ ?_)
    | (with_reducible refine Keeps.foldl2 _ ?_ ?_)
    | intro _

theorem keeps_passStep {s0 : State} (t : Step) (s : State) (h : Keeps s0 s) : Keeps s0 (passStep t s) := by
  unfold passStep
  try dsimp only
  repeat' first
    | with_reducible assumption
    | with_reducible apply keeps_setStep
    | with_reducible apply keeps_keepCarry
    | simp only [keeps_upd]
    | split

theorem keeps_poisonedPath {s0 : State} (t : Step) (s : State) (h : Keeps s0 s) : Keeps s0 (poisonedPath t s) := by
  unfold poisonedPath
  try dsimp only
  repeat' first
    | with_reducible assumption
    | with_reducible apply keeps_setStep
    | with_reducible apply keeps_endSeq
    | with_reducible apply keeps_rejectDrafts
    | with_reducible apply keeps_dropEpoch
    | with_reducible apply keeps_endStep
    | with_reducible apply keeps_backToReady
    | with_reducible apply keeps_rerunStep
    | with_reducible apply keeps_quarantine
    | (with_reducible refine Keeps.foldl _ ?_ ?_)
    | (with_reducible refine Keeps.foldl2 _ ?_ ?_)
    | intro _
    | simp only [keeps_upd]
    | split

theorem keeps_recordPoisonedRows {s0 : State} (t : Step) (s : State) (h : Keeps s0 s) : Keeps s0 (recordPoisonedRows t s) := by
  unfold recordPoisonedRows
  try dsimp only
  repeat' first
    | with_reducible assumption
    | with_reducible apply keeps_samplerError
    | (with_reducible refine Keeps.foldl _ ?_ ?_)
    | (with_reducible refine Keeps.foldl2 _ ?_ ?_)
    | intro _
    | simp only [keeps_upd]
    | split

theorem keeps_stepEnd {s0 : State} (t : Step) (s : State) (h : Keeps s0 s) : Keeps s0 (stepEnd t s) := by
  unfold stepEnd
  try dsimp only
  repeat' first
    | with_reducible assumption
    | with_reducible apply keeps_bump
    | with_reducible apply keeps_setStep
    | with_reducible apply keeps_fitAttempt
    | with_reducible apply keeps_newAttempt
    | with_reducible apply keeps_markFail
    | with_reducible apply keeps_censusNotices
    | with_reducible apply keeps_passStep
    | with_reducible apply keeps_poisonedPath
    | with_reducible apply keeps_recordPoisonedRows
    | (with_reducible refine Keeps.foldl _ ?_ ?_)
    | (with_reducible refine Keeps.foldl2 _ ?_ ?_)
    | intro _
    | simp only [keeps_upd]
    | split

theorem keeps_closeOp {s0 : State} (t : Step) (i : Nat) (o : OpRun) (s : State) (h : Keeps s0 s) : Keeps s0 (closeOp t i o s) := by
  unfold closeOp
  try dsimp only
  repeat' first
    | with_reducible assumption
    | with_reducible apply keeps_setStep
    | with_reducible apply keeps_stepEnd
    | simp only [keeps_upd]
    | split

theorem keeps_finishClose {s0 : State} (t : Step) (i : Nat) (o : OpRun) (s : State) (h : Keeps s0 s) : Keeps s0 (finishClose t i o s) := by
  unfold finishClose
  try dsimp only
  repeat' first
    | with_reducible assumption
    | with_reducible apply keeps_setStep
    | with_reducible apply keeps_writeLists
    | with_reducible apply keeps_finishOp
    | with_reducible apply keeps_combineOp
    | with_reducible apply keeps_freeWords
    | with_reducible apply keeps_dynamicPass
    | with_reducible apply keeps_closeOp
    | simp only [keeps_upd]
    | split

theorem keeps_handOverLost {s0 : State} (t : Step) (i : Nat) (o : OpRun) (bad : List (Nat × Nat × Nat)) (s : State) (h : Keeps s0 s) : Keeps s0 (handOverLost t i o bad s) := by
  unfold handOverLost
  try dsimp only
  repeat' first
    | with_reducible assumption
    | with_reducible apply keeps_storeLost
    | (with_reducible refine Keeps.foldl _ ?_ ?_)
    | (with_reducible refine Keeps.foldl2 _ ?_ ?_)
    | intro _

theorem keeps_closeOperation {s0 : State} (t : Step) (i : Nat) (censusBad : Option Nat) (storeBad : List (Nat × Nat × Nat)) (s : State) (h : Keeps s0 s) : Keeps s0 (closeOperation t i censusBad storeBad s) := by
  unfold closeOperation
  try dsimp only
  repeat' first
    | with_reducible assumption
    | with_reducible apply keeps_logError
    | with_reducible apply keeps_rerunWhere
    | with_reducible apply keeps_isolatePanel
    | with_reducible apply keeps_finishClose
    | with_reducible apply keeps_handOverLost
    | simp only [keeps_upd]
    | split

theorem keeps_mxError {s0 : State} (p kind lane piece : Nat) (s : State) (h : Keeps s0 s) : Keeps s0 (mxError p kind lane piece s) := by
  unfold mxError
  try dsimp only
  repeat' first
    | with_reducible assumption
    | with_reducible apply keeps_wr

theorem keeps_retire {s0 : State} (p : Nat) (c : MatCmd) (s : State) (h : Keeps s0 s) : Keeps s0 (retire p c s) := by
  unfold retire
  try dsimp only
  repeat' first
    | with_reducible assumption
    | with_reducible apply keeps_bump
    | with_reducible apply keeps_setPanel

theorem keeps_underSram {s0 : State} (p : Nat) (c : MatCmd) (err : SramError) (run : State → State) (s : State) (h : Keeps s0 s) (k : ∀ t, Keeps s0 t → Keeps s0 (run t)) :
    Keeps s0 (underSram p c err run s) := by
  unfold underSram
  try dsimp only
  repeat' first
    | with_reducible assumption
    | with_reducible apply k
    | with_reducible apply keeps_bump
    | with_reducible apply keeps_mxError
    | with_reducible apply keeps_setPanel
    | with_reducible apply keeps_logError
    | with_reducible apply keeps_isolatePanel
    | split

theorem keeps_touchWeights {s0 : State} (c : MatCmd) (rs : List (Nat × Nat)) (s : State) (h : Keeps s0 s) : Keeps s0 (touchWeights c rs s) := by
  unfold touchWeights
  try dsimp only
  repeat' first
    | with_reducible assumption
    | with_reducible apply keeps_touchRange
    | (with_reducible refine Keeps.foldl _ ?_ ?_)
    | (with_reducible refine Keeps.foldl2 _ ?_ ?_)
    | intro _

theorem keeps_runDense {s0 : State} (p : Nat) (c : MatCmd) (s : State) (h : Keeps s0 s) : Keeps s0 (runDense p c s) := by
  unfold runDense
  try dsimp only
  repeat' first
    | with_reducible assumption
    | with_reducible apply keeps_setPanel
    | with_reducible apply keeps_retire

theorem keeps_putCodes {s0 : State} (n fmt dim rows lane : Nat) (scale : F32) (at_ : Nat) (codes : List Nat) (bad : List Bool) (s : State) (h : Keeps s0 s) : Keeps s0 (putCodes n fmt dim rows lane scale at_ codes bad s) := by
  unfold putCodes
  try dsimp only
  repeat' first
    | with_reducible assumption
    | with_reducible apply keeps_setSlot

theorem keeps_engineWrite {s0 : State} (p : Nat) (t : Step) (o : OpRun) (point : Bool) (fmt n dim rows lane at_ : Nat) (ys : List (F32 × Bool)) (s : State) (h : Keeps s0 s) : Keeps s0 (engineWrite p t o point fmt n dim rows lane at_ ys s) := by
  unfold engineWrite
  try dsimp only
  repeat' first
    | with_reducible assumption
    | with_reducible apply keeps_bump
    | with_reducible apply keeps_stagePartial
    | with_reducible apply keeps_putCodes
    | simp only [keeps_upd]
    | split

theorem keeps_runEmbedding {s0 : State} (p : Nat) (c : MatCmd) (t : Step) (o : OpRun) (s : State) (h : Keeps s0 s) : Keeps s0 (runEmbedding p c t o s) := by
  unfold runEmbedding
  try dsimp only
  repeat' first
    | with_reducible assumption
    | with_reducible apply keeps_retire
    | with_reducible apply keeps_engineWrite
    | (with_reducible refine Keeps.foldl _ ?_ ?_)
    | (with_reducible refine Keeps.foldl2 _ ?_ ?_)
    | intro _
    | simp only [keeps_upd]
    | split

theorem keeps_deviceCodecFault {s0 : State} (kind source slot : Nat) (s : State) (h : Keeps s0 s) : Keeps s0 (deviceCodecFault kind source slot s) := by
  unfold deviceCodecFault
  try dsimp only
  repeat' first
    | with_reducible assumption
    | with_reducible apply keeps_wr
    | with_reducible apply keeps_bump
    | with_reducible apply keeps_tally

theorem keeps_countUnwind {s0 : State} (u : Unwound) (fixed c slot : Nat) (s : State) (h : Keeps s0 s) : Keeps s0 (countUnwind u fixed c slot s) := by
  unfold countUnwind
  try dsimp only
  repeat' first
    | with_reducible assumption
    | with_reducible apply keeps_bump
    | with_reducible apply keeps_deviceCodecFault
    | simp only [keeps_upd]
    | split

theorem keeps_notePage {s0 : State} (e : MoveErrors) (n : Nat) (span : Nat × Nat) (s : State) (h : Keeps s0 s) : Keeps s0 (notePage e n span s) := by
  unfold notePage
  try dsimp only
  repeat' first
    | with_reducible assumption
    | with_reducible apply keeps_noteLost
    | simp only [keeps_upd]
    | split

theorem keeps_logPageFault {s0 : State} (fault : Option Nat) (page : Nat) (step : Nat × Nat) (s : State) (h : Keeps s0 s) : Keeps s0 (logPageFault fault page step s) := by
  unfold logPageFault
  try dsimp only
  repeat' first
    | with_reducible assumption
    | with_reducible apply keeps_logError
    | simp only [keeps_upd]
    | split

theorem keeps_fetchPage {s0 : State} (errs : MoveErrors) (p ctx : Nat) (c : MatCmd) (n : Nat) (s : State) (h : Keeps s0 s) : Keeps s0 (fetchPage errs p ctx c n s) := by
  unfold fetchPage
  try dsimp only
  repeat' first
    | with_reducible assumption
    | with_reducible apply keeps_bump
    | with_reducible apply keeps_touchRange
    | with_reducible apply keeps_countUnwind
    | with_reducible apply keeps_notePage
    | with_reducible apply keeps_logPageFault

theorem keeps_runAttention {s0 : State} (p : Nat) (errs : MoveErrors) (c : MatCmd) (t : Step) (o : OpRun) (s : State) (h : Keeps s0 s) : Keeps s0 (runAttention p errs c t o s) := by
  unfold runAttention
  try dsimp only
  repeat' first
    | with_reducible assumption
    | with_reducible apply keeps_bump
    | with_reducible apply keeps_touchRange
    | with_reducible apply keeps_hemError
    | with_reducible apply keeps_noteLost
    | with_reducible apply keeps_logError
    | with_reducible apply keeps_mxError
    | with_reducible apply keeps_retire
    | with_reducible apply keeps_engineWrite
    | with_reducible apply keeps_fetchPage
    | (with_reducible refine Keeps.foldl _ ?_ ?_)
    | (with_reducible refine Keeps.foldl2 _ ?_ ?_)
    | intro _
    | simp only [keeps_upd]
    | split

theorem keeps_setChan {s0 : State} (c : Nat) (x : Channel) (s : State) (h : Keeps s0 s) : Keeps s0 (setChan c x s) := by
  unfold setChan
  try dsimp only
  repeat' first
    | with_reducible assumption
    | simp only [keeps_upd]

theorem keeps_chComplete {s0 : State} (c status : Nat) (s : State) (h : Keeps s0 s) : Keeps s0 (chComplete c status s) := by
  unfold chComplete
  try dsimp only
  repeat' first
    | with_reducible assumption
    | with_reducible apply keeps_bump
    | with_reducible apply keeps_storeBytes
    | with_reducible apply keeps_charge
    | with_reducible apply keeps_setChan
    | simp only [keeps_upd]
    | split

theorem keeps_trigAct {s0 : State} (c : Nat) (s : State) (h : Keeps s0 s) : Keeps s0 (trigAct c s) := by
  unfold trigAct
  try dsimp only
  repeat' first
    | with_reducible assumption
    | with_reducible apply keeps_setChan
    | with_reducible apply keeps_chComplete
    | simp only [keeps_upd]
    | split

theorem keeps_takeHead {s0 : State} (ch : Nat) (s : State) (h : Keeps s0 s) : Keeps s0 (takeHead ch s) := by
  unfold takeHead
  try dsimp only
  repeat' first
    | with_reducible assumption
    | with_reducible apply keeps_touchRange
    | with_reducible apply keeps_setChan
    | with_reducible apply keeps_chComplete
    | with_reducible apply keeps_trigAct
    | simp only [keeps_upd]
    | split

theorem keeps_readAhead {s0 : State} (who : Requester) (ctx a n : Nat) (e : MoveErrors) (s : State) (h : Keeps s0 s) : Keeps s0 (readAhead who ctx a n e s).2 := by
  unfold readAhead
  try dsimp only
  repeat' first
    | with_reducible assumption
    | with_reducible apply keeps_outOfRange
    | with_reducible refine keeps_outOfRange_eq ?_ (by assumption)
    | with_reducible apply keeps_noteLost
    | with_reducible apply keeps_readMem
    | with_reducible refine keeps_readMem_eq ?_ (by assumption)
    | simp only [keeps_upd]
    | split


theorem keeps_readAhead_eq {s0 : State} {who : Requester} {ctx : Nat} {a : Nat} {n : Nat} {e : MoveErrors} {s : State} {res : Resp} {out_ : State} (h : Keeps s0 s) (ev : readAhead who ctx a n e s = (res, out_)) : Keeps s0 out_ := by
  have k := keeps_readAhead who ctx a n e s h
  rwa [ev] at k

theorem keeps_reduceElem {s0 : State} (c ctx rtype a v : Nat) (poison : Bool) (s : State) (h : Keeps s0 s) : Keeps s0 (reduceElem c ctx rtype a v poison s) := by
  unfold reduceElem
  try dsimp only
  repeat' first
    | with_reducible assumption
    | with_reducible apply keeps_poisonAt
    | with_reducible apply keeps_atomicAt
    | with_reducible refine keeps_atomicAt_eq ?_ (by assumption)
    | simp only [keeps_upd]
    | split

theorem keeps_countWind {s0 : State} (raw : Bool) (inBytes outBytes : Nat) (s : State) (h : Keeps s0 s) : Keeps s0 (countWind raw inBytes outBytes s) := by
  unfold countWind
  try dsimp only
  repeat' first
    | with_reducible assumption
    | with_reducible apply keeps_bump

theorem keeps_dropJobsAt {s0 : State} (addr : Nat) (s : State) (h : Keeps s0 s) : Keeps s0 (dropJobsAt addr s) := by
  unfold dropJobsAt
  try dsimp only
  repeat' first
    | with_reducible assumption
    | simp only [keeps_upd]

theorem keeps_busStop {s0 : State} (addr : Nat) (s : State) (h : Keeps s0 s) : Keeps s0 (busStop addr s) := by
  unfold busStop
  try dsimp only
  repeat' first
    | with_reducible assumption
    | with_reducible apply keeps_wr
    | with_reducible apply keeps_wrB
    | with_reducible apply keeps_bump
    | with_reducible apply keeps_notify
    | with_reducible apply keeps_deviceFault
    | with_reducible apply keeps_failStep
    | with_reducible apply keeps_setChan
    | with_reducible apply keeps_chComplete
    | with_reducible apply keeps_dropJobsAt
    | (with_reducible refine Keeps.foldl _ ?_ ?_)
    | (with_reducible refine Keeps.foldl2 _ ?_ ?_)
    | intro _
    | simp only [keeps_upd]
    | split

theorem keeps_moveWrite {s0 : State} (who : Requester) (ctx a : Nat) (bytes : List Byte) (poison : Bool) (m : Move) (h : Keeps s0 m.s) : Keeps s0 (moveWrite who ctx a bytes poison m).s := by
  unfold moveWrite
  dsimp only
  split
  · exact h
  · split
    · exact keeps_writeMem _ _ _ _ _ _ h
    · exact keeps_writeMem _ _ _ _ _ _ h

theorem keeps_foldMove {α : Type} {s0 : State} {m : Move} {f : Move → α → Move} (l : List α) (h : Keeps s0 m.s) (k : ∀ t a, Keeps s0 t.s → Keeps s0 (f t a).s) :
    Keeps s0 (l.foldl f m).s := by
  induction l generalizing m with
  | nil => exact h
  | cons a l ih => exact ih (k m a h)

theorem keeps_settleMove {s0 : State} (ch : Nat) (m : Move) (h : Keeps s0 m.s) : Keeps s0 (settleMove ch m) := by
  unfold settleMove
  dsimp only
  split
  · exact keeps_busStop _ _ (keeps_setChan _ _ _ h)
  · exact keeps_setChan _ _ _ h

theorem keeps_stopAt {s0 : State} (a : Nat) (r : Resp) (m : Move) (h : Keeps s0 m.s) : Keeps s0 (stopAt a r m).s := by
  unfold stopAt
  split <;> exact h

theorem keeps_moveCopy {s0 : State} (who : Requester) (ctx src dst len : Nat) (e : MoveErrors) (s : State) (h : Keeps s0 s) : Keeps s0 (moveCopy who ctx src dst len e s).s := by
  unfold moveCopy
  refine keeps_foldMove _ h ?_
  intro m k hm
  try dsimp only
  repeat' first
    | with_reducible assumption
    | with_reducible apply keeps_readAhead
    | with_reducible apply keeps_moveWrite
    | with_reducible apply keeps_stopAt
    | with_reducible apply keeps_outOfRange
    | with_reducible apply keeps_hemError
    | with_reducible apply keeps_reduceElem
    | with_reducible apply keeps_countWind
    | with_reducible apply keeps_countUnwind
    | with_reducible apply keeps_notePage
    | with_reducible apply keeps_bump
    | (with_reducible refine keeps_foldMove _ ?_ ?_)
    | intro _
    | split

theorem keeps_moveFill {s0 : State} (who : Requester) (ctx dst len pat : Nat) (s : State) (h : Keeps s0 s) : Keeps s0 (moveFill who ctx dst len pat s).s := by
  unfold moveFill
  refine keeps_foldMove _ h ?_
  intro m k hm
  try dsimp only
  repeat' first
    | with_reducible assumption
    | with_reducible apply keeps_readAhead
    | with_reducible apply keeps_moveWrite

theorem keeps_moveCompare {s0 : State} (who : Requester) (ctx src dst len : Nat) (e : MoveErrors) (s : State) (h : Keeps s0 s) : Keeps s0 (moveCompare who ctx src dst len e s).s := by
  unfold moveCompare
  refine keeps_foldMove _ h ?_
  intro m k hm
  try dsimp only
  repeat' first
    | with_reducible assumption
    | with_reducible apply keeps_readAhead
    | with_reducible apply keeps_moveWrite
    | with_reducible apply keeps_stopAt
    | with_reducible apply keeps_outOfRange
    | with_reducible apply keeps_hemError
    | with_reducible apply keeps_reduceElem
    | with_reducible apply keeps_countWind
    | with_reducible apply keeps_countUnwind
    | with_reducible apply keeps_notePage
    | with_reducible apply keeps_bump
    | (with_reducible refine keeps_foldMove _ ?_ ?_)
    | intro _
    | split

theorem keeps_moveGather {s0 : State} (c who_ctx src dst count off span : Nat) (errs : MoveErrors) (s : State) (h : Keeps s0 s) : Keeps s0 (moveGather c who_ctx src dst count off span errs s).s := by
  unfold moveGather
  refine keeps_foldMove _ h ?_
  intro m k hm
  try dsimp only
  repeat' first
    | with_reducible assumption
    | with_reducible apply keeps_readAhead
    | with_reducible apply keeps_moveWrite
    | with_reducible apply keeps_stopAt
    | with_reducible apply keeps_outOfRange
    | with_reducible apply keeps_hemError
    | with_reducible apply keeps_reduceElem
    | with_reducible apply keeps_countWind
    | with_reducible apply keeps_countUnwind
    | with_reducible apply keeps_notePage
    | with_reducible apply keeps_bump
    | (with_reducible refine keeps_foldMove _ ?_ ?_)
    | intro _
    | split

theorem keeps_moveReduce {s0 : State} (c ctx rtype src dst len : Nat) (e : MoveErrors) (s : State) (h : Keeps s0 s) : Keeps s0 (moveReduce c ctx rtype src dst len e s).s := by
  unfold moveReduce
  refine keeps_foldMove _ h ?_
  intro m k hm
  try dsimp only
  repeat' first
    | with_reducible assumption
    | with_reducible apply keeps_readAhead
    | with_reducible apply keeps_moveWrite
    | with_reducible apply keeps_stopAt
    | with_reducible apply keeps_outOfRange
    | with_reducible apply keeps_hemError
    | with_reducible apply keeps_reduceElem
    | with_reducible apply keeps_countWind
    | with_reducible apply keeps_countUnwind
    | with_reducible apply keeps_notePage
    | with_reducible apply keeps_bump
    | (with_reducible refine keeps_foldMove _ ?_ ?_)
    | intro _
    | split

theorem keeps_moveWind {s0 : State} (c ctx src dst dir len : Nat) (errs : MoveErrors) (s : State) (h : Keeps s0 s) : Keeps s0 (moveWind c ctx src dst dir len errs s).s := by
  unfold moveWind
  refine keeps_foldMove _ h ?_
  intro m k hm
  try dsimp only
  repeat' first
    | with_reducible assumption
    | with_reducible apply keeps_readAhead
    | with_reducible apply keeps_moveWrite
    | with_reducible apply keeps_stopAt
    | with_reducible apply keeps_outOfRange
    | with_reducible apply keeps_hemError
    | with_reducible apply keeps_reduceElem
    | with_reducible apply keeps_countWind
    | with_reducible apply keeps_countUnwind
    | with_reducible apply keeps_notePage
    | with_reducible apply keeps_bump
    | (with_reducible refine keeps_foldMove _ ?_ ?_)
    | intro _
    | split

theorem keeps_moveUnwind {s0 : State} (c ctx src dst dir len : Nat) (errs : MoveErrors) (s : State) (h : Keeps s0 s) : Keeps s0 (moveUnwind c ctx src dst dir len errs s).s := by
  unfold moveUnwind
  refine keeps_foldMove _ h ?_
  intro m k hm
  try dsimp only
  repeat' first
    | with_reducible assumption
    | with_reducible apply keeps_readAhead
    | with_reducible apply keeps_moveWrite
    | with_reducible apply keeps_stopAt
    | with_reducible apply keeps_outOfRange
    | with_reducible apply keeps_hemError
    | with_reducible apply keeps_reduceElem
    | with_reducible apply keeps_countWind
    | with_reducible apply keeps_countUnwind
    | with_reducible apply keeps_notePage
    | with_reducible apply keeps_bump
    | (with_reducible refine keeps_foldMove _ ?_ ?_)
    | intro _
    | split

theorem keeps_abortTenant {s0 : State} (t : Nat) (s : State) (h : Keeps s0 s) : Keeps s0 (abortTenant t s) := by
  unfold abortTenant
  try dsimp only
  repeat' first
    | with_reducible assumption
    | with_reducible apply keeps_chComplete
    | (with_reducible refine Keeps.foldl _ ?_ ?_)
    | (with_reducible refine Keeps.foldl2 _ ?_ ?_)
    | intro _
    | simp only [keeps_upd]
    | split

theorem keeps_writeChCtrl {s0 : State} (ch : Nat) (value : Word) (s : State) (h : Keeps s0 s) : Keeps s0 (writeChCtrl ch value s) := by
  unfold writeChCtrl
  try dsimp only
  repeat' first
    | with_reducible assumption
    | with_reducible apply keeps_wrF
    | with_reducible apply keeps_wrB
    | with_reducible apply keeps_setChan
    | with_reducible apply keeps_chComplete
    | (with_reducible refine Keeps.foldl _ ?_ ?_)
    | (with_reducible refine Keeps.foldl2 _ ?_ ?_)
    | intro _
    | simp only [keeps_upd]
    | split

theorem keeps_writeChannel {s0 : State} (ch : Nat) (value : Word) (s : State) (h : Keeps s0 s) : Keeps s0 (writeChannel ch value s) := by
  unfold writeChannel
  try dsimp only
  repeat' first
    | with_reducible assumption
    | with_reducible apply keeps_setChan
    | with_reducible apply keeps_writeChCtrl
    | simp only [keeps_upd]
    | split

theorem keeps_quarantineAt {s0 : State} (line : Nat) (s : State) (h : Keeps s0 s) : Keeps s0 (quarantineAt line s) := by
  unfold quarantineAt
  try dsimp only
  repeat' first
    | with_reducible assumption
    | with_reducible apply keeps_quarantine
    | simp only [keeps_upd]
    | split

theorem keeps_lineLost {s0 : State} (line beats : Nat) (step : Nat × Nat) (s : State) (h : Keeps s0 s) : Keeps s0 (lineLost line beats step s) := by
  unfold lineLost
  try dsimp only
  repeat' first
    | with_reducible assumption
    | with_reducible apply keeps_bump
    | with_reducible apply keeps_poisonAt
    | with_reducible apply keeps_sliceError
    | with_reducible apply keeps_logError
    | with_reducible apply keeps_quarantineAt

theorem keeps_hemLost {s0 : State} (s : State) (h : Keeps s0 s) : Keeps s0 (hemLost s) := by
  unfold hemLost
  try dsimp only
  repeat' first
    | with_reducible assumption
    | with_reducible apply keeps_fresh
    | with_reducible refine keeps_fresh_eq ?_ (by assumption)
    | with_reducible apply keeps_hemError
    | with_reducible apply keeps_setSeq
    | simp only [keeps_upd]
    | split

theorem keeps_freeUnit {s0 : State} (beat : Bool) (a : Nat) (s : State) (h : Keeps s0 s) : Keeps s0 (freeUnit beat a s) := by
  unfold freeUnit
  try dsimp only
  repeat' first
    | with_reducible assumption
    | with_reducible apply keeps_fresh
    | with_reducible refine keeps_fresh_eq ?_ (by assumption)
    | with_reducible apply keeps_putBytes
    | simp only [keeps_upd]
    | split

theorem keeps_readWrong {s0 : State} (beat : Bool) (a : Nat) (bits : List Nat) (s : State) (h : Keeps s0 s) : Keeps s0 (readWrong beat a bits s) := by
  unfold readWrong
  try dsimp only
  repeat' first
    | with_reducible assumption
    | with_reducible apply keeps_putBytes
    | with_reducible apply keeps_freeUnit
    | simp only [keeps_upd]
    | split

theorem keeps_decodeUnit {s0 : State} (beat : Bool) (fixes catches line : Nat) (z : Found × State) (e : Nat × List Nat) (h : Keeps s0 z.2) :
    Keeps s0 (decodeUnit beat fixes catches line z e).2 := by
  unfold decodeUnit
  dsimp only
  split
  · exact h
  split
  · exact h
  split
  · exact keeps_readWrong _ _ _ _ h
  split
  · exact keeps_readWrong _ _ _ _ (keeps_fresh _ h)
  · exact keeps_freeUnit _ _ _ (keeps_fresh _ h)

theorem keeps_decodeBeats {s0 : State} (line : Nat) (err : LineError) (s : State) (h : Keeps s0 s) : Keeps s0 (decodeBeats line err s).2 := by
  unfold decodeBeats
  try dsimp only
  repeat' first
    | with_reducible assumption
    | with_reducible apply keeps_decodeUnit
    | (with_reducible refine Keeps.foldl _ ?_ ?_)
    | (with_reducible refine Keeps.foldl2 _ ?_ ?_)


theorem keeps_decodeBeats_eq {s0 : State} {line : Nat} {err : LineError} {s : State} {res : Found} {out_ : State} (h : Keeps s0 s) (ev : decodeBeats line err s = (res, out_)) : Keeps s0 out_ := by
  have k := keeps_decodeBeats line err s h
  rwa [ev] at k

theorem keeps_decodeWords {s0 : State} (line : Nat) (err : LineError) (s : State) (h : Keeps s0 s) : Keeps s0 (decodeWords line err s).2 := by
  unfold decodeWords
  try dsimp only
  repeat' first
    | with_reducible assumption
    | with_reducible apply keeps_decodeUnit
    | (with_reducible refine Keeps.foldl _ ?_ ?_)
    | (with_reducible refine Keeps.foldl2 _ ?_ ?_)


theorem keeps_decodeWords_eq {s0 : State} {line : Nat} {err : LineError} {s : State} {res : Found} {out_ : State} (h : Keeps s0 s) (ev : decodeWords line err s = (res, out_)) : Keeps s0 out_ := by
  have k := keeps_decodeWords line err s h
  rwa [ev] at k

theorem keeps_blame {s0 : State} (ch : Nat) (lanes : List Nat) (s : State) (h : Keeps s0 s) : Keeps s0 (blame ch lanes s) := by
  unfold blame
  try dsimp only
  repeat' first
    | with_reducible assumption
    | simp only [keeps_upd]

theorem keeps_readBeats {s0 : State} (line : Nat) (err : LineError) (step : Nat × Nat) (s : State) (h : Keeps s0 s) : Keeps s0 (readBeats line err step s).2 := by
  unfold readBeats
  try dsimp only
  repeat' first
    | with_reducible assumption
    | with_reducible apply keeps_bump
    | with_reducible apply keeps_lineLost
    | with_reducible apply keeps_decodeBeats
    | with_reducible refine keeps_decodeBeats_eq ?_ (by assumption)
    | with_reducible apply keeps_blame
    | simp only [keeps_upd]
    | split

theorem keeps_readBeats_eq {s0 : State} {line : Nat} {err : LineError} {step : Nat × Nat} {s : State} {res : Found} {out_ : State} (h : Keeps s0 s) (ev : readBeats line err step s = (res, out_)) : Keeps s0 out_ := by
  have k := keeps_readBeats line err step s h
  rwa [ev] at k

theorem keeps_sramLost {s0 : State} (a : Nat) (step : Nat × Nat) (s : State) (h : Keeps s0 s) : Keeps s0 (sramLost a step s) := by
  unfold sramLost
  try dsimp only
  repeat' first
    | with_reducible assumption
    | with_reducible apply keeps_poisonAt
    | with_reducible apply keeps_sliceError
    | with_reducible apply keeps_logError
    | with_reducible apply keeps_quarantineAt
    | with_reducible apply keeps_hemLost
    | simp only [keeps_upd]
    | split

theorem keeps_errorIn {s0 : State} (g : Region) (ctx a : Nat) (err : LineError) (step : Nat × Nat) (s : State) (h : Keeps s0 s) : Keeps s0 (errorIn g ctx a err step s) := by
  unfold errorIn
  try dsimp only
  repeat' first
    | with_reducible assumption
    | with_reducible apply keeps_panelWordLost
    | with_reducible apply keeps_panelWordFixed
    | with_reducible apply keeps_decodeWords
    | with_reducible refine keeps_decodeWords_eq ?_ (by assumption)
    | with_reducible apply keeps_readBeats
    | with_reducible refine keeps_readBeats_eq ?_ (by assumption)
    | with_reducible apply keeps_sramLost
    | (with_reducible refine Keeps.foldl _ ?_ ?_)
    | (with_reducible refine Keeps.foldl2 _ ?_ ?_)
    | intro _
    | simp only [keeps_upd]
    | split

theorem keeps_meetError {s0 : State} (ctx a : Nat) (err : LineError) (step : Nat × Nat) (s : State) (h : Keeps s0 s) : Keeps s0 (meetError ctx a err step s) := by
  unfold meetError
  try dsimp only
  repeat' first
    | with_reducible assumption
    | with_reducible apply keeps_errorIn

theorem keeps_takeAccess {s0 : State} (c : Instr) (a : Nat) (f : State → State) (s : State) (h : Keeps s0 s) (k : Keeps s0 (f s)) : Keeps s0 (takeAccess c a f s) := by
  unfold takeAccess
  split
  · exact (keeps_upd ..).2 h
  · exact k

theorem keeps_lineAccess {s0 : State} (who : Requester) (addr ctx : Nat) (op : LineOp) (err : LineError) (step : Option (Nat × Nat)) (s : State) (h : Keeps s0 s) : Keeps s0 (lineAccess who addr ctx op err step s) := by
  unfold lineAccess
  try dsimp only
  repeat' first
    | with_reducible assumption
    | with_reducible apply keeps_writeMem
    | with_reducible refine keeps_writeMem_eq ?_ (by assumption)
    | with_reducible apply keeps_readMem
    | with_reducible refine keeps_readMem_eq ?_ (by assumption)
    | with_reducible apply keeps_busStop
    | with_reducible apply keeps_meetError
    | simp only [keeps_upd]
    | split

theorem keeps_scrubPass {s0 : State} (s : State) (h : Keeps s0 s) : Keeps s0 (scrubPass s) := by
  unfold scrubPass
  try dsimp only
  repeat' first
    | with_reducible assumption
    | simp only [keeps_upd]
    | split

theorem keeps_scrubLine {s0 : State} (a : Nat) (err : LineError) (s : State) (h : Keeps s0 s) : Keeps s0 (scrubLine a err s) := by
  unfold scrubLine
  try dsimp only
  repeat' first
    | with_reducible assumption
    | with_reducible apply keeps_bump
    | with_reducible apply keeps_readBeats
    | with_reducible refine keeps_readBeats_eq ?_ (by assumption)
    | simp only [keeps_upd]

theorem keeps_atomicStep {s0 : State} (who : Requester) (addr n : Nat) (f : Nat → AtomicNew) (s : State) (h : Keeps s0 s) : Keeps s0 (atomicStep who addr n f s) := by
  unfold atomicStep
  try dsimp only
  repeat' first
    | with_reducible assumption
    | with_reducible apply keeps_atomicAt
    | with_reducible refine keeps_atomicAt_eq ?_ (by assumption)
    | with_reducible apply keeps_busStop
    | simp only [keeps_upd]
    | split

theorem keeps_refIncStep {s0 : State} (who : Requester) (addr : Nat) (s : State) (h : Keeps s0 s) : Keeps s0 (refIncStep who addr s) := by
  unfold refIncStep
  try dsimp only
  repeat' first
    | with_reducible assumption
    | with_reducible apply keeps_leakPage
    | with_reducible apply keeps_atomicStep
    | simp only [keeps_upd]
    | split

theorem keeps_pageDropped {s0 : State} (p : Nat) (s : State) (h : Keeps s0 s) : Keeps s0 (pageDropped p s) := by
  unfold pageDropped
  try dsimp only
  repeat' first
    | with_reducible assumption
    | with_reducible apply keeps_leakPage
    | simp only [keeps_upd]
    | split

theorem keeps_refDecStep {s0 : State} (who : Requester) (addr : Nat) (s : State) (h : Keeps s0 s) : Keeps s0 (refDecStep who addr s) := by
  unfold refDecStep
  try dsimp only
  repeat' first
    | with_reducible assumption
    | with_reducible apply keeps_atomicStep
    | with_reducible apply keeps_pageDropped
    | simp only [keeps_upd]
    | split

theorem keeps_useSpare {s0 : State} (c lane : Nat) (s : State) (h : Keeps s0 s) : Keeps s0 (useSpare c lane s) := by
  unfold useSpare
  try dsimp only
  repeat' first
    | with_reducible assumption
    | with_reducible apply keeps_wrF
    | simp only [keeps_upd]
    | split

theorem keeps_switchSpares {s0 : State} (c : Nat) (s : State) (h : Keeps s0 s) : Keeps s0 (switchSpares c s) := by
  unfold switchSpares
  try dsimp only
  repeat' first
    | with_reducible assumption
    | with_reducible apply keeps_useSpare
    | (with_reducible refine Keeps.foldl _ ?_ ?_)
    | (with_reducible refine Keeps.foldl2 _ ?_ ?_)
    | intro _
    | simp only [keeps_upd]
    | split

theorem keeps_setMargin {s0 : State} (c : Nat) (m : Option MarginRun) (s : State) (h : Keeps s0 s) : Keeps s0 (setMargin c m s) := by
  unfold setMargin
  try dsimp only
  repeat' first
    | with_reducible assumption
    | with_reducible apply keeps_wrB
    | simp only [keeps_upd]

theorem keeps_abortMargin {s0 : State} (c : Nat) (s : State) (h : Keeps s0 s) : Keeps s0 (abortMargin c s) := by
  unfold abortMargin
  try dsimp only
  repeat' first
    | with_reducible assumption
    | with_reducible apply keeps_fresh
    | with_reducible refine keeps_fresh_eq ?_ (by assumption)
    | with_reducible apply keeps_wr
    | with_reducible apply keeps_settle
    | with_reducible apply keeps_setMargin
    | simp only [keeps_upd]
    | split

theorem keeps_startMargin {s0 : State} (c lane dwell : Nat) (rotation : Bool) (w : Option Waiter) (s : State) (h : Keeps s0 s) : Keeps s0 (startMargin c lane dwell rotation w s) := by
  unfold startMargin
  try dsimp only
  repeat' first
    | with_reducible assumption
    | with_reducible apply keeps_setMargin

theorem keeps_laneSpared {s0 : State} (ch lane : Nat) (s : State) (h : Keeps s0 s) : Keeps s0 (laneSpared ch lane s) := by
  unfold laneSpared
  try dsimp only
  repeat' first
    | with_reducible assumption
    | with_reducible apply keeps_notify
    | with_reducible apply keeps_abortMargin
    | simp only [keeps_upd]
    | split

theorem keeps_laneDegraded {s0 : State} (ch lane : Nat) (s : State) (h : Keeps s0 s) : Keeps s0 (laneDegraded ch lane s) := by
  unfold laneDegraded
  try dsimp only
  repeat' first
    | with_reducible assumption
    | with_reducible apply keeps_wrF
    | with_reducible apply keeps_wrB
    | with_reducible apply keeps_notify
    | simp only [keeps_upd]
    | split

theorem keeps_applyOffsets {s0 : State} (ch : Nat) (s : State) (h : Keeps s0 s) : Keeps s0 (applyOffsets ch s) := by
  unfold applyOffsets
  try dsimp only
  repeat' first
    | with_reducible assumption
    | simp only [keeps_upd]

theorem keeps_noteTraining {s0 : State} (ch : Nat) (s : State) (h : Keeps s0 s) : Keeps s0 (noteTraining ch s) := by
  unfold noteTraining
  try dsimp only
  repeat' first
    | with_reducible assumption
    | simp only [keeps_upd]

theorem keeps_beginRetrain {s0 : State} (ch : Nat) (s : State) (h : Keeps s0 s) : Keeps s0 (beginRetrain ch s) := by
  unfold beginRetrain
  try dsimp only
  repeat' first
    | with_reducible assumption
    | with_reducible apply keeps_wrB
    | with_reducible apply keeps_bump
    | with_reducible apply keeps_switchSpares
    | with_reducible apply keeps_abortMargin
    | with_reducible apply keeps_applyOffsets
    | with_reducible apply keeps_noteTraining
    | simp only [keeps_upd]

theorem keeps_endRetrain {s0 : State} (ch : Nat) (s : State) (h : Keeps s0 s) : Keeps s0 (endRetrain ch s) := by
  unfold endRetrain
  try dsimp only
  repeat' first
    | with_reducible assumption
    | with_reducible apply keeps_wrB
    | with_reducible apply keeps_switchSpares
    | simp only [keeps_upd]
    | split

theorem keeps_orderRetrain {s0 : State} (c : Nat) (s : State) (h : Keeps s0 s) : Keeps s0 (orderRetrain c s) := by
  unfold orderRetrain
  try dsimp only
  repeat' first
    | with_reducible assumption
    | with_reducible apply keeps_wrB
    | with_reducible apply keeps_showBudget
    | simp only [keeps_upd]
    | split

theorem keeps_moveSpread {s0 : State} (s : State) (h : Keeps s0 s) : Keeps s0 (moveSpread s) := by
  unfold moveSpread
  try dsimp only
  repeat' first
    | with_reducible assumption
    | simp only [keeps_upd]
    | split

theorem keeps_scheduleRetrain {s0 : State} (s : State) (h : Keeps s0 s) : Keeps s0 (scheduleRetrain s) := by
  unfold scheduleRetrain
  try dsimp only
  repeat' first
    | with_reducible assumption
    | with_reducible apply keeps_wrF
    | with_reducible apply keeps_orderRetrain
    | with_reducible apply keeps_moveSpread
    | simp only [keeps_upd]
    | split

theorem keeps_recordMargin {s0 : State} (ch beats mismatches : Nat) (m : MarginRun) (s : State) (h : Keeps s0 s) : Keeps s0 (recordMargin ch beats mismatches m s) := by
  unfold recordMargin
  try dsimp only
  repeat' first
    | with_reducible assumption
    | with_reducible apply keeps_fresh
    | with_reducible refine keeps_fresh_eq ?_ (by assumption)
    | with_reducible apply keeps_wr
    | with_reducible apply keeps_runTo
    | with_reducible apply keeps_setMargin
    | simp only [keeps_upd]
    | split

theorem keeps_rotatePast {s0 : State} (c : Nat) (s : State) (h : Keeps s0 s) : Keeps s0 (rotatePast c s) := by
  unfold rotatePast
  try dsimp only
  repeat' first
    | with_reducible assumption
    | simp only [keeps_upd]

theorem keeps_trainChannel {s0 : State} (fused : List Nat) (x : Trained) (s : State) (h : Keeps s0 s) : Keeps s0 (trainChannel fused x s).2 := by
  unfold trainChannel
  try dsimp only
  repeat' first
    | with_reducible assumption
    | with_reducible apply keeps_wr
    | with_reducible apply keeps_wrB
    | with_reducible apply keeps_useSpare
    | with_reducible apply keeps_noteTraining
    | (with_reducible refine Keeps.foldl _ ?_ ?_)
    | (with_reducible refine Keeps.foldl2 _ ?_ ?_)
    | intro _
    | simp only [keeps_upd]
    | split


theorem keeps_trainChannel_eq {s0 : State} {fused : List Nat} {x : Trained} {s : State} {res : Bool} {out_ : State} (h : Keeps s0 s) (ev : trainChannel fused x s = (res, out_)) : Keeps s0 out_ := by
  have k := keeps_trainChannel fused x s h
  rwa [ev] at k

theorem keeps_trainAll {s0 : State} (cs : List Nat) (results : List Trained) (s : State) (h : Keeps s0 s) : Keeps s0 (trainAll cs results s).2 := by
  unfold trainAll
  try dsimp only
  repeat' first
    | with_reducible assumption
    | with_reducible apply keeps_trainChannel
    | with_reducible refine keeps_trainChannel_eq ?_ (by assumption)
    | (with_reducible refine Keeps.foldl _ ?_ ?_)
    | (with_reducible refine Keeps.foldl2 _ ?_ ?_)
    | intro _

theorem keeps_trainAll_eq {s0 : State} {cs : List Nat} {results : List Trained} {s : State} {res : List Nat} {out_ : State} (h : Keeps s0 s) (e : trainAll cs results s = (res, out_)) : Keeps s0 out_ := by
  have k := keeps_trainAll cs results s h
  rwa [e] at k

theorem keeps_trainingFailed {s0 : State} (cs : List Nat) (s : State) (h : Keeps s0 s) : Keeps s0 (trainingFailed cs s) := by
  unfold trainingFailed
  try dsimp only
  repeat' first
    | with_reducible assumption
    | with_reducible apply keeps_wrF
    | with_reducible apply keeps_wrB
    | with_reducible apply keeps_deviceFault
    | with_reducible apply keeps_failStep
    | (with_reducible refine Keeps.foldl _ ?_ ?_)
    | (with_reducible refine Keeps.foldl2 _ ?_ ?_)
    | intro _
    | simp only [keeps_upd]
    | split

theorem keeps_trained {s0 : State} (results : List Trained) (s : State) (h : Keeps s0 s) : Keeps s0 (trained results s) := by
  unfold trained
  try dsimp only
  repeat' first
    | with_reducible assumption
    | with_reducible apply keeps_wrF
    | with_reducible apply keeps_wrB
    | with_reducible apply keeps_trainAll
    | with_reducible refine keeps_trainAll_eq ?_ (by assumption)
    | with_reducible apply keeps_trainingFailed
    | simp only [keeps_upd]
    | split

end Sys2Proof.Laws
end

