-- ==== Sys2Proof/Laws/KeepsServing.lean ====
section
/-! SUPPORT. What boot, register writes, the ports, sampling, the plan and the cache of keys and values keep: the queue, the fuses and the canonical forms. -/

namespace Sys2Proof.Laws

open Sys2Proof.Machine

theorem keeps_reloadWdog {s0 : State} (s : State) (h : Keeps s0 s) : Keeps s0 (reloadWdog s) := by
  unfold reloadWdog
  try dsimp only
  repeat' first
    | with_reducible assumption
    | simp only [keeps_upd]

theorem keeps_stopWdog {s0 : State} (s : State) (h : Keeps s0 s) : Keeps s0 (stopWdog s) := by
  unfold stopWdog
  try dsimp only
  repeat' first
    | with_reducible assumption
    | simp only [keeps_upd]

theorem keeps_husk {s0 : State} (s : State) (h : Keeps s0 s) : Keeps s0 (husk s) :=
  ⟨h.pending, h.fuse, fun _ => ⟨rfl, rfl, rfl, rfl⟩⟩

theorem keeps_thimbleOnly {s0 : State} (s : State) (h : Keeps s0 s) : Keeps s0 (thimbleOnly s) :=
  ⟨h.pending, h.fuse, fun i => ⟨rfl, swf_filter _ _ _ (h.inv i).regs, rfl, rfl⟩⟩

theorem keeps_applyStraps {s0 : State} (s : State) (h : Keeps s0 s) : Keeps s0 (applyStraps s) := by
  unfold applyStraps
  try dsimp only
  repeat' first
    | with_reducible assumption
    | with_reducible apply keeps_wr
    | with_reducible apply keeps_wrF
    | (with_reducible refine Keeps.foldl _ ?_ ?_)
    | (with_reducible refine Keeps.foldl2 _ ?_ ?_)
    | intro _

theorem keeps_raiseLinks {s0 : State} (p : Nat) (s : State) (h : Keeps s0 s) : Keeps s0 (raiseLinks p s) := by
  unfold raiseLinks
  try dsimp only
  repeat' first
    | with_reducible assumption
    | with_reducible apply keeps_wrF

theorem keeps_freshKeys {s0 : State} (draw : Word) (s : State) (h : Keeps s0 s) : Keeps s0 (freshKeys draw s) := by
  unfold freshKeys
  try dsimp only
  repeat' first
    | with_reducible assumption
    | simp only [keeps_upd]

theorem keeps_bootFrom2 {s0 : State} (cause : Nat) (s : State) (h : Keeps s0 s) : Keeps s0 (bootFrom2 cause s) := by
  unfold bootFrom2
  try dsimp only
  repeat' first
    | with_reducible assumption
    | with_reducible apply keeps_fresh
    | with_reducible refine keeps_fresh_eq ?_ (by assumption)
    | with_reducible apply keeps_wr
    | with_reducible apply keeps_wrF
    | with_reducible apply keeps_reloadWdog
    | with_reducible apply keeps_husk
    | with_reducible apply keeps_applyStraps
    | with_reducible apply keeps_raiseLinks
    | with_reducible apply keeps_freshKeys
    | simp only [keeps_upd]

theorem keeps_coldReset {s0 : State} (cause : Nat) (s : State) (h : Keeps s0 s) : Keeps s0 (coldReset cause s) := by
  unfold coldReset
  try dsimp only
  repeat' first
    | with_reducible assumption
    | with_reducible apply keeps_bootFrom2
    | simp only [keeps_upd]

theorem keeps_asleepOff {s0 : State} (s : State) (h : Keeps s0 s) : Keeps s0 (asleepOff s) := by
  unfold asleepOff
  try dsimp only
  repeat' first
    | with_reducible assumption
    | with_reducible apply keeps_wrF
    | with_reducible apply keeps_thimbleOnly

theorem keeps_thermalNotice {s0 : State} (action channel temp : Nat) (s : State) (h : Keeps s0 s) : Keeps s0 (thermalNotice action channel temp s) := by
  unfold thermalNotice
  try dsimp only
  repeat' first
    | with_reducible assumption
    | with_reducible apply keeps_notify

theorem keeps_railNotice {s0 : State} (s : State) (h : Keeps s0 s) : Keeps s0 (railNotice s) := by
  unfold railNotice
  try dsimp only
  repeat' first
    | with_reducible assumption
    | with_reducible apply keeps_fresh
    | with_reducible refine keeps_fresh_eq ?_ (by assumption)
    | with_reducible apply keeps_thermalNotice
    | simp only [keeps_upd]
    | split

theorem keeps_railsFail {s0 : State} (s : State) (h : Keeps s0 s) : Keeps s0 (railsFail s) := by
  unfold railsFail
  try dsimp only
  repeat' first
    | with_reducible assumption
    | with_reducible apply keeps_thimbleOnly
    | simp only [keeps_upd]

theorem keeps_moveConns {s0 : State} (s : State) (h : Keeps s0 s) : Keeps s0 (moveConns s) := by
  unfold moveConns
  try dsimp only
  repeat' first
    | with_reducible assumption
    | simp only [keeps_upd]

theorem keeps_zeroFilled {s0 : State} (regions : Regions) (s : State) (h : Keeps s0 s) : Keeps s0 (zeroFilled regions s) :=
  keeps_wrB _ _ _ _ ⟨h.pending, h.fuse, fun i => ⟨swf_filter _ _ _ (h.inv i).mem, (h.inv i).regs, rising_filter _ _ (h.inv i).poison, rfl⟩⟩

theorem keeps_sendBoot {s0 : State} (command : Nat) (payload : List Byte) (s : State) (h : Keeps s0 s) : Keeps s0 (sendBoot command payload s) := by
  unfold sendBoot
  try dsimp only
  repeat' first
    | with_reducible assumption
    | with_reducible apply keeps_bump
    | with_reducible apply keeps_emitOut
    | simp only [keeps_upd]

theorem keeps_askBlocks {s0 : State} (f : Nat) (s : State) (h : Keeps s0 s) : Keeps s0 (askBlocks f s) := by
  induction f generalizing s with
  | zero => exact h
  | succ f ih =>
    unfold askBlocks
    dsimp only
    split
    · exact h
    · exact ih _ ((keeps_upd ..).2 (keeps_sendBoot _ _ _ h))

theorem keeps_takeOffer {s0 : State} (d : Datagram) (a : Arrival) (s : State) (h : Keeps s0 s) : Keeps s0 (takeOffer d a s) := by
  unfold takeOffer
  try dsimp only
  repeat' first
    | with_reducible assumption
    | with_reducible apply keeps_bump
    | with_reducible apply keeps_askBlocks
    | simp only [keeps_upd]
    | split

theorem keeps_showVersion {s0 : State} (img : List Byte) (s : State) (h : Keeps s0 s) : Keeps s0 (showVersion img s) := by
  unfold showVersion
  try dsimp only
  repeat' first
    | with_reducible assumption
    | with_reducible apply keeps_wr
    | with_reducible apply keeps_wrF

theorem keeps_oweWakeNotice {s0 : State} (mailbox session : Nat) (s : State) (h : Keeps s0 s) : Keeps s0 (oweWakeNotice mailbox session s) := by
  unfold oweWakeNotice
  try dsimp only
  repeat' first
    | with_reducible assumption
    | with_reducible apply keeps_thermalNotice
    | simp only [keeps_upd]
    | split

theorem keeps_operatorSession {s0 : State} (s : State) (h : Keeps s0 s) : Keeps s0 (operatorSession s) := by
  unfold operatorSession
  try dsimp only
  repeat' first
    | with_reducible assumption
    | with_reducible apply keeps_bump
    | with_reducible apply keeps_setSession
    | with_reducible apply keeps_oweWakeNotice

theorem keeps_bindOwner {s0 : State} (record : List Byte) (s : State) (h : Keeps s0 s) : Keeps s0 (bindOwner record s) := by
  unfold bindOwner
  try dsimp only
  repeat' first
    | with_reducible assumption
    | with_reducible apply keeps_wrF
    | with_reducible apply keeps_wrB
    | with_reducible apply keeps_operatorSession
    | simp only [keeps_upd]

theorem keeps_acceptImage {s0 : State} (img : List Byte) (s : State) (h : Keeps s0 s) : Keeps s0 (acceptImage img s) := by
  unfold acceptImage
  try dsimp only
  repeat' first
    | with_reducible assumption
    | with_reducible apply keeps_wrF
    | with_reducible apply keeps_showVersion
    | with_reducible apply keeps_bindOwner
    | simp only [keeps_upd]

theorem keeps_enterFirmware {s0 : State} (img : List Byte) (s : State) (h : Keeps s0 s) : Keeps s0 (enterFirmware img s) := by
  unfold enterFirmware
  try dsimp only
  repeat' first
    | with_reducible assumption
    | with_reducible apply keeps_startFirmware
    | with_reducible apply keeps_reloadWdog
    | with_reducible apply keeps_acceptImage
    | simp only [keeps_upd]
    | split

theorem keeps_rejectImage {s0 : State} (s : State) (h : Keeps s0 s) : Keeps s0 (rejectImage s) := by
  unfold rejectImage
  try dsimp only
  repeat' first
    | with_reducible assumption
    | with_reducible apply keeps_wrF
    | with_reducible apply keeps_bump
    | simp only [keeps_upd]

theorem keeps_takeBlock {s0 : State} (d : Datagram) (a : Arrival) (w : Verifier) (opens : Bool) (s : State) (h : Keeps s0 s) : Keeps s0 (takeBlock d a w opens s) := by
  unfold takeBlock
  try dsimp only
  repeat' first
    | with_reducible assumption
    | with_reducible apply keeps_wrF
    | with_reducible apply keeps_askBlocks
    | with_reducible apply keeps_enterFirmware
    | with_reducible apply keeps_rejectImage
    | simp only [keeps_upd]
    | split

theorem keeps_bootReceipt {s0 : State} (d : Datagram) (a : Arrival) (s : State) (h : Keeps s0 s) : Keeps s0 (bootReceipt d a s).2 := by
  unfold bootReceipt
  try dsimp only
  repeat' first
    | with_reducible assumption
    | with_reducible apply keeps_bump
    | simp only [keeps_upd]
    | split


theorem keeps_bootReceipt_eq {s0 : State} {d : Datagram} {a : Arrival} {s : State} {res : Bool} {out_ : State} (h : Keeps s0 s) (ev : bootReceipt d a s = (res, out_)) : Keeps s0 out_ := by
  have k := keeps_bootReceipt d a s h
  rwa [ev] at k

theorem keeps_warmReset {s0 : State} (cause : Nat) (s : State) (h : Keeps s0 s) : Keeps s0 (warmReset cause s) := by
  unfold warmReset
  try dsimp only
  repeat' first
    | with_reducible assumption
    | with_reducible apply keeps_wr
    | with_reducible apply keeps_wrF
    | with_reducible apply keeps_reloadWdog
    | with_reducible apply keeps_husk
    | with_reducible apply keeps_operatorSession
    | (with_reducible refine Keeps.foldl _ ?_ ?_)
    | (with_reducible refine Keeps.foldl2 _ ?_ ?_)
    | intro _
    | simp only [keeps_upd]

theorem keeps_dropPlanner {s0 : State} (s : State) (h : Keeps s0 s) : Keeps s0 (dropPlanner s) := by
  unfold dropPlanner
  try dsimp only
  repeat' first
    | with_reducible assumption
    | simp only [keeps_upd]

theorem keeps_restart {s0 : State} (cause : Nat) (s : State) (h : Keeps s0 s) : Keeps s0 (restart cause s) := by
  unfold restart
  try dsimp only
  repeat' first
    | with_reducible assumption
    | with_reducible apply keeps_wr
    | with_reducible apply keeps_wrF
    | with_reducible apply keeps_bump
    | with_reducible apply keeps_notify
    | with_reducible apply keeps_reloadWdog
    | with_reducible apply keeps_coldReset
    | with_reducible apply keeps_dropPlanner
    | simp only [keeps_upd]
    | split

theorem keeps_settleJournal {s0 : State} (s : State) (h : Keeps s0 s) : Keeps s0 (settleJournal s) := by
  unfold settleJournal
  try dsimp only
  repeat' first
    | with_reducible assumption
    | with_reducible apply keeps_setSeq
    | with_reducible apply keeps_setModel
    | with_reducible apply keeps_settleAll
    | (with_reducible refine Keeps.foldl _ ?_ ?_)
    | (with_reducible refine Keeps.foldl2 _ ?_ ?_)
    | intro _

theorem keeps_readStage {s0 : State} (n : Nat) (s : State) (h : Keeps s0 s) : Keeps s0 (readStage n s) := by
  unfold readStage
  try dsimp only
  repeat' first
    | with_reducible assumption
    | with_reducible apply keeps_touchRange
    | simp only [keeps_upd]
    | split

theorem keeps_freeStage {s0 : State} (stage : Option Nat) (s : State) (h : Keeps s0 s) : Keeps s0 (freeStage stage s) := by
  unfold freeStage
  try dsimp only
  repeat' first
    | with_reducible assumption
    | with_reducible apply keeps_freeBlock
    | simp only [keeps_upd]
    | split

theorem keeps_takeUpdate {s0 : State} (u : Update) (s : State) (h : Keeps s0 s) : Keeps s0 (takeUpdate u s) := by
  unfold takeUpdate
  try dsimp only
  repeat' first
    | with_reducible assumption
    | with_reducible apply keeps_wrF
    | with_reducible apply keeps_bump
    | with_reducible apply keeps_notify
    | with_reducible apply keeps_showVersion
    | with_reducible apply keeps_readStage
    | with_reducible apply keeps_freeStage
    | simp only [keeps_upd]

theorem keeps_damageWord {s0 : State} (s : State) (h : Keeps s0 s) : Keeps s0 (damageWord s) := by
  unfold damageWord
  try dsimp only
  repeat' first
    | with_reducible assumption
    | with_reducible apply keeps_fresh
    | with_reducible refine keeps_fresh_eq ?_ (by assumption)
    | simp only [keeps_upd]
    | split

theorem keeps_writeField {s0 : State} (a : Nat) (v : Word) (s : State) (f : Field) (h : Keeps s0 s) : Keeps s0 (writeField a v s f) := by
  unfold writeField
  try dsimp only
  repeat' first
    | with_reducible assumption
    | with_reducible apply keeps_wrF
    | simp only [keeps_upd]
    | split

theorem keeps_clearBits {s0 : State} (a : Nat) (v : Word) (s : State) (f : Field) (h : Keeps s0 s) : Keeps s0 (clearBits a v s f) := by
  unfold clearBits
  try dsimp only
  repeat' first
    | with_reducible assumption
    | with_reducible apply keeps_wrB
    | (with_reducible refine Keeps.foldl _ ?_ ?_)
    | (with_reducible refine Keeps.foldl2 _ ?_ ?_)
    | intro _
    | simp only [keeps_upd]
    | split

theorem keeps_writeFields {s0 : State} (a : Nat) (v : Word) (s : State) (h : Keeps s0 s) : Keeps s0 (writeFields a v s) := by
  unfold writeFields
  try dsimp only
  repeat' first
    | with_reducible assumption
    | with_reducible apply keeps_writeField
    | with_reducible apply keeps_clearBits
    | (with_reducible refine Keeps.foldl _ ?_ ?_)
    | (with_reducible refine Keeps.foldl2 _ ?_ ?_)
    | intro _
    | simp only [keeps_upd]
    | split

theorem keeps_clearGroup {s0 : State} (c : Nat) (s : State) (h : Keeps s0 s) : Keeps s0 (clearGroup c s) := by
  unfold clearGroup
  try dsimp only
  repeat' first
    | with_reducible assumption
    | with_reducible apply keeps_wr
    | (with_reducible refine Keeps.foldl _ ?_ ?_)
    | (with_reducible refine Keeps.foldl2 _ ?_ ?_)
    | intro _
    | simp only [keeps_upd]
    | split

theorem keeps_drainQueue {s0 : State} (mailbox session f : Nat) (s : State) (h : Keeps s0 s) : Keeps s0 (drainQueue mailbox session f s) := by
  induction f generalizing s with
  | zero => exact h
  | succ f ih =>
    unfold drainQueue
    dsimp only
    split
    · exact h
    · split
      · exact h
      · split
        · exact keeps_noticeSessions _ _ _ (keeps_endSession _ _ (keeps_transmit _ _ _ (keeps_setSession _ _ _ h)))
        · exact ih _ (keeps_transmit _ _ _ (keeps_setSession _ _ _ h))

theorem keeps_noteWarm {s0 : State} (k : Nat) (acked : List Datagram) (s : State) (h : Keeps s0 s) : Keeps s0 (noteWarm k acked s) := by
  unfold noteWarm
  try dsimp only
  repeat' first
    | with_reducible assumption
    | simp only [keeps_upd]

theorem keeps_takeAck {s0 : State} (d : Datagram) (s : State) (h : Keeps s0 s) : Keeps s0 (takeAck d s) := by
  unfold takeAck
  try dsimp only
  repeat' first
    | with_reducible assumption
    | with_reducible apply keeps_setSession
    | with_reducible apply keeps_endSession
    | with_reducible apply keeps_noticeSessions
    | with_reducible apply keeps_drainQueue
    | with_reducible apply keeps_noteWarm
    | simp only [keeps_upd]
    | split

theorem keeps_consume {s0 : State} (d : Datagram) (a : Arrival) (s : State) (h : Keeps s0 s) : Keeps s0 (consume d a s) := by
  unfold consume
  try dsimp only
  repeat' first
    | with_reducible assumption
    | with_reducible apply keeps_setSession
    | with_reducible apply keeps_endSession
    | with_reducible apply keeps_noticeSessions
    | with_reducible apply keeps_oweAck
    | simp only [keeps_upd]
    | split

theorem keeps_markCancel {s0 : State} (payload : List Byte) (mailbox : Nat) (s : State) (h : Keeps s0 s) : Keeps s0 (markCancel payload mailbox s) := by
  unfold markCancel
  try dsimp only
  repeat' first
    | with_reducible assumption
    | with_reducible apply keeps_setSeq
    | simp only [keeps_upd]
    | split

theorem keeps_deliver {s0 : State} (d : Datagram) (a : Arrival) (slot : Nat) (kind : SlotKind) (table : SramError) (s : State) (h : Keeps s0 s) : Keeps s0 (deliver d a slot kind table s) := by
  unfold deliver
  try dsimp only
  repeat' first
    | with_reducible assumption
    | with_reducible apply keeps_storeBytes
    | with_reducible apply keeps_setSlotKind
    | with_reducible apply keeps_refuseAt
    | with_reducible apply keeps_countUnwind
    | with_reducible apply keeps_consume
    | with_reducible apply keeps_markCancel
    | simp only [keeps_upd]
    | split

theorem keeps_admitMessage {s0 : State} (d : Datagram) (a : Arrival) (table : SramError) (s : State) (h : Keeps s0 s) : Keeps s0 (admitMessage d a table s) := by
  unfold admitMessage
  try dsimp only
  repeat' first
    | with_reducible assumption
    | with_reducible apply keeps_bump
    | with_reducible apply keeps_refuseAt
    | with_reducible apply keeps_consume
    | with_reducible apply keeps_deliver
    | simp only [keeps_upd]
    | split

theorem keeps_ringAppend {s0 : State} (n : Nat) (ids : List Nat) (s : State) (h : Keeps s0 s) : Keeps s0 (ringAppend n ids s) := by
  unfold ringAppend
  try dsimp only
  repeat' first
    | with_reducible assumption
    | with_reducible apply keeps_storeBytes
    | with_reducible apply keeps_setSeq
    | (with_reducible refine Keeps.foldl _ ?_ ?_)
    | (with_reducible refine Keeps.foldl2 _ ?_ ?_)
    | intro _

theorem keeps_touchAll {s0 : State} (ctx : Nat) (rs : List (Nat × Nat)) (s : State) (h : Keeps s0 s) : Keeps s0 (touchAll ctx rs s) := by
  unfold touchAll
  try dsimp only
  repeat' first
    | with_reducible assumption
    | with_reducible apply keeps_touchRange
    | (with_reducible refine Keeps.foldl _ ?_ ?_)
    | (with_reducible refine Keeps.foldl2 _ ?_ ?_)
    | intro _

theorem keeps_poisonedDraw {s0 : State} (t : Step) (q : StepSeq) (seq : Nat) (grammarBad : Bool) (s : State) (h : Keeps s0 s) : Keeps s0 (poisonedDraw t q seq grammarBad s) := by
  unfold poisonedDraw
  try dsimp only
  repeat' first
    | with_reducible assumption
    | with_reducible apply keeps_logError
    | with_reducible apply keeps_poisonedPath
    | with_reducible apply keeps_samplerError
    | simp only [keeps_upd]
    | split

theorem keeps_drawNext {s0 : State} (t : Step) (q : StepSeq) (seq : Nat) (s : State) (h : Keeps s0 s) : Keeps s0 (drawNext t q seq s) := by
  unfold drawNext
  try dsimp only
  repeat' first
    | with_reducible assumption
    | with_reducible apply keeps_fresh
    | with_reducible refine keeps_fresh_eq ?_ (by assumption)
    | with_reducible apply keeps_bump
    | with_reducible apply keeps_setStep
    | with_reducible apply keeps_samplerError
    | with_reducible apply keeps_poisonedPath
    | simp only [keeps_upd]
    | split

theorem keeps_setBucket {s0 : State} (t : Nat) (l : Int) (s : State) (h : Keeps s0 s) : Keeps s0 (setBucket t l s) := by
  unfold setBucket
  try dsimp only
  repeat' first
    | with_reducible assumption
    | with_reducible apply keeps_wrF

theorem keeps_chargeBucket {s0 : State} (t charge : Nat) (s : State) (h : Keeps s0 s) : Keeps s0 (chargeBucket t charge s) := by
  unfold chargeBucket
  try dsimp only
  repeat' first
    | with_reducible assumption
    | with_reducible apply keeps_setBucket

theorem keeps_commitHem {s0 : State} (t : Step) (q : StepSeq) (k : Nat) (s : State) (h : Keeps s0 s) : Keeps s0 (commitHem t q k s) := by
  unfold commitHem
  try dsimp only
  repeat' first
    | with_reducible assumption
    | with_reducible apply keeps_bump
    | with_reducible apply keeps_setSeq

theorem keeps_queuePages {s0 : State} (n : Nat) (s : State) (h : Keeps s0 s) : Keeps s0 (queuePages n s) := by
  unfold queuePages
  try dsimp only
  repeat' first
    | with_reducible assumption
    | (with_reducible refine Keeps.foldl _ ?_ ?_)
    | (with_reducible refine Keeps.foldl2 _ ?_ ?_)
    | intro _
    | simp only [keeps_upd]
    | split

theorem keeps_keepCandidates {s0 : State} (model : Nat) (cs : List (Nat × F32)) (s : State) (h : Keeps s0 s) : Keeps s0 (keepCandidates model cs s) := by
  unfold keepCandidates
  try dsimp only
  repeat' first
    | with_reducible assumption
    | with_reducible apply keeps_setModel

theorem keeps_feedDrafts {s0 : State} (n : Nat) (tokens : List Nat) (s : State) (h : Keeps s0 s) : Keeps s0 (feedDrafts n tokens s) := by
  unfold feedDrafts
  try dsimp only
  repeat' first
    | with_reducible assumption
    | with_reducible apply keeps_setSeq
    | (with_reducible refine Keeps.foldl _ ?_ ?_)
    | (with_reducible refine Keeps.foldl2 _ ?_ ?_)
    | intro _

theorem keeps_commitSeq {s0 : State} (t : Step) (q : StepSeq) (s : State) (h : Keeps s0 s) : Keeps s0 (commitSeq t q s) := by
  unfold commitSeq
  try dsimp only
  repeat' first
    | with_reducible assumption
    | with_reducible apply keeps_bump
    | with_reducible apply keeps_setSeq
    | with_reducible apply keeps_endSeq
    | with_reducible apply keeps_chargeBucket
    | with_reducible apply keeps_commitHem
    | with_reducible apply keeps_queuePages
    | with_reducible apply keeps_feedDrafts
    | simp only [keeps_upd]
    | split

theorem keeps_commitStep {s0 : State} (t : Step) (s : State) (h : Keeps s0 s) : Keeps s0 (commitStep t s) := by
  unfold commitStep
  try dsimp only
  repeat' first
    | with_reducible assumption
    | with_reducible apply keeps_dropStep
    | with_reducible apply keeps_clearNodes
    | with_reducible apply keeps_keepCandidates
    | with_reducible apply keeps_commitSeq
    | (with_reducible refine Keeps.foldl _ ?_ ?_)
    | (with_reducible refine Keeps.foldl2 _ ?_ ?_)
    | intro _

theorem keeps_takePage {s0 : State} (n : Nat) (s : State) (h : Keeps s0 s) : Keeps s0 (takePage n s).2 := by
  unfold takePage
  try dsimp only
  repeat' first
    | with_reducible assumption
    | with_reducible apply keeps_incPage
    | simp only [keeps_upd]
    | split


theorem keeps_takePage_eq {s0 : State} {n : Nat} {s : State} {res : Nat} {out_ : State} (h : Keeps s0 s) (ev : takePage n s = (res, out_)) : Keeps s0 out_ := by
  have k := keeps_takePage n s h
  rwa [ev] at k

theorem keeps_equip {s0 : State} (n pos : Nat) (s : State) (h : Keeps s0 s) : Keeps s0 (equip n pos s) := by
  unfold equip
  try dsimp only
  repeat' first
    | with_reducible assumption
    | with_reducible apply keeps_setSeq
    | with_reducible apply keeps_setListEntry
    | with_reducible apply keeps_takePage
    | with_reducible refine keeps_takePage_eq ?_ (by assumption)
    | (with_reducible refine Keeps.foldl _ ?_ ?_)
    | (with_reducible refine Keeps.foldl2 _ ?_ ?_)
    | intro _
    | simp only [keeps_upd]
    | split

theorem keeps_parkSeq {s0 : State} (n : Nat) (s : State) (h : Keeps s0 s) : Keeps s0 (parkSeq n s) := by
  unfold parkSeq
  try dsimp only
  repeat' first
    | with_reducible assumption
    | with_reducible apply keeps_bump
    | simp only [keeps_upd]
    | split

theorem keeps_assignCensus {s0 : State} (t : Step) (s : State) (h : Keeps s0 s) : Keeps s0 (assignCensus t s).2 := by
  unfold assignCensus
  try dsimp only
  repeat' first
    | with_reducible assumption
    | with_reducible apply keeps_resetCensus
    | (with_reducible refine Keeps.foldl _ ?_ ?_)
    | (with_reducible refine Keeps.foldl2 _ ?_ ?_)
    | intro _

theorem keeps_assignCensus_eq {s0 : State} {t : Step} {s : State} {res : Step} {out_ : State} (h : Keeps s0 s) (e : assignCensus t s = (res, out_)) : Keeps s0 out_ := by
  have k := keeps_assignCensus t s h
  rwa [e] at k

theorem keeps_writeTables {s0 : State} (t : Step) (s : State) (h : Keeps s0 s) : Keeps s0 (writeTables t s) := by
  unfold writeTables
  try dsimp only
  repeat' first
    | with_reducible assumption
    | with_reducible apply keeps_storeBytes
    | with_reducible apply keeps_clearSlots
    | (with_reducible refine Keeps.foldl _ ?_ ?_)
    | (with_reducible refine Keeps.foldl2 _ ?_ ?_)
    | intro _
    | simp only [keeps_upd]

theorem keeps_placeStep {s0 : State} (t : Step) (s : State) (h : Keeps s0 s) : Keeps s0 (placeStep t s) := by
  unfold placeStep
  try dsimp only
  repeat' first
    | with_reducible assumption
    | with_reducible apply keeps_setStep
    | simp only [keeps_upd]
    | split

theorem keeps_launch {s0 : State} (t : Step) (s : State) (h : Keeps s0 s) : Keeps s0 (launch t s) := by
  unfold launch
  try dsimp only
  repeat' first
    | with_reducible assumption
    | with_reducible apply keeps_dispatchStep
    | with_reducible apply keeps_placeStep
    | simp only [keeps_upd]

theorem keeps_admitEntry {s0 : State} (plan : List PlanEntry) (a : Admitting) (i : Nat) (s : State) (h : Keeps s0 s) : Keeps s0 (admitEntry plan a i s) := by
  unfold admitEntry
  try dsimp only
  repeat' first
    | with_reducible assumption
    | with_reducible apply keeps_setSeq
    | with_reducible apply keeps_assignCensus
    | with_reducible refine keeps_assignCensus_eq ?_ (by assumption)
    | with_reducible apply keeps_writeTables
    | with_reducible apply keeps_launch
    | (with_reducible refine Keeps.foldl _ ?_ ?_)
    | (with_reducible refine Keeps.foldl2 _ ?_ ?_)
    | intro _
    | simp only [keeps_upd]
    | split

theorem keeps_admitAdvances {s0 : State} (plan : List PlanEntry) (budget : Nat) (ts : List Step) (first : Bool) (c : Cost) (n : Nat) (s : State) (h : Keeps s0 s) :
    Keeps s0 (admitAdvances plan budget ts first c n s).2.2 := by
  induction ts generalizing first c n s with
  | nil => exact h
  | cons t ts ih =>
    unfold admitAdvances
    dsimp only
    split
    · exact ih _ _ _ _ h
    · split
      · exact ih _ _ _ _ h
      · split
        · exact h
        · exact ih _ _ _ _ (keeps_launch _ _ (keeps_restoreCarry _ _ (keeps_writeTables _ _ (Keeps.foldl _ (keeps_assignCensus _ _ (keeps_freeGathered _ _ h)) (fun _ _ k => keeps_setSeq _ _ _ k)))))

theorem keeps_countShort {s0 : State} (ns : List Nat) (s : State) (h : Keeps s0 s) : Keeps s0 (countShort ns s) := by
  unfold countShort
  try dsimp only
  repeat' first
    | with_reducible assumption
    | with_reducible apply keeps_bump
    | with_reducible apply keeps_setSeq
    | (with_reducible refine Keeps.foldl _ ?_ ?_)
    | (with_reducible refine Keeps.foldl2 _ ?_ ?_)
    | intro _

theorem keeps_pageLow {s0 : State} (s : State) (h : Keeps s0 s) : Keeps s0 (pageLow s) := by
  unfold pageLow
  try dsimp only
  repeat' first
    | with_reducible assumption
    | with_reducible apply keeps_notifyOnce
    | simp only [keeps_upd]
    | split

/-- What a look leaves follows from s. -/
def KeepsLook (s : State) (x : Look) : Prop :=
  match x with
  | .joins a _ => Keeps s a.s
  | .passed a => Keeps s a.s
  | .tooDear => True

theorem KeepsLook.passed {s0 : State} {a : Admitting} (h : Keeps s0 a.s) : KeepsLook s0 (.passed a) := h

theorem KeepsLook.joins {s0 : State} {a : Admitting} {c : Nat} (h : Keeps s0 a.s) : KeepsLook s0 (.joins a c) := h

theorem KeepsLook.tooDear {s0 : State} : KeepsLook s0 .tooDear := trivial

theorem KeepsLook.ite {s0 : State} {c : Prop} [Decidable c] {x y : Look} (hx : KeepsLook s0 x) (hy : KeepsLook s0 y) : KeepsLook s0 (if c then x else y) := by
  split
  · exact hx
  · exact hy

theorem keeps_lookOn {s0 : State} (plan : List PlanEntry) (budget : Nat) (deficit : Int) (n i pos : Nat) (e : PlanEntry) (a : Admitting) (h : Keeps s0 a.s) :
    KeepsLook s0 (lookOn plan budget deficit n i pos e a) := by
  unfold lookOn
  refine KeepsLook.ite (KeepsLook.passed h) (KeepsLook.ite (KeepsLook.passed (keeps_parkSeq _ _ h)) (KeepsLook.ite (KeepsLook.passed h)
    (KeepsLook.ite (KeepsLook.passed h) (KeepsLook.ite KeepsLook.tooDear (KeepsLook.joins ?_)))))
  dsimp only
  split
  · exact keeps_equip _ _ _ h
  · exact h

theorem keeps_countPages {s0 : State} (n k : Nat) (a : Admitting) (h : Keeps s0 a.s) : Keeps s0 (countPages n k a).s := by
  unfold countPages
  dsimp only
  split
  · exact h
  · exact keeps_setSeq _ _ _ h

theorem keeps_lookAt {s0 : State} (plan : List PlanEntry) (budget : Nat) (deficit : Int) (n : Nat) (a : Admitting) (h : Keeps s0 a.s) :
    KeepsLook s0 (lookAt plan budget deficit n a) := by
  unfold lookAt
  split
  · exact KeepsLook.passed (keeps_countPages _ _ _ h)
  split
  · exact KeepsLook.passed h
  · rename_i i pos _ _ e _
    dsimp only
    generalize (formInputs a.s (seqOf a.s n) pos).length = k
    have q := keeps_countPages n k a h
    generalize countPages n k a = b at q ⊢
    split
    · exact KeepsLook.passed q
    · exact keeps_lookOn plan budget deficit n i pos e b q

theorem keeps_visit {s0 : State} (plan : List PlanEntry) (budget tenant : Nat) (ns : List Nat) (a : Admitting) (h : Keeps s0 a.s) :
    Keeps s0 (visit plan budget tenant ns a).2.s := by
  induction ns generalizing a with
  | nil => exact h
  | cons n ns ih =>
    have k := keeps_lookAt plan budget (tenantOf a.s tenant).deficit n a h
    unfold visit
    split
    · exact h
    · rename_i b e
      rw [e] at k
      exact ih b k
    · rename_i b c e
      rw [e] at k
      exact ih _ ((keeps_upd ..).2 (keeps_setTenant _ _ _ k))

theorem keeps_rounds {s0 : State} (plan : List PlanEntry) (budget f : Nat) (a : Admitting) (h : Keeps s0 a.s) : Keeps s0 (rounds plan budget f a).s := by
  induction f generalizing a with
  | zero => exact h
  | succ f ih =>
    unfold rounds
    split
    · exact h
    · exact ih _ (keeps_visit _ _ _ _ _ (keeps_setTenant _ _ _ h))

theorem keeps_admitPlan {s0 : State} (s : State) (h : Keeps s0 s) : Keeps s0 (admitPlan s) := by
  unfold admitPlan
  dsimp only
  refine keeps_pageLow _ (keeps_countShort _ _ ((keeps_upd ..).2 (Keeps.foldl _ (keeps_rounds _ _ _ _ ?_) (fun _ _ k => keeps_admitEntry _ _ _ _ k))))
  refine Keeps.foldl _ (keeps_admitAdvances _ _ _ _ _ _ _ (keeps_showBudget _ h)) (fun _ _ k => ?_)
  split
  · exact k
  · exact keeps_setTenant _ _ _ k

theorem keeps_freezePlan {s0 : State} (sealing : Bool) (s : State) (h : Keeps s0 s) : Keeps s0 (freezePlan sealing s) := by
  unfold freezePlan
  try dsimp only
  repeat' first
    | with_reducible assumption
    | with_reducible apply keeps_wrF
    | with_reducible apply keeps_wrB
    | with_reducible apply keeps_bump
    | with_reducible apply keeps_showBudget
    | with_reducible apply keeps_admitPlan
    | simp only [keeps_upd]
    | split

theorem keeps_freezeDue {s0 : State} (s : State) (h : Keeps s0 s) : Keeps s0 (freezeDue s) := by
  unfold freezeDue
  try dsimp only
  repeat' first
    | with_reducible assumption
    | with_reducible apply keeps_freezePlan
    | simp only [keeps_upd]
    | split

theorem keeps_commitEntries {s0 : State} (entries : List PlanEntry) (s : State) (h : Keeps s0 s) : Keeps s0 (commitEntries entries s) := by
  unfold commitEntries
  try dsimp only
  repeat' first
    | with_reducible assumption
    | with_reducible apply keeps_wrF
    | simp only [keeps_upd]

theorem keeps_sealPlan {s0 : State} (s : State) (h : Keeps s0 s) : Keeps s0 (sealPlan s) := by
  unfold sealPlan
  try dsimp only
  repeat' first
    | with_reducible assumption
    | with_reducible apply keeps_freezePlan
    | simp only [keeps_upd]
    | split

theorem keeps_storeRecord {s0 : State} (ctx a n : Nat) (bytes : List Byte) (bad : List Nat) (s : State) (h : Keeps s0 s) : Keeps s0 (storeRecord ctx a n bytes bad s) := by
  unfold storeRecord
  try dsimp only
  repeat' first
    | with_reducible assumption
    | with_reducible apply keeps_poisonAt
    | with_reducible apply keeps_storeBytes
    | (with_reducible refine Keeps.foldl _ ?_ ?_)
    | (with_reducible refine Keeps.foldl2 _ ?_ ?_)
    | intro _
    | simp only [keeps_upd]
    | split

theorem keeps_writeRecords {s0 : State} (x : Seq) (r : Reader) (ctx base l per : Nat) (hs : List HeldPos) (s : State) (h : Keeps s0 s) : Keeps s0 (writeRecords x r ctx base l per hs s) := by
  unfold writeRecords
  try dsimp only
  repeat' first
    | with_reducible assumption
    | with_reducible apply keeps_storeBytes
    | with_reducible apply keeps_storeRecord
    | (with_reducible refine Keeps.foldl _ ?_ ?_)
    | (with_reducible refine Keeps.foldl2 _ ?_ ?_)
    | intro _
    | simp only [keeps_upd]
    | split

theorem keeps_setPageDir {s0 : State} (page e : Nat) (s : State) (h : Keeps s0 s) : Keeps s0 (setPageDir page e s) := by
  unfold setPageDir
  try dsimp only
  repeat' first
    | with_reducible assumption
    | with_reducible apply keeps_storeBytes
    | simp only [keeps_upd]
    | split

theorem keeps_windPage {s0 : State} (ctx page : Nat) (bad : Bool) (e : MoveErrors) (image s : State) (h : Keeps s0 image) (k : Keeps s0 s) :
    Keeps s0 (windPage ctx page bad e image s) := by
  unfold windPage
  dsimp only
  split
  · exact keeps_setPageDir _ _ _ (keeps_storeBytes _ _ _ _ _ _ (keeps_bump _ _ _ (keeps_countWind _ _ _ _ k)))
  · exact keeps_setPageDir _ _ _ (keeps_bump _ _ _ (keeps_countWind _ _ _ _ h))

theorem keeps_writePage {s0 : State} (j : KvJob) (e : MoveErrors) (s : State) (h : Keeps s0 s) : Keeps s0 (writePage j e s) := by
  unfold writePage
  try dsimp only
  repeat' first
    | with_reducible assumption
    | with_reducible apply keeps_bump
    | with_reducible apply keeps_writeRecords
    | with_reducible apply keeps_setPageDir
    | with_reducible apply keeps_windPage
    | simp only [keeps_upd]
    | split

theorem keeps_settleWrites {s0 : State} (s : State) (h : Keeps s0 s) : Keeps s0 (settleWrites s) := by
  unfold settleWrites
  try dsimp only
  repeat' first
    | with_reducible assumption
    | with_reducible apply keeps_setSeq
    | (with_reducible refine Keeps.foldl _ ?_ ?_)
    | (with_reducible refine Keeps.foldl2 _ ?_ ?_)
    | intro _
    | simp only [keeps_upd]

theorem keeps_parkForRoom {s0 : State} (s : State) (h : Keeps s0 s) : Keeps s0 (parkForRoom s) := by
  unfold parkForRoom
  try dsimp only
  repeat' first
    | with_reducible assumption
    | with_reducible apply keeps_parkSeq
    | (with_reducible refine Keeps.foldl _ ?_ ?_)
    | (with_reducible refine Keeps.foldl2 _ ?_ ?_)
    | intro _
    | simp only [keeps_upd]
    | split

theorem keeps_copyPage {s0 : State} (j : CowJob) (e : MoveErrors) (s : State) (h : Keeps s0 s) : Keeps s0 (copyPage j e s) := by
  unfold copyPage
  try dsimp only
  repeat' first
    | with_reducible assumption
    | with_reducible apply keeps_bump
    | with_reducible apply keeps_poisonAt
    | with_reducible apply keeps_touchRange
    | with_reducible apply keeps_storeBytes
    | with_reducible apply keeps_decPage
    | with_reducible apply keeps_countUnwind
    | with_reducible apply keeps_notePage
    | with_reducible apply keeps_logPageFault
    | with_reducible apply keeps_setPageDir
    | (with_reducible refine Keeps.foldl _ ?_ ?_)
    | (with_reducible refine Keeps.foldl2 _ ?_ ?_)
    | intro _
    | simp only [keeps_upd]

theorem keeps_allotBlock_eq {s0 : State} {n : Nat} {s t : State} {a : Nat} (h : Keeps s0 s) (e : allotBlock n s = some (a, t)) : Keeps s0 t := by
  unfold allotBlock at e
  obtain ⟨b, -, hb⟩ := Option.map_eq_some_iff.1 e
  cases hb
  exact keeps_keepBlock _ _ _ h

theorem keeps_redivideAll {s0 : State} (s : State) (h : Keeps s0 s) : Keeps s0 (redivideAll s) := by
  unfold redivideAll
  try dsimp only
  repeat' first
    | with_reducible assumption
    | (with_reducible refine Keeps.foldl _ ?_ ?_)
    | (with_reducible refine Keeps.foldl2 _ ?_ ?_)
    | intro _
    | simp only [keeps_upd]

theorem keeps_marginChanged {s0 : State} (s : State) (h : Keeps s0 s) : Keeps s0 (marginChanged s) := by
  unfold marginChanged
  try dsimp only
  repeat' first
    | with_reducible assumption
    | with_reducible apply keeps_showBudget
    | with_reducible apply keeps_redivideAll
    | simp only [keeps_upd]
    | split

theorem keeps_redivideNow {s0 : State} (s : State) (h : Keeps s0 s) : Keeps s0 (redivideNow s) := by
  unfold redivideNow
  try dsimp only
  repeat' first
    | with_reducible assumption
    | with_reducible apply keeps_setModel
    | (with_reducible refine Keeps.foldl _ ?_ ?_)
    | (with_reducible refine Keeps.foldl2 _ ?_ ?_)
    | intro _
    | simp only [keeps_upd]
    | split

end Sys2Proof.Laws
end

