-- ==== Sys2Proof/Laws/KeepsLinks.lean ====
section
/-! SUPPORT. What power, the fabric, Kralyn, the stitchers and the work that waits for a channel keep: the queue, the fuses and the canonical forms. -/

namespace Sys2Proof.Laws

open Sys2Proof.Machine

theorem keeps_sampleChannel {s0 : State} (c : Nat) (reading : Reading) (s : State) (h : Keeps s0 s) : Keeps s0 (sampleChannel c reading s) := by
  unfold sampleChannel
  try dsimp only
  repeat' first
    | with_reducible assumption
    | with_reducible apply keeps_wrF
    | with_reducible apply keeps_wrB
    | simp only [keeps_upd]
    | split

theorem keeps_takeTable {s0 : State} (s : State) (h : Keeps s0 s) : Keeps s0 (takeTable s) := by
  unfold takeTable
  try dsimp only
  repeat' first
    | with_reducible assumption
    | simp only [keeps_upd]

theorem keeps_evalEntry {s0 : State} (e : Nat) (s : State) (h : Keeps s0 s) : Keeps s0 (evalEntry e s) := by
  unfold evalEntry
  try dsimp only
  repeat' first
    | with_reducible assumption
    | with_reducible apply keeps_wrB
    | simp only [keeps_upd]
    | split

theorem keeps_dropLinks {s0 : State} (s : State) (h : Keeps s0 s) : Keeps s0 (dropLinks s) := by
  unfold dropLinks
  try dsimp only
  repeat' first
    | with_reducible assumption
    | with_reducible apply keeps_endSession
    | (with_reducible refine Keeps.foldl _ ?_ ?_)
    | (with_reducible refine Keeps.foldl2 _ ?_ ?_)
    | intro _
    | simp only [keeps_upd]

theorem keeps_sleepOff {s0 : State} (cause : Nat) (s : State) (h : Keeps s0 s) : Keeps s0 (sleepOff cause s) := by
  unfold sleepOff
  try dsimp only
  repeat' first
    | with_reducible assumption
    | with_reducible apply keeps_asleepOff
    | with_reducible apply keeps_dropLinks
    | simp only [keeps_upd]

theorem swf_puts (l : List (Nat × Byte)) (m : List (Nat × Byte)) (h : swf zeroByte m = true) : swf zeroByte (l.foldl (fun m c => sput zeroByte m c.1 c.2) m) = true := by
  induction l generalizing m with
  | nil => exact h
  | cons c l ih => exact ih _ (swf_sput _ _ _ _ h)

theorem rising_insNats (l m : List Nat) (h : rising m = true) : rising (l.foldl insNat m) = true := by
  induction l generalizing m with
  | nil => exact h
  | cons c l ih => exact ih _ (rising_insNat _ _ h)

theorem keeps_copyWindow {s0 : State} (src dst n : Nat) (s : State) (h : Keeps s0 s) : Keeps s0 (copyWindow src dst n s) :=
  ⟨h.pending, h.fuse, fun i => ⟨swf_puts _ _ (swf_filter _ _ _ (h.inv i).mem), (h.inv i).regs, (h.inv i).poison, (h.inv i).keys⟩⟩

theorem swf_keyed (l : List Nat) (c : Nat) (k : Sparse Nat) (h : swf (fun _ => 0) k = true) :
    swf (fun _ => 0) (l.foldl (fun k a => sput (fun _ => 0) k a c) k) = true := by
  induction l generalizing k with
  | nil => exact h
  | cons a l ih => exact ih _ (swf_sput _ _ _ _ h)

theorem swf_keyArea (a n ctx : Nat) (k : Sparse Nat) (h : swf (fun _ => 0) k = true) : swf (fun _ => 0) (keyArea a n ctx k) = true := by
  unfold keyArea
  dsimp only
  split
  · exact swf_filter _ _ _ h
  · exact swf_keyed _ _ _ (swf_filter _ _ _ h)

theorem keeps_sleepRetained {s0 : State} (s : State) (h : Keeps s0 s) : Keeps s0 (sleepRetained s) := by
  unfold sleepRetained
  dsimp only
  apply keeps_wrF
  apply keeps_wrF
  rw [keeps_upd]
  refine Keeps.foldl _ (keeps_stopWdog _ ?_) (fun _ _ k => keeps_wrF _ _ _ _ _ k)
  have k := keeps_copyWindow scratchBase (saveBase s) (scratchSize (scratchMiB s)) _ (keeps_dropLinks _ h)
  exact ⟨k.pending, k.fuse, fun i => ⟨swf_filter _ _ _ (k.inv i).mem, (k.inv i).regs, rising_insNats _ _ (rising_filter _ _ (k.inv i).poison), swf_keyArea _ _ _ _ (k.inv i).keys⟩⟩

theorem rising_wokenPoison (src n : Nat) (l : List Nat) (h : rising l = true) : rising (wokenPoison src n l) = true := by
  unfold wokenPoison
  generalize l.filter (fun a => decide (src ≤ a) && decide (a < src + n)) = ks
  induction ks generalizing l with
  | nil => exact h
  | cons a ks ih =>
    rw [List.foldl_cons]
    refine ih _ ?_
    generalize List.range 8 = is
    induction is generalizing l with
    | nil => exact h
    | cons i is ih2 => exact ih2 _ (rising_insNat _ _ h)

theorem keeps_wake {s0 : State} (s : State) (h : Keeps s0 s) : Keeps s0 (wake s) := by
  unfold wake
  dsimp only
  split
  · apply keeps_wrF
    apply keeps_wrF
    apply keeps_wrB
    apply keeps_wrF
    rw [keeps_upd]
    exact keeps_copyWindow _ _ _ _ ⟨h.pending, h.fuse, fun i => ⟨(h.inv i).mem, (h.inv i).regs, rising_wokenPoison _ _ _ (h.inv i).poison, (h.inv i).keys⟩⟩
  · split
    · exact keeps_bootFrom2 _ _ h
    · exact h

theorem keeps_judgeFrame {s0 : State} (f : MacFrame) (s : State) (h : Keeps s0 s) : Keeps s0 (judgeFrame f s) := by
  unfold judgeFrame
  try dsimp only
  repeat' first
    | with_reducible assumption
    | with_reducible apply keeps_wr
    | with_reducible apply keeps_bump
    | with_reducible apply keeps_wake
    | simp only [keeps_upd]
    | split

theorem keeps_judgeHeld {s0 : State} (s : State) (h : Keeps s0 s) : Keeps s0 (judgeHeld s) := by
  unfold judgeHeld
  try dsimp only
  repeat' first
    | with_reducible assumption
    | with_reducible apply keeps_judgeFrame
    | (with_reducible refine Keeps.foldl _ ?_ ?_)
    | (with_reducible refine Keeps.foldl2 _ ?_ ?_)
    | intro _
    | simp only [keeps_upd]

theorem keeps_trip {s0 : State} (s : State) (h : Keeps s0 s) : Keeps s0 (trip s) := by
  unfold trip
  try dsimp only
  repeat' first
    | with_reducible assumption
    | with_reducible apply keeps_wrF
    | with_reducible apply keeps_thimbleOnly
    | simp only [keeps_upd]

theorem keeps_act {s0 : State} (held throttled : Bool) (s : State) (h : Keeps s0 s) : Keeps s0 (act held throttled s) := by
  unfold act
  try dsimp only
  repeat' first
    | with_reducible assumption
    | with_reducible apply keeps_bump
    | with_reducible apply keeps_thermalNotice
    | with_reducible apply keeps_sleepOff
    | with_reducible apply keeps_wake
    | simp only [keeps_upd]
    | split

theorem keeps_sampleAll {s0 : State} (r : ThReads) (s : State) (h : Keeps s0 s) : Keeps s0 (sampleAll r s) := by
  unfold sampleAll
  try dsimp only
  repeat' first
    | with_reducible assumption
    | with_reducible apply keeps_sampleChannel
    | (with_reducible refine Keeps.foldl _ ?_ ?_)
    | (with_reducible refine Keeps.foldl2 _ ?_ ?_)
    | intro _
    | simp only [keeps_upd]
    | split

theorem keeps_judge {s0 : State} (r : ThReads) (held throttled : Bool) (s : State) (h : Keeps s0 s) : Keeps s0 (judge r held throttled s) := by
  unfold judge
  try dsimp only
  repeat' first
    | with_reducible assumption
    | with_reducible apply keeps_bootFrom2
    | with_reducible apply keeps_takeTable
    | with_reducible apply keeps_evalEntry
    | with_reducible apply keeps_trip
    | with_reducible apply keeps_act
    | (with_reducible refine Keeps.foldl _ ?_ ?_)
    | (with_reducible refine Keeps.foldl2 _ ?_ ?_)
    | intro _
    | simp only [keeps_upd]
    | split

theorem keeps_settleClocks {s0 : State} (s : State) (h : Keeps s0 s) : Keeps s0 (settleClocks s) := by
  unfold settleClocks
  try dsimp only
  repeat' first
    | with_reducible assumption
    | with_reducible apply keeps_bump
    | simp only [keeps_upd]
    | split

theorem keeps_capEdge {s0 : State} (s : State) (h : Keeps s0 s) : Keeps s0 (capEdge s) := by
  unfold capEdge
  try dsimp only
  repeat' first
    | with_reducible assumption
    | with_reducible apply keeps_wrF
    | with_reducible apply keeps_wrB
    | with_reducible apply keeps_notify
    | simp only [keeps_upd]
    | split

theorem keeps_powerEdge {s0 : State} (s : State) (h : Keeps s0 s) : Keeps s0 (powerEdge s) := by
  unfold powerEdge
  try dsimp only
  repeat' first
    | with_reducible assumption
    | with_reducible apply keeps_wrF
    | with_reducible apply keeps_wrB
    | with_reducible apply keeps_bump
    | with_reducible apply keeps_settleClocks
    | with_reducible apply keeps_capEdge
    | simp only [keeps_upd]
    | split

theorem keeps_addEnergy {s0 : State} (a n : Nat) (s : State) (h : Keeps s0 s) : Keeps s0 (addEnergy a n s) := by
  unfold addEnergy
  try dsimp only
  repeat' first
    | with_reducible assumption
    | with_reducible apply keeps_wr

theorem keeps_drawCounts {s0 : State} (s : State) (h : Keeps s0 s) : Keeps s0 (drawCounts s).2 := by
  unfold drawCounts
  try dsimp only
  repeat' first
    | with_reducible assumption
    | with_reducible apply keeps_fresh
    | with_reducible refine keeps_fresh_eq ?_ (by assumption)
    | (with_reducible refine Keeps.foldl _ ?_ ?_)
    | (with_reducible refine Keeps.foldl2 _ ?_ ?_)
    | intro _


theorem keeps_drawCounts_eq {s0 : State} {s : State} {res : List Nat} {out_ : State} (h : Keeps s0 s) (ev : drawCounts s = (res, out_)) : Keeps s0 out_ := by
  have k := keeps_drawCounts s h
  rwa [ev] at k

theorem keeps_stepEnergy {s0 : State} (ts : List Nat) (acc : List (Nat × Nat) × State) (h : Keeps s0 acc.2) : Keeps s0 (stepEnergy ts acc).2 := by
  unfold stepEnergy
  dsimp only
  split
  · exact h
  · exact keeps_drawCounts _ h

theorem keeps_energyEdge {s0 : State} (s : State) (h : Keeps s0 s) : Keeps s0 (energyEdge s) := by
  unfold energyEdge
  try dsimp only
  repeat' first
    | with_reducible assumption
    | with_reducible apply keeps_addEnergy
    | with_reducible apply keeps_drawCounts
    | with_reducible refine keeps_drawCounts_eq ?_ (by assumption)
    | with_reducible apply keeps_stepEnergy
    | with_reducible apply keeps_stepEnergy
    | (with_reducible refine Keeps.foldl _ ?_ ?_)
    | (with_reducible refine Keeps.foldl2 _ ?_ ?_)
    | intro _
    | simp only [keeps_upd]

theorem keeps_tapeSend {s0 : State} (dest mtype seq stamp : Nat) (s : State) (h : Keeps s0 s) : Keeps s0 (tapeSend dest mtype seq stamp s) := by
  unfold tapeSend
  try dsimp only
  repeat' first
    | with_reducible assumption
    | with_reducible apply keeps_bump
    | with_reducible apply keeps_emitOut
    | simp only [keeps_upd]
    | split

theorem keeps_takeExchange {s0 : State} (x : Exchange) (s : State) (h : Keeps s0 s) : Keeps s0 (takeExchange x s) := by
  unfold takeExchange
  try dsimp only
  repeat' first
    | with_reducible assumption
    | with_reducible apply keeps_wr
    | with_reducible apply keeps_wrB
    | with_reducible apply keeps_bump
    | simp only [keeps_upd]

theorem keeps_countBack {s0 : State} (s : State) (h : Keeps s0 s) : Keeps s0 (countBack s) := by
  unfold countBack
  try dsimp only
  repeat' first
    | with_reducible assumption
    | with_reducible apply keeps_wrB
    | with_reducible apply keeps_bump
    | simp only [keeps_upd]
    | split

theorem keeps_stepTape {s0 : State} (s : State) (h : Keeps s0 s) : Keeps s0 (stepTape s) := by
  unfold stepTape
  try dsimp only
  repeat' first
    | with_reducible assumption
    | with_reducible apply keeps_wr
    | with_reducible apply keeps_wrF
    | with_reducible apply keeps_wrB
    | with_reducible apply keeps_showBudget
    | with_reducible apply keeps_redivideAll
    | simp only [keeps_upd]

theorem keeps_restoreBlock {s0 : State} (model addr : Nat) (bytes : List Byte) (s : State) (h : Keeps s0 s) : Keeps s0 (restoreBlock model addr bytes s) := by
  unfold restoreBlock
  try dsimp only
  repeat' first
    | with_reducible assumption
    | with_reducible apply keeps_expirePause
    | with_reducible apply keeps_bump
    | with_reducible apply keeps_storeBytes
    | with_reducible apply keeps_setModel

theorem keeps_refuseUnknown {s0 : State} (k : KrMsg) (s : State) (h : Keeps s0 s) : Keeps s0 (refuseUnknown k s) := by
  unfold refuseUnknown
  try dsimp only
  repeat' first
    | with_reducible assumption
    | with_reducible apply keeps_fresh
    | with_reducible refine keeps_fresh_eq ?_ (by assumption)
    | with_reducible apply keeps_refuseTo

theorem keeps_settleClose {s0 : State} (i : Nat) (s : State) (h : Keeps s0 s) : Keeps s0 (settleClose i s) := by
  unfold settleClose
  try dsimp only
  repeat' first
    | with_reducible assumption
    | with_reducible apply keeps_setConn
    | with_reducible apply keeps_freeConn
    | with_reducible apply keeps_krAck
    | simp only [keeps_upd]
    | split

theorem keeps_acceptConnect {s0 : State} (k : KrMsg) (peer level : Nat) (due : List (Nat × List Byte)) (s : State) (h : Keeps s0 s) : Keeps s0 (acceptConnect k peer level due s) := by
  unfold acceptConnect
  try dsimp only
  repeat' first
    | with_reducible assumption
    | with_reducible apply keeps_refuseTo
    | with_reducible apply keeps_evict
    | with_reducible apply keeps_acceptAt
    | simp only [keeps_upd]
    | split

theorem keeps_intoChannel_eq {s0 : State} {k : KrMsg} {table : SramError} {s t : State} (h : Keeps s0 s) (e : intoChannel k table s = some t) : Keeps s0 t := by
  unfold intoChannel at e
  dsimp only at e
  split at e
  · cases e
  · cases e
    repeat' first
      | with_reducible assumption
      | with_reducible apply keeps_bump
      | with_reducible apply keeps_wrF
      | with_reducible apply keeps_storeBytes
      | with_reducible apply keeps_countUnwind
      | with_reducible apply keeps_poisonAt
      | (with_reducible refine Keeps.foldl _ ?_ (fun _ _ _ => ?_))
      | simp only [keeps_upd]
      | split

theorem keeps_answerReplica {s0 : State} (k : KrMsg) (s : State) (h : Keeps s0 s) : Keeps s0 (answerReplica k s) := by
  unfold answerReplica
  try dsimp only
  repeat' first
    | with_reducible assumption
    | with_reducible apply keeps_readMem
    | with_reducible refine keeps_readMem_eq ?_ (by assumption)
    | with_reducible apply keeps_firmwareSend
    | simp only [keeps_upd]
    | split

theorem keeps_takeReplica {s0 : State} (k : KrMsg) (s : State) (h : Keeps s0 s) : Keeps s0 (takeReplica k s) := by
  unfold takeReplica
  try dsimp only
  repeat' first
    | with_reducible assumption
    | with_reducible apply keeps_restoreBlock
    | simp only [keeps_upd]
    | split

theorem keeps_firmwareTakes {s0 : State} (k : KrMsg) (s : State) (h : Keeps s0 s) : Keeps s0 (firmwareTakes k s) := by
  unfold firmwareTakes
  try dsimp only
  repeat' first
    | with_reducible assumption
    | with_reducible apply keeps_answerReplica
    | with_reducible apply keeps_takeReplica
    | simp only [keeps_upd]
    | split

theorem keeps_takeCap {s0 : State} (member : Nat) (payload : List Byte) (s : State) (h : Keeps s0 s) : Keeps s0 (takeCap member payload s) := by
  unfold takeCap
  try dsimp only
  repeat' first
    | with_reducible assumption
    | with_reducible apply keeps_bump
    | simp only [keeps_upd]
    | split

theorem keeps_krSequenced {s0 : State} (mtype : Nat) (k : KrMsg) (deliver : Nat → State → Option State) (s : State) (h : Keeps s0 s)
    (hd : ∀ i u t, Keeps s0 u → deliver i u = some t → Keeps s0 t) : Keeps s0 (krSequenced mtype k deliver s) := by
  unfold krSequenced
  dsimp only
  repeat' first
    | with_reducible assumption
    | with_reducible apply keeps_bump
    | with_reducible apply keeps_refuseUnknown
    | with_reducible apply keeps_closeFreely
    | with_reducible apply keeps_krOweAck
    | with_reducible apply keeps_setConn
    | with_reducible refine hd _ _ _ ?_ (by assumption)
    | split

theorem keeps_krAdvance {s0 : State} (i : Nat) (k : KrMsg) (s : State) (h : Keeps s0 s) : Keeps s0 (krAdvance i k s) := by
  unfold krAdvance
  try dsimp only
  repeat' first
    | with_reducible assumption
    | with_reducible apply keeps_setConn
    | with_reducible apply keeps_closeFreely
    | with_reducible apply keeps_krRecord
    | with_reducible apply keeps_flushDue
    | with_reducible apply keeps_freeConn
    | with_reducible apply keeps_settleClose
    | (with_reducible refine Keeps.foldl _ ?_ ?_)
    | (with_reducible refine Keeps.foldl2 _ ?_ ?_)
    | intro _
    | simp only [keeps_upd]
    | split

theorem keeps_runDesc {s0 : State} (r : Nat) (s : State) (h : Keeps s0 s) : Keeps s0 (runDesc r s) := by
  unfold runDesc
  try dsimp only
  repeat' first
    | with_reducible assumption
    | with_reducible apply keeps_touchRange
    | with_reducible apply keeps_readMem
    | with_reducible refine keeps_readMem_eq ?_ (by assumption)
    | with_reducible apply keeps_countPayload
    | with_reducible apply keeps_sendSeq
    | with_reducible apply keeps_closeFreely
    | with_reducible apply keeps_advanceRing
    | with_reducible apply keeps_failSlot
    | with_reducible apply keeps_startSetup
    | simp only [keeps_upd]
    | split

theorem keeps_writeTxCtrl {s0 : State} (ring : Nat) (value : Word) (s : State) (h : Keeps s0 s) : Keeps s0 (writeTxCtrl ring value s) := by
  unfold writeTxCtrl
  try dsimp only
  repeat' first
    | with_reducible assumption
    | with_reducible apply keeps_wrF
    | with_reducible apply keeps_wrB
    | with_reducible apply keeps_setRing
    | simp only [keeps_upd]
    | split

theorem keeps_writeRxCtrl {s0 : State} (channel : Nat) (value : Word) (s : State) (h : Keeps s0 s) : Keeps s0 (writeRxCtrl channel value s) := by
  unfold writeRxCtrl
  try dsimp only
  repeat' first
    | with_reducible assumption
    | with_reducible apply keeps_wrF
    | with_reducible apply keeps_wrB
    | simp only [keeps_upd]
    | split

theorem keeps_panelCodecFault {s0 : State} (p kind slot : Nat) (x : Piece) (s : State) (h : Keeps s0 s) : Keeps s0 (panelCodecFault p kind slot x s) := by
  unfold panelCodecFault
  try dsimp only
  repeat' first
    | with_reducible assumption
    | with_reducible apply keeps_wr
    | with_reducible apply keeps_bump
    | with_reducible apply keeps_logError
    | with_reducible apply keeps_tally
    | simp only [keeps_upd]
    | split

theorem keeps_unwindPiece {s0 : State} (p : Nat) (x : Piece) (ts : List Tile) (table : CodecErrors) (s : State) (h : Keeps s0 s) : Keeps s0 (unwindPiece p x ts table s).state := by
  unfold unwindPiece
  split
  · exact h
  · refine Keeps.foldOn Unwinding.state _ h (fun t a k => ?_)
    dsimp only
    repeat' first
      | with_reducible assumption
      | with_reducible apply keeps_panelCodecFault
      | with_reducible apply keeps_bump
      | split

theorem keeps_countTake {s0 : State} (p src how : Nat) (s : State) (h : Keeps s0 s) : Keeps s0 (countTake p src how s) := by
  unfold countTake
  try dsimp only
  repeat' first
    | with_reducible assumption
    | with_reducible apply keeps_bump
    | simp only [keeps_upd]
    | split

theorem keeps_checkDensity {s0 : State} (p : Nat) (x : Piece) (s : State) (h : Keeps s0 s) : Keeps s0 (checkDensity p x s) := by
  unfold checkDensity
  try dsimp only
  repeat' first
    | with_reducible assumption
    | with_reducible apply keeps_bump
    | with_reducible apply keeps_setStep
    | simp only [keeps_upd]
    | split

theorem keeps_countZip {s0 : State} (p : Nat) (x : Piece) (z : Zipped) (s : State) (h : Keeps s0 s) : Keeps s0 (countZip p x z s) := by
  unfold countZip
  try dsimp only
  repeat' first
    | with_reducible assumption
    | with_reducible apply keeps_bump
    | with_reducible apply keeps_zipRecord
    | simp only [keeps_upd]
    | split

theorem keeps_acceptPiece {s0 : State} (p i src how : Nat) (x : Piece) (table : CodecErrors) (s : State) (h : Keeps s0 s) : Keeps s0 (acceptPiece p i src how x table s) := by
  unfold acceptPiece
  try dsimp only
  repeat' first
    | with_reducible assumption
    | with_reducible apply keeps_setStitcher
    | with_reducible apply keeps_indexFault
    | with_reducible apply keeps_countTake
    | with_reducible apply keeps_checkDensity
    | with_reducible apply keeps_countZip
    | with_reducible apply keeps_unwindPiece
    | simp only [keeps_upd]
    | split

theorem keeps_stagedError {s0 : State} (q a : Nat) (err : SramError) (x : Piece) (s : State) (h : Keeps s0 s) : Keeps s0 (stagedError q a err x s) := by
  unfold stagedError
  try dsimp only
  repeat' first
    | with_reducible assumption
    | with_reducible apply keeps_panelWordLost
    | with_reducible apply keeps_panelWordFixed
    | simp only [keeps_upd]
    | split

theorem keeps_feedRow {s0 : State} (p i : Nat) (r : StRun) (c : Nat × Nat) (q : Nat) (err : SramError) (s : State) (h : Keeps s0 s) : Keeps s0 (feedRow p i r c q err s).2 := by
  unfold feedRow
  try dsimp only
  repeat' first
    | with_reducible assumption
    | with_reducible apply keeps_storeBytes
    | with_reducible apply keeps_stagedError
    | simp only [keeps_upd]
    | split

theorem keeps_feedRow_eq {s0 : State} {p : Nat} {i : Nat} {r : StRun} {c : Nat × Nat} {q : Nat} {err : SramError} {s : State} {res : StagedRow} {out_ : State} (h : Keeps s0 s) (ev : feedRow p i r c q err s = (res, out_)) : Keeps s0 out_ := by
  have k := keeps_feedRow p i r c q err s h
  rwa [ev] at k

theorem keeps_lateFaults {s0 : State} (p i : Nat) (r : StRun) (ts : List Tile) (s : State) (h : Keeps s0 s) : Keeps s0 (lateFaults p i r ts s) := by
  unfold lateFaults
  try dsimp only
  repeat' first
    | with_reducible assumption
    | with_reducible apply keeps_setStitcher
    | with_reducible apply keeps_panelCodecFault
    | (with_reducible refine Keeps.foldl _ ?_ ?_)
    | (with_reducible refine Keeps.foldl2 _ ?_ ?_)
    | intro _
    | simp only [keeps_upd]
    | split

theorem keeps_feedWeights {s0 : State} (p i : Nat) (r : StRun) (c : Nat × Nat) (s : State) (h : Keeps s0 s) : Keeps s0 (feedWeights p i r c s) := by
  unfold feedWeights
  try dsimp only
  repeat' first
    | with_reducible assumption
    | with_reducible apply keeps_touchRange
    | with_reducible apply keeps_storeBytes
    | with_reducible apply keeps_lateFaults
    | (with_reducible refine Keeps.foldl _ ?_ ?_)
    | (with_reducible refine Keeps.foldl2 _ ?_ ?_)
    | intro _
    | simp only [keeps_upd]
    | split

theorem keeps_buildHalf {s0 : State} (p i : Nat) (r : StRun) (c : Nat × Nat) (err : SramError) (old : Half) (s : State) (h : Keeps s0 s) :
    Keeps s0 (buildHalf p i r c err old s).state := by
  unfold buildHalf
  dsimp only
  have key : ∀ (l : List Nat) (b : Built), Keeps s0 b.state → Keeps s0 (l.foldl (fun (b : Built) q =>
      ⟨⟨true, b.half.poison || (feedRow p i r c q (if q = 0 then err else .clean) b.state).1.poison,
        b.half.words ++ [buildWords r.piece.fmt (halfLanes r.piece) (feedLanes (halfLanes r.piece) (chunkInputs r.piece.fmt) (feedRow p i r c q (if q = 0 then err else .clean) b.state).1.bytes) (old.words.getD q [])]⟩,
        (feedRow p i r c q (if q = 0 then err else .clean) b.state).1.bytes, (feedRow p i r c q (if q = 0 then err else .clean) b.state).2⟩) b).state := by
    intro l
    induction l with
    | nil => exact fun _ k => k
    | cons q l ih => exact fun b k => ih _ (keeps_feedRow _ _ _ _ _ _ _ k)
  exact key _ _ h

theorem keeps_buildNext {s0 : State} (p i k : Nat) (r : StRun) (c : Nat × Nat) (err : SramError) (s : State) (h : Keeps s0 s) : Keeps s0 (buildNext p i k r c err s) := by
  unfold buildNext
  exact keeps_setStitcher _ _ _ _ (keeps_feedWeights _ _ _ _ _ (keeps_buildHalf _ _ _ _ _ _ _ h))

theorem keeps_stitchError {s0 : State} (p i piece runs kind : Nat) (s : State) (h : Keeps s0 s) : Keeps s0 (stitchError p i piece runs kind s) := by
  unfold stitchError
  try dsimp only
  repeat' first
    | with_reducible assumption
    | with_reducible apply keeps_wr

theorem keeps_accFixed {s0 : State} (p i : Nat) (r : StRun) (n : Nat) (s : State) (h : Keeps s0 s) : Keeps s0 (accFixed p i r n s) := by
  unfold accFixed
  try dsimp only
  repeat' first
    | with_reducible assumption
    | with_reducible apply keeps_bump
    | with_reducible apply keeps_stitchError
    | simp only [keeps_upd]
    | split

theorem keeps_failRun {s0 : State} (p i : Nat) (st : Stitcher) (r : StRun) (kind : Nat) (s : State) (h : Keeps s0 s) : Keeps s0 (failRun p i st r kind s) := by
  unfold failRun
  try dsimp only
  repeat' first
    | with_reducible assumption
    | with_reducible apply keeps_bump
    | with_reducible apply keeps_logError
    | with_reducible apply keeps_setStitcher
    | with_reducible apply keeps_failStitcher
    | with_reducible apply keeps_stitchError
    | simp only [keeps_upd]
    | split

theorem keeps_streamNext {s0 : State} (p i : Nat) (r : StRun) (c : Nat × Nat) (hf : Half) (s : State) (h : Keeps s0 s) : Keeps s0 (streamNext p i r c hf s) := by
  unfold streamNext
  try dsimp only
  repeat' first
    | with_reducible assumption
    | with_reducible apply keeps_bump
    | with_reducible apply keeps_setStitcher

theorem keeps_stitchWaits {s0 : State} (p i : Nat) (why : Stall) (s : State) (h : Keeps s0 s) : Keeps s0 (stitchWaits p i why s) := by
  unfold stitchWaits
  try dsimp only
  repeat' first
    | with_reducible assumption
    | with_reducible apply keeps_bump
    | with_reducible apply keeps_setStitcher

theorem keeps_readAccumulator {s0 : State} (p i : Nat) (r : StRun) (bad fixed : Bool) (s : State) (h : Keeps s0 s) : Keeps s0 (readAccumulator p i r bad fixed s) := by
  unfold readAccumulator
  try dsimp only
  repeat' first
    | with_reducible assumption
    | with_reducible apply keeps_bump
    | with_reducible apply keeps_stitchError
    | with_reducible apply keeps_accFixed
    | simp only [keeps_upd]
    | split

theorem keeps_swapBanks {s0 : State} (p i : Nat) (r : StRun) (bad fixed : List Nat) (s : State) (h : Keeps s0 s) : Keeps s0 (swapBanks p i r bad fixed s) := by
  unfold swapBanks
  try dsimp only
  repeat' first
    | with_reducible assumption
    | with_reducible apply keeps_logError
    | with_reducible apply keeps_setStitcher
    | with_reducible apply keeps_readAccumulator
    | (with_reducible refine Keeps.foldl _ ?_ ?_)
    | (with_reducible refine Keeps.foldl2 _ ?_ ?_)
    | intro _
    | simp only [keeps_upd]
    | split

theorem keeps_execDenseCommand (p : Nat) (err : SramError) (s : State) : KeepsOut s (execDenseCommand p err s) := by
  unfold execDenseCommand
  try dsimp only
  repeat' first
    | with_reducible assumption
    | with_reducible exact Keeps.refl s
    | with_reducible apply KeepsOut.next
    | with_reducible apply keeps_touchWeights
    | with_reducible apply keeps_runDense
    | (with_reducible refine keeps_takeWork _ _ _ _ ?_ ?_)
    | (with_reducible refine keeps_underSram _ _ _ _ _ ?_ (fun _ _ => ?_))
    | simp only [keeps_upd]
    | split

theorem keeps_execEmbeddingGather (p : Nat) (err : SramError) (s : State) : KeepsOut s (execEmbeddingGather p err s) := by
  unfold execEmbeddingGather
  try dsimp only
  repeat' first
    | with_reducible assumption
    | with_reducible exact Keeps.refl s
    | with_reducible apply KeepsOut.next
    | with_reducible apply keeps_retire
    | with_reducible apply keeps_touchWeights
    | with_reducible apply keeps_runEmbedding
    | (with_reducible refine keeps_takeWork _ _ _ _ ?_ ?_)
    | (with_reducible refine keeps_underSram _ _ _ _ _ ?_ (fun _ _ => ?_))
    | simp only [keeps_upd]
    | split

theorem keeps_execAttentionCommand (p : Nat) (err : SramError) (e : MoveErrors) (s : State) : KeepsOut s (execAttentionCommand p err e s) := by
  unfold execAttentionCommand
  try dsimp only
  repeat' first
    | with_reducible assumption
    | with_reducible exact Keeps.refl s
    | with_reducible apply KeepsOut.next
    | with_reducible apply keeps_retire
    | with_reducible apply keeps_runAttention
    | (with_reducible refine keeps_takeWork _ _ _ _ ?_ ?_)
    | (with_reducible refine keeps_underSram _ _ _ _ _ ?_ (fun _ _ => ?_))
    | simp only [keeps_upd]
    | split

theorem keeps_execShuttleDescHead (ch : Nat) (s : State) : KeepsOut s (execShuttleDescHead ch s) := by
  unfold execShuttleDescHead
  try dsimp only
  repeat' first
    | with_reducible assumption
    | with_reducible exact Keeps.refl s
    | with_reducible apply KeepsOut.next
    | with_reducible apply keeps_takeHead
    | (with_reducible refine keeps_takeWork _ _ _ _ ?_ ?_)
    | simp only [keeps_upd]
    | split

theorem keeps_execShuttleCopy (ch : Nat) (e : MoveErrors) (s : State) : KeepsOut s (execShuttleCopy ch e s) := by
  unfold execShuttleCopy
  try dsimp only
  repeat' first
    | with_reducible assumption
    | with_reducible exact Keeps.refl s
    | with_reducible apply KeepsOut.next
    | (with_reducible refine keeps_takeWork _ _ _ _ ?_ ?_)
    | with_reducible apply keeps_settleMove
    | with_reducible apply keeps_moveCopy
    | simp only [keeps_upd]
    | split

theorem keeps_execShuttleFill (ch : Nat) (s : State) : KeepsOut s (execShuttleFill ch s) := by
  unfold execShuttleFill
  try dsimp only
  repeat' first
    | with_reducible assumption
    | with_reducible exact Keeps.refl s
    | with_reducible apply KeepsOut.next
    | (with_reducible refine keeps_takeWork _ _ _ _ ?_ ?_)
    | with_reducible apply keeps_settleMove
    | with_reducible apply keeps_moveFill
    | simp only [keeps_upd]
    | split

theorem keeps_execShuttleCompare (ch : Nat) (e : MoveErrors) (s : State) : KeepsOut s (execShuttleCompare ch e s) := by
  unfold execShuttleCompare
  try dsimp only
  repeat' first
    | with_reducible assumption
    | with_reducible exact Keeps.refl s
    | with_reducible apply KeepsOut.next
    | (with_reducible refine keeps_takeWork _ _ _ _ ?_ ?_)
    | with_reducible apply keeps_settleMove
    | with_reducible apply keeps_moveCompare
    | simp only [keeps_upd]
    | split

theorem keeps_execPageListGather (ch : Nat) (e : MoveErrors) (s : State) : KeepsOut s (execPageListGather ch e s) := by
  unfold execPageListGather
  try dsimp only
  repeat' first
    | with_reducible assumption
    | with_reducible exact Keeps.refl s
    | with_reducible apply KeepsOut.next
    | (with_reducible refine keeps_takeWork _ _ _ _ ?_ ?_)
    | with_reducible apply keeps_settleMove
    | with_reducible apply keeps_moveGather
    | simp only [keeps_upd]
    | split

theorem keeps_execReduceInto (ch : Nat) (e : MoveErrors) (s : State) : KeepsOut s (execReduceInto ch e s) := by
  unfold execReduceInto
  try dsimp only
  repeat' first
    | with_reducible assumption
    | with_reducible exact Keeps.refl s
    | with_reducible apply KeepsOut.next
    | (with_reducible refine keeps_takeWork _ _ _ _ ?_ ?_)
    | with_reducible apply keeps_settleMove
    | with_reducible apply keeps_moveReduce
    | simp only [keeps_upd]
    | split

theorem keeps_execShuttleWind (ch : Nat) (e : MoveErrors) (s : State) : KeepsOut s (execShuttleWind ch e s) := by
  unfold execShuttleWind
  try dsimp only
  repeat' first
    | with_reducible assumption
    | with_reducible exact Keeps.refl s
    | with_reducible apply KeepsOut.next
    | (with_reducible refine keeps_takeWork _ _ _ _ ?_ ?_)
    | with_reducible apply keeps_settleMove
    | with_reducible apply keeps_moveWind
    | simp only [keeps_upd]
    | split

theorem keeps_execShuttleUnwind (ch : Nat) (e : MoveErrors) (s : State) : KeepsOut s (execShuttleUnwind ch e s) := by
  unfold execShuttleUnwind
  try dsimp only
  repeat' first
    | with_reducible assumption
    | with_reducible exact Keeps.refl s
    | with_reducible apply KeepsOut.next
    | (with_reducible refine keeps_takeWork _ _ _ _ ?_ ?_)
    | with_reducible apply keeps_settleMove
    | with_reducible apply keeps_moveUnwind
    | simp only [keeps_upd]
    | split

theorem keeps_execShuttleDescComplete (ch : Nat) (s : State) : KeepsOut s (execShuttleDescComplete ch s) := by
  unfold execShuttleDescComplete
  try dsimp only
  repeat' first
    | with_reducible assumption
    | with_reducible exact Keeps.refl s
    | with_reducible apply KeepsOut.next
    | with_reducible apply keeps_chComplete
    | (with_reducible refine keeps_takeWork _ _ _ _ ?_ ?_)
    | simp only [keeps_upd]
    | split

theorem keeps_execMemoryAccess (who : Requester) (addr ctx : Nat) (op : LineOp) (err : LineError) (step : Option (Nat × Nat)) (s : State) : KeepsOut s (execMemoryAccess who addr ctx op err step s) := by
  unfold execMemoryAccess
  try dsimp only
  repeat' first
    | with_reducible assumption
    | with_reducible exact Keeps.refl s
    | with_reducible apply KeepsOut.next
    | with_reducible apply keeps_lineAccess
    | (with_reducible refine keeps_takeAccess _ _ _ _ ?_ ?_)

theorem keeps_execAddI32 (who : Requester) (addr v : Nat) (s : State) : KeepsOut s (execAddI32 who addr v s) := by
  unfold execAddI32
  try dsimp only
  repeat' first
    | with_reducible assumption
    | with_reducible exact Keeps.refl s
    | with_reducible apply KeepsOut.next
    | with_reducible apply keeps_atomicStep
    | (with_reducible refine keeps_takeAccess _ _ _ _ ?_ ?_)

theorem keeps_execAddF32 (who : Requester) (addr v : Nat) (s : State) : KeepsOut s (execAddF32 who addr v s) := by
  unfold execAddF32
  try dsimp only
  repeat' first
    | with_reducible assumption
    | with_reducible exact Keeps.refl s
    | with_reducible apply KeepsOut.next
    | with_reducible apply keeps_atomicStep
    | (with_reducible refine keeps_takeAccess _ _ _ _ ?_ ?_)

theorem keeps_execMinI32 (who : Requester) (addr v : Nat) (s : State) : KeepsOut s (execMinI32 who addr v s) := by
  unfold execMinI32
  try dsimp only
  repeat' first
    | with_reducible assumption
    | with_reducible exact Keeps.refl s
    | with_reducible apply KeepsOut.next
    | with_reducible apply keeps_atomicStep
    | (with_reducible refine keeps_takeAccess _ _ _ _ ?_ ?_)

theorem keeps_execMaxI32 (who : Requester) (addr v : Nat) (s : State) : KeepsOut s (execMaxI32 who addr v s) := by
  unfold execMaxI32
  try dsimp only
  repeat' first
    | with_reducible assumption
    | with_reducible exact Keeps.refl s
    | with_reducible apply KeepsOut.next
    | with_reducible apply keeps_atomicStep
    | (with_reducible refine keeps_takeAccess _ _ _ _ ?_ ?_)

theorem keeps_execMinF32 (who : Requester) (addr v : Nat) (s : State) : KeepsOut s (execMinF32 who addr v s) := by
  unfold execMinF32
  try dsimp only
  repeat' first
    | with_reducible assumption
    | with_reducible exact Keeps.refl s
    | with_reducible apply KeepsOut.next
    | with_reducible apply keeps_atomicStep
    | (with_reducible refine keeps_takeAccess _ _ _ _ ?_ ?_)

theorem keeps_execMaxF32 (who : Requester) (addr v : Nat) (s : State) : KeepsOut s (execMaxF32 who addr v s) := by
  unfold execMaxF32
  try dsimp only
  repeat' first
    | with_reducible assumption
    | with_reducible exact Keeps.refl s
    | with_reducible apply KeepsOut.next
    | with_reducible apply keeps_atomicStep
    | (with_reducible refine keeps_takeAccess _ _ _ _ ?_ ?_)

theorem keeps_execAndOp (who : Requester) (wide : Bool) (addr v : Nat) (s : State) : KeepsOut s (execAndOp who wide addr v s) := by
  unfold execAndOp
  try dsimp only
  repeat' first
    | with_reducible assumption
    | with_reducible exact Keeps.refl s
    | with_reducible apply KeepsOut.next
    | with_reducible apply keeps_atomicStep
    | (with_reducible refine keeps_takeAccess _ _ _ _ ?_ ?_)

theorem keeps_execOrOp (who : Requester) (wide : Bool) (addr v : Nat) (s : State) : KeepsOut s (execOrOp who wide addr v s) := by
  unfold execOrOp
  try dsimp only
  repeat' first
    | with_reducible assumption
    | with_reducible exact Keeps.refl s
    | with_reducible apply KeepsOut.next
    | with_reducible apply keeps_atomicStep
    | (with_reducible refine keeps_takeAccess _ _ _ _ ?_ ?_)

theorem keeps_execCas (who : Requester) (wide : Bool) (addr compare v : Nat) (s : State) : KeepsOut s (execCas who wide addr compare v s) := by
  unfold execCas
  try dsimp only
  repeat' first
    | with_reducible assumption
    | with_reducible exact Keeps.refl s
    | with_reducible apply KeepsOut.next
    | with_reducible apply keeps_atomicStep
    | (with_reducible refine keeps_takeAccess _ _ _ _ ?_ ?_)

theorem keeps_execRefInc (who : Requester) (addr : Nat) (s : State) : KeepsOut s (execRefInc who addr s) := by
  unfold execRefInc
  try dsimp only
  repeat' first
    | with_reducible assumption
    | with_reducible exact Keeps.refl s
    | with_reducible apply KeepsOut.next
    | with_reducible apply keeps_refIncStep
    | (with_reducible refine keeps_takeAccess _ _ _ _ ?_ ?_)

theorem keeps_execRefDec (who : Requester) (addr : Nat) (s : State) : KeepsOut s (execRefDec who addr s) := by
  unfold execRefDec
  try dsimp only
  repeat' first
    | with_reducible assumption
    | with_reducible exact Keeps.refl s
    | with_reducible apply KeepsOut.next
    | with_reducible apply keeps_refDecStep
    | (with_reducible refine keeps_takeAccess _ _ _ _ ?_ ?_)

theorem keeps_execSamplerDraw (step seq : Nat) (grammarBad : Bool) (s : State) : KeepsOut s (execSamplerDraw step seq grammarBad s) := by
  unfold execSamplerDraw
  try dsimp only
  repeat' first
    | with_reducible assumption
    | with_reducible exact Keeps.refl s
    | with_reducible apply KeepsOut.next
    | with_reducible apply keeps_touchAll
    | with_reducible apply keeps_poisonedDraw
    | with_reducible apply keeps_drawNext
    | (with_reducible refine keeps_takeWork _ _ _ _ ?_ ?_)
    | simp only [keeps_upd]
    | split

theorem keeps_execPageWrite (e : MoveErrors) (s : State) : KeepsOut s (execPageWrite e s) := by
  unfold execPageWrite
  try dsimp only
  repeat' first
    | with_reducible assumption
    | with_reducible exact Keeps.refl s
    | with_reducible apply KeepsOut.next
    | with_reducible apply keeps_writePage
    | (with_reducible refine keeps_takeWork _ _ _ _ ?_ ?_)
    | simp only [keeps_upd]
    | split

theorem keeps_execCowCopyComplete (seq layer : Nat) (e : MoveErrors) (s : State) : KeepsOut s (execCowCopyComplete seq layer e s) := by
  unfold execCowCopyComplete
  try dsimp only
  repeat' first
    | with_reducible assumption
    | with_reducible exact Keeps.refl s
    | with_reducible apply KeepsOut.next
    | with_reducible apply keeps_copyPage
    | (with_reducible refine keeps_takeWork _ _ _ _ ?_ ?_)
    | simp only [keeps_upd]
    | split

theorem keeps_execStitcherTakePiece (p i : Nat) (table : CodecErrors) (s : State) : KeepsOut s (execStitcherTakePiece p i table s) := by
  unfold execStitcherTakePiece
  try dsimp only
  repeat' first
    | with_reducible assumption
    | with_reducible exact Keeps.refl s
    | with_reducible apply KeepsOut.next
    | with_reducible apply keeps_bump
    | with_reducible apply keeps_setPanel
    | with_reducible apply keeps_dealWaiting
    | with_reducible apply keeps_acceptPiece
    | (with_reducible refine keeps_takeWork _ _ _ _ ?_ ?_)
    | simp only [keeps_upd]
    | split

theorem keeps_execTableBuild (p i : Nat) (staged : SramError) (s : State) : KeepsOut s (execTableBuild p i staged s) := by
  unfold execTableBuild
  try dsimp only
  repeat' first
    | with_reducible assumption
    | with_reducible exact Keeps.refl s
    | with_reducible apply KeepsOut.next
    | with_reducible apply keeps_buildNext
    | (with_reducible refine keeps_takeWork _ _ _ _ ?_ ?_)
    | simp only [keeps_upd]
    | split

theorem keeps_stateAfter {s0 : State} (o : Host.Outcome State Fault Refusal) (s : State) (h : Keeps s0 s) (k : KeepsOut s o) : Keeps s0 (stateAfter o s) := by
  unfold stateAfter
  split
  · exact h.trans (k _ rfl)
  · exact h

theorem keeps_serveRequest {s0 : State} (s : State) (c : Instr) (h : Keeps s0 s) : Keeps s0 (serveRequest s c) := by
  unfold serveRequest
  split
  · exact keeps_stateAfter _ _ h (keeps_execMemoryAccess _ _ _ _ _ _ s)
  · exact keeps_stateAfter _ _ h (keeps_execAddI32 _ _ _ s)
  · exact keeps_stateAfter _ _ h (keeps_execAddF32 _ _ _ s)
  · exact keeps_stateAfter _ _ h (keeps_execMinI32 _ _ _ s)
  · exact keeps_stateAfter _ _ h (keeps_execMaxI32 _ _ _ s)
  · exact keeps_stateAfter _ _ h (keeps_execMinF32 _ _ _ s)
  · exact keeps_stateAfter _ _ h (keeps_execMaxF32 _ _ _ s)
  · exact keeps_stateAfter _ _ h (keeps_execAndOp _ _ _ _ s)
  · exact keeps_stateAfter _ _ h (keeps_execOrOp _ _ _ _ s)
  · exact keeps_stateAfter _ _ h (keeps_execCas _ _ _ _ _ s)
  · exact keeps_stateAfter _ _ h (keeps_execRefInc _ _ s)
  · exact keeps_stateAfter _ _ h (keeps_execRefDec _ _ s)
  · exact keeps_stateAfter _ _ h (keeps_execShuttleDescHead _ s)
  · exact keeps_stateAfter _ _ h (keeps_execShuttleCopy _ _ s)
  · exact keeps_stateAfter _ _ h (keeps_execShuttleFill _ s)
  · exact keeps_stateAfter _ _ h (keeps_execShuttleCompare _ _ s)
  · exact keeps_stateAfter _ _ h (keeps_execPageListGather _ _ s)
  · exact keeps_stateAfter _ _ h (keeps_execReduceInto _ _ s)
  · exact keeps_stateAfter _ _ h (keeps_execShuttleWind _ _ s)
  · exact keeps_stateAfter _ _ h (keeps_execShuttleUnwind _ _ s)
  · exact keeps_stateAfter _ _ h (keeps_execShuttleDescComplete _ s)
  · exact keeps_stateAfter _ _ h (keeps_execPageWrite _ s)
  · exact keeps_stateAfter _ _ h (keeps_execCowCopyComplete _ _ _ s)
  · exact keeps_stateAfter _ _ h (keeps_execSamplerDraw _ _ _ s)
  · exact keeps_stateAfter _ _ h (keeps_execStitcherTakePiece _ _ _ s)
  · exact keeps_stateAfter _ _ h (keeps_execTableBuild _ _ _ s)
  · exact keeps_stateAfter _ _ h (keeps_execDenseCommand _ _ s)
  · exact keeps_stateAfter _ _ h (keeps_execAttentionCommand _ _ _ s)
  · exact keeps_stateAfter _ _ h (keeps_execEmbeddingGather _ _ s)
  · exact h

theorem keeps_serveStalled {s0 : State} (ch : Nat) (s : State) (h : Keeps s0 s) : Keeps s0 (serveStalled ch s) := by
  unfold serveStalled
  try dsimp only
  repeat' first
    | with_reducible assumption
    | with_reducible apply keeps_serveRequest
    | (with_reducible refine Keeps.foldl _ ?_ ?_)
    | (with_reducible refine Keeps.foldl2 _ ?_ ?_)
    | intro _
    | simp only [keeps_upd]

end Sys2Proof.Laws
end

