-- ==== Sys2Proof/Laws/KeepsCommands.lean ====
section
/-! SUPPORT. What the control commands keep: the queue, the fuses and the canonical forms. -/

namespace Sys2Proof.Laws

open Sys2Proof.Machine

theorem keeps_armPeriod {s0 : State} (ns : Nat) (s : State) (h : Keeps s0 s) : Keeps s0 (armPeriod ns s) := by
  unfold armPeriod
  try dsimp only
  repeat' first
    | with_reducible assumption
    | with_reducible apply keeps_wrF
    | with_reducible apply keeps_wrB

theorem keeps_startMode {s0 : State} (p mode : Nat) (s : State) (h : Keeps s0 s) : Keeps s0 (startMode p mode s) := by
  unfold startMode
  try dsimp only
  repeat' first
    | with_reducible assumption
    | with_reducible apply keeps_wrF
    | with_reducible apply keeps_wrB
    | with_reducible apply keeps_moveConns
    | simp only [keeps_upd]
    | split

theorem keeps_dropTenant {s0 : State} (t : Nat) (s : State) (h : Keeps s0 s) : Keeps s0 (dropTenant t s) := by
  unfold dropTenant
  try dsimp only
  repeat' first
    | with_reducible assumption
    | with_reducible apply keeps_wr
    | with_reducible apply keeps_wrB
    | with_reducible apply keeps_setTenant
    | with_reducible apply keeps_endSession
    | with_reducible apply keeps_settle
    | (with_reducible refine Keeps.foldl _ ?_ ?_)
    | (with_reducible refine Keeps.foldl2 _ ?_ ?_)
    | intro _

theorem keeps_setStage {s0 : State} (i : Nat) (x : Stage) (s : State) (h : Keeps s0 s) : Keeps s0 (setStage i x s) := by
  unfold setStage
  try dsimp only
  repeat' first
    | with_reducible assumption
    | simp only [keeps_upd]

theorem keeps_adoptBlock {s0 : State} (ctx base n : Nat) (s : State) (h : Keeps s0 s) : Keeps s0 (adoptBlock ctx base n s) := by
  unfold adoptBlock
  try dsimp only
  repeat' first
    | with_reducible assumption
    | with_reducible apply keeps_touchRange
    | with_reducible apply keeps_rekeyLine
    | (with_reducible refine Keeps.foldl _ ?_ ?_)
    | (with_reducible refine Keeps.foldl2 _ ?_ ?_)
    | intro _
    | simp only [keeps_upd]
    | split

theorem keeps_measureModel {s0 : State} (owner : Nat) (d : List Byte) (s : State) (h : Keeps s0 s) : Keeps s0 (measureModel owner d s) := by
  unfold measureModel
  try dsimp only
  repeat' first
    | with_reducible assumption
    | with_reducible apply keeps_setTenant
    | simp only [keeps_upd]
    | split

theorem keeps_placeImage_eq {s0 : State} {slice_ : Bool} {x : Stage} {s t : State} {a : Nat} (h : Keeps s0 s) (e : placeImage slice_ x s = some (a, t)) : Keeps s0 t := by
  unfold placeImage at e
  split at e
  · obtain ⟨b, hb, hc⟩ := Option.map_eq_some_iff.1 e
    cases hc
    exact keeps_freeBlock _ _ (keeps_copyStored _ _ _ _ _ (keeps_allotScratch_eq h (a := b.1) (t := b.2) hb))
  · cases e
    exact h

theorem keeps_takeModel {s0 : State} (i m base : Nat) (slice_ : Bool) (x : Stage) (d : List Byte) (s : State) (h : Keeps s0 s) : Keeps s0 (takeModel i m base slice_ x d s) := by
  unfold takeModel
  exact keeps_setModel _ _ _ (keeps_setStage _ _ _ h)

theorem keeps_enterModel {s0 : State} (m owner : Nat) (d : List Byte) (s : State) (h : Keeps s0 s) : Keeps s0 (enterModel m owner d s) := by
  unfold enterModel
  exact keeps_measureModel _ _ _ (keeps_setModel _ _ _ h)

theorem keeps_freeModel {s0 : State} (m : Nat) (s : State) (h : Keeps s0 s) : Keeps s0 (freeModel m s) := by
  unfold freeModel
  try dsimp only
  repeat' first
    | with_reducible assumption
    | with_reducible apply keeps_setModel
    | with_reducible apply keeps_settle
    | with_reducible apply keeps_freeBlock
    | (with_reducible refine Keeps.foldl _ ?_ ?_)
    | (with_reducible refine Keeps.foldl2 _ ?_ ?_)
    | intro _
    | simp only [keeps_upd]

theorem keeps_setGrammar {s0 : State} (g : Nat) (x : Grammar) (s : State) (h : Keeps s0 s) : Keeps s0 (setGrammar g x s) := by
  unfold setGrammar
  try dsimp only
  repeat' first
    | with_reducible assumption
    | simp only [keeps_upd]

theorem keeps_enterGrammar {s0 : State} (g a i : Nat) (x : Stage) (r : Req) (s t : State) (h : Keeps s0 t) : Keeps s0 (enterGrammar g a i x r s t) := by
  unfold enterGrammar
  dsimp only
  apply keeps_freeBlock
  apply keeps_setStage
  apply keeps_setGrammar
  rw [keeps_upd]
  exact keeps_storeBytes _ _ _ _ _ _ (keeps_copyStored _ _ _ _ _ (keeps_copyStored _ _ _ _ _ h))

theorem keeps_announceCap {s0 : State} (watts index : Nat) (s : State) (h : Keeps s0 s) : Keeps s0 (announceCap watts index s) := by
  unfold announceCap
  try dsimp only
  repeat' first
    | with_reducible assumption
    | with_reducible apply keeps_announce
    | simp only [keeps_upd]
    | split

theorem keeps_orderCap {s0 : State} (cap window : Nat) (s : State) (h : Keeps s0 s) : Keeps s0 (orderCap cap window s) := by
  unfold orderCap
  try dsimp only
  repeat' first
    | with_reducible assumption
    | with_reducible apply keeps_wrB
    | simp only [keeps_upd]

theorem keeps_withdraw {s0 : State} (s : State) (h : Keeps s0 s) : Keeps s0 (withdraw s) := by
  unfold withdraw
  try dsimp only
  repeat' first
    | with_reducible assumption
    | with_reducible apply keeps_announce
    | simp only [keeps_upd]
    | split

theorem keeps_formMembership {s0 : State} (id period_ : Nat) (members : List Nat) (s : State) (h : Keeps s0 s) : Keeps s0 (formMembership id period_ members s) := by
  unfold formMembership
  try dsimp only
  repeat' first
    | with_reducible assumption
    | with_reducible apply keeps_wrB
    | with_reducible apply keeps_armPeriod
    | simp only [keeps_upd]
    | split

theorem keeps_closeAll {s0 : State} (s : State) (h : Keeps s0 s) : Keeps s0 (closeAll s) := by
  unfold closeAll
  try dsimp only
  repeat' first
    | with_reducible assumption
    | with_reducible apply keeps_setConn
    | with_reducible apply keeps_closeIfDue
    | (with_reducible refine Keeps.foldl _ ?_ ?_)
    | (with_reducible refine Keeps.foldl2 _ ?_ ?_)
    | intro _
    | simp only [keeps_upd]
    | split

theorem keeps_failEverything {s0 : State} (status : Nat) (s : State) (h : Keeps s0 s) : Keeps s0 (failEverything status s) := by
  unfold failEverything
  try dsimp only
  repeat' first
    | with_reducible assumption
    | with_reducible apply keeps_failQueued
    | with_reducible apply keeps_failUnacked
    | (with_reducible refine Keeps.foldl _ ?_ ?_)
    | (with_reducible refine Keeps.foldl2 _ ?_ ?_)
    | intro _

theorem keeps_makeSession {s0 : State} (m k : Nat) (wind cred : Bool) (ss : List Byte) (s : State) (h : Keeps s0 s) : Keeps s0 (makeSession m k wind cred ss s) := by
  unfold makeSession
  try dsimp only
  repeat' first
    | with_reducible assumption
    | with_reducible apply keeps_bump
    | with_reducible apply keeps_setSession
    | with_reducible apply keeps_endSession
    | with_reducible apply keeps_oweWakeNotice

theorem keeps_zeroStack {s0 : State} (n : Nat) (s : State) (h : Keeps s0 s) : Keeps s0 (zeroStack n s) := by
  refine ⟨h.pending, h.fuse, fun i => ⟨swf_filter _ _ _ (h.inv i).mem, (h.inv i).regs, rising_filter _ _ (h.inv i).poison, ?_⟩⟩
  unfold zeroStack
  dsimp only
  split
  · exact swf_filter _ _ _ (h.inv i).keys
  · exact swf_keyed _ _ _ (swf_filter _ _ _ (h.inv i).keys)

theorem keeps_freeTraining {s0 : State} (c : Nat) (s : State) (h : Keeps s0 s) : Keeps s0 (freeTraining c s).2 := by
  unfold freeTraining
  try dsimp only
  repeat' first
    | with_reducible assumption
    | with_reducible apply keeps_fresh

theorem keeps_freeTraining_eq {s0 : State} {c : Nat} {s : State} {res : Trained} {out_ : State} (h : Keeps s0 s) (ev : freeTraining c s = (res, out_)) : Keeps s0 out_ := by
  have k := keeps_freeTraining c s h
  rwa [ev] at k

theorem keeps_leaveTraffic {s0 : State} (c : Nat) (s : State) (h : Keeps s0 s) : Keeps s0 (leaveTraffic c s) := by
  unfold leaveTraffic
  try dsimp only
  repeat' first
    | with_reducible assumption
    | with_reducible apply keeps_abortMargin
    | with_reducible apply keeps_endRetrain
    | simp only [keeps_upd]
    | split

theorem keeps_afterRepair {s0 : State} (n : Nat) (s : State) (h : Keeps s0 s) : Keeps s0 (afterRepair n s) := by
  unfold afterRepair
  try dsimp only
  repeat' first
    | with_reducible assumption
    | with_reducible apply keeps_trainAll
    | with_reducible refine keeps_trainAll_eq ?_ (by assumption)
    | with_reducible apply keeps_trainingFailed
    | with_reducible apply keeps_serveStalled
    | with_reducible apply keeps_zeroStack
    | with_reducible apply keeps_freeTraining
    | with_reducible refine keeps_freeTraining_eq ?_ (by assumption)
    | with_reducible apply keeps_leaveTraffic
    | (with_reducible refine Keeps.foldl _ ?_ ?_)
    | (with_reducible refine Keeps.foldl2 _ ?_ ?_)
    | intro _

theorem keeps_enableDebug {s0 : State} (s : State) (h : Keeps s0 s) : Keeps s0 (enableDebug s) := by
  unfold enableDebug
  try dsimp only
  repeat' first
    | with_reducible assumption
    | with_reducible apply keeps_wr
    | with_reducible apply keeps_wrB
    | with_reducible apply keeps_setTenant
    | (with_reducible refine Keeps.foldl _ ?_ ?_)
    | (with_reducible refine Keeps.foldl2 _ ?_ ?_)
    | intro _
    | simp only [keeps_upd]

theorem keeps_setPrefix {s0 : State} (i : Nat) (x : Prefix) (s : State) (h : Keeps s0 s) : Keeps s0 (setPrefix i x s) := by
  unfold setPrefix
  try dsimp only
  repeat' first
    | with_reducible assumption
    | simp only [keeps_upd]

theorem keeps_startList {s0 : State} (n : Nat) (x : Seq) (layers mp : Nat) (pages : List Nat) (s : State) (h : Keeps s0 s) : Keeps s0 (startList n x layers mp pages s) := by
  unfold startList
  try dsimp only
  repeat' first
    | with_reducible assumption
    | with_reducible apply keeps_incPage
    | with_reducible apply keeps_setListEntry
    | (with_reducible refine Keeps.foldl _ ?_ ?_)
    | (with_reducible refine Keeps.foldl2 _ ?_ ?_)
    | intro _
    | simp only [keeps_upd]
    | split

theorem keeps_unpin {s0 : State} (i : Nat) (s : State) (h : Keeps s0 s) : Keeps s0 (unpin i s) := by
  unfold unpin
  try dsimp only
  repeat' first
    | with_reducible assumption
    | with_reducible apply keeps_decPage
    | with_reducible apply keeps_setPrefix
    | (with_reducible refine Keeps.foldl _ ?_ ?_)
    | (with_reducible refine Keeps.foldl2 _ ?_ ?_)
    | intro _
    | simp only [keeps_upd]
    | split

theorem keeps_makePrefix {s0 : State} (i n len : Nat) (w : Waiter) (s : State) (h : Keeps s0 s) : Keeps s0 (makePrefix i n len w s) := by
  unfold makePrefix
  try dsimp only
  repeat' first
    | with_reducible assumption
    | with_reducible apply keeps_incPage
    | with_reducible apply keeps_respondTo
    | with_reducible apply keeps_setPrefix
    | (with_reducible refine Keeps.foldl _ ?_ ?_)
    | (with_reducible refine Keeps.foldl2 _ ?_ ?_)
    | intro _
    | simp only [keeps_upd]
    | split

theorem keeps_pinInto {s0 : State} (record : Option Nat) (n len : Nat) (w : Waiter) (s : State) (h : Keeps s0 s) : Keeps s0 (pinInto record n len w s) := by
  unfold pinInto
  try dsimp only
  repeat' first
    | with_reducible assumption
    | with_reducible apply keeps_settle
    | with_reducible apply keeps_makePrefix
    | simp only [keeps_upd]
    | split

theorem keeps_pinNow {s0 : State} (n len : Nat) (w : Waiter) (s : State) (h : Keeps s0 s) : Keeps s0 (pinNow n len w s) := by
  unfold pinNow
  try dsimp only
  repeat' first
    | with_reducible assumption
    | with_reducible apply keeps_pinInto

theorem keeps_keepPin {s0 : State} (n : Nat) (q : Waiter × Nat × Option Nat) (s : State) (h : Keeps s0 s) : Keeps s0 (keepPin n q s) := by
  unfold keepPin
  try dsimp only
  repeat' first
    | with_reducible assumption
    | with_reducible apply keeps_setSeq

theorem keeps_pinStep {s0 : State} (n : Nat) (p : Waiter × Nat × Option Nat) (s : State) (h : Keeps s0 s) : Keeps s0 (pinStep n p s) := by
  unfold pinStep
  try dsimp only
  repeat' first
    | with_reducible assumption
    | with_reducible apply keeps_parkSeq
    | with_reducible apply keeps_pinNow
    | with_reducible apply keeps_keepPin
    | simp only [keeps_upd]
    | split

theorem keeps_pinsParked {s0 : State} (n : Nat) (s : State) (h : Keeps s0 s) : Keeps s0 (pinsParked n s) := by
  unfold pinsParked
  try dsimp only
  repeat' first
    | with_reducible assumption
    | with_reducible apply keeps_setSeq
    | with_reducible apply keeps_pinNow
    | with_reducible apply keeps_keepPin
    | (with_reducible refine Keeps.foldl _ ?_ ?_)
    | (with_reducible refine Keeps.foldl2 _ ?_ ?_)
    | intro _
    | simp only [keeps_upd]
    | split

theorem keeps_settlePins {s0 : State} (s : State) (h : Keeps s0 s) : Keeps s0 (settlePins s) := by
  unfold settlePins
  try dsimp only
  repeat' first
    | with_reducible assumption
    | with_reducible apply keeps_setSeq
    | with_reducible apply keeps_settle
    | with_reducible apply keeps_pinStep
    | (with_reducible refine Keeps.foldl _ ?_ ?_)
    | (with_reducible refine Keeps.foldl2 _ ?_ ?_)
    | intro _
    | simp only [keeps_upd]
    | split

end Sys2Proof.Laws
end

