-- ==== Sys2Proof/Laws/KeepsEvents.lean ====
section
/-! SUPPORT. What routing, the monitors, the register file, the tick and the vector engine keep: the queue, the fuses and the canonical forms. -/

namespace Sys2Proof.Laws

open Sys2Proof.Machine

theorem keeps_routeTokens {s0 : State} (t : Step) (i : Nat) (o : OpRun) (rest : List (Nat × Nat)) (s : State) (h : Keeps s0 s) : Keeps s0 (routeTokens t i o rest s) := by
  unfold routeTokens
  try dsimp only
  repeat' first
    | with_reducible assumption
    | with_reducible apply keeps_wr
    | with_reducible apply keeps_bump
    | with_reducible apply keeps_storeBytes
    | with_reducible apply keeps_setStep
    | with_reducible apply keeps_closeOp
    | (with_reducible refine Keeps.foldl _ ?_ ?_)
    | (with_reducible refine Keeps.foldl2 _ ?_ ?_)
    | intro _
    | simp only [keeps_upd]
    | split

theorem keeps_writeUnion {s0 : State} (t : Step) (dslot lg dim width n : Nat) (cols : List Nat) (s : State) (h : Keeps s0 s) : Keeps s0 (writeUnion t dslot lg dim width n cols s).2 := by
  unfold writeUnion
  try dsimp only
  repeat' first
    | with_reducible assumption
    | with_reducible apply keeps_storeBytes
    | with_reducible apply keeps_setSlot
    | with_reducible refine keeps_allotScratch_eq ?_ (by assumption)
    | simp only [keeps_upd]
    | split

theorem keeps_writeUnion_eq {s0 : State} {t : Step} {dslot : Nat} {lg : Nat} {dim : Nat} {width : Nat} {n : Nat} {cols : List Nat} {s : State} {res : Step} {out_ : State} (h : Keeps s0 s) (ev : writeUnion t dslot lg dim width n cols s = (res, out_)) : Keeps s0 out_ := by
  have k := keeps_writeUnion t dslot lg dim width n cols s h
  rwa [ev] at k

theorem keeps_gatherDispatch {s0 : State} (t : Step) (gate : Nat) (g : OpRun) (s : State) (h : Keeps s0 s) : Keeps s0 (gatherDispatch t gate g s).2 := by
  unfold gatherDispatch
  try dsimp only
  repeat' first
    | with_reducible assumption
    | with_reducible apply keeps_setSlot
    | with_reducible apply keeps_writeUnion
    | with_reducible refine keeps_writeUnion_eq ?_ (by assumption)
    | (with_reducible refine Keeps.foldl _ ?_ ?_)
    | (with_reducible refine Keeps.foldl2 _ ?_ ?_)
    | intro _
    | simp only [keeps_upd]
    | split

theorem keeps_gatherDispatch_eq {s0 : State} {t : Step} {gate : Nat} {g : OpRun} {s : State} {res : Step} {out_ : State} (h : Keeps s0 s) (ev : gatherDispatch t gate g s = (res, out_)) : Keeps s0 out_ := by
  have k := keeps_gatherDispatch t gate g s h
  rwa [ev] at k

theorem keeps_expandExpert {s0 : State} (t : Step) (i : Nat) (o : OpRun) (s : State) (h : Keeps s0 s) : Keeps s0 (expandExpert t i o s) := by
  unfold expandExpert
  try dsimp only
  repeat' first
    | with_reducible assumption
    | with_reducible apply keeps_setStep
    | with_reducible apply keeps_expandOp
    | with_reducible apply keeps_expandFaults
    | with_reducible apply keeps_gatherDispatch
    | with_reducible refine keeps_gatherDispatch_eq ?_ (by assumption)
    | simp only [keeps_upd]
    | split

theorem keeps_setMon {s0 : State} (m : Nat) (x : MonExtra) (s : State) (h : Keeps s0 s) : Keeps s0 (setMon m x s) := by
  unfold setMon
  try dsimp only
  repeat' first
    | with_reducible assumption
    | simp only [keeps_upd]

theorem keeps_clearCapture {s0 : State} (m : Nat) (s : State) (h : Keeps s0 s) : Keeps s0 (clearCapture m s) := by
  unfold clearCapture
  try dsimp only
  repeat' first
    | with_reducible assumption
    | with_reducible apply keeps_wr
    | with_reducible apply keeps_setMon
    | (with_reducible refine Keeps.foldl _ ?_ ?_)
    | (with_reducible refine Keeps.foldl2 _ ?_ ?_)
    | intro _

theorem keeps_binOf {s0 : State} (s : State) (m : Nat) (v : Int) (h : Keeps s0 s) : Keeps s0 (binOf s m v).2 := by
  unfold binOf
  try dsimp only
  repeat' first
    | with_reducible assumption
    | with_reducible apply keeps_fresh
    | with_reducible refine keeps_fresh_eq ?_ (by assumption)
    | simp only [keeps_upd]
    | split

theorem keeps_binOf_eq {s0 : State} {s : State} {m : Nat} {v : Int} {res : Nat} {out_ : State} (h : Keeps s0 s) (e : binOf s m v = (res, out_)) : Keeps s0 out_ := by
  have k := keeps_binOf s m v h
  rwa [e] at k

theorem keeps_countBin {s0 : State} (m b : Nat) (s : State) (h : Keeps s0 s) : Keeps s0 (countBin m b s) := by
  unfold countBin
  try dsimp only
  repeat' first
    | with_reducible assumption
    | with_reducible apply keeps_wrF
    | with_reducible apply keeps_wrB
    | simp only [keeps_upd]
    | split

theorem keeps_addSample {s0 : State} (m : Nat) (v : Int) (s : State) (h : Keeps s0 s) : Keeps s0 (addSample m v s) := by
  unfold addSample
  try dsimp only
  repeat' first
    | with_reducible assumption
    | with_reducible apply keeps_wr
    | with_reducible apply keeps_wrB
    | simp only [keeps_upd]
    | split

theorem keeps_capture {s0 : State} (m : Nat) (v : Int) (s : State) (h : Keeps s0 s) : Keeps s0 (capture m v s) := by
  unfold capture
  try dsimp only
  repeat' first
    | with_reducible assumption
    | with_reducible apply keeps_wr
    | with_reducible apply keeps_setMon
    | with_reducible apply keeps_binOf
    | with_reducible refine keeps_binOf_eq ?_ (by assumption)
    | with_reducible apply keeps_countBin
    | with_reducible apply keeps_addSample

theorem keeps_readRun {s0 : State} (maintenance : Bool) (b off n : Nat) (s : State) (h : Keeps s0 s) : Keeps s0 (readRun maintenance b off n s).2 := by
  induction n generalizing off s with
  | zero => exact h
  | succ n ih =>
    unfold readRun
    dsimp only
    apply ih
    split
    · exact keeps_latchFrac _ _ h
    · exact h

theorem keeps_writePlanCtrl {s0 : State} (value : Word) (s : State) (h : Keeps s0 s) : Keeps s0 (writePlanCtrl value s) := by
  unfold writePlanCtrl
  try dsimp only
  repeat' first
    | with_reducible assumption
    | with_reducible apply keeps_freezeDue
    | with_reducible apply keeps_commitEntries
    | with_reducible apply keeps_sealPlan
    | simp only [keeps_upd]
    | split

theorem keeps_writePlain {s0 : State} (addr : Nat) (value : Word) (s : State) (h : Keeps s0 s) : Keeps s0 (writePlain addr value s) := by
  unfold writePlain
  try dsimp only
  repeat' first
    | with_reducible assumption
    | with_reducible apply keeps_writeFields
    | with_reducible apply keeps_marginChanged
    | simp only [keeps_upd]
    | split

theorem keeps_tickNotices {s0 : State} (s : State) (h : Keeps s0 s) : Keeps s0 (tickNotices s) := by
  unfold tickNotices
  try dsimp only
  repeat' first
    | with_reducible assumption
    | with_reducible apply keeps_notifyAt
    | (with_reducible refine Keeps.foldl _ ?_ ?_)
    | (with_reducible refine Keeps.foldl2 _ ?_ ?_)
    | intro _
    | simp only [keeps_upd]

theorem keeps_changePeriod {s0 : State} (s : State) (h : Keeps s0 s) : Keeps s0 (changePeriod s) := by
  unfold changePeriod
  try dsimp only
  repeat' first
    | with_reducible assumption
    | with_reducible apply keeps_wrF
    | with_reducible apply keeps_wrB
    | with_reducible apply keeps_redivideAll
    | simp only [keeps_upd]
    | split

theorem keeps_refillBuckets {s0 : State} (s : State) (h : Keeps s0 s) : Keeps s0 (refillBuckets s) := by
  unfold refillBuckets
  try dsimp only
  repeat' first
    | with_reducible assumption
    | with_reducible apply keeps_setBucket
    | (with_reducible refine Keeps.foldl _ ?_ ?_)
    | (with_reducible refine Keeps.foldl2 _ ?_ ?_)
    | intro _

theorem keeps_takeCandidates {s0 : State} (s : State) (h : Keeps s0 s) : Keeps s0 (takeCandidates s) := by
  unfold takeCandidates
  try dsimp only
  repeat' first
    | with_reducible assumption
    | simp only [keeps_upd]

theorem keeps_returnPages {s0 : State} (s : State) (h : Keeps s0 s) : Keeps s0 (returnPages s) := by
  unfold returnPages
  try dsimp only
  repeat' first
    | with_reducible assumption
    | (with_reducible refine Keeps.foldl _ ?_ ?_)
    | (with_reducible refine Keeps.foldl2 _ ?_ ?_)
    | intro _
    | simp only [keeps_upd]

theorem keeps_tickStatus {s0 : State} (s : State) (h : Keeps s0 s) : Keeps s0 (tickStatus s) := by
  unfold tickStatus
  try dsimp only
  repeat' first
    | with_reducible assumption
    | with_reducible apply keeps_wr
    | with_reducible apply keeps_showBudget

theorem keeps_repartition {s0 : State} (s : State) (h : Keeps s0 s) : Keeps s0 (repartition s) := by
  unfold repartition
  dsimp only
  split
  · exact (keeps_upd ..).2 h
  · refine keeps_wrB _ _ _ _ (Keeps.foldl _ ?_ (fun _ _ k => keeps_wr _ _ _ k))
    exact ⟨h.pending, h.fuse, fun i => ⟨swf_filter _ _ _ (h.inv i).mem, (h.inv i).regs, rising_filter _ _ (h.inv i).poison, (h.inv i).keys⟩⟩

theorem keeps_endRepart {s0 : State} (s : State) (h : Keeps s0 s) : Keeps s0 (endRepart s) := by
  unfold endRepart
  try dsimp only
  repeat' first
    | with_reducible assumption
    | with_reducible apply keeps_wrB
    | (with_reducible refine Keeps.foldl _ ?_ ?_)
    | (with_reducible refine Keeps.foldl2 _ ?_ ?_)
    | intro _
    | simp only [keeps_upd]
    | split

theorem keeps_cancelAt {s0 : State} (n : Nat) (s : State) (h : Keeps s0 s) : Keeps s0 (cancelAt n s) := by
  unfold cancelAt
  try dsimp only
  repeat' first
    | with_reducible assumption
    | with_reducible apply keeps_setSeq
    | with_reducible apply keeps_endSeq
    | with_reducible apply keeps_settle
    | with_reducible apply keeps_settleAll
    | (with_reducible refine Keeps.foldl _ ?_ ?_)
    | (with_reducible refine Keeps.foldl2 _ ?_ ?_)
    | intro _
    | simp only [keeps_upd]
    | split

theorem keeps_settleCancels {s0 : State} (s : State) (h : Keeps s0 s) : Keeps s0 (settleCancels s) := by
  unfold settleCancels
  try dsimp only
  repeat' first
    | with_reducible assumption
    | with_reducible apply keeps_settle
    | with_reducible apply keeps_cancelAt
    | (with_reducible refine Keeps.foldl _ ?_ ?_)
    | (with_reducible refine Keeps.foldl2 _ ?_ ?_)
    | intro _
    | simp only [keeps_upd]

theorem keeps_clearTenant {s0 : State} (t num : Nat) (s : State) (h : Keeps s0 s) : Keeps s0 (clearTenant t num s) := by
  unfold clearTenant
  try dsimp only
  repeat' first
    | with_reducible assumption
    | with_reducible apply keeps_setStep
    | with_reducible apply keeps_rejectDrafts
    | with_reducible apply keeps_dropEpoch
    | with_reducible apply keeps_endStep
    | with_reducible apply keeps_rerunStep
    | (with_reducible refine Keeps.foldl _ ?_ ?_)
    | (with_reducible refine Keeps.foldl2 _ ?_ ?_)
    | intro _
    | simp only [keeps_upd]
    | split

theorem keeps_resetTenant {s0 : State} (t : Nat) (s : State) (h : Keeps s0 s) : Keeps s0 (resetTenant t s) := by
  unfold resetTenant
  try dsimp only
  repeat' first
    | with_reducible assumption
    | with_reducible apply keeps_setTenant
    | with_reducible apply keeps_endSeq
    | with_reducible apply keeps_settleAll
    | with_reducible apply keeps_abortTenant
    | with_reducible apply keeps_unpin
    | with_reducible apply keeps_clearTenant
    | (with_reducible refine Keeps.foldl _ ?_ ?_)
    | (with_reducible refine Keeps.foldl2 _ ?_ ?_)
    | intro _

theorem keeps_endModelWork {s0 : State} (m status : Nat) (s : State) (h : Keeps s0 s) : Keeps s0 (endModelWork m status s) := by
  unfold endModelWork
  try dsimp only
  repeat' first
    | with_reducible assumption
    | with_reducible apply keeps_endSeq
    | with_reducible apply keeps_failStep
    | (with_reducible refine Keeps.foldl _ ?_ ?_)
    | (with_reducible refine Keeps.foldl2 _ ?_ ?_)
    | intro _
    | simp only [keeps_upd]
    | split

theorem keeps_unloadNow {s0 : State} (m : Nat) (s : State) (h : Keeps s0 s) : Keeps s0 (unloadNow m s) := by
  unfold unloadNow
  try dsimp only
  repeat' first
    | with_reducible assumption
    | with_reducible apply keeps_freeModel
    | with_reducible apply keeps_endModelWork

theorem keeps_liftQuarantine {s0 : State} (m : Nat) (s : State) (h : Keeps s0 s) : Keeps s0 (liftQuarantine m s) := by
  unfold liftQuarantine
  try dsimp only
  repeat' first
    | with_reducible assumption
    | with_reducible apply keeps_setModel
    | with_reducible apply keeps_notify

theorem keeps_modelEdge {s0 : State} (m : Nat) (s : State) (h : Keeps s0 s) : Keeps s0 (modelEdge m s) := by
  unfold modelEdge
  try dsimp only
  repeat' first
    | with_reducible assumption
    | with_reducible apply keeps_endModelWork
    | with_reducible apply keeps_unloadNow
    | with_reducible apply keeps_liftQuarantine
    | simp only [keeps_upd]
    | split

theorem keeps_beginPause {s0 : State} (s : State) (h : Keeps s0 s) : Keeps s0 (beginPause s) := by
  unfold beginPause
  try dsimp only
  repeat' first
    | with_reducible assumption
    | with_reducible apply keeps_wrF
    | with_reducible apply keeps_notify
    | simp only [keeps_upd]
    | split

theorem keeps_showLoad {s0 : State} (s : State) (h : Keeps s0 s) : Keeps s0 (showLoad s) := by
  unfold showLoad
  try dsimp only
  repeat' first
    | with_reducible assumption
    | with_reducible apply keeps_fresh
    | with_reducible refine keeps_fresh_eq ?_ (by assumption)
    | with_reducible apply keeps_wrF

theorem keeps_policyEdge {s0 : State} (s : State) (h : Keeps s0 s) : Keeps s0 (policyEdge s) := by
  unfold policyEdge
  try dsimp only
  repeat' first
    | with_reducible assumption
    | with_reducible apply keeps_showBudget
    | with_reducible apply keeps_powerEdge

theorem keeps_countEmpty {s0 : State} (s : State) (h : Keeps s0 s) : Keeps s0 (countEmpty s) := by
  unfold countEmpty
  try dsimp only
  repeat' first
    | with_reducible assumption
    | with_reducible apply keeps_bump
    | simp only [keeps_upd]
    | split

theorem keeps_fixEligible {s0 : State} (s : State) (h : Keeps s0 s) : Keeps s0 (fixEligible s) := by
  unfold fixEligible
  try dsimp only
  repeat' first
    | with_reducible assumption
    | simp only [keeps_upd]

theorem keeps_toEdge {s0 : State} (s : State) (h : Keeps s0 s) : Keeps s0 (toEdge s) := by
  unfold toEdge
  try dsimp only
  repeat' first
    | with_reducible assumption
    | with_reducible apply keeps_runTo
    | simp only [keeps_upd]

theorem keeps_showIndex {s0 : State} (s : State) (h : Keeps s0 s) : Keeps s0 (showIndex s) := by
  unfold showIndex
  try dsimp only
  repeat' first
    | with_reducible assumption
    | with_reducible apply keeps_wr
    | simp only [keeps_upd]
    | split

theorem keeps_beginTick {s0 : State} (s : State) (h : Keeps s0 s) : Keeps s0 (beginTick s) := by
  unfold beginTick
  try dsimp only
  repeat' first
    | with_reducible assumption
    | (with_reducible refine Keeps.foldl _ ?_ ?_)
    | (with_reducible refine Keeps.foldl2 _ ?_ ?_)
    | intro _
    | simp only [keeps_upd]

theorem keeps_edgeHardware {s0 : State} (s : State) (h : Keeps s0 s) : Keeps s0 (edgeHardware s) := by
  unfold edgeHardware
  try dsimp only
  repeat' first
    | with_reducible assumption
    | with_reducible apply keeps_settleWrites
    | with_reducible apply keeps_energyEdge
    | with_reducible apply keeps_tickNotices
    | with_reducible apply keeps_changePeriod
    | with_reducible apply keeps_refillBuckets
    | with_reducible apply keeps_takeCandidates
    | with_reducible apply keeps_returnPages
    | with_reducible apply keeps_tickStatus
    | with_reducible apply keeps_endRepart
    | with_reducible apply keeps_toEdge
    | with_reducible apply keeps_showIndex
    | with_reducible apply keeps_beginTick

theorem keeps_sealRun {s0 : State} (s : State) (h : Keeps s0 s) : Keeps s0 (sealRun s) := by
  unfold sealRun
  try dsimp only
  repeat' first
    | with_reducible assumption
    | simp only [keeps_upd]
    | split

theorem keeps_edgeFirmware {s0 : State} (s : State) (h : Keeps s0 s) : Keeps s0 (edgeFirmware s) := by
  unfold edgeFirmware
  try dsimp only
  repeat' first
    | with_reducible assumption
    | with_reducible apply keeps_scheduleRetrain
    | with_reducible apply keeps_parkForRoom
    | with_reducible apply keeps_redivideNow
    | with_reducible apply keeps_settlePins
    | with_reducible apply keeps_repartition
    | with_reducible apply keeps_settleCancels
    | with_reducible apply keeps_resetTenant
    | with_reducible apply keeps_modelEdge
    | with_reducible apply keeps_showLoad
    | with_reducible apply keeps_sealRun
    | (with_reducible refine Keeps.foldl _ ?_ ?_)
    | (with_reducible refine Keeps.foldl2 _ ?_ ?_)
    | intro _

theorem keeps_armStep {s0 : State} (s : State) (h : Keeps s0 s) : Keeps s0 (armStep s) := by
  unfold armStep
  try dsimp only
  repeat' first
    | with_reducible assumption
    | simp only [keeps_upd]
    | split

theorem keeps_openTick {s0 : State} (s : State) (h : Keeps s0 s) : Keeps s0 (openTick s) := by
  unfold openTick
  try dsimp only
  repeat' first
    | with_reducible assumption
    | with_reducible apply keeps_countEmpty
    | with_reducible apply keeps_fixEligible
    | with_reducible apply keeps_armStep
    | simp only [keeps_upd]

theorem keeps_skipEdge {s0 : State} (s : State) (h : Keeps s0 s) : Keeps s0 (skipEdge s) := by
  unfold skipEdge
  try dsimp only
  repeat' first
    | with_reducible assumption
    | with_reducible apply keeps_wrB
    | with_reducible apply keeps_showBudget
    | with_reducible apply keeps_fixEligible
    | with_reducible apply keeps_armStep
    | simp only [keeps_upd]

theorem keeps_edgeWork {s0 : State} (s : State) (h : Keeps s0 s) : Keeps s0 (edgeWork s) := by
  unfold edgeWork
  try dsimp only
  repeat' first
    | with_reducible assumption
    | with_reducible apply keeps_beginPause
    | with_reducible apply keeps_edgeFirmware
    | with_reducible apply keeps_openTick
    | with_reducible apply keeps_skipEdge
    | simp only [keeps_upd]
    | split

theorem keeps_idle {s0 : State} (s : State) (h : Keeps s0 s) : Keeps s0 (idle s) := by
  unfold idle
  try dsimp only
  repeat' first
    | with_reducible assumption
    | with_reducible apply keeps_runTo
    | simp only [keeps_upd]
    | split

theorem keeps_setVec {s0 : State} (p : Nat) (x : VecEngine) (s : State) (h : Keeps s0 s) : Keeps s0 (setVec p x s) := by
  unfold setVec
  try dsimp only
  repeat' first
    | with_reducible assumption
    | with_reducible apply keeps_setPanel

theorem keeps_countVec {s0 : State} (p n : Nat) (s : State) (h : Keeps s0 s) : Keeps s0 (countVec p n s) := by
  unfold countVec
  try dsimp only
  repeat' first
    | with_reducible assumption
    | with_reducible apply keeps_bump

theorem keeps_vStore {s0 : State} (p : Nat) (t : Step) (o : OpRun) (x : VecEngine) (c : MatCmd) (d a : Nat) (s : State) (h : Keeps s0 s) : Keeps s0 (vStore p t o x c d a s) := by
  unfold vStore
  try dsimp only
  repeat' first
    | with_reducible assumption
    | with_reducible apply keeps_engineWrite

theorem keeps_vecInstr {s0 : State} (p : Nat) (to_ : Option (Step × OpRun)) (op d a b c : Nat) (s : State) (h : Keeps s0 s) : Keeps s0 (vecInstr p to_ op d a b c s) := by
  unfold vecInstr
  try dsimp only
  repeat' first
    | with_reducible assumption
    | with_reducible apply keeps_setVec
    | with_reducible apply keeps_countVec
    | with_reducible apply keeps_vStore
    | simp only [keeps_upd]
    | split

theorem keeps_runWords {s0 : State} (p : Nat) (to_ : Option (Step × OpRun)) (ws : List Nat) (s : State) (h : Keeps s0 s) : Keeps s0 (runWords p to_ ws s) := by
  unfold runWords
  try dsimp only
  repeat' first
    | with_reducible assumption
    | with_reducible apply keeps_vecInstr
    | (with_reducible refine Keeps.foldl _ ?_ ?_)
    | (with_reducible refine Keeps.foldl2 _ ?_ ?_)
    | intro _

theorem keeps_runPhase {s0 : State} (p : Nat) (to_ : Option (Step × OpRun)) (second : Bool) (blocks : Nat) (ws : List Nat) (s : State) (h : Keeps s0 s) : Keeps s0 (runPhase p to_ second blocks ws s) := by
  unfold runPhase
  try dsimp only
  repeat' first
    | with_reducible assumption
    | with_reducible apply keeps_setVec
    | with_reducible apply keeps_runWords
    | (with_reducible refine Keeps.foldl _ ?_ ?_)
    | (with_reducible refine Keeps.foldl2 _ ?_ ?_)
    | intro _

theorem keeps_runProgram {s0 : State} (p : Nat) (c : MatCmd) (t : Step) (o : OpRun) (s : State) (h : Keeps s0 s) : Keeps s0 (runProgram p c t o s) := by
  unfold runProgram
  try dsimp only
  repeat' first
    | with_reducible assumption
    | with_reducible apply keeps_retire
    | with_reducible apply keeps_setVec
    | with_reducible apply keeps_runPhase
    | (with_reducible refine Keeps.foldl _ ?_ ?_)
    | (with_reducible refine Keeps.foldl2 _ ?_ ?_)
    | intro _
    | simp only [keeps_upd]
    | split

end Sys2Proof.Laws
end

