-- ==== Sys2Proof/Laws/KeepsExec.lean ====
section
/-! SUPPORT. What each command keeps: one lemma for each meaning, saying that a next state it answers has the queue and the fuses of the state before and keeps the canonical forms. -/

namespace Sys2Proof.Laws

open Sys2Proof.Machine

theorem reply_tenantFields {s : State} {r : Req} {x : Reply} (e : tenantFields r = some x) : KeepsReply s x := by
  unfold tenantFields at e
  repeat' split at e
  all_goals cases e
  all_goals trivial

theorem reply_routeNamed {s : State} {r : Req} {x : Reply} (e : routeNamed r s = some x) : KeepsReply s x := by
  unfold routeNamed at e
  dsimp only at e
  repeat' split at e
  all_goals cases e
  all_goals trivial

theorem reply_modelNamed {s : State} {r : Req} {u : Bool} {x : Reply} (e : modelNamed r s u = some x) : KeepsReply s x := by
  unfold modelNamed at e
  dsimp only at e
  repeat' split at e
  all_goals cases e
  all_goals trivial

theorem reply_seqFault {s : State} {r : Req} {off : Nat} {x : Reply} (e : seqFault r off s = some x) : KeepsReply s x := by
  unfold seqFault at e
  dsimp only at e
  repeat' split at e
  all_goals cases e
  all_goals trivial

theorem reply_handleFault {s : State} {r : Req} {off h : Nat} {x : Reply} (e : handleFault r off h s = some x) : KeepsReply s x := by
  unfold handleFault at e
  dsimp only at e
  repeat' split at e
  all_goals cases e
  all_goals trivial

theorem reply_sessionFault {s : State} {r : Req} {b : Verified} {x : Reply} (e : sessionFault r b s = some x) : KeepsReply s x := by
  unfold sessionFault at e
  dsimp only at e
  repeat' split at e
  all_goals cases e
  all_goals first
    | trivial
    | exact keeps_bump _ _ _ (Keeps.refl s)

theorem reply_openRanges {s : State} {r : Req} {x : Reply} (e : openRanges r = some x) : KeepsReply s x := by
  unfold openRanges firstRefusal at e
  dsimp only at e
  obtain ⟨y, hy, rfl⟩ := Option.map_eq_some_iff.1 e
  have hm := List.mem_of_find?_eq_some hy
  simp only [List.cons_append, List.nil_append, List.mem_append, List.mem_cons, List.mem_map, List.not_mem_nil, or_false] at hm
  rcases hm with h | h | h | h | h | h | h | h | h | ⟨i, -, h⟩ | h
  all_goals subst h; trivial

theorem reply_openGrammar {s : State} {r : Req} {p : SeqParams} {v : Nat} {x : Reply} (e : openGrammar r p v s = some x) : KeepsReply s x := by
  unfold openGrammar at e
  dsimp only at e
  repeat' split at e
  all_goals cases e
  all_goals trivial

theorem reply_or {s : State} {a b : Option Reply} (ha : ∀ x, a = some x → KeepsReply s x) (hb : ∀ x, b = some x → KeepsReply s x) : ∀ x, a.or b = some x → KeepsReply s x := by
  intro x e
  cases a with
  | none => exact hb x e
  | some y => exact ha x e

theorem reply_openFault {s : State} {r : Req} {x : Reply} (e : openFault r s = some x) : KeepsReply s x := by
  unfold openFault at e
  dsimp only at e
  split at e
  · cases e; trivial
  split at e
  · cases e; trivial
  split at e
  · cases e; trivial
  refine reply_or (reply_or (reply_or (fun _ => reply_openRanges) ?_) ?_) (reply_or (fun _ => reply_openGrammar) ?_) x e
  · intro y hy
    split at hy
    · cases hy
    · refine reply_or (fun _ => reply_handleFault) ?_ y hy
      intro z hz
      split at hz <;> cases hz
      trivial
  · intro y hy
    split at hy
    · exact reply_seqFault hy
    · cases hy
  · intro y hy
    split at hy <;> cases hy
    trivial

theorem KeepsReply.done {s t : State} {p : List Byte} (h : Keeps s t) : KeepsReply s (.done p t) := h

theorem KeepsReply.later {s t : State} (h : Keeps s t) : KeepsReply s (.later t) := h

theorem KeepsReply.refuse {s : State} (a b c : Nat) : KeepsReply s (.refuse a b c) := trivial

theorem KeepsReply.refuseOpen {s : State} (a b : Nat) : KeepsReply s (.refuseOpen a b) := trivial

theorem KeepsReply.badImage {s : State} (a b : Nat) : KeepsReply s (.badImage a b) := trivial

theorem KeepsReply.busy {s : State} (a : Nat) : KeepsReply s (.busy a) := trivial

theorem KeepsReply.counted {s t : State} {a b c : Nat} (h : Keeps s t) : KeepsReply s (.counted a b c t) := h

theorem KeepsReply.ite {s : State} {x y : Reply} {c : Prop} [Decidable c] (hx : KeepsReply s x) (hy : KeepsReply s y) : KeepsReply s (if c then x else y) := by
  split
  · exact hx
  · exact hy

theorem reply_feed {s : State} {r : Req} {fl : Nat} : KeepsReply s (feed r fl s) := by
  unfold feed
  dsimp only
  iterate 8 refine KeepsReply.ite trivial ?_
  split
  · trivial
  · refine KeepsReply.ite (KeepsReply.done (keeps_setSeq _ _ _ (Keeps.refl s))) ?_
    exact KeepsReply.ite trivial (KeepsReply.done (keeps_ringAppend _ _ _ (Keeps.refl s)))

theorem reply_openInto (c : Option Nat) (r : Req) (s : State) : KeepsReply s (openInto c r s) := by
  unfold openInto
  split
  · trivial
  · unfold openIn
    dsimp only
    split
    · trivial
    · split
      · trivial
      · exact keeps_setSeq _ _ _ (keeps_startList _ _ _ _ _ _ (keeps_allotBlock_eq (keeps_allotBlock_eq (Keeps.refl s) ‹_›) ‹_›))

theorem keeps_execRegionEnableWrite (addr : Nat) (value : Word) (s : State) : KeepsOut s (execRegionEnableWrite addr value s) := by
  unfold execRegionEnableWrite
  try dsimp only
  repeat' first
    | with_reducible assumption
    | with_reducible exact Keeps.refl s
    | with_reducible apply KeepsOut.next
    | with_reducible apply keeps_writeRegion
    | simp only [keeps_upd]
    | split

theorem keeps_execSeamRecordL1 (p : Nat) (port : Option Nat) (windowBad : Bool) (s : State) : KeepsOut s (execSeamRecordL1 p port windowBad s) := by
  unfold execSeamRecordL1
  try dsimp only
  repeat' first
    | with_reducible assumption
    | with_reducible exact Keeps.refl s
    | with_reducible apply KeepsOut.next
    | with_reducible apply keeps_bump
    | with_reducible apply keeps_logError
    | with_reducible apply keeps_isolatePanel
    | with_reducible apply keeps_seamFault1
    | with_reducible refine keeps_popPort_eq ?_ (by assumption)
    | with_reducible apply keeps_acceptRecord
    | simp only [keeps_upd]
    | split

theorem keeps_execSeamRecordL2 (p : Nat) (storeBad : Bool) (s : State) : KeepsOut s (execSeamRecordL2 p storeBad s) := by
  unfold execSeamRecordL2
  try dsimp only
  repeat' first
    | with_reducible assumption
    | with_reducible exact Keeps.refl s
    | with_reducible apply KeepsOut.next
    | with_reducible apply keeps_bump
    | with_reducible apply keeps_setPanel
    | with_reducible apply keeps_mergeRecord
    | simp only [keeps_upd]
    | split

theorem keeps_execSeamReserve (step : Nat) (s : State) : KeepsOut s (execSeamReserve step s) := by
  unfold execSeamReserve
  try dsimp only
  repeat' first
    | with_reducible assumption
    | with_reducible exact Keeps.refl s
    | with_reducible apply KeepsOut.next
    | with_reducible apply keeps_bump
    | with_reducible apply keeps_reserveOp
    | (with_reducible refine Keeps.foldl _ ?_ (fun _ _ _ => ?_))
    | (with_reducible refine Keeps.foldl2 _ ?_ (fun _ _ _ => ?_))
    | simp only [keeps_upd]
    | split

theorem keeps_execBarrierRelease (step : Nat) (s : State) : KeepsOut s (execBarrierRelease step s) := by
  unfold execBarrierRelease
  try dsimp only
  repeat' first
    | with_reducible assumption
    | with_reducible exact Keeps.refl s
    | with_reducible apply KeepsOut.next
    | with_reducible apply keeps_releaseLevel
    | simp only [keeps_upd]
    | split

theorem keeps_execSeamOperationClose (step : Nat) (censusBad : Option Nat) (storeBad : List (Nat × Nat × Nat)) (s : State) : KeepsOut s (execSeamOperationClose step censusBad storeBad s) := by
  unfold execSeamOperationClose
  try dsimp only
  repeat' first
    | with_reducible assumption
    | with_reducible exact Keeps.refl s
    | with_reducible apply KeepsOut.next
    | with_reducible apply keeps_atCompletion
    | with_reducible apply keeps_closeOperation
    | simp only [keeps_upd]
    | split

theorem keeps_execShuttleTriggerFire (ch : Nat) (s : State) : KeepsOut s (execShuttleTriggerFire ch s) := by
  unfold execShuttleTriggerFire
  try dsimp only
  repeat' first
    | with_reducible assumption
    | with_reducible exact Keeps.refl s
    | with_reducible apply KeepsOut.next
    | with_reducible apply keeps_trigAct
    | simp only [keeps_upd]
    | split

theorem keeps_execShuttleBusError (ch addr : Nat) (s : State) : KeepsOut s (execShuttleBusError ch addr s) := by
  unfold execShuttleBusError
  try dsimp only
  repeat' first
    | with_reducible assumption
    | with_reducible exact Keeps.refl s
    | with_reducible apply KeepsOut.next
    | with_reducible apply keeps_bump
    | with_reducible apply keeps_busStop
    | simp only [keeps_upd]
    | split

theorem keeps_execShuttleResume (s : State) : KeepsOut s (execShuttleResume s) := by
  unfold execShuttleResume
  try dsimp only
  repeat' first
    | with_reducible assumption
    | with_reducible exact Keeps.refl s
    | with_reducible apply KeepsOut.next
    | with_reducible apply keeps_wrB
    | with_reducible apply keeps_movesResumed

theorem keeps_execChCtrlEnable (ch : Nat) (value : Word) (s : State) : KeepsOut s (execChCtrlEnable ch value s) := by
  unfold execChCtrlEnable
  try dsimp only
  repeat' first
    | with_reducible assumption
    | with_reducible exact Keeps.refl s
    | with_reducible apply KeepsOut.next
    | with_reducible apply keeps_writeChannel
    | simp only [keeps_upd]
    | split

theorem keeps_execChCtrlResume (ch : Nat) (value : Word) (s : State) : KeepsOut s (execChCtrlResume ch value s) := by
  unfold execChCtrlResume
  try dsimp only
  repeat' first
    | with_reducible assumption
    | with_reducible exact Keeps.refl s
    | with_reducible apply KeepsOut.next
    | with_reducible apply keeps_writeChannel
    | simp only [keeps_upd]
    | split

theorem keeps_execChTailWrite (ch : Nat) (value : Word) (s : State) : KeepsOut s (execChTailWrite ch value s) := by
  unfold execChTailWrite
  try dsimp only
  repeat' first
    | with_reducible assumption
    | with_reducible exact Keeps.refl s
    | with_reducible apply KeepsOut.next
    | with_reducible apply keeps_wrF
    | simp only [keeps_upd]
    | split

theorem keeps_execPatrolScrub (line : Nat) (err : LineError) (s : State) : KeepsOut s (execPatrolScrub line err s) := by
  unfold execPatrolScrub
  try dsimp only
  repeat' first
    | with_reducible assumption
    | with_reducible exact Keeps.refl s
    | with_reducible apply KeepsOut.next
    | with_reducible apply keeps_scrubPass
    | with_reducible apply keeps_scrubLine
    | simp only [keeps_upd]
    | split

theorem keeps_execLaneFailing (ch lane : Nat) (lockLost : Bool) (s : State) : KeepsOut s (execLaneFailing ch lane lockLost s) := by
  unfold execLaneFailing
  try dsimp only
  repeat' first
    | with_reducible assumption
    | with_reducible exact Keeps.refl s
    | with_reducible apply KeepsOut.next
    | with_reducible apply keeps_laneSpared
    | with_reducible apply keeps_laneDegraded
    | simp only [keeps_upd]
    | split

theorem keeps_execRetrain (ch : Nat) (s : State) : KeepsOut s (execRetrain ch s) := by
  unfold execRetrain
  try dsimp only
  repeat' first
    | with_reducible assumption
    | with_reducible exact Keeps.refl s
    | with_reducible apply KeepsOut.next
    | with_reducible apply keeps_beginRetrain
    | simp only [keeps_upd]
    | split

theorem keeps_execMemRetrainStart (value : Word) (s : State) : KeepsOut s (execMemRetrainStart value s) := by
  unfold execMemRetrainStart
  try dsimp only
  repeat' first
    | with_reducible assumption
    | with_reducible exact Keeps.refl s
    | with_reducible apply KeepsOut.next
    | with_reducible apply keeps_wrF
    | with_reducible apply keeps_orderRetrain
    | simp only [keeps_upd]
    | split

theorem keeps_execMarginRunEnd (ch beats mismatches : Nat) (s : State) : KeepsOut s (execMarginRunEnd ch beats mismatches s) := by
  unfold execMarginRunEnd
  try dsimp only
  repeat' first
    | with_reducible assumption
    | with_reducible exact Keeps.refl s
    | with_reducible apply KeepsOut.next
    | with_reducible apply keeps_respondTo
    | with_reducible apply keeps_recordMargin
    | simp only [keeps_upd]
    | split

theorem keeps_execChMarginStart (slice ch : Nat) (value : Word) (s : State) : KeepsOut s (execChMarginStart slice ch value s) := by
  unfold execChMarginStart
  try dsimp only
  repeat' first
    | with_reducible assumption
    | with_reducible exact Keeps.refl s
    | with_reducible apply KeepsOut.next
    | with_reducible apply keeps_wrF
    | with_reducible apply keeps_startMargin
    | simp only [keeps_upd]
    | split

theorem keeps_execMarginRotation (dir toff voff dwell : Nat) (s : State) : KeepsOut s (execMarginRotation dir toff voff dwell s) := by
  unfold execMarginRotation
  try dsimp only
  repeat' first
    | with_reducible assumption
    | with_reducible exact Keeps.refl s
    | with_reducible apply KeepsOut.next
    | with_reducible apply keeps_wrF
    | with_reducible apply keeps_startMargin
    | with_reducible apply keeps_rotatePast
    | simp only [keeps_upd]
    | split

theorem keeps_execMemTrainingComplete (results : List Trained) (s : State) : KeepsOut s (execMemTrainingComplete results s) := by
  unfold execMemTrainingComplete
  try dsimp only
  repeat' first
    | with_reducible assumption
    | with_reducible exact Keeps.refl s
    | with_reducible apply KeepsOut.next
    | with_reducible apply keeps_trained
    | simp only [keeps_upd]
    | split

theorem keeps_execResetNAssert (s : State) : KeepsOut s (execResetNAssert s) := by
  unfold execResetNAssert
  try dsimp only
  repeat' first
    | with_reducible assumption
    | with_reducible exact Keeps.refl s
    | with_reducible apply KeepsOut.next
    | with_reducible apply keeps_husk
    | simp only [keeps_upd]

theorem keeps_execColdBoot (straps : Straps) (s : State) : KeepsOut s (execColdBoot straps s) := by
  unfold execColdBoot
  try dsimp only
  repeat' first
    | with_reducible assumption
    | with_reducible exact Keeps.refl s
    | with_reducible apply KeepsOut.next
    | with_reducible apply keeps_husk
    | with_reducible apply keeps_applyStraps
    | with_reducible apply keeps_bootFrom2
    | with_reducible apply keeps_asleepOff
    | simp only [keeps_upd]
    | split

theorem keeps_execRailFailure (rail : Nat) (s : State) : KeepsOut s (execRailFailure rail s) := by
  unfold execRailFailure
  try dsimp only
  repeat' first
    | with_reducible assumption
    | with_reducible exact Keeps.refl s
    | with_reducible apply KeepsOut.next
    | with_reducible apply keeps_railNotice
    | with_reducible apply keeps_railsFail
    | simp only [keeps_upd]
    | split

theorem keeps_execRailRetry (failing : Option Nat) (s : State) : KeepsOut s (execRailRetry failing s) := by
  unfold execRailRetry
  try dsimp only
  repeat' first
    | with_reducible assumption
    | with_reducible exact Keeps.refl s
    | with_reducible apply KeepsOut.next
    | with_reducible apply keeps_bootFrom2
    | simp only [keeps_upd]
    | split

theorem keeps_execClk100Loss (s : State) : KeepsOut s (execClk100Loss s) := by
  unfold execClk100Loss
  try dsimp only
  repeat' first
    | with_reducible assumption
    | with_reducible exact Keeps.refl s
    | with_reducible apply KeepsOut.next
    | with_reducible apply keeps_husk
    | simp only [keeps_upd]

theorem keeps_execRefclkLoss (back : Bool) (s : State) : KeepsOut s (execRefclkLoss back s) := by
  unfold execRefclkLoss
  try dsimp only
  repeat' first
    | with_reducible assumption
    | with_reducible exact Keeps.refl s
    | with_reducible apply KeepsOut.next
    | with_reducible apply keeps_wrF
    | with_reducible apply keeps_moveConns
    | (with_reducible refine Keeps.foldl _ ?_ (fun _ _ _ => ?_))
    | (with_reducible refine Keeps.foldl2 _ ?_ (fun _ _ _ => ?_))
    | simp only [keeps_upd]
    | split

theorem keeps_execLinkStateChange (back : Bool) (port iface : Nat) (up : Bool) (s : State) : KeepsOut s (execLinkStateChange back port iface up s) := by
  unfold execLinkStateChange
  try dsimp only
  repeat' first
    | with_reducible assumption
    | with_reducible exact Keeps.refl s
    | with_reducible apply KeepsOut.next
    | with_reducible apply keeps_wrB
    | with_reducible apply keeps_moveConns
    | simp only [keeps_upd]
    | split

theorem keeps_execZeroFillComplete (regions : Regions) (s : State) : KeepsOut s (execZeroFillComplete regions s) := by
  unfold execZeroFillComplete
  try dsimp only
  repeat' first
    | with_reducible assumption
    | with_reducible exact Keeps.refl s
    | with_reducible apply KeepsOut.next
    | with_reducible apply keeps_startFirmware
    | with_reducible apply keeps_reloadWdog
    | with_reducible apply keeps_zeroFilled
    | exact ⟨rfl, rfl, fun i => ⟨swf_filter _ _ _ i.1, i.2.1, rising_filter _ _ i.2.2⟩⟩
    | simp only [keeps_upd]
    | split

theorem keeps_execBootSolicit (s : State) : KeepsOut s (execBootSolicit s) := by
  unfold execBootSolicit
  try dsimp only
  repeat' first
    | with_reducible assumption
    | with_reducible exact Keeps.refl s
    | with_reducible apply KeepsOut.next
    | with_reducible apply keeps_sendBoot
    | simp only [keeps_upd]
    | split

theorem keeps_execBootOffer (d : Datagram) (a : Arrival) (s : State) : KeepsOut s (execBootOffer d a s) := by
  unfold execBootOffer
  try dsimp only
  repeat' first
    | with_reducible assumption
    | with_reducible exact Keeps.refl s
    | with_reducible apply KeepsOut.next
    | with_reducible apply keeps_takeOffer
    | with_reducible apply keeps_bootReceipt
    | with_reducible refine keeps_bootReceipt_eq ?_ (by assumption)
    | simp only [keeps_upd]
    | split

theorem keeps_execBootRequestTimeout (offset : Nat) (s : State) : KeepsOut s (execBootRequestTimeout offset s) := by
  unfold execBootRequestTimeout
  try dsimp only
  repeat' first
    | with_reducible assumption
    | with_reducible exact Keeps.refl s
    | with_reducible apply KeepsOut.next
    | with_reducible apply keeps_sendBoot
    | simp only [keeps_upd]
    | split

theorem keeps_execBootBlock (d : Datagram) (a : Arrival) (sigOk : Verified) (recordOk : Bool) (s : State) : KeepsOut s (execBootBlock d a sigOk recordOk s) := by
  unfold execBootBlock
  try dsimp only
  repeat' first
    | with_reducible assumption
    | with_reducible exact Keeps.refl s
    | with_reducible apply KeepsOut.next
    | with_reducible apply keeps_takeBlock
    | with_reducible apply keeps_bootReceipt
    | with_reducible refine keeps_bootReceipt_eq ?_ (by assumption)
    | simp only [keeps_upd]
    | split

theorem keeps_execBootMessageReceive (d : Datagram) (a : Arrival) (s : State) : KeepsOut s (execBootMessageReceive d a s) := by
  unfold execBootMessageReceive
  try dsimp only
  repeat' first
    | with_reducible assumption
    | with_reducible exact Keeps.refl s
    | with_reducible apply KeepsOut.next
    | with_reducible apply keeps_fresh
    | with_reducible refine keeps_fresh_eq ?_ (by assumption)
    | with_reducible apply keeps_takeOffer
    | with_reducible apply keeps_takeBlock
    | with_reducible apply keeps_bootReceipt
    | with_reducible refine keeps_bootReceipt_eq ?_ (by assumption)
    | simp only [keeps_upd]
    | split

theorem keeps_execWarmReset (recordOk : Bool) (s : State) : KeepsOut s (execWarmReset recordOk s) := by
  unfold execWarmReset
  try dsimp only
  repeat' first
    | with_reducible assumption
    | with_reducible exact Keeps.refl s
    | with_reducible apply KeepsOut.next
    | with_reducible apply keeps_runTo
    | with_reducible apply keeps_coldReset
    | with_reducible apply keeps_warmReset
    | simp only [keeps_upd]
    | split

theorem keeps_execControllerRestart (s : State) : KeepsOut s (execControllerRestart s) := by
  unfold execControllerRestart
  try dsimp only
  repeat' first
    | with_reducible assumption
    | with_reducible exact Keeps.refl s
    | with_reducible apply KeepsOut.next
    | with_reducible apply keeps_wrF
    | with_reducible apply keeps_reloadWdog
    | with_reducible apply keeps_coldReset
    | with_reducible apply keeps_settleJournal
    | with_reducible apply keeps_takeUpdate
    | simp only [keeps_upd]
    | split

theorem keeps_execWatchdogExpiry (s : State) : KeepsOut s (execWatchdogExpiry s) := by
  unfold execWatchdogExpiry
  try dsimp only
  repeat' first
    | with_reducible assumption
    | with_reducible exact Keeps.refl s
    | with_reducible apply KeepsOut.next
    | with_reducible apply keeps_runTo
    | with_reducible apply keeps_restart
    | simp only [keeps_upd]
    | split

theorem keeps_execPrivateMemoryUncorrectable (s : State) : KeepsOut s (execPrivateMemoryUncorrectable s) := by
  unfold execPrivateMemoryUncorrectable
  try dsimp only
  repeat' first
    | with_reducible assumption
    | with_reducible exact Keeps.refl s
    | with_reducible apply KeepsOut.next
    | with_reducible apply keeps_restart
    | with_reducible apply keeps_damageWord
    | simp only [keeps_upd]
    | split

theorem keeps_execMissedTickLimit (s : State) : KeepsOut s (execMissedTickLimit s) := by
  unfold execMissedTickLimit
  try dsimp only
  repeat' first
    | with_reducible assumption
    | with_reducible exact Keeps.refl s
    | with_reducible apply KeepsOut.next
    | with_reducible apply keeps_restart
    | simp only [keeps_upd]
    | split

theorem keeps_execCounterCtrlClear (addr : Nat) (value : Word) (s : State) : KeepsOut s (execCounterCtrlClear addr value s) := by
  unfold execCounterCtrlClear
  try dsimp only
  repeat' first
    | with_reducible assumption
    | with_reducible exact Keeps.refl s
    | with_reducible apply KeepsOut.next
    | with_reducible apply keeps_writeFields
    | with_reducible apply keeps_clearGroup
    | simp only [keeps_upd]
    | split

theorem keeps_execEthernetFrameReceive (f : Frame) (s : State) : KeepsOut s (execEthernetFrameReceive f s) := by
  unfold execEthernetFrameReceive
  try dsimp only
  repeat' first
    | with_reducible assumption
    | with_reducible exact Keeps.refl s
    | with_reducible apply KeepsOut.next
    | with_reducible apply keeps_bump
    | with_reducible apply keeps_emitOut
    | simp only [keeps_upd]
    | split

theorem keeps_execObushDatagramReceive (d : Datagram) (a : Arrival) (table : SramError) (s : State) : KeepsOut s (execObushDatagramReceive d a table s) := by
  unfold execObushDatagramReceive
  try dsimp only
  repeat' first
    | with_reducible assumption
    | with_reducible exact Keeps.refl s
    | with_reducible apply KeepsOut.next
    | with_reducible apply keeps_bump
    | with_reducible apply keeps_charge
    | with_reducible apply keeps_oweAck
    | with_reducible apply keeps_takeAck
    | with_reducible apply keeps_admitMessage
    | simp only [keeps_upd]
    | split

theorem keeps_execObushRetransmitTimeout (mailbox session : Nat) (s : State) : KeepsOut s (execObushRetransmitTimeout mailbox session s) := by
  unfold execObushRetransmitTimeout
  try dsimp only
  repeat' first
    | with_reducible assumption
    | with_reducible exact Keeps.refl s
    | with_reducible apply KeepsOut.next
    | with_reducible apply keeps_bump
    | with_reducible apply keeps_setSession
    | with_reducible apply keeps_transmit
    | with_reducible apply keeps_endSession
    | with_reducible apply keeps_noticeSessions
    | with_reducible apply keeps_runTo
    | (with_reducible refine Keeps.foldl _ ?_ (fun _ _ _ => ?_))
    | (with_reducible refine Keeps.foldl2 _ ?_ (fun _ _ _ => ?_))
    | simp only [keeps_upd]
    | split

theorem keeps_execMboxRelease (mailbox : Nat) (value : Word) (s : State) : KeepsOut s (execMboxRelease mailbox value s) := by
  unfold execMboxRelease
  try dsimp only
  repeat' first
    | with_reducible assumption
    | with_reducible exact Keeps.refl s
    | with_reducible apply KeepsOut.next
    | with_reducible apply keeps_setSlotKind
    | with_reducible apply keeps_writeFields
    | simp only [keeps_upd]
    | split

theorem keeps_execModeChangeComplete (back : Bool) (port : Nat) (s : State) : KeepsOut s (execModeChangeComplete back port s) := by
  unfold execModeChangeComplete
  try dsimp only
  repeat' first
    | with_reducible assumption
    | with_reducible exact Keeps.refl s
    | with_reducible apply KeepsOut.next
    | with_reducible apply keeps_wrB
    | with_reducible apply keeps_raiseLinks
    | simp only [keeps_upd]
    | split

theorem keeps_execSeqFeed (r : Req) (flags : Nat) (s : State) : KeepsOut s (execSeqFeed r flags s) := by
  have k := reply_feed (s := s) (r := r) (fl := flags)
  unfold execSeqFeed
  dsimp only
  generalize feed r flags s = x at k
  cases x
  all_goals repeat' first
    | with_reducible apply KeepsOut.next
    | with_reducible exact Keeps.refl s
    | with_reducible apply keeps_respond
    | with_reducible apply keeps_refuseAt
    | with_reducible apply keeps_setSlotKind
    | with_reducible apply KeepsReply.done
    | exact k
    | (with_reducible refine keeps_conclude _ _ _ _ ?_ ?_)
    | split

theorem keeps_execPlanCommitWrite (entries : List PlanEntry) (s : State) : KeepsOut s (execPlanCommitWrite entries s) := by
  unfold execPlanCommitWrite
  try dsimp only
  repeat' first
    | with_reducible assumption
    | with_reducible exact Keeps.refl s
    | with_reducible apply KeepsOut.next
    | with_reducible apply keeps_freezeDue
    | with_reducible apply keeps_commitEntries

theorem keeps_execPlanSeal (s : State) : KeepsOut s (execPlanSeal s) := by
  unfold execPlanSeal
  try dsimp only
  repeat' first
    | with_reducible assumption
    | with_reducible exact Keeps.refl s
    | with_reducible apply KeepsOut.next
    | with_reducible apply keeps_sealPlan

theorem keeps_execPlanFreezeTimeout (s : State) : KeepsOut s (execPlanFreezeTimeout s) := by
  unfold execPlanFreezeTimeout
  try dsimp only
  repeat' first
    | with_reducible assumption
    | with_reducible exact Keeps.refl s
    | with_reducible apply KeepsOut.next
    | with_reducible apply keeps_runTo
    | with_reducible apply keeps_freezePlan
    | simp only [keeps_upd]
    | split

theorem keeps_execExecutionBegin (s : State) : KeepsOut s (execExecutionBegin s) := by
  unfold execExecutionBegin
  try dsimp only
  repeat' first
    | with_reducible assumption
    | with_reducible exact Keeps.refl s
    | with_reducible apply KeepsOut.next
    | with_reducible apply keeps_wrB
    | simp only [keeps_upd]
    | split

theorem keeps_execCore2PlannerHelp (s : State) : KeepsOut s (execCore2PlannerHelp s) := by
  unfold execCore2PlannerHelp
  try dsimp only
  repeat' first
    | with_reducible assumption
    | with_reducible exact Keeps.refl s
    | with_reducible apply KeepsOut.next
    | with_reducible apply keeps_runTo
    | simp only [keeps_upd]
    | split

theorem keeps_execEmissionGuard (s : State) : KeepsOut s (execEmissionGuard s) := by
  unfold execEmissionGuard
  try dsimp only
  repeat' first
    | with_reducible assumption
    | with_reducible exact Keeps.refl s
    | with_reducible apply KeepsOut.next
    | with_reducible apply keeps_beginGuard

theorem keeps_execStepCommit (step : Nat) (s : State) : KeepsOut s (execStepCommit step s) := by
  unfold execStepCommit
  try dsimp only
  repeat' first
    | with_reducible assumption
    | with_reducible exact Keeps.refl s
    | with_reducible apply KeepsOut.next
    | with_reducible apply keeps_atCompletion
    | with_reducible apply keeps_commitStep
    | simp only [keeps_upd]
    | split

theorem keeps_execPageWaitLimit (seq : Nat) (s : State) : KeepsOut s (execPageWaitLimit seq s) := by
  unfold execPageWaitLimit
  try dsimp only
  repeat' first
    | with_reducible assumption
    | with_reducible exact Keeps.refl s
    | with_reducible apply KeepsOut.next
    | with_reducible apply keeps_hemError
    | with_reducible apply keeps_endSeq
    | simp only [keeps_upd]
    | split

theorem keeps_execWakeFrame (f : MacFrame) (s : State) : KeepsOut s (execWakeFrame f s) := by
  unfold execWakeFrame
  try dsimp only
  repeat' first
    | with_reducible assumption
    | with_reducible exact Keeps.refl s
    | with_reducible apply KeepsOut.next
    | with_reducible apply keeps_judgeFrame
    | simp only [keeps_upd]
    | split

theorem keeps_execSleepEntryComplete (s : State) : KeepsOut s (execSleepEntryComplete s) := by
  unfold execSleepEntryComplete
  try dsimp only
  repeat' first
    | with_reducible assumption
    | with_reducible exact Keeps.refl s
    | with_reducible apply KeepsOut.next
    | with_reducible apply keeps_sleepOff
    | with_reducible apply keeps_sleepRetained
    | with_reducible apply keeps_judgeHeld
    | simp only [keeps_upd]
    | split

theorem keeps_execThermalTrip (die : Nat) (s : State) : KeepsOut s (execThermalTrip die s) := by
  unfold execThermalTrip
  try dsimp only
  repeat' first
    | with_reducible assumption
    | with_reducible exact Keeps.refl s
    | with_reducible apply KeepsOut.next
    | with_reducible apply keeps_trip
    | simp only [keeps_upd]
    | split

theorem keeps_execThimbleSample (r : ThReads) (s : State) : KeepsOut s (execThimbleSample r s) := by
  unfold execThimbleSample
  try dsimp only
  repeat' first
    | with_reducible assumption
    | with_reducible exact Keeps.refl s
    | with_reducible apply KeepsOut.next
    | with_reducible apply keeps_sampleAll
    | with_reducible apply keeps_judge
    | simp only [keeps_upd]
    | split

theorem keeps_execPowerMonitorSample (watts : Nat) (s : State) : KeepsOut s (execPowerMonitorSample watts s) := by
  unfold execPowerMonitorSample
  try dsimp only
  repeat' first
    | with_reducible assumption
    | with_reducible exact Keeps.refl s
    | with_reducible apply KeepsOut.next
    | with_reducible apply keeps_wrB
    | with_reducible apply keeps_bump
    | simp only [keeps_upd]
    | split

theorem keeps_execDroopTrip (s : State) : KeepsOut s (execDroopTrip s) := by
  unfold execDroopTrip
  try dsimp only
  repeat' first
    | with_reducible assumption
    | with_reducible exact Keeps.refl s
    | with_reducible apply KeepsOut.next
    | with_reducible apply keeps_bump
    | with_reducible apply keeps_settleClocks
    | simp only [keeps_upd]
    | split

theorem keeps_execDroopEnd (s : State) : KeepsOut s (execDroopEnd s) := by
  unfold execDroopEnd
  try dsimp only
  repeat' first
    | with_reducible assumption
    | with_reducible exact Keeps.refl s
    | with_reducible apply KeepsOut.next
    | with_reducible apply keeps_bump
    | with_reducible apply keeps_settleClocks
    | simp only [keeps_upd]
    | split

theorem keeps_execQuarantinePauseExpire (model : Nat) (s : State) : KeepsOut s (execQuarantinePauseExpire model s) := by
  unfold execQuarantinePauseExpire
  try dsimp only
  repeat' first
    | with_reducible assumption
    | with_reducible exact Keeps.refl s
    | with_reducible apply KeepsOut.next
    | with_reducible apply keeps_runTo
    | with_reducible apply keeps_failPause
    | simp only [keeps_upd]
    | split

theorem keeps_execThWdogPet (value : Word) (s : State) : KeepsOut s (execThWdogPet value s) := by
  unfold execThWdogPet
  try dsimp only
  repeat' first
    | with_reducible assumption
    | with_reducible exact Keeps.refl s
    | with_reducible apply KeepsOut.next
    | with_reducible apply keeps_wrF
    | with_reducible apply keeps_reloadWdog
    | simp only [keeps_upd]
    | split

theorem keeps_execTapeSyncSend (s : State) : KeepsOut s (execTapeSyncSend s) := by
  unfold execTapeSyncSend
  try dsimp only
  repeat' first
    | with_reducible assumption
    | with_reducible exact Keeps.refl s
    | with_reducible apply KeepsOut.next
    | with_reducible apply keeps_tapeSend
    | (with_reducible refine Keeps.foldl _ ?_ (fun _ _ _ => ?_))
    | (with_reducible refine Keeps.foldl2 _ ?_ (fun _ _ _ => ?_))
    | simp only [keeps_upd]
    | split

theorem keeps_execTapeSyncReceive (x : Exchange) (s : State) : KeepsOut s (execTapeSyncReceive x s) := by
  unfold execTapeSyncReceive
  try dsimp only
  repeat' first
    | with_reducible assumption
    | with_reducible exact Keeps.refl s
    | with_reducible apply KeepsOut.next
    | with_reducible apply keeps_tapeSend
    | simp only [keeps_upd]
    | split

theorem keeps_execTapeDelayReqReceive (member seq : Nat) (icvOk : Bool) (s : State) : KeepsOut s (execTapeDelayReqReceive member seq icvOk s) := by
  unfold execTapeDelayReqReceive
  try dsimp only
  repeat' first
    | with_reducible assumption
    | with_reducible exact Keeps.refl s
    | with_reducible apply KeepsOut.next
    | with_reducible apply keeps_tapeSend
    | simp only [keeps_upd]
    | split

theorem keeps_execTapeExchangeComplete (x : Exchange) (s : State) : KeepsOut s (execTapeExchangeComplete x s) := by
  unfold execTapeExchangeComplete
  try dsimp only
  repeat' first
    | with_reducible assumption
    | with_reducible exact Keeps.refl s
    | with_reducible apply KeepsOut.next
    | with_reducible apply keeps_bump
    | with_reducible apply keeps_takeExchange
    | with_reducible apply keeps_countBack
    | simp only [keeps_upd]
    | split

theorem keeps_execJoinStep (s : State) : KeepsOut s (execJoinStep s) := by
  unfold execJoinStep
  try dsimp only
  repeat' first
    | with_reducible assumption
    | with_reducible exact Keeps.refl s
    | with_reducible apply KeepsOut.next
    | with_reducible apply keeps_stepTape
    | simp only [keeps_upd]
    | split

theorem keeps_execTimekeeperSwitch (s : State) : KeepsOut s (execTimekeeperSwitch s) := by
  unfold execTimekeeperSwitch
  try dsimp only
  repeat' first
    | with_reducible assumption
    | with_reducible exact Keeps.refl s
    | with_reducible apply KeepsOut.next
    | with_reducible apply keeps_wrB
    | with_reducible apply keeps_runTo
    | simp only [keeps_upd]
    | split

theorem keeps_execKralynConnectReceive (k : KrMsg) (s : State) : KeepsOut s (execKralynConnectReceive k s) := by
  unfold execKralynConnectReceive
  try dsimp only
  repeat' first
    | with_reducible assumption
    | with_reducible exact Keeps.refl s
    | with_reducible apply KeepsOut.next
    | with_reducible apply keeps_bump
    | with_reducible apply keeps_setConn
    | with_reducible apply keeps_refuseTo
    | with_reducible apply keeps_sendAccept
    | with_reducible apply keeps_loseConn
    | with_reducible apply keeps_acceptConnect
    | simp only [keeps_upd]
    | split

theorem keeps_execKralynAcceptReceive (k : KrMsg) (s : State) : KeepsOut s (execKralynAcceptReceive k s) := by
  unfold execKralynAcceptReceive
  try dsimp only
  repeat' first
    | with_reducible assumption
    | with_reducible exact Keeps.refl s
    | with_reducible apply KeepsOut.next
    | with_reducible apply keeps_bump
    | with_reducible apply keeps_setConn
    | with_reducible apply keeps_openConn
    | with_reducible apply keeps_refuseUnknown
    | simp only [keeps_upd]
    | split

theorem keeps_execKralynRefuseReceive (k : KrMsg) (s : State) : KeepsOut s (execKralynRefuseReceive k s) := by
  unfold execKralynRefuseReceive
  try dsimp only
  repeat' first
    | with_reducible assumption
    | with_reducible exact Keeps.refl s
    | with_reducible apply KeepsOut.next
    | with_reducible apply keeps_bump
    | with_reducible apply keeps_setConn
    | with_reducible apply keeps_failQueued
    | with_reducible apply keeps_fillEntry
    | with_reducible apply keeps_loseConn
    | simp only [keeps_upd]
    | split

theorem keeps_execKralynDataReceive (k : KrMsg) (table : SramError) (s : State) : KeepsOut s (execKralynDataReceive k table s) := by
  unfold execKralynDataReceive
  try dsimp only
  repeat' first
    | with_reducible assumption
    | with_reducible exact Keeps.refl s
    | with_reducible apply KeepsOut.next
    | with_reducible refine keeps_intoChannel_eq ?_ (by assumption)
    | with_reducible apply keeps_firmwareTakes
    | refine keeps_krSequenced _ _ _ _ (Keeps.refl s) (fun i u t hu e => ?_)
    | (obtain ⟨v, hv, rfl⟩ := Option.map_eq_some_iff.1 ‹_›; exact keeps_firmwareTakes _ _ (keeps_intoChannel_eq ‹_› hv))
    | simp only [keeps_upd]
    | split

theorem keeps_execKralynCapReceive (k : KrMsg) (s : State) : KeepsOut s (execKralynCapReceive k s) := by
  unfold execKralynCapReceive
  try dsimp only
  repeat' first
    | with_reducible assumption
    | with_reducible exact Keeps.refl s
    | with_reducible apply KeepsOut.next
    | with_reducible apply keeps_takeCap
    | refine keeps_krSequenced _ _ _ _ (Keeps.refl s) (fun i u t hu e => ?_)
    | (cases ‹some _ = some _›; exact keeps_takeCap _ _ _ ‹_›)
    | simp only [keeps_upd]
    | split

theorem keeps_execKralynCloseReceive (k : KrMsg) (s : State) : KeepsOut s (execKralynCloseReceive k s) := by
  unfold execKralynCloseReceive
  try dsimp only
  repeat' first
    | with_reducible assumption
    | with_reducible exact Keeps.refl s
    | with_reducible apply KeepsOut.next
    | with_reducible apply keeps_bump
    | with_reducible apply keeps_setConn
    | with_reducible apply keeps_refuseUnknown
    | with_reducible apply keeps_krOweAck
    | with_reducible apply keeps_settleClose
    | simp only [keeps_upd]
    | split

theorem keeps_execKralynAckReceive (k : KrMsg) (s : State) : KeepsOut s (execKralynAckReceive k s) := by
  unfold execKralynAckReceive
  try dsimp only
  repeat' first
    | with_reducible assumption
    | with_reducible exact Keeps.refl s
    | with_reducible apply KeepsOut.next
    | with_reducible apply keeps_bump
    | with_reducible apply keeps_refuseUnknown
    | with_reducible apply keeps_krAdvance
    | simp only [keeps_upd]
    | split

theorem keeps_execKralynTxDesc (ring : Nat) (s : State) : KeepsOut s (execKralynTxDesc ring s) := by
  unfold execKralynTxDesc
  try dsimp only
  repeat' first
    | with_reducible assumption
    | with_reducible exact Keeps.refl s
    | with_reducible apply KeepsOut.next
    | with_reducible apply keeps_runDesc
    | simp only [keeps_upd]
    | split

theorem keeps_execKralynRetransmitTimeout (conn : Nat) (s : State) : KeepsOut s (execKralynRetransmitTimeout conn s) := by
  unfold execKralynRetransmitTimeout
  try dsimp only
  repeat' first
    | with_reducible assumption
    | with_reducible exact Keeps.refl s
    | with_reducible apply KeepsOut.next
    | with_reducible apply keeps_bump
    | with_reducible apply keeps_setConn
    | with_reducible apply keeps_krTransmit
    | with_reducible apply keeps_runTo
    | (with_reducible refine Keeps.foldl _ ?_ (fun _ _ _ => ?_))
    | (with_reducible refine Keeps.foldl2 _ ?_ (fun _ _ _ => ?_))
    | simp only [keeps_upd]
    | split

theorem keeps_execKralynConnectionLoss (conn : Nat) (s : State) : KeepsOut s (execKralynConnectionLoss conn s) := by
  unfold execKralynConnectionLoss
  try dsimp only
  repeat' first
    | with_reducible assumption
    | with_reducible exact Keeps.refl s
    | with_reducible apply KeepsOut.next
    | with_reducible apply keeps_runTo
    | with_reducible apply keeps_loseConn
    | simp only [keeps_upd]
    | split

theorem keeps_execKrTxCtrlEnable (ring : Nat) (value : Word) (s : State) : KeepsOut s (execKrTxCtrlEnable ring value s) := by
  unfold execKrTxCtrlEnable
  try dsimp only
  repeat' first
    | with_reducible assumption
    | with_reducible exact Keeps.refl s
    | with_reducible apply KeepsOut.next
    | with_reducible apply keeps_writeTxCtrl
    | simp only [keeps_upd]
    | split

theorem keeps_execKrTxTailWrite (ring : Nat) (value : Word) (s : State) : KeepsOut s (execKrTxTailWrite ring value s) := by
  unfold execKrTxTailWrite
  try dsimp only
  repeat' first
    | with_reducible assumption
    | with_reducible exact Keeps.refl s
    | with_reducible apply KeepsOut.next
    | with_reducible apply keeps_wrF
    | simp only [keeps_upd]
    | split

theorem keeps_execKrRxCtrlEnable (channel : Nat) (value : Word) (s : State) : KeepsOut s (execKrRxCtrlEnable channel value s) := by
  unfold execKrRxCtrlEnable
  try dsimp only
  repeat' first
    | with_reducible assumption
    | with_reducible exact Keeps.refl s
    | with_reducible apply KeepsOut.next
    | with_reducible apply keeps_writeRxCtrl
    | simp only [keeps_upd]
    | split

theorem keeps_execKrRxHeadWrite (channel : Nat) (value : Word) (s : State) : KeepsOut s (execKrRxHeadWrite channel value s) := by
  unfold execKrRxHeadWrite
  try dsimp only
  repeat' first
    | with_reducible assumption
    | with_reducible exact Keeps.refl s
    | with_reducible apply KeepsOut.next
    | with_reducible apply keeps_wrF
    | simp only [keeps_upd]
    | split

theorem keeps_execDeviceInfo (r : Req) (s : State) : KeepsOut s (execDeviceInfo r s) := by
  unfold execDeviceInfo
  refine keeps_control _ _ _ _ _ (Keeps.refl s) ?_
  try dsimp only
  repeat' first
    | with_reducible assumption
    | with_reducible exact Keeps.refl s
    | with_reducible apply KeepsReply.done

theorem keeps_execDeviceTick (r : Req) (s : State) : KeepsOut s (execDeviceTick r s) := by
  unfold execDeviceTick
  refine keeps_control _ _ _ _ _ (Keeps.refl s) ?_
  try dsimp only
  repeat' first
    | with_reducible assumption
    | with_reducible exact Keeps.refl s
    | with_reducible apply KeepsReply.done
    | with_reducible apply KeepsReply.later
    | with_reducible apply KeepsReply.counted
    | with_reducible exact KeepsReply.refuse _ _ _
    | with_reducible exact KeepsReply.refuseOpen _ _
    | with_reducible exact KeepsReply.badImage _ _
    | with_reducible exact KeepsReply.busy _
    | with_reducible apply keeps_armPeriod
    | simp only [keeps_upd]
    | split

theorem keeps_execDevicePlan (r : Req) (s : State) : KeepsOut s (execDevicePlan r s) := by
  unfold execDevicePlan
  refine keeps_control _ _ _ _ _ (Keeps.refl s) ?_
  try dsimp only
  repeat' first
    | with_reducible assumption
    | with_reducible exact Keeps.refl s
    | with_reducible apply KeepsReply.done
    | with_reducible apply KeepsReply.later
    | with_reducible apply KeepsReply.counted
    | with_reducible exact KeepsReply.refuse _ _ _
    | with_reducible exact KeepsReply.refuseOpen _ _
    | with_reducible exact KeepsReply.badImage _ _
    | with_reducible exact KeepsReply.busy _
    | with_reducible apply keeps_wrF
    | with_reducible apply keeps_marginChanged
    | simp only [keeps_upd]
    | split

theorem keeps_execDevicePort (r : Req) (s : State) : KeepsOut s (execDevicePort r s) := by
  unfold execDevicePort
  refine keeps_control _ _ _ _ _ (Keeps.refl s) ?_
  try dsimp only
  repeat' first
    | with_reducible assumption
    | with_reducible exact Keeps.refl s
    | with_reducible apply KeepsReply.done
    | with_reducible apply KeepsReply.later
    | with_reducible apply KeepsReply.counted
    | with_reducible exact KeepsReply.refuse _ _ _
    | with_reducible exact KeepsReply.refuseOpen _ _
    | with_reducible exact KeepsReply.badImage _ _
    | with_reducible exact KeepsReply.busy _
    | with_reducible apply keeps_startMode
    | simp only [keeps_upd]
    | split

theorem keeps_execDeviceAddr (r : Req) (s : State) : KeepsOut s (execDeviceAddr r s) := by
  unfold execDeviceAddr
  refine keeps_control _ _ _ _ _ (Keeps.refl s) ?_
  try dsimp only
  repeat' first
    | with_reducible assumption
    | with_reducible exact Keeps.refl s
    | with_reducible apply KeepsReply.done
    | with_reducible apply KeepsReply.later
    | with_reducible apply KeepsReply.counted
    | with_reducible exact KeepsReply.refuse _ _ _
    | with_reducible exact KeepsReply.refuseOpen _ _
    | with_reducible exact KeepsReply.badImage _ _
    | with_reducible exact KeepsReply.busy _
    | simp only [keeps_upd]
    | split

theorem keeps_execDeviceReset (r : Req) (s : State) : KeepsOut s (execDeviceReset r s) := by
  unfold execDeviceReset
  refine keeps_control _ _ _ _ _ (Keeps.refl s) ?_
  try dsimp only
  repeat' first
    | with_reducible assumption
    | with_reducible exact Keeps.refl s
    | with_reducible apply KeepsReply.done
    | with_reducible apply KeepsReply.later
    | with_reducible apply KeepsReply.counted
    | with_reducible exact KeepsReply.refuse _ _ _
    | with_reducible exact KeepsReply.refuseOpen _ _
    | with_reducible exact KeepsReply.badImage _ _
    | with_reducible exact KeepsReply.busy _
    | simp only [keeps_upd]
    | split

theorem keeps_execDeviceStatus (r : Req) (s : State) : KeepsOut s (execDeviceStatus r s) := by
  unfold execDeviceStatus
  refine keeps_control _ _ _ _ _ (Keeps.refl s) ?_
  try dsimp only
  repeat' first
    | with_reducible assumption
    | with_reducible exact Keeps.refl s
    | with_reducible apply KeepsReply.done

theorem keeps_execTenantCreate (r : Req) (s : State) : KeepsOut s (execTenantCreate r s) := by
  unfold execTenantCreate
  refine keeps_control _ _ _ _ _ (Keeps.refl s) ?_
  try dsimp only
  repeat' first
    | with_reducible assumption
    | with_reducible exact Keeps.refl s
    | with_reducible apply KeepsReply.done
    | with_reducible apply KeepsReply.later
    | with_reducible apply KeepsReply.counted
    | with_reducible exact KeepsReply.refuse _ _ _
    | with_reducible exact KeepsReply.refuseOpen _ _
    | with_reducible exact KeepsReply.badImage _ _
    | with_reducible exact KeepsReply.busy _
    | with_reducible apply keeps_makeTenant
    | exact reply_tenantFields ‹_›
    | simp only [keeps_upd]
    | split

theorem keeps_execTenantDestroy (r : Req) (s : State) : KeepsOut s (execTenantDestroy r s) := by
  unfold execTenantDestroy
  refine keeps_control _ _ _ _ _ (Keeps.refl s) ?_
  try dsimp only
  repeat' first
    | with_reducible assumption
    | with_reducible exact Keeps.refl s
    | with_reducible apply KeepsReply.done
    | with_reducible apply KeepsReply.later
    | with_reducible apply KeepsReply.counted
    | with_reducible exact KeepsReply.refuse _ _ _
    | with_reducible exact KeepsReply.refuseOpen _ _
    | with_reducible exact KeepsReply.badImage _ _
    | with_reducible exact KeepsReply.busy _
    | with_reducible apply keeps_dropTenant
    | simp only [keeps_upd]
    | split

theorem keeps_execTenantReset (r : Req) (s : State) : KeepsOut s (execTenantReset r s) := by
  unfold execTenantReset
  refine keeps_control _ _ _ _ _ (Keeps.refl s) ?_
  try dsimp only
  repeat' first
    | with_reducible assumption
    | with_reducible exact Keeps.refl s
    | with_reducible apply KeepsReply.done
    | with_reducible apply KeepsReply.later
    | with_reducible apply KeepsReply.counted
    | with_reducible exact KeepsReply.refuse _ _ _
    | with_reducible exact KeepsReply.refuseOpen _ _
    | with_reducible exact KeepsReply.badImage _ _
    | with_reducible exact KeepsReply.busy _
    | with_reducible apply keeps_setTenant
    | simp only [keeps_upd]
    | split

theorem keeps_execTenantSet (r : Req) (s : State) : KeepsOut s (execTenantSet r s) := by
  unfold execTenantSet
  refine keeps_control _ _ _ _ _ (Keeps.refl s) ?_
  try dsimp only
  repeat' first
    | with_reducible assumption
    | with_reducible exact Keeps.refl s
    | with_reducible apply KeepsReply.done
    | with_reducible apply KeepsReply.later
    | with_reducible apply KeepsReply.counted
    | with_reducible exact KeepsReply.refuse _ _ _
    | with_reducible exact KeepsReply.refuseOpen _ _
    | with_reducible exact KeepsReply.badImage _ _
    | with_reducible exact KeepsReply.busy _
    | with_reducible apply keeps_setTenant
    | exact reply_tenantFields ‹_›
    | simp only [keeps_upd]
    | split

theorem keeps_execTenantQuery (r : Req) (s : State) : KeepsOut s (execTenantQuery r s) := by
  unfold execTenantQuery
  refine keeps_control _ _ _ _ _ (Keeps.refl s) ?_
  try dsimp only
  repeat' first
    | with_reducible assumption
    | with_reducible exact Keeps.refl s
    | with_reducible apply KeepsReply.done
    | with_reducible apply KeepsReply.later
    | with_reducible apply KeepsReply.counted
    | with_reducible exact KeepsReply.refuse _ _ _
    | with_reducible exact KeepsReply.refuseOpen _ _
    | with_reducible exact KeepsReply.badImage _ _
    | with_reducible exact KeepsReply.busy _
    | simp only [keeps_upd]
    | split

theorem keeps_execBudgetSet (r : Req) (s : State) : KeepsOut s (execBudgetSet r s) := by
  unfold execBudgetSet
  refine keeps_control _ _ _ _ _ (Keeps.refl s) ?_
  try dsimp only
  repeat' first
    | with_reducible assumption
    | with_reducible exact Keeps.refl s
    | with_reducible apply KeepsReply.done
    | with_reducible apply KeepsReply.later
    | with_reducible apply KeepsReply.counted
    | with_reducible exact KeepsReply.refuse _ _ _
    | with_reducible exact KeepsReply.refuseOpen _ _
    | with_reducible exact KeepsReply.badImage _ _
    | with_reducible exact KeepsReply.busy _
    | with_reducible apply keeps_wrF
    | simp only [keeps_upd]
    | split

theorem keeps_execBudgetQuery (r : Req) (s : State) : KeepsOut s (execBudgetQuery r s) := by
  unfold execBudgetQuery
  refine keeps_control _ _ _ _ _ (Keeps.refl s) ?_
  try dsimp only
  repeat' first
    | with_reducible assumption
    | with_reducible exact Keeps.refl s
    | with_reducible apply KeepsReply.done
    | with_reducible apply KeepsReply.later
    | with_reducible apply KeepsReply.counted
    | with_reducible exact KeepsReply.refuse _ _ _
    | with_reducible exact KeepsReply.refuseOpen _ _
    | with_reducible exact KeepsReply.badImage _ _
    | with_reducible exact KeepsReply.busy _
    | simp only [keeps_upd]
    | split

theorem keeps_execNoticeRoute (r : Req) (s : State) : KeepsOut s (execNoticeRoute r s) := by
  unfold execNoticeRoute
  refine keeps_control _ _ _ _ _ (Keeps.refl s) ?_
  try dsimp only
  repeat' first
    | with_reducible assumption
    | with_reducible exact Keeps.refl s
    | with_reducible apply KeepsReply.done
    | with_reducible apply KeepsReply.later
    | with_reducible apply KeepsReply.counted
    | with_reducible exact KeepsReply.refuse _ _ _
    | with_reducible exact KeepsReply.refuseOpen _ _
    | with_reducible exact KeepsReply.badImage _ _
    | with_reducible exact KeepsReply.busy _
    | exact reply_routeNamed ‹_›
    | simp only [keeps_upd]
    | split

theorem keeps_execNoticeQuery (r : Req) (s : State) : KeepsOut s (execNoticeQuery r s) := by
  unfold execNoticeQuery
  refine keeps_control _ _ _ _ _ (Keeps.refl s) ?_
  try dsimp only
  repeat' first
    | with_reducible assumption
    | with_reducible exact Keeps.refl s
    | with_reducible apply KeepsReply.done
    | with_reducible apply KeepsReply.later
    | with_reducible apply KeepsReply.counted
    | with_reducible exact KeepsReply.refuse _ _ _
    | with_reducible exact KeepsReply.refuseOpen _ _
    | with_reducible exact KeepsReply.badImage _ _
    | with_reducible exact KeepsReply.busy _
    | exact reply_routeNamed ‹_›
    | simp only [keeps_upd]
    | split

theorem keeps_execModelStage (r : Req) (s : State) : KeepsOut s (execModelStage r s) := by
  unfold execModelStage
  refine keeps_control _ _ _ _ _ (Keeps.refl s) ?_
  try dsimp only
  repeat' first
    | with_reducible assumption
    | with_reducible exact Keeps.refl s
    | with_reducible apply KeepsReply.done
    | with_reducible apply KeepsReply.later
    | with_reducible apply KeepsReply.counted
    | with_reducible exact KeepsReply.refuse _ _ _
    | with_reducible exact KeepsReply.refuseOpen _ _
    | with_reducible exact KeepsReply.badImage _ _
    | with_reducible exact KeepsReply.busy _
    | with_reducible refine keeps_allotBlock_eq ?_ (by assumption)
    | with_reducible apply keeps_setStage
    | simp only [keeps_upd]
    | split

theorem keeps_execModelPut (r : Req) (s : State) : KeepsOut s (execModelPut r s) := by
  unfold execModelPut
  refine keeps_control _ _ _ _ _ (Keeps.refl s) ?_
  try dsimp only
  repeat' first
    | with_reducible assumption
    | with_reducible exact Keeps.refl s
    | with_reducible apply KeepsReply.done
    | with_reducible apply KeepsReply.later
    | with_reducible apply KeepsReply.counted
    | with_reducible exact KeepsReply.refuse _ _ _
    | with_reducible exact KeepsReply.refuseOpen _ _
    | with_reducible exact KeepsReply.badImage _ _
    | with_reducible exact KeepsReply.busy _
    | with_reducible apply keeps_storeBytes
    | simp only [keeps_upd]
    | split

theorem keeps_execModelLoad (r : Req) (sigOk : Verified) (s : State) : KeepsOut s (execModelLoad r sigOk s) := by
  unfold execModelLoad
  refine keeps_control _ _ _ _ _ (Keeps.refl s) ?_
  try dsimp only
  repeat' first
    | with_reducible assumption
    | with_reducible exact Keeps.refl s
    | with_reducible apply KeepsReply.done
    | with_reducible apply KeepsReply.later
    | with_reducible apply KeepsReply.counted
    | with_reducible exact KeepsReply.refuse _ _ _
    | with_reducible exact KeepsReply.refuseOpen _ _
    | with_reducible exact KeepsReply.badImage _ _
    | with_reducible exact KeepsReply.busy _
    | with_reducible apply keeps_adoptBlock
    | with_reducible refine keeps_placeImage_eq ?_ (by assumption)
    | with_reducible apply keeps_takeModel
    | with_reducible apply keeps_enterModel
    | simp only [keeps_upd]
    | split

theorem keeps_execModelUnload (r : Req) (s : State) : KeepsOut s (execModelUnload r s) := by
  unfold execModelUnload
  refine keeps_control _ _ _ _ _ (Keeps.refl s) ?_
  try dsimp only
  repeat' first
    | with_reducible assumption
    | with_reducible exact Keeps.refl s
    | with_reducible apply KeepsReply.done
    | with_reducible apply KeepsReply.later
    | with_reducible apply KeepsReply.counted
    | with_reducible exact KeepsReply.refuse _ _ _
    | with_reducible exact KeepsReply.refuseOpen _ _
    | with_reducible exact KeepsReply.badImage _ _
    | with_reducible exact KeepsReply.busy _
    | with_reducible apply keeps_setModel
    | with_reducible apply keeps_freeModel
    | exact reply_modelNamed ‹_›
    | simp only [keeps_upd]
    | split

theorem keeps_execModelScale (r : Req) (s : State) : KeepsOut s (execModelScale r s) := by
  unfold execModelScale
  refine keeps_control _ _ _ _ _ (Keeps.refl s) ?_
  try dsimp only
  repeat' first
    | with_reducible assumption
    | with_reducible exact Keeps.refl s
    | with_reducible apply KeepsReply.done
    | with_reducible apply KeepsReply.later
    | with_reducible apply KeepsReply.counted
    | with_reducible exact KeepsReply.refuse _ _ _
    | with_reducible exact KeepsReply.refuseOpen _ _
    | with_reducible exact KeepsReply.badImage _ _
    | with_reducible exact KeepsReply.busy _
    | with_reducible apply keeps_setModel
    | exact reply_modelNamed ‹_›
    | simp only [keeps_upd]
    | split

theorem keeps_execModelQuery (r : Req) (s : State) : KeepsOut s (execModelQuery r s) := by
  unfold execModelQuery
  refine keeps_control _ _ _ _ _ (Keeps.refl s) ?_
  try dsimp only
  repeat' first
    | with_reducible assumption
    | with_reducible exact Keeps.refl s
    | with_reducible apply KeepsReply.done
    | with_reducible apply KeepsReply.later
    | with_reducible apply KeepsReply.counted
    | with_reducible exact KeepsReply.refuse _ _ _
    | with_reducible exact KeepsReply.refuseOpen _ _
    | with_reducible exact KeepsReply.badImage _ _
    | with_reducible exact KeepsReply.busy _
    | exact reply_modelNamed ‹_›
    | simp only [keeps_upd]
    | split

theorem keeps_execModelRestore (r : Req) (s : State) : KeepsOut s (execModelRestore r s) := by
  unfold execModelRestore
  refine keeps_control _ _ _ _ _ (Keeps.refl s) ?_
  try dsimp only
  repeat' first
    | with_reducible assumption
    | with_reducible exact Keeps.refl s
    | with_reducible apply KeepsReply.done
    | with_reducible apply KeepsReply.later
    | with_reducible apply KeepsReply.counted
    | with_reducible exact KeepsReply.refuse _ _ _
    | with_reducible exact KeepsReply.refuseOpen _ _
    | with_reducible exact KeepsReply.badImage _ _
    | with_reducible exact KeepsReply.busy _
    | with_reducible apply keeps_restoreBlock
    | exact reply_modelNamed ‹_›
    | simp only [keeps_upd]
    | split

theorem keeps_execModelReplica (r : Req) (s : State) : KeepsOut s (execModelReplica r s) := by
  unfold execModelReplica
  refine keeps_control _ _ _ _ _ (Keeps.refl s) ?_
  try dsimp only
  repeat' first
    | with_reducible assumption
    | with_reducible exact Keeps.refl s
    | with_reducible apply KeepsReply.done
    | with_reducible apply KeepsReply.later
    | with_reducible apply KeepsReply.counted
    | with_reducible exact KeepsReply.refuse _ _ _
    | with_reducible exact KeepsReply.refuseOpen _ _
    | with_reducible exact KeepsReply.badImage _ _
    | with_reducible exact KeepsReply.busy _
    | with_reducible apply keeps_setModel
    | with_reducible apply keeps_askReplica
    | exact reply_modelNamed ‹_›
    | (with_reducible refine Keeps.foldl _ ?_ (fun _ _ _ => ?_))
    | (with_reducible refine Keeps.foldl2 _ ?_ (fun _ _ _ => ?_))
    | simp only [keeps_upd]
    | split

theorem keeps_execGrammarLoad (r : Req) (sigOk : Verified) (s : State) : KeepsOut s (execGrammarLoad r sigOk s) := by
  unfold execGrammarLoad
  refine keeps_control _ _ _ _ _ (Keeps.refl s) ?_
  try dsimp only
  repeat' first
    | with_reducible assumption
    | with_reducible exact Keeps.refl s
    | with_reducible apply KeepsReply.done
    | with_reducible apply KeepsReply.later
    | with_reducible apply KeepsReply.counted
    | with_reducible exact KeepsReply.refuse _ _ _
    | with_reducible exact KeepsReply.refuseOpen _ _
    | with_reducible exact KeepsReply.badImage _ _
    | with_reducible exact KeepsReply.busy _
    | with_reducible refine keeps_allotBlock_eq ?_ (by assumption)
    | with_reducible apply keeps_adoptBlock
    | with_reducible apply keeps_enterGrammar
    | simp only [keeps_upd]
    | split

theorem keeps_execGrammarUnload (r : Req) (s : State) : KeepsOut s (execGrammarUnload r s) := by
  unfold execGrammarUnload
  refine keeps_control _ _ _ _ _ (Keeps.refl s) ?_
  try dsimp only
  repeat' first
    | with_reducible assumption
    | with_reducible exact Keeps.refl s
    | with_reducible apply KeepsReply.done
    | with_reducible apply KeepsReply.later
    | with_reducible apply KeepsReply.counted
    | with_reducible exact KeepsReply.refuse _ _ _
    | with_reducible exact KeepsReply.refuseOpen _ _
    | with_reducible exact KeepsReply.badImage _ _
    | with_reducible exact KeepsReply.busy _
    | with_reducible apply keeps_storeBytes
    | with_reducible apply keeps_freeBlock
    | with_reducible apply keeps_setGrammar
    | simp only [keeps_upd]
    | split

theorem keeps_execPowerCap (r : Req) (s : State) : KeepsOut s (execPowerCap r s) := by
  unfold execPowerCap
  refine keeps_control _ _ _ _ _ (Keeps.refl s) ?_
  try dsimp only
  repeat' first
    | with_reducible assumption
    | with_reducible exact Keeps.refl s
    | with_reducible apply KeepsReply.done
    | with_reducible apply KeepsReply.later
    | with_reducible apply KeepsReply.counted
    | with_reducible exact KeepsReply.refuse _ _ _
    | with_reducible exact KeepsReply.refuseOpen _ _
    | with_reducible exact KeepsReply.badImage _ _
    | with_reducible exact KeepsReply.busy _
    | with_reducible apply keeps_announceCap
    | with_reducible apply keeps_orderCap
    | simp only [keeps_upd]
    | split

theorem keeps_execPowerCoord (r : Req) (s : State) : KeepsOut s (execPowerCoord r s) := by
  unfold execPowerCoord
  refine keeps_control _ _ _ _ _ (Keeps.refl s) ?_
  try dsimp only
  repeat' first
    | with_reducible assumption
    | with_reducible exact Keeps.refl s
    | with_reducible apply KeepsReply.done
    | with_reducible apply KeepsReply.later
    | with_reducible apply KeepsReply.counted
    | with_reducible exact KeepsReply.refuse _ _ _
    | with_reducible exact KeepsReply.refuseOpen _ _
    | with_reducible exact KeepsReply.badImage _ _
    | with_reducible exact KeepsReply.busy _
    | with_reducible apply keeps_wrB
    | with_reducible apply keeps_withdraw
    | simp only [keeps_upd]
    | split

theorem keeps_execPowerSleep (r : Req) (s : State) : KeepsOut s (execPowerSleep r s) := by
  unfold execPowerSleep
  refine keeps_control _ _ _ _ _ (Keeps.refl s) ?_
  try dsimp only
  repeat' first
    | with_reducible assumption
    | with_reducible exact Keeps.refl s
    | with_reducible apply KeepsReply.done
    | with_reducible apply KeepsReply.later
    | with_reducible apply KeepsReply.counted
    | with_reducible exact KeepsReply.refuse _ _ _
    | with_reducible exact KeepsReply.refuseOpen _ _
    | with_reducible exact KeepsReply.badImage _ _
    | with_reducible exact KeepsReply.busy _
    | with_reducible apply keeps_wrF
    | simp only [keeps_upd]
    | split

theorem keeps_execPowerQuery (r : Req) (s : State) : KeepsOut s (execPowerQuery r s) := by
  unfold execPowerQuery
  refine keeps_control _ _ _ _ _ (Keeps.refl s) ?_
  try dsimp only
  repeat' first
    | with_reducible assumption
    | with_reducible exact Keeps.refl s
    | with_reducible apply KeepsReply.done

theorem keeps_execPowerEnergy (r : Req) (s : State) : KeepsOut s (execPowerEnergy r s) := by
  unfold execPowerEnergy
  refine keeps_control _ _ _ _ _ (Keeps.refl s) ?_
  try dsimp only
  repeat' first
    | with_reducible assumption
    | with_reducible exact Keeps.refl s
    | with_reducible apply KeepsReply.done
    | with_reducible apply KeepsReply.later
    | with_reducible apply KeepsReply.counted
    | with_reducible exact KeepsReply.refuse _ _ _
    | with_reducible exact KeepsReply.refuseOpen _ _
    | with_reducible exact KeepsReply.badImage _ _
    | with_reducible exact KeepsReply.busy _
    | simp only [keeps_upd]
    | split

theorem keeps_execMemorySlice (r : Req) (s : State) : KeepsOut s (execMemorySlice r s) := by
  unfold execMemorySlice
  refine keeps_control _ _ _ _ _ (Keeps.refl s) ?_
  try dsimp only
  repeat' first
    | with_reducible assumption
    | with_reducible exact Keeps.refl s
    | with_reducible apply KeepsReply.done
    | with_reducible apply KeepsReply.later
    | with_reducible apply KeepsReply.counted
    | with_reducible exact KeepsReply.refuse _ _ _
    | with_reducible exact KeepsReply.refuseOpen _ _
    | with_reducible exact KeepsReply.badImage _ _
    | with_reducible exact KeepsReply.busy _
    | with_reducible apply keeps_wrF
    | with_reducible apply keeps_wrB
    | simp only [keeps_upd]
    | split

theorem keeps_execMemoryHem (r : Req) (s : State) : KeepsOut s (execMemoryHem r s) := by
  unfold execMemoryHem
  refine keeps_control _ _ _ _ _ (Keeps.refl s) ?_
  try dsimp only
  repeat' first
    | with_reducible assumption
    | with_reducible exact Keeps.refl s
    | with_reducible apply KeepsReply.done
    | with_reducible apply KeepsReply.later
    | with_reducible apply KeepsReply.counted
    | with_reducible exact KeepsReply.refuse _ _ _
    | with_reducible exact KeepsReply.refuseOpen _ _
    | with_reducible exact KeepsReply.badImage _ _
    | with_reducible exact KeepsReply.busy _
    | with_reducible apply keeps_wrF
    | simp only [keeps_upd]
    | split

theorem keeps_execMemoryMargin (r : Req) (s : State) : KeepsOut s (execMemoryMargin r s) := by
  unfold execMemoryMargin
  refine keeps_control _ _ _ _ _ (Keeps.refl s) ?_
  try dsimp only
  repeat' first
    | with_reducible assumption
    | with_reducible exact Keeps.refl s
    | with_reducible apply KeepsReply.done
    | with_reducible apply KeepsReply.later
    | with_reducible apply KeepsReply.counted
    | with_reducible exact KeepsReply.refuse _ _ _
    | with_reducible exact KeepsReply.refuseOpen _ _
    | with_reducible exact KeepsReply.badImage _ _
    | with_reducible exact KeepsReply.busy _
    | with_reducible apply keeps_wrF
    | with_reducible apply keeps_abortMargin
    | with_reducible apply keeps_startMargin
    | simp only [keeps_upd]
    | split

theorem keeps_execMemoryQuery (r : Req) (s : State) : KeepsOut s (execMemoryQuery r s) := by
  unfold execMemoryQuery
  refine keeps_control _ _ _ _ _ (Keeps.refl s) ?_
  try dsimp only
  repeat' first
    | with_reducible assumption
    | with_reducible exact Keeps.refl s
    | with_reducible apply KeepsReply.done
    | with_reducible apply KeepsReply.later
    | with_reducible apply KeepsReply.counted
    | with_reducible exact KeepsReply.refuse _ _ _
    | with_reducible exact KeepsReply.refuseOpen _ _
    | with_reducible exact KeepsReply.badImage _ _
    | with_reducible exact KeepsReply.busy _
    | simp only [keeps_upd]
    | split

theorem keeps_execFabricJoin (r : Req) (s : State) : KeepsOut s (execFabricJoin r s) := by
  unfold execFabricJoin
  refine keeps_control _ _ _ _ _ (Keeps.refl s) ?_
  try dsimp only
  repeat' first
    | with_reducible assumption
    | with_reducible exact Keeps.refl s
    | with_reducible apply KeepsReply.done
    | with_reducible apply KeepsReply.later
    | with_reducible apply KeepsReply.counted
    | with_reducible exact KeepsReply.refuse _ _ _
    | with_reducible exact KeepsReply.refuseOpen _ _
    | with_reducible exact KeepsReply.badImage _ _
    | with_reducible exact KeepsReply.busy _
    | with_reducible apply keeps_formMembership
    | simp only [keeps_upd]
    | split

theorem keeps_execFabricLeave (r : Req) (s : State) : KeepsOut s (execFabricLeave r s) := by
  unfold execFabricLeave
  refine keeps_control _ _ _ _ _ (Keeps.refl s) ?_
  try dsimp only
  repeat' first
    | with_reducible assumption
    | with_reducible exact Keeps.refl s
    | with_reducible apply KeepsReply.done
    | with_reducible apply KeepsReply.later
    | with_reducible apply KeepsReply.counted
    | with_reducible exact KeepsReply.refuse _ _ _
    | with_reducible exact KeepsReply.refuseOpen _ _
    | with_reducible exact KeepsReply.badImage _ _
    | with_reducible exact KeepsReply.busy _
    | with_reducible apply keeps_wrF
    | with_reducible apply keeps_wrB
    | with_reducible apply keeps_announce
    | with_reducible apply keeps_closeAll
    | with_reducible apply keeps_failEverything
    | simp only [keeps_upd]
    | split

theorem keeps_execFabricQuery (r : Req) (s : State) : KeepsOut s (execFabricQuery r s) := by
  unfold execFabricQuery
  refine keeps_control _ _ _ _ _ (Keeps.refl s) ?_
  try dsimp only
  repeat' first
    | with_reducible assumption
    | with_reducible exact Keeps.refl s
    | with_reducible apply KeepsReply.done

theorem keeps_execChunkStreamStart (p i : Nat) (e : StreamErrors) (s : State) : KeepsOut s (execChunkStreamStart p i e s) := by
  unfold execChunkStreamStart
  try dsimp only
  repeat' first
    | with_reducible assumption
    | with_reducible exact Keeps.refl s
    | with_reducible apply KeepsOut.next
    | with_reducible apply keeps_stagedError
    | with_reducible apply keeps_accFixed
    | with_reducible apply keeps_failRun
    | with_reducible apply keeps_streamNext
    | with_reducible apply keeps_stitchWaits
    | simp only [keeps_upd]
    | split

theorem keeps_execAccBankSwap (p i : Nat) (bad fixed : List Nat) (s : State) : KeepsOut s (execAccBankSwap p i bad fixed s) := by
  unfold execAccBankSwap
  try dsimp only
  repeat' first
    | with_reducible assumption
    | with_reducible exact Keeps.refl s
    | with_reducible apply KeepsOut.next
    | with_reducible apply keeps_stitchWaits
    | with_reducible apply keeps_swapBanks
    | simp only [keeps_upd]
    | split

theorem keeps_execQueueStoreUncorrectable (p : Nat) (s : State) : KeepsOut s (execQueueStoreUncorrectable p s) := by
  unfold execQueueStoreUncorrectable
  try dsimp only
  repeat' first
    | with_reducible assumption
    | with_reducible exact Keeps.refl s
    | with_reducible apply KeepsOut.next
    | with_reducible apply keeps_panelError
    | with_reducible apply keeps_logError
    | with_reducible apply keeps_isolatePanel
    | simp only [keeps_upd]
    | split

theorem keeps_execRetrainComplete (ch : Nat) (s : State) : KeepsOut s (execRetrainComplete ch s) := by
  unfold execRetrainComplete
  try dsimp only
  repeat' first
    | with_reducible assumption
    | with_reducible exact Keeps.refl s
    | with_reducible apply KeepsOut.next
    | with_reducible apply keeps_serveStalled
    | with_reducible apply keeps_endRetrain
    | simp only [keeps_upd]
    | split

theorem keeps_execFirmwarePut (r : Req) (s : State) : KeepsOut s (execFirmwarePut r s) := by
  unfold execFirmwarePut
  refine keeps_control _ _ _ _ _ (Keeps.refl s) ?_
  try dsimp only
  repeat' first
    | with_reducible assumption
    | with_reducible exact Keeps.refl s
    | with_reducible apply KeepsReply.done
    | with_reducible apply KeepsReply.later
    | with_reducible apply KeepsReply.counted
    | with_reducible exact KeepsReply.refuse _ _ _
    | with_reducible exact KeepsReply.refuseOpen _ _
    | with_reducible exact KeepsReply.badImage _ _
    | with_reducible exact KeepsReply.busy _
    | with_reducible apply keeps_storeBytes
    | with_reducible refine keeps_allotBlock_eq ?_ (by assumption)
    | simp only [keeps_upd]
    | split

theorem keeps_execFirmwareUpdate (r : Req) (sigOk : Verified) (s : State) : KeepsOut s (execFirmwareUpdate r sigOk s) := by
  unfold execFirmwareUpdate
  refine keeps_control _ _ _ _ _ (Keeps.refl s) ?_
  try dsimp only
  repeat' first
    | with_reducible assumption
    | with_reducible exact Keeps.refl s
    | with_reducible apply KeepsReply.done
    | with_reducible apply KeepsReply.later
    | with_reducible apply KeepsReply.counted
    | with_reducible exact KeepsReply.refuse _ _ _
    | with_reducible exact KeepsReply.refuseOpen _ _
    | with_reducible exact KeepsReply.badImage _ _
    | with_reducible exact KeepsReply.busy _
    | with_reducible apply keeps_bump
    | with_reducible apply keeps_readStage
    | simp only [keeps_upd]
    | split

theorem keeps_execAttestCerts (r : Req) (s : State) : KeepsOut s (execAttestCerts r s) := by
  unfold execAttestCerts
  refine keeps_control _ _ _ _ _ (Keeps.refl s) ?_
  try dsimp only
  repeat' first
    | with_reducible assumption
    | with_reducible exact Keeps.refl s
    | with_reducible apply KeepsReply.done
    | with_reducible apply KeepsReply.later
    | with_reducible apply KeepsReply.counted
    | with_reducible exact KeepsReply.refuse _ _ _
    | with_reducible exact KeepsReply.refuseOpen _ _
    | with_reducible exact KeepsReply.badImage _ _
    | with_reducible exact KeepsReply.busy _
    | simp only [keeps_upd]
    | split

theorem keeps_execAttestQuote (r : Req) (s : State) : KeepsOut s (execAttestQuote r s) := by
  unfold execAttestQuote
  refine keeps_control _ _ _ _ _ (Keeps.refl s) ?_
  try dsimp only
  repeat' first
    | with_reducible assumption
    | with_reducible exact Keeps.refl s
    | with_reducible apply KeepsReply.done
    | with_reducible apply KeepsReply.later
    | with_reducible apply KeepsReply.counted
    | with_reducible exact KeepsReply.refuse _ _ _
    | with_reducible exact KeepsReply.refuseOpen _ _
    | with_reducible exact KeepsReply.badImage _ _
    | with_reducible exact KeepsReply.busy _
    | with_reducible apply keeps_fresh

theorem keeps_execAttestSession (r : Req) (certOk : Verified) (s : State) : KeepsOut s (execAttestSession r certOk s) := by
  unfold execAttestSession
  refine keeps_control _ _ _ _ _ (Keeps.refl s) ?_
  try dsimp only
  repeat' first
    | with_reducible assumption
    | with_reducible exact Keeps.refl s
    | with_reducible apply KeepsReply.done
    | with_reducible apply KeepsReply.later
    | with_reducible apply KeepsReply.counted
    | with_reducible exact KeepsReply.refuse _ _ _
    | with_reducible exact KeepsReply.refuseOpen _ _
    | with_reducible exact KeepsReply.badImage _ _
    | with_reducible exact KeepsReply.busy _
    | with_reducible apply keeps_fresh
    | with_reducible refine keeps_fresh_eq ?_ (by assumption)
    | with_reducible apply keeps_makeSession
    | exact reply_sessionFault ‹_›
    | simp only [keeps_upd]
    | split

theorem keeps_execMaintRow (r : Req) (s : State) : KeepsOut s (execMaintRow r s) := by
  unfold execMaintRow
  refine keeps_control _ _ _ _ _ (Keeps.refl s) ?_
  try dsimp only
  repeat' first
    | with_reducible assumption
    | with_reducible exact Keeps.refl s
    | with_reducible apply KeepsReply.done
    | with_reducible apply KeepsReply.later
    | with_reducible apply KeepsReply.counted
    | with_reducible exact KeepsReply.refuse _ _ _
    | with_reducible exact KeepsReply.refuseOpen _ _
    | with_reducible exact KeepsReply.badImage _ _
    | with_reducible exact KeepsReply.busy _
    | with_reducible apply keeps_afterRepair
    | simp only [keeps_upd]
    | split

theorem keeps_execMaintFuse (r : Req) (s : State) : KeepsOut s (execMaintFuse r s) := by
  unfold execMaintFuse
  refine keeps_control _ _ _ _ _ (Keeps.refl s) ?_
  try dsimp only
  repeat' first
    | with_reducible assumption
    | with_reducible exact Keeps.refl s
    | with_reducible apply KeepsReply.done
    | with_reducible apply KeepsReply.later
    | with_reducible apply KeepsReply.counted
    | with_reducible exact KeepsReply.refuse _ _ _
    | with_reducible exact KeepsReply.refuseOpen _ _
    | with_reducible exact KeepsReply.badImage _ _
    | with_reducible exact KeepsReply.busy _
    | with_reducible apply keeps_afterRepair
    | simp only [keeps_upd]
    | split

theorem keeps_execMaintRread (r : Req) (s : State) : KeepsOut s (execMaintRread r s) := by
  unfold execMaintRread
  refine keeps_control _ _ _ _ _ (Keeps.refl s) ?_
  try dsimp only
  repeat' first
    | with_reducible assumption
    | with_reducible exact Keeps.refl s
    | with_reducible apply KeepsReply.done
    | with_reducible apply KeepsReply.later
    | with_reducible apply KeepsReply.counted
    | with_reducible exact KeepsReply.refuse _ _ _
    | with_reducible exact KeepsReply.refuseOpen _ _
    | with_reducible exact KeepsReply.badImage _ _
    | with_reducible exact KeepsReply.busy _
    | simp only [keeps_upd]
    | split

theorem keeps_execMaintDebug (r : Req) (s : State) : KeepsOut s (execMaintDebug r s) := by
  unfold execMaintDebug
  refine keeps_control _ _ _ _ _ (Keeps.refl s) ?_
  try dsimp only
  repeat' first
    | with_reducible assumption
    | with_reducible exact Keeps.refl s
    | with_reducible apply KeepsReply.done
    | with_reducible apply KeepsReply.later
    | with_reducible apply KeepsReply.counted
    | with_reducible exact KeepsReply.refuse _ _ _
    | with_reducible exact KeepsReply.refuseOpen _ _
    | with_reducible exact KeepsReply.badImage _ _
    | with_reducible exact KeepsReply.busy _
    | with_reducible apply keeps_enableDebug
    | simp only [keeps_upd]
    | split

theorem keeps_execUnknownCommand (r : Req) (code : Nat) (s : State) : KeepsOut s (execUnknownCommand r code s) := by
  unfold execUnknownCommand
  split
  · exact KeepsOut.next (Keeps.refl s)
  refine keeps_control _ _ _ _ _ (Keeps.refl s) ?_
  try dsimp only
  repeat' first
    | with_reducible assumption
    | with_reducible exact Keeps.refl s
    | with_reducible apply KeepsReply.done
    | with_reducible apply KeepsReply.later
    | with_reducible apply KeepsReply.counted
    | with_reducible exact KeepsReply.refuse _ _ _
    | with_reducible exact KeepsReply.refuseOpen _ _

theorem keeps_execSeqOpen (r : Req) (s : State) : KeepsOut s (execSeqOpen r s) := by
  unfold execSeqOpen
  refine keeps_control _ _ _ _ _ (Keeps.refl s) ?_
  have k1 : ∀ x, openFault r s = some x → KeepsReply s x := fun _ => reply_openFault
  revert k1
  show (∀ x, openFault r s = some x → KeepsReply s x) → KeepsReply s (match openFault r s with
    | some x => x
    | none => openInto (freeContext s) r s)
  generalize openFault r s = f
  intro k1
  cases f with
  | none =>
    dsimp only
    with_reducible exact reply_openInto _ _ _
  | some x =>
    dsimp only
    with_reducible exact k1 x rfl

theorem keeps_execSeqCancel (r : Req) (s : State) : KeepsOut s (execSeqCancel r s) := by
  unfold execSeqCancel
  refine keeps_control _ _ _ _ _ (Keeps.refl s) ?_
  try dsimp only
  repeat' first
    | with_reducible assumption
    | with_reducible exact Keeps.refl s
    | with_reducible apply KeepsReply.done
    | with_reducible apply KeepsReply.later
    | with_reducible apply KeepsReply.counted
    | with_reducible exact KeepsReply.refuse _ _ _
    | with_reducible exact KeepsReply.refuseOpen _ _
    | with_reducible exact KeepsReply.badImage _ _
    | with_reducible exact KeepsReply.busy _
    | with_reducible apply keeps_setSeq
    | exact reply_seqFault ‹_›
    | simp only [keeps_upd]
    | split

theorem keeps_execSeqQuery (r : Req) (s : State) : KeepsOut s (execSeqQuery r s) := by
  unfold execSeqQuery
  refine keeps_control _ _ _ _ _ (Keeps.refl s) ?_
  try dsimp only
  repeat' first
    | with_reducible assumption
    | with_reducible exact Keeps.refl s
    | with_reducible apply KeepsReply.done
    | with_reducible apply KeepsReply.later
    | with_reducible apply KeepsReply.counted
    | with_reducible exact KeepsReply.refuse _ _ _
    | with_reducible exact KeepsReply.refuseOpen _ _
    | with_reducible exact KeepsReply.badImage _ _
    | with_reducible exact KeepsReply.busy _
    | exact reply_seqFault ‹_›
    | simp only [keeps_upd]
    | split

theorem keeps_execSeqAllow (r : Req) (s : State) : KeepsOut s (execSeqAllow r s) := by
  unfold execSeqAllow
  refine keeps_control _ _ _ _ _ (Keeps.refl s) ?_
  try dsimp only
  repeat' first
    | with_reducible assumption
    | with_reducible exact Keeps.refl s
    | with_reducible apply KeepsReply.done
    | with_reducible apply KeepsReply.later
    | with_reducible apply KeepsReply.counted
    | with_reducible exact KeepsReply.refuse _ _ _
    | with_reducible exact KeepsReply.refuseOpen _ _
    | with_reducible exact KeepsReply.badImage _ _
    | with_reducible exact KeepsReply.busy _
    | with_reducible apply keeps_setSeq
    | exact reply_seqFault ‹_›
    | simp only [keeps_upd]
    | split

theorem keeps_execPrefixPin (r : Req) (s : State) : KeepsOut s (execPrefixPin r s) := by
  unfold execPrefixPin
  refine keeps_control _ _ _ _ _ (Keeps.refl s) ?_
  try dsimp only
  repeat' first
    | with_reducible assumption
    | with_reducible exact Keeps.refl s
    | with_reducible apply KeepsReply.done
    | with_reducible apply KeepsReply.later
    | with_reducible apply KeepsReply.counted
    | with_reducible exact KeepsReply.refuse _ _ _
    | with_reducible exact KeepsReply.refuseOpen _ _
    | with_reducible exact KeepsReply.badImage _ _
    | with_reducible exact KeepsReply.busy _
    | with_reducible apply keeps_setSeq
    | exact reply_seqFault ‹_›
    | simp only [keeps_upd]
    | split

theorem keeps_execPrefixUnpin (r : Req) (s : State) : KeepsOut s (execPrefixUnpin r s) := by
  unfold execPrefixUnpin
  refine keeps_control _ _ _ _ _ (Keeps.refl s) ?_
  try dsimp only
  repeat' first
    | with_reducible assumption
    | with_reducible exact Keeps.refl s
    | with_reducible apply KeepsReply.done
    | with_reducible apply KeepsReply.later
    | with_reducible apply KeepsReply.counted
    | with_reducible exact KeepsReply.refuse _ _ _
    | with_reducible exact KeepsReply.refuseOpen _ _
    | with_reducible exact KeepsReply.badImage _ _
    | with_reducible exact KeepsReply.busy _
    | with_reducible apply keeps_unpin
    | exact reply_handleFault ‹_›
    | simp only [keeps_upd]
    | split

theorem keeps_execPrefixQuery (r : Req) (s : State) : KeepsOut s (execPrefixQuery r s) := by
  unfold execPrefixQuery
  refine keeps_control _ _ _ _ _ (Keeps.refl s) ?_
  try dsimp only
  repeat' first
    | with_reducible assumption
    | with_reducible exact Keeps.refl s
    | with_reducible apply KeepsReply.done
    | with_reducible apply KeepsReply.later
    | with_reducible apply KeepsReply.counted
    | with_reducible exact KeepsReply.refuse _ _ _
    | with_reducible exact KeepsReply.refuseOpen _ _
    | with_reducible exact KeepsReply.badImage _ _
    | with_reducible exact KeepsReply.busy _
    | exact reply_handleFault ‹_›
    | simp only [keeps_upd]
    | split

theorem keeps_execHemWriteComplete (s : State) : KeepsOut s (execHemWriteComplete s) := by
  unfold execHemWriteComplete
  try dsimp only
  repeat' first
    | with_reducible assumption
    | with_reducible exact Keeps.refl s
    | with_reducible apply KeepsOut.next
    | with_reducible apply keeps_pinsParked
    | simp only [keeps_upd]
    | split

theorem keeps_execGateRouting (step : Nat) (s : State) : KeepsOut s (execGateRouting step s) := by
  unfold execGateRouting
  try dsimp only
  repeat' first
    | with_reducible assumption
    | with_reducible exact Keeps.refl s
    | with_reducible apply KeepsOut.next
    | with_reducible apply keeps_atCompletion
    | with_reducible apply keeps_routeTokens
    | simp only [keeps_upd]
    | split

theorem keeps_execExpertPieceExpansion (step : Nat) (s : State) : KeepsOut s (execExpertPieceExpansion step s) := by
  unfold execExpertPieceExpansion
  try dsimp only
  repeat' first
    | with_reducible assumption
    | with_reducible exact Keeps.refl s
    | with_reducible apply KeepsOut.next
    | with_reducible apply keeps_expandExpert
    | simp only [keeps_upd]
    | split

theorem keeps_execMonitorSample (m event : Nat) (s : State) : KeepsOut s (execMonitorSample m event s) := by
  unfold execMonitorSample
  try dsimp only
  repeat' first
    | with_reducible assumption
    | with_reducible exact Keeps.refl s
    | with_reducible apply KeepsOut.next
    | with_reducible apply keeps_setMon
    | with_reducible apply keeps_capture
    | simp only [keeps_upd]
    | split

theorem keeps_execMonCfgWrite (monitor : Nat) (value : Word) (s : State) : KeepsOut s (execMonCfgWrite monitor value s) := by
  unfold execMonCfgWrite
  try dsimp only
  repeat' first
    | with_reducible assumption
    | with_reducible exact Keeps.refl s
    | with_reducible apply KeepsOut.next
    | with_reducible apply keeps_writeFields
    | with_reducible apply keeps_clearCapture
    | simp only [keeps_upd]
    | split

theorem keeps_execMonitorSet (r : Req) (s : State) : KeepsOut s (execMonitorSet r s) := by
  unfold execMonitorSet
  refine keeps_control _ _ _ _ _ (Keeps.refl s) ?_
  try dsimp only
  repeat' first
    | with_reducible assumption
    | with_reducible exact Keeps.refl s
    | with_reducible apply KeepsReply.done
    | with_reducible apply KeepsReply.later
    | with_reducible apply KeepsReply.counted
    | with_reducible exact KeepsReply.refuse _ _ _
    | with_reducible exact KeepsReply.refuseOpen _ _
    | with_reducible exact KeepsReply.badImage _ _
    | with_reducible exact KeepsReply.busy _
    | with_reducible apply keeps_wr
    | with_reducible apply keeps_wrF
    | with_reducible apply keeps_clearCapture
    | simp only [keeps_upd]
    | split

theorem keeps_execMonitorRead (r : Req) (s : State) : KeepsOut s (execMonitorRead r s) := by
  unfold execMonitorRead
  refine keeps_control _ _ _ _ _ (Keeps.refl s) ?_
  try dsimp only
  repeat' first
    | with_reducible assumption
    | with_reducible exact Keeps.refl s
    | with_reducible apply KeepsReply.done
    | with_reducible apply KeepsReply.later
    | with_reducible apply KeepsReply.counted
    | with_reducible exact KeepsReply.refuse _ _ _
    | with_reducible exact KeepsReply.refuseOpen _ _
    | with_reducible exact KeepsReply.badImage _ _
    | with_reducible exact KeepsReply.busy _
    | simp only [keeps_upd]
    | split

theorem keeps_execMonitorClear (r : Req) (s : State) : KeepsOut s (execMonitorClear r s) := by
  unfold execMonitorClear
  refine keeps_control _ _ _ _ _ (Keeps.refl s) ?_
  try dsimp only
  repeat' first
    | with_reducible assumption
    | with_reducible exact Keeps.refl s
    | with_reducible apply KeepsReply.done
    | with_reducible apply KeepsReply.later
    | with_reducible apply KeepsReply.counted
    | with_reducible exact KeepsReply.refuse _ _ _
    | with_reducible exact KeepsReply.refuseOpen _ _
    | with_reducible exact KeepsReply.badImage _ _
    | with_reducible exact KeepsReply.busy _
    | with_reducible apply keeps_clearGroup
    | (with_reducible refine Keeps.foldl _ ?_ (fun _ _ _ => ?_))
    | (with_reducible refine Keeps.foldl2 _ ?_ (fun _ _ _ => ?_))
    | simp only [keeps_upd]
    | split

theorem keeps_execMonitorRegs (r : Req) (s : State) : KeepsOut s (execMonitorRegs r s) := by
  unfold execMonitorRegs
  refine keeps_control _ _ _ _ _ (Keeps.refl s) ?_
  try dsimp only
  repeat' first
    | with_reducible assumption
    | with_reducible exact Keeps.refl s
    | with_reducible apply KeepsReply.done
    | with_reducible apply KeepsReply.later
    | with_reducible apply KeepsReply.counted
    | with_reducible exact KeepsReply.refuse _ _ _
    | with_reducible exact KeepsReply.refuseOpen _ _
    | with_reducible exact KeepsReply.badImage _ _
    | with_reducible exact KeepsReply.busy _
    | with_reducible apply keeps_readRun
    | simp only [keeps_upd]
    | split

theorem keeps_execTickPeriodNextWrite (value : Word) (s : State) : KeepsOut s (execTickPeriodNextWrite value s) := by
  unfold execTickPeriodNextWrite
  try dsimp only
  repeat' first
    | with_reducible assumption
    | with_reducible exact Keeps.refl s
    | with_reducible apply KeepsOut.next
    | with_reducible apply keeps_wrF
    | with_reducible apply keeps_wrB

theorem keeps_execErrlogHeadWrite (value : Word) (s : State) : KeepsOut s (execErrlogHeadWrite value s) := by
  unfold execErrlogHeadWrite
  try dsimp only
  repeat' first
    | with_reducible assumption
    | with_reducible exact Keeps.refl s
    | with_reducible apply KeepsOut.next
    | with_reducible apply keeps_wrF

theorem keeps_execBucketLevelWrite (tenant : Nat) (value : Word) (s : State) : KeepsOut s (execBucketLevelWrite tenant value s) := by
  unfold execBucketLevelWrite
  try dsimp only
  repeat' first
    | with_reducible assumption
    | with_reducible exact Keeps.refl s
    | with_reducible apply KeepsOut.next
    | with_reducible apply keeps_wrF
    | simp only [keeps_upd]
    | split

theorem keeps_writeArray (name : String) (i j addr : Nat) (value : Word) (s : State) : KeepsOut s (writeArray name i j addr value s) := by
  unfold writeArray
  split
  · exact keeps_execChMarginStart _ _ _ s
  · exact keeps_execChCtrlEnable _ _ s
  · exact keeps_execChTailWrite _ _ s
  · exact keeps_execKrTxCtrlEnable _ _ s
  · exact keeps_execKrTxTailWrite _ _ s
  · exact keeps_execKrRxCtrlEnable _ _ s
  · exact keeps_execKrRxHeadWrite _ _ s
  · exact keeps_execBucketLevelWrite _ _ s
  · exact keeps_execMonCfgWrite _ _ s
  · exact keeps_execMboxRelease _ _ s
  · exact KeepsOut.next (keeps_writeFields _ _ _ (Keeps.refl s))

theorem keeps_writeOwn (addr : Nat) (value : Word) (s : State) : KeepsOut s (writeOwn addr value s) := by
  unfold writeOwn
  repeat' first
    | with_reducible exact Keeps.refl s
    | with_reducible exact keeps_execRegionEnableWrite _ _ _
    | with_reducible exact keeps_execCounterCtrlClear _ _ _
    | with_reducible exact keeps_execMemRetrainStart _ _
    | with_reducible exact keeps_execTickPeriodNextWrite _ _
    | with_reducible exact keeps_execErrlogHeadWrite _ _
    | with_reducible exact keeps_execThWdogPet _ _
    | with_reducible exact keeps_writeArray _ _ _ _ _ _
    | with_reducible apply keeps_writePlanCtrl
    | with_reducible apply KeepsOut.next
    | split

theorem keeps_execRegisterWrite (addr : Nat) (value : Word) (s : State) : KeepsOut s (execRegisterWrite addr value s) := by
  unfold execRegisterWrite
  split
  · exact keeps_writeOwn _ _ _
  · exact KeepsOut.next (keeps_writePlain _ _ _ (Keeps.refl s))

theorem keeps_execTapInstruction (op : Nat) (s : State) : KeepsOut s (execTapInstruction op s) := by
  unfold execTapInstruction
  try dsimp only
  repeat' first
    | with_reducible assumption
    | with_reducible exact Keeps.refl s
    | with_reducible apply KeepsOut.next
    | simp only [keeps_upd]

theorem keeps_execTickEdge (s : State) : KeepsOut s (execTickEdge s) := by
  unfold execTickEdge
  try dsimp only
  repeat' first
    | with_reducible assumption
    | with_reducible exact Keeps.refl s
    | with_reducible apply KeepsOut.next
    | with_reducible apply keeps_refillBuckets
    | with_reducible apply keeps_policyEdge
    | with_reducible apply keeps_edgeHardware
    | with_reducible apply keeps_edgeWork
    | simp only [keeps_upd]
    | split

theorem keeps_execFirmwareUpdatePauseEnd (s : State) : KeepsOut s (execFirmwareUpdatePauseEnd s) := by
  unfold execFirmwareUpdatePauseEnd
  try dsimp only
  repeat' first
    | with_reducible assumption
    | with_reducible exact Keeps.refl s
    | with_reducible apply KeepsOut.next
    | with_reducible apply keeps_takeUpdate
    | simp only [keeps_upd]
    | split

theorem keeps_execVNop (p : Nat) (s : State) : KeepsOut s (execVNop p s) := by
  unfold execVNop
  try dsimp only
  repeat' first
    | with_reducible assumption
    | with_reducible exact Keeps.refl s
    | with_reducible apply KeepsOut.next
    | with_reducible apply keeps_vecInstr
    | simp only [keeps_upd]
    | split

theorem keeps_execVAdd (p d a b : Nat) (s : State) : KeepsOut s (execVAdd p d a b s) := by
  unfold execVAdd
  try dsimp only
  repeat' first
    | with_reducible assumption
    | with_reducible exact Keeps.refl s
    | with_reducible apply KeepsOut.next
    | with_reducible apply keeps_vecInstr
    | simp only [keeps_upd]
    | split

theorem keeps_execVSub (p d a b : Nat) (s : State) : KeepsOut s (execVSub p d a b s) := by
  unfold execVSub
  try dsimp only
  repeat' first
    | with_reducible assumption
    | with_reducible exact Keeps.refl s
    | with_reducible apply KeepsOut.next
    | with_reducible apply keeps_vecInstr
    | simp only [keeps_upd]
    | split

theorem keeps_execVMul (p d a b : Nat) (s : State) : KeepsOut s (execVMul p d a b s) := by
  unfold execVMul
  try dsimp only
  repeat' first
    | with_reducible assumption
    | with_reducible exact Keeps.refl s
    | with_reducible apply KeepsOut.next
    | with_reducible apply keeps_vecInstr
    | simp only [keeps_upd]
    | split

theorem keeps_execVFma (p d a b c : Nat) (s : State) : KeepsOut s (execVFma p d a b c s) := by
  unfold execVFma
  try dsimp only
  repeat' first
    | with_reducible assumption
    | with_reducible exact Keeps.refl s
    | with_reducible apply KeepsOut.next
    | with_reducible apply keeps_vecInstr
    | simp only [keeps_upd]
    | split

theorem keeps_execVMax (p d a b : Nat) (s : State) : KeepsOut s (execVMax p d a b s) := by
  unfold execVMax
  try dsimp only
  repeat' first
    | with_reducible assumption
    | with_reducible exact Keeps.refl s
    | with_reducible apply KeepsOut.next
    | with_reducible apply keeps_vecInstr
    | simp only [keeps_upd]
    | split

theorem keeps_execVMin (p d a b : Nat) (s : State) : KeepsOut s (execVMin p d a b s) := by
  unfold execVMin
  try dsimp only
  repeat' first
    | with_reducible assumption
    | with_reducible exact Keeps.refl s
    | with_reducible apply KeepsOut.next
    | with_reducible apply keeps_vecInstr
    | simp only [keeps_upd]
    | split

theorem keeps_execVExp (p d a : Nat) (s : State) : KeepsOut s (execVExp p d a s) := by
  unfold execVExp
  try dsimp only
  repeat' first
    | with_reducible assumption
    | with_reducible exact Keeps.refl s
    | with_reducible apply KeepsOut.next
    | with_reducible apply keeps_vecInstr
    | simp only [keeps_upd]
    | split

theorem keeps_execVRcp (p d a : Nat) (s : State) : KeepsOut s (execVRcp p d a s) := by
  unfold execVRcp
  try dsimp only
  repeat' first
    | with_reducible assumption
    | with_reducible exact Keeps.refl s
    | with_reducible apply KeepsOut.next
    | with_reducible apply keeps_vecInstr
    | simp only [keeps_upd]
    | split

theorem keeps_execVRsq (p d a : Nat) (s : State) : KeepsOut s (execVRsq p d a s) := by
  unfold execVRsq
  try dsimp only
  repeat' first
    | with_reducible assumption
    | with_reducible exact Keeps.refl s
    | with_reducible apply KeepsOut.next
    | with_reducible apply keeps_vecInstr
    | simp only [keeps_upd]
    | split

theorem keeps_execVDiv (p d a b : Nat) (s : State) : KeepsOut s (execVDiv p d a b s) := by
  unfold execVDiv
  try dsimp only
  repeat' first
    | with_reducible assumption
    | with_reducible exact Keeps.refl s
    | with_reducible apply KeepsOut.next
    | with_reducible apply keeps_vecInstr
    | simp only [keeps_upd]
    | split

theorem keeps_execVLd (p d a : Nat) (s : State) : KeepsOut s (execVLd p d a s) := by
  unfold execVLd
  try dsimp only
  repeat' first
    | with_reducible assumption
    | with_reducible exact Keeps.refl s
    | with_reducible apply KeepsOut.next
    | with_reducible apply keeps_vecInstr
    | simp only [keeps_upd]
    | split

theorem keeps_execVSt (p d a : Nat) (s : State) : KeepsOut s (execVSt p d a s) := by
  unfold execVSt
  try dsimp only
  repeat' first
    | with_reducible assumption
    | with_reducible exact Keeps.refl s
    | with_reducible apply KeepsOut.next
    | with_reducible apply keeps_vecInstr
    | simp only [keeps_upd]
    | split

theorem keeps_execVRsum (p d a : Nat) (s : State) : KeepsOut s (execVRsum p d a s) := by
  unfold execVRsum
  try dsimp only
  repeat' first
    | with_reducible assumption
    | with_reducible exact Keeps.refl s
    | with_reducible apply KeepsOut.next
    | with_reducible apply keeps_vecInstr
    | simp only [keeps_upd]
    | split

theorem keeps_execVRmax (p d a : Nat) (s : State) : KeepsOut s (execVRmax p d a s) := by
  unfold execVRmax
  try dsimp only
  repeat' first
    | with_reducible assumption
    | with_reducible exact Keeps.refl s
    | with_reducible apply KeepsOut.next
    | with_reducible apply keeps_vecInstr
    | simp only [keeps_upd]
    | split

theorem keeps_execVPhase (p : Nat) (s : State) : KeepsOut s (execVPhase p s) := by
  unfold execVPhase
  try dsimp only
  repeat' first
    | with_reducible assumption
    | with_reducible exact Keeps.refl s
    | with_reducible apply KeepsOut.next
    | with_reducible apply keeps_vecInstr
    | simp only [keeps_upd]
    | split

theorem keeps_execVectorProgram (p : Nat) (err : SramError) (s : State) : KeepsOut s (execVectorProgram p err s) := by
  unfold execVectorProgram
  try dsimp only
  repeat' first
    | with_reducible assumption
    | with_reducible exact Keeps.refl s
    | with_reducible apply KeepsOut.next
    | with_reducible apply keeps_retire
    | with_reducible apply keeps_runProgram
    | (with_reducible refine keeps_underSram _ _ _ _ _ ?_ (fun _ _ => ?_))
    | simp only [keeps_upd]
    | split

end Sys2Proof.Laws
end

