-- ==== Sys2Proof/Laws/State.lean ====
section
/-! SUPPORT. What each named update of the state leaves alone: one lemma for each update, whose parts rewrite every other field. -/

namespace Sys2Proof.Laws

open Sys2Proof.Machine

@[simp] theorem wr_frame (a : Nat) (v : Word) (s : State) :
    (wr a v s).pending = s.pending ∧ (wr a v s).fuse = s.fuse ∧ (wr a v s).straps = s.straps ∧ (wr a v s).free = s.free ∧ (wr a v s).tape = s.tape ∧
    (wr a v s).frac = s.frac ∧ (wr a v s).mem = s.mem ∧ (wr a v s).poison = s.poison ∧ (wr a v s).lineKey = s.lineKey ∧ (wr a v s).devKey = s.devKey ∧
    (wr a v s).cache = s.cache ∧ (wr a v s).lastAtomic = s.lastAtomic ∧ (wr a v s).margins = s.margins ∧ (wr a v s).failing = s.failing ∧
    (wr a v s).unspared = s.unspared ∧ (wr a v s).laneBits = s.laneBits ∧ (wr a v s).centred = s.centred ∧ (wr a v s).offsets = s.offsets ∧
    (wr a v s).scrubbed = s.scrubbed ∧ (wr a v s).scrubSince = s.scrubSince ∧ (wr a v s).stalled = s.stalled ∧ (wr a v s).sessions = s.sessions ∧
    (wr a v s).slotKinds = s.slotKinds ∧ (wr a v s).out = s.out ∧ (wr a v s).nsn = s.nsn ∧ (wr a v s).noticed = s.noticed ∧ (wr a v s).breaches = s.breaches ∧
    (wr a v s).tallies = s.tallies ∧ (wr a v s).routes = s.routes ∧ (wr a v s).tenants = s.tenants ∧ (wr a v s).stages = s.stages ∧ (wr a v s).models = s.models ∧
    (wr a v s).grammars = s.grammars ∧ (wr a v s).seqs = s.seqs ∧ (wr a v s).prefixes = s.prefixes ∧ (wr a v s).allotted = s.allotted ∧ (wr a v s).arena = s.arena ∧
    (wr a v s).freePages = s.freePages ∧ (wr a v s).deferred = s.deferred ∧ (wr a v s).leaked = s.leaked ∧ (wr a v s).kvJobs = s.kvJobs ∧
    (wr a v s).cowJobs = s.cowJobs ∧ (wr a v s).plan = s.plan ∧ (wr a v s).frozen = s.frozen ∧ (wr a v s).sealed = s.sealed ∧ (wr a v s).admits = s.admits ∧
    (wr a v s).edge = s.edge ∧ (wr a v s).stepNext = s.stepNext ∧ (wr a v s).dealNext = s.dealNext ∧ (wr a v s).steps = s.steps ∧ (wr a v s).execAt = s.execAt ∧
    (wr a v s).missedRun = s.missedRun ∧ (wr a v s).predicted = s.predicted ∧ (wr a v s).admitted = s.admitted ∧ (wr a v s).split = s.split ∧
    (wr a v s).laneGroups = s.laneGroups ∧ (wr a v s).slots = s.slots ∧ (wr a v s).panels = s.panels ∧ (wr a v s).nodes = s.nodes ∧
    (wr a v s).gateQueue = s.gateQueue ∧ (wr a v s).undealt = s.undealt ∧ (wr a v s).undealtMat = s.undealtMat ∧ (wr a v s).redivide = s.redivide ∧
    (wr a v s).monitors = s.monitors ∧ (wr a v s).lateCancels = s.lateCancels ∧ (wr a v s).turn = s.turn ∧ (wr a v s).boxTurn = s.boxTurn ∧
    (wr a v s).stretchModels = s.stretchModels ∧ (wr a v s).worked = s.worked ∧ (wr a v s).stepTenants = s.stepTenants ∧ (wr a v s).caused = s.caused ∧
    (wr a v s).guarded = s.guarded ∧ (wr a v s).skipped = s.skipped ∧ (wr a v s).core2 = s.core2 ∧ (wr a v s).channels = s.channels ∧
    (wr a v s).lastStop = s.lastStop ∧ (wr a v s).lastResp = s.lastResp ∧ (wr a v s).retrainDue = s.retrainDue ∧ (wr a v s).trainedAt = s.trainedAt ∧
    (wr a v s).trainedTemp = s.trainedTemp ∧ (wr a v s).retrainLast = s.retrainLast ∧ (wr a v s).retrained = s.retrained ∧ (wr a v s).rotation = s.rotation ∧
    (wr a v s).rotAt = s.rotAt ∧ (wr a v s).rotLane = s.rotLane ∧ (wr a v s).laneFuse = s.laneFuse ∧ (wr a v s).repaired = s.repaired ∧
    (wr a v s).slicePending = s.slicePending ∧ (wr a v s).repart = s.repart ∧ (wr a v s).boot = s.boot ∧ (wr a v s).zeroRegions = s.zeroRegions ∧
    (wr a v s).secure = s.secure ∧ (wr a v s).fabric = s.fabric ∧ (wr a v s).conns = s.conns ∧ (wr a v s).txRings = s.txRings ∧ (wr a v s).rxHeld = s.rxHeld ∧
    (wr a v s).thimble = s.thimble ∧ (wr a v s).pins = s.pins ∧ (wr a v s).power = s.power ∧ (wr a v s).warmDue = s.warmDue ∧ (wr a v s).update = s.update ∧
    (wr a v s).fwStage = s.fwStage ∧ (wr a v s).sleepTo = s.sleepTo ∧ (wr a v s).addrs = s.addrs := by
  and_intros <;> rfl

@[simp] theorem wrF_frame (a hi lo v : Nat) (s : State) :
    (wrF a hi lo v s).pending = s.pending ∧ (wrF a hi lo v s).fuse = s.fuse ∧ (wrF a hi lo v s).straps = s.straps ∧ (wrF a hi lo v s).free = s.free ∧
    (wrF a hi lo v s).tape = s.tape ∧ (wrF a hi lo v s).frac = s.frac ∧ (wrF a hi lo v s).mem = s.mem ∧ (wrF a hi lo v s).poison = s.poison ∧
    (wrF a hi lo v s).lineKey = s.lineKey ∧ (wrF a hi lo v s).devKey = s.devKey ∧ (wrF a hi lo v s).cache = s.cache ∧ (wrF a hi lo v s).lastAtomic = s.lastAtomic ∧
    (wrF a hi lo v s).margins = s.margins ∧ (wrF a hi lo v s).failing = s.failing ∧ (wrF a hi lo v s).unspared = s.unspared ∧
    (wrF a hi lo v s).laneBits = s.laneBits ∧ (wrF a hi lo v s).centred = s.centred ∧ (wrF a hi lo v s).offsets = s.offsets ∧
    (wrF a hi lo v s).scrubbed = s.scrubbed ∧ (wrF a hi lo v s).scrubSince = s.scrubSince ∧ (wrF a hi lo v s).stalled = s.stalled ∧
    (wrF a hi lo v s).sessions = s.sessions ∧ (wrF a hi lo v s).slotKinds = s.slotKinds ∧ (wrF a hi lo v s).out = s.out ∧ (wrF a hi lo v s).nsn = s.nsn ∧
    (wrF a hi lo v s).noticed = s.noticed ∧ (wrF a hi lo v s).breaches = s.breaches ∧ (wrF a hi lo v s).tallies = s.tallies ∧ (wrF a hi lo v s).routes = s.routes ∧
    (wrF a hi lo v s).tenants = s.tenants ∧ (wrF a hi lo v s).stages = s.stages ∧ (wrF a hi lo v s).models = s.models ∧ (wrF a hi lo v s).grammars = s.grammars ∧
    (wrF a hi lo v s).seqs = s.seqs ∧ (wrF a hi lo v s).prefixes = s.prefixes ∧ (wrF a hi lo v s).allotted = s.allotted ∧ (wrF a hi lo v s).arena = s.arena ∧
    (wrF a hi lo v s).freePages = s.freePages ∧ (wrF a hi lo v s).deferred = s.deferred ∧ (wrF a hi lo v s).leaked = s.leaked ∧ (wrF a hi lo v s).kvJobs = s.kvJobs ∧
    (wrF a hi lo v s).cowJobs = s.cowJobs ∧ (wrF a hi lo v s).plan = s.plan ∧ (wrF a hi lo v s).frozen = s.frozen ∧ (wrF a hi lo v s).sealed = s.sealed ∧
    (wrF a hi lo v s).admits = s.admits ∧ (wrF a hi lo v s).edge = s.edge ∧ (wrF a hi lo v s).stepNext = s.stepNext ∧ (wrF a hi lo v s).dealNext = s.dealNext ∧
    (wrF a hi lo v s).steps = s.steps ∧ (wrF a hi lo v s).execAt = s.execAt ∧ (wrF a hi lo v s).missedRun = s.missedRun ∧ (wrF a hi lo v s).predicted = s.predicted ∧
    (wrF a hi lo v s).admitted = s.admitted ∧ (wrF a hi lo v s).split = s.split ∧ (wrF a hi lo v s).laneGroups = s.laneGroups ∧ (wrF a hi lo v s).slots = s.slots ∧
    (wrF a hi lo v s).panels = s.panels ∧ (wrF a hi lo v s).nodes = s.nodes ∧ (wrF a hi lo v s).gateQueue = s.gateQueue ∧ (wrF a hi lo v s).undealt = s.undealt ∧
    (wrF a hi lo v s).undealtMat = s.undealtMat ∧ (wrF a hi lo v s).redivide = s.redivide ∧ (wrF a hi lo v s).monitors = s.monitors ∧
    (wrF a hi lo v s).lateCancels = s.lateCancels ∧ (wrF a hi lo v s).turn = s.turn ∧ (wrF a hi lo v s).boxTurn = s.boxTurn ∧
    (wrF a hi lo v s).stretchModels = s.stretchModels ∧ (wrF a hi lo v s).worked = s.worked ∧ (wrF a hi lo v s).stepTenants = s.stepTenants ∧
    (wrF a hi lo v s).caused = s.caused ∧ (wrF a hi lo v s).guarded = s.guarded ∧ (wrF a hi lo v s).skipped = s.skipped ∧ (wrF a hi lo v s).core2 = s.core2 ∧
    (wrF a hi lo v s).channels = s.channels ∧ (wrF a hi lo v s).lastStop = s.lastStop ∧ (wrF a hi lo v s).lastResp = s.lastResp ∧
    (wrF a hi lo v s).retrainDue = s.retrainDue ∧ (wrF a hi lo v s).trainedAt = s.trainedAt ∧ (wrF a hi lo v s).trainedTemp = s.trainedTemp ∧
    (wrF a hi lo v s).retrainLast = s.retrainLast ∧ (wrF a hi lo v s).retrained = s.retrained ∧ (wrF a hi lo v s).rotation = s.rotation ∧
    (wrF a hi lo v s).rotAt = s.rotAt ∧ (wrF a hi lo v s).rotLane = s.rotLane ∧ (wrF a hi lo v s).laneFuse = s.laneFuse ∧ (wrF a hi lo v s).repaired = s.repaired ∧
    (wrF a hi lo v s).slicePending = s.slicePending ∧ (wrF a hi lo v s).repart = s.repart ∧ (wrF a hi lo v s).boot = s.boot ∧
    (wrF a hi lo v s).zeroRegions = s.zeroRegions ∧ (wrF a hi lo v s).secure = s.secure ∧ (wrF a hi lo v s).fabric = s.fabric ∧ (wrF a hi lo v s).conns = s.conns ∧
    (wrF a hi lo v s).txRings = s.txRings ∧ (wrF a hi lo v s).rxHeld = s.rxHeld ∧ (wrF a hi lo v s).thimble = s.thimble ∧ (wrF a hi lo v s).pins = s.pins ∧
    (wrF a hi lo v s).power = s.power ∧ (wrF a hi lo v s).warmDue = s.warmDue ∧ (wrF a hi lo v s).update = s.update ∧ (wrF a hi lo v s).fwStage = s.fwStage ∧
    (wrF a hi lo v s).sleepTo = s.sleepTo ∧ (wrF a hi lo v s).addrs = s.addrs := by
  and_intros <;> rfl

@[simp] theorem wrB_frame (a i : Nat) (b : Bool) (s : State) :
    (wrB a i b s).pending = s.pending ∧ (wrB a i b s).fuse = s.fuse ∧ (wrB a i b s).straps = s.straps ∧ (wrB a i b s).free = s.free ∧ (wrB a i b s).tape = s.tape ∧
    (wrB a i b s).frac = s.frac ∧ (wrB a i b s).mem = s.mem ∧ (wrB a i b s).poison = s.poison ∧ (wrB a i b s).lineKey = s.lineKey ∧ (wrB a i b s).devKey = s.devKey ∧
    (wrB a i b s).cache = s.cache ∧ (wrB a i b s).lastAtomic = s.lastAtomic ∧ (wrB a i b s).margins = s.margins ∧ (wrB a i b s).failing = s.failing ∧
    (wrB a i b s).unspared = s.unspared ∧ (wrB a i b s).laneBits = s.laneBits ∧ (wrB a i b s).centred = s.centred ∧ (wrB a i b s).offsets = s.offsets ∧
    (wrB a i b s).scrubbed = s.scrubbed ∧ (wrB a i b s).scrubSince = s.scrubSince ∧ (wrB a i b s).stalled = s.stalled ∧ (wrB a i b s).sessions = s.sessions ∧
    (wrB a i b s).slotKinds = s.slotKinds ∧ (wrB a i b s).out = s.out ∧ (wrB a i b s).nsn = s.nsn ∧ (wrB a i b s).noticed = s.noticed ∧
    (wrB a i b s).breaches = s.breaches ∧ (wrB a i b s).tallies = s.tallies ∧ (wrB a i b s).routes = s.routes ∧ (wrB a i b s).tenants = s.tenants ∧
    (wrB a i b s).stages = s.stages ∧ (wrB a i b s).models = s.models ∧ (wrB a i b s).grammars = s.grammars ∧ (wrB a i b s).seqs = s.seqs ∧
    (wrB a i b s).prefixes = s.prefixes ∧ (wrB a i b s).allotted = s.allotted ∧ (wrB a i b s).arena = s.arena ∧ (wrB a i b s).freePages = s.freePages ∧
    (wrB a i b s).deferred = s.deferred ∧ (wrB a i b s).leaked = s.leaked ∧ (wrB a i b s).kvJobs = s.kvJobs ∧ (wrB a i b s).cowJobs = s.cowJobs ∧
    (wrB a i b s).plan = s.plan ∧ (wrB a i b s).frozen = s.frozen ∧ (wrB a i b s).sealed = s.sealed ∧ (wrB a i b s).admits = s.admits ∧ (wrB a i b s).edge = s.edge ∧
    (wrB a i b s).stepNext = s.stepNext ∧ (wrB a i b s).dealNext = s.dealNext ∧ (wrB a i b s).steps = s.steps ∧ (wrB a i b s).execAt = s.execAt ∧
    (wrB a i b s).missedRun = s.missedRun ∧ (wrB a i b s).predicted = s.predicted ∧ (wrB a i b s).admitted = s.admitted ∧ (wrB a i b s).split = s.split ∧
    (wrB a i b s).laneGroups = s.laneGroups ∧ (wrB a i b s).slots = s.slots ∧ (wrB a i b s).panels = s.panels ∧ (wrB a i b s).nodes = s.nodes ∧
    (wrB a i b s).gateQueue = s.gateQueue ∧ (wrB a i b s).undealt = s.undealt ∧ (wrB a i b s).undealtMat = s.undealtMat ∧ (wrB a i b s).redivide = s.redivide ∧
    (wrB a i b s).monitors = s.monitors ∧ (wrB a i b s).lateCancels = s.lateCancels ∧ (wrB a i b s).turn = s.turn ∧ (wrB a i b s).boxTurn = s.boxTurn ∧
    (wrB a i b s).stretchModels = s.stretchModels ∧ (wrB a i b s).worked = s.worked ∧ (wrB a i b s).stepTenants = s.stepTenants ∧ (wrB a i b s).caused = s.caused ∧
    (wrB a i b s).guarded = s.guarded ∧ (wrB a i b s).skipped = s.skipped ∧ (wrB a i b s).core2 = s.core2 ∧ (wrB a i b s).channels = s.channels ∧
    (wrB a i b s).lastStop = s.lastStop ∧ (wrB a i b s).lastResp = s.lastResp ∧ (wrB a i b s).retrainDue = s.retrainDue ∧ (wrB a i b s).trainedAt = s.trainedAt ∧
    (wrB a i b s).trainedTemp = s.trainedTemp ∧ (wrB a i b s).retrainLast = s.retrainLast ∧ (wrB a i b s).retrained = s.retrained ∧
    (wrB a i b s).rotation = s.rotation ∧ (wrB a i b s).rotAt = s.rotAt ∧ (wrB a i b s).rotLane = s.rotLane ∧ (wrB a i b s).laneFuse = s.laneFuse ∧
    (wrB a i b s).repaired = s.repaired ∧ (wrB a i b s).slicePending = s.slicePending ∧ (wrB a i b s).repart = s.repart ∧ (wrB a i b s).boot = s.boot ∧
    (wrB a i b s).zeroRegions = s.zeroRegions ∧ (wrB a i b s).secure = s.secure ∧ (wrB a i b s).fabric = s.fabric ∧ (wrB a i b s).conns = s.conns ∧
    (wrB a i b s).txRings = s.txRings ∧ (wrB a i b s).rxHeld = s.rxHeld ∧ (wrB a i b s).thimble = s.thimble ∧ (wrB a i b s).pins = s.pins ∧
    (wrB a i b s).power = s.power ∧ (wrB a i b s).warmDue = s.warmDue ∧ (wrB a i b s).update = s.update ∧ (wrB a i b s).fwStage = s.fwStage ∧
    (wrB a i b s).sleepTo = s.sleepTo ∧ (wrB a i b s).addrs = s.addrs := by
  and_intros <;> rfl

@[simp] theorem putByte_frame (a : Nat) (b : Byte) (s : State) :
    (putByte a b s).pending = s.pending ∧ (putByte a b s).fuse = s.fuse ∧ (putByte a b s).straps = s.straps ∧ (putByte a b s).free = s.free ∧
    (putByte a b s).tape = s.tape ∧ (putByte a b s).frac = s.frac ∧ (putByte a b s).regs = s.regs ∧ (putByte a b s).poison = s.poison ∧
    (putByte a b s).lineKey = s.lineKey ∧ (putByte a b s).devKey = s.devKey ∧ (putByte a b s).cache = s.cache ∧ (putByte a b s).lastAtomic = s.lastAtomic ∧
    (putByte a b s).margins = s.margins ∧ (putByte a b s).failing = s.failing ∧ (putByte a b s).unspared = s.unspared ∧ (putByte a b s).laneBits = s.laneBits ∧
    (putByte a b s).centred = s.centred ∧ (putByte a b s).offsets = s.offsets ∧ (putByte a b s).scrubbed = s.scrubbed ∧ (putByte a b s).scrubSince = s.scrubSince ∧
    (putByte a b s).stalled = s.stalled ∧ (putByte a b s).sessions = s.sessions ∧ (putByte a b s).slotKinds = s.slotKinds ∧ (putByte a b s).out = s.out ∧
    (putByte a b s).nsn = s.nsn ∧ (putByte a b s).noticed = s.noticed ∧ (putByte a b s).breaches = s.breaches ∧ (putByte a b s).tallies = s.tallies ∧
    (putByte a b s).routes = s.routes ∧ (putByte a b s).tenants = s.tenants ∧ (putByte a b s).stages = s.stages ∧ (putByte a b s).models = s.models ∧
    (putByte a b s).grammars = s.grammars ∧ (putByte a b s).seqs = s.seqs ∧ (putByte a b s).prefixes = s.prefixes ∧ (putByte a b s).allotted = s.allotted ∧
    (putByte a b s).arena = s.arena ∧ (putByte a b s).freePages = s.freePages ∧ (putByte a b s).deferred = s.deferred ∧ (putByte a b s).leaked = s.leaked ∧
    (putByte a b s).kvJobs = s.kvJobs ∧ (putByte a b s).cowJobs = s.cowJobs ∧ (putByte a b s).plan = s.plan ∧ (putByte a b s).frozen = s.frozen ∧
    (putByte a b s).sealed = s.sealed ∧ (putByte a b s).admits = s.admits ∧ (putByte a b s).edge = s.edge ∧ (putByte a b s).stepNext = s.stepNext ∧
    (putByte a b s).dealNext = s.dealNext ∧ (putByte a b s).steps = s.steps ∧ (putByte a b s).execAt = s.execAt ∧ (putByte a b s).missedRun = s.missedRun ∧
    (putByte a b s).predicted = s.predicted ∧ (putByte a b s).admitted = s.admitted ∧ (putByte a b s).split = s.split ∧ (putByte a b s).laneGroups = s.laneGroups ∧
    (putByte a b s).slots = s.slots ∧ (putByte a b s).panels = s.panels ∧ (putByte a b s).nodes = s.nodes ∧ (putByte a b s).gateQueue = s.gateQueue ∧
    (putByte a b s).undealt = s.undealt ∧ (putByte a b s).undealtMat = s.undealtMat ∧ (putByte a b s).redivide = s.redivide ∧ (putByte a b s).monitors = s.monitors ∧
    (putByte a b s).lateCancels = s.lateCancels ∧ (putByte a b s).turn = s.turn ∧ (putByte a b s).boxTurn = s.boxTurn ∧
    (putByte a b s).stretchModels = s.stretchModels ∧ (putByte a b s).worked = s.worked ∧ (putByte a b s).stepTenants = s.stepTenants ∧
    (putByte a b s).caused = s.caused ∧ (putByte a b s).guarded = s.guarded ∧ (putByte a b s).skipped = s.skipped ∧ (putByte a b s).core2 = s.core2 ∧
    (putByte a b s).channels = s.channels ∧ (putByte a b s).lastStop = s.lastStop ∧ (putByte a b s).lastResp = s.lastResp ∧
    (putByte a b s).retrainDue = s.retrainDue ∧ (putByte a b s).trainedAt = s.trainedAt ∧ (putByte a b s).trainedTemp = s.trainedTemp ∧
    (putByte a b s).retrainLast = s.retrainLast ∧ (putByte a b s).retrained = s.retrained ∧ (putByte a b s).rotation = s.rotation ∧ (putByte a b s).rotAt = s.rotAt ∧
    (putByte a b s).rotLane = s.rotLane ∧ (putByte a b s).laneFuse = s.laneFuse ∧ (putByte a b s).repaired = s.repaired ∧
    (putByte a b s).slicePending = s.slicePending ∧ (putByte a b s).repart = s.repart ∧ (putByte a b s).boot = s.boot ∧ (putByte a b s).zeroRegions = s.zeroRegions ∧
    (putByte a b s).secure = s.secure ∧ (putByte a b s).fabric = s.fabric ∧ (putByte a b s).conns = s.conns ∧ (putByte a b s).txRings = s.txRings ∧
    (putByte a b s).rxHeld = s.rxHeld ∧ (putByte a b s).thimble = s.thimble ∧ (putByte a b s).pins = s.pins ∧ (putByte a b s).power = s.power ∧
    (putByte a b s).warmDue = s.warmDue ∧ (putByte a b s).update = s.update ∧ (putByte a b s).fwStage = s.fwStage ∧ (putByte a b s).sleepTo = s.sleepTo ∧
    (putByte a b s).addrs = s.addrs := by
  and_intros <;> rfl

@[simp] theorem poisonAt_frame (a : Nat) (s : State) :
    (poisonAt a s).pending = s.pending ∧ (poisonAt a s).fuse = s.fuse ∧ (poisonAt a s).straps = s.straps ∧ (poisonAt a s).free = s.free ∧
    (poisonAt a s).tape = s.tape ∧ (poisonAt a s).frac = s.frac ∧ (poisonAt a s).regs = s.regs ∧ (poisonAt a s).mem = s.mem ∧ (poisonAt a s).lineKey = s.lineKey ∧
    (poisonAt a s).devKey = s.devKey ∧ (poisonAt a s).cache = s.cache ∧ (poisonAt a s).lastAtomic = s.lastAtomic ∧ (poisonAt a s).margins = s.margins ∧
    (poisonAt a s).failing = s.failing ∧ (poisonAt a s).unspared = s.unspared ∧ (poisonAt a s).laneBits = s.laneBits ∧ (poisonAt a s).centred = s.centred ∧
    (poisonAt a s).offsets = s.offsets ∧ (poisonAt a s).scrubbed = s.scrubbed ∧ (poisonAt a s).scrubSince = s.scrubSince ∧ (poisonAt a s).stalled = s.stalled ∧
    (poisonAt a s).sessions = s.sessions ∧ (poisonAt a s).slotKinds = s.slotKinds ∧ (poisonAt a s).out = s.out ∧ (poisonAt a s).nsn = s.nsn ∧
    (poisonAt a s).noticed = s.noticed ∧ (poisonAt a s).breaches = s.breaches ∧ (poisonAt a s).tallies = s.tallies ∧ (poisonAt a s).routes = s.routes ∧
    (poisonAt a s).tenants = s.tenants ∧ (poisonAt a s).stages = s.stages ∧ (poisonAt a s).models = s.models ∧ (poisonAt a s).grammars = s.grammars ∧
    (poisonAt a s).seqs = s.seqs ∧ (poisonAt a s).prefixes = s.prefixes ∧ (poisonAt a s).allotted = s.allotted ∧ (poisonAt a s).arena = s.arena ∧
    (poisonAt a s).freePages = s.freePages ∧ (poisonAt a s).deferred = s.deferred ∧ (poisonAt a s).leaked = s.leaked ∧ (poisonAt a s).kvJobs = s.kvJobs ∧
    (poisonAt a s).cowJobs = s.cowJobs ∧ (poisonAt a s).plan = s.plan ∧ (poisonAt a s).frozen = s.frozen ∧ (poisonAt a s).sealed = s.sealed ∧
    (poisonAt a s).admits = s.admits ∧ (poisonAt a s).edge = s.edge ∧ (poisonAt a s).stepNext = s.stepNext ∧ (poisonAt a s).dealNext = s.dealNext ∧
    (poisonAt a s).steps = s.steps ∧ (poisonAt a s).execAt = s.execAt ∧ (poisonAt a s).missedRun = s.missedRun ∧ (poisonAt a s).predicted = s.predicted ∧
    (poisonAt a s).admitted = s.admitted ∧ (poisonAt a s).split = s.split ∧ (poisonAt a s).laneGroups = s.laneGroups ∧ (poisonAt a s).slots = s.slots ∧
    (poisonAt a s).panels = s.panels ∧ (poisonAt a s).nodes = s.nodes ∧ (poisonAt a s).gateQueue = s.gateQueue ∧ (poisonAt a s).undealt = s.undealt ∧
    (poisonAt a s).undealtMat = s.undealtMat ∧ (poisonAt a s).redivide = s.redivide ∧ (poisonAt a s).monitors = s.monitors ∧
    (poisonAt a s).lateCancels = s.lateCancels ∧ (poisonAt a s).turn = s.turn ∧ (poisonAt a s).boxTurn = s.boxTurn ∧ (poisonAt a s).stretchModels = s.stretchModels ∧
    (poisonAt a s).worked = s.worked ∧ (poisonAt a s).stepTenants = s.stepTenants ∧ (poisonAt a s).caused = s.caused ∧ (poisonAt a s).guarded = s.guarded ∧
    (poisonAt a s).skipped = s.skipped ∧ (poisonAt a s).core2 = s.core2 ∧ (poisonAt a s).channels = s.channels ∧ (poisonAt a s).lastStop = s.lastStop ∧
    (poisonAt a s).lastResp = s.lastResp ∧ (poisonAt a s).retrainDue = s.retrainDue ∧ (poisonAt a s).trainedAt = s.trainedAt ∧
    (poisonAt a s).trainedTemp = s.trainedTemp ∧ (poisonAt a s).retrainLast = s.retrainLast ∧ (poisonAt a s).retrained = s.retrained ∧
    (poisonAt a s).rotation = s.rotation ∧ (poisonAt a s).rotAt = s.rotAt ∧ (poisonAt a s).rotLane = s.rotLane ∧ (poisonAt a s).laneFuse = s.laneFuse ∧
    (poisonAt a s).repaired = s.repaired ∧ (poisonAt a s).slicePending = s.slicePending ∧ (poisonAt a s).repart = s.repart ∧ (poisonAt a s).boot = s.boot ∧
    (poisonAt a s).zeroRegions = s.zeroRegions ∧ (poisonAt a s).secure = s.secure ∧ (poisonAt a s).fabric = s.fabric ∧ (poisonAt a s).conns = s.conns ∧
    (poisonAt a s).txRings = s.txRings ∧ (poisonAt a s).rxHeld = s.rxHeld ∧ (poisonAt a s).thimble = s.thimble ∧ (poisonAt a s).pins = s.pins ∧
    (poisonAt a s).power = s.power ∧ (poisonAt a s).warmDue = s.warmDue ∧ (poisonAt a s).update = s.update ∧ (poisonAt a s).fwStage = s.fwStage ∧
    (poisonAt a s).sleepTo = s.sleepTo ∧ (poisonAt a s).addrs = s.addrs := by
  and_intros <;> rfl

@[simp] theorem unpoisonAt_frame (a : Nat) (s : State) :
    (unpoisonAt a s).pending = s.pending ∧ (unpoisonAt a s).fuse = s.fuse ∧ (unpoisonAt a s).straps = s.straps ∧ (unpoisonAt a s).free = s.free ∧
    (unpoisonAt a s).tape = s.tape ∧ (unpoisonAt a s).frac = s.frac ∧ (unpoisonAt a s).regs = s.regs ∧ (unpoisonAt a s).mem = s.mem ∧
    (unpoisonAt a s).lineKey = s.lineKey ∧ (unpoisonAt a s).devKey = s.devKey ∧ (unpoisonAt a s).cache = s.cache ∧ (unpoisonAt a s).lastAtomic = s.lastAtomic ∧
    (unpoisonAt a s).margins = s.margins ∧ (unpoisonAt a s).failing = s.failing ∧ (unpoisonAt a s).unspared = s.unspared ∧ (unpoisonAt a s).laneBits = s.laneBits ∧
    (unpoisonAt a s).centred = s.centred ∧ (unpoisonAt a s).offsets = s.offsets ∧ (unpoisonAt a s).scrubbed = s.scrubbed ∧
    (unpoisonAt a s).scrubSince = s.scrubSince ∧ (unpoisonAt a s).stalled = s.stalled ∧ (unpoisonAt a s).sessions = s.sessions ∧
    (unpoisonAt a s).slotKinds = s.slotKinds ∧ (unpoisonAt a s).out = s.out ∧ (unpoisonAt a s).nsn = s.nsn ∧ (unpoisonAt a s).noticed = s.noticed ∧
    (unpoisonAt a s).breaches = s.breaches ∧ (unpoisonAt a s).tallies = s.tallies ∧ (unpoisonAt a s).routes = s.routes ∧ (unpoisonAt a s).tenants = s.tenants ∧
    (unpoisonAt a s).stages = s.stages ∧ (unpoisonAt a s).models = s.models ∧ (unpoisonAt a s).grammars = s.grammars ∧ (unpoisonAt a s).seqs = s.seqs ∧
    (unpoisonAt a s).prefixes = s.prefixes ∧ (unpoisonAt a s).allotted = s.allotted ∧ (unpoisonAt a s).arena = s.arena ∧ (unpoisonAt a s).freePages = s.freePages ∧
    (unpoisonAt a s).deferred = s.deferred ∧ (unpoisonAt a s).leaked = s.leaked ∧ (unpoisonAt a s).kvJobs = s.kvJobs ∧ (unpoisonAt a s).cowJobs = s.cowJobs ∧
    (unpoisonAt a s).plan = s.plan ∧ (unpoisonAt a s).frozen = s.frozen ∧ (unpoisonAt a s).sealed = s.sealed ∧ (unpoisonAt a s).admits = s.admits ∧
    (unpoisonAt a s).edge = s.edge ∧ (unpoisonAt a s).stepNext = s.stepNext ∧ (unpoisonAt a s).dealNext = s.dealNext ∧ (unpoisonAt a s).steps = s.steps ∧
    (unpoisonAt a s).execAt = s.execAt ∧ (unpoisonAt a s).missedRun = s.missedRun ∧ (unpoisonAt a s).predicted = s.predicted ∧
    (unpoisonAt a s).admitted = s.admitted ∧ (unpoisonAt a s).split = s.split ∧ (unpoisonAt a s).laneGroups = s.laneGroups ∧ (unpoisonAt a s).slots = s.slots ∧
    (unpoisonAt a s).panels = s.panels ∧ (unpoisonAt a s).nodes = s.nodes ∧ (unpoisonAt a s).gateQueue = s.gateQueue ∧ (unpoisonAt a s).undealt = s.undealt ∧
    (unpoisonAt a s).undealtMat = s.undealtMat ∧ (unpoisonAt a s).redivide = s.redivide ∧ (unpoisonAt a s).monitors = s.monitors ∧
    (unpoisonAt a s).lateCancels = s.lateCancels ∧ (unpoisonAt a s).turn = s.turn ∧ (unpoisonAt a s).boxTurn = s.boxTurn ∧
    (unpoisonAt a s).stretchModels = s.stretchModels ∧ (unpoisonAt a s).worked = s.worked ∧ (unpoisonAt a s).stepTenants = s.stepTenants ∧
    (unpoisonAt a s).caused = s.caused ∧ (unpoisonAt a s).guarded = s.guarded ∧ (unpoisonAt a s).skipped = s.skipped ∧ (unpoisonAt a s).core2 = s.core2 ∧
    (unpoisonAt a s).channels = s.channels ∧ (unpoisonAt a s).lastStop = s.lastStop ∧ (unpoisonAt a s).lastResp = s.lastResp ∧
    (unpoisonAt a s).retrainDue = s.retrainDue ∧ (unpoisonAt a s).trainedAt = s.trainedAt ∧ (unpoisonAt a s).trainedTemp = s.trainedTemp ∧
    (unpoisonAt a s).retrainLast = s.retrainLast ∧ (unpoisonAt a s).retrained = s.retrained ∧ (unpoisonAt a s).rotation = s.rotation ∧
    (unpoisonAt a s).rotAt = s.rotAt ∧ (unpoisonAt a s).rotLane = s.rotLane ∧ (unpoisonAt a s).laneFuse = s.laneFuse ∧ (unpoisonAt a s).repaired = s.repaired ∧
    (unpoisonAt a s).slicePending = s.slicePending ∧ (unpoisonAt a s).repart = s.repart ∧ (unpoisonAt a s).boot = s.boot ∧
    (unpoisonAt a s).zeroRegions = s.zeroRegions ∧ (unpoisonAt a s).secure = s.secure ∧ (unpoisonAt a s).fabric = s.fabric ∧ (unpoisonAt a s).conns = s.conns ∧
    (unpoisonAt a s).txRings = s.txRings ∧ (unpoisonAt a s).rxHeld = s.rxHeld ∧ (unpoisonAt a s).thimble = s.thimble ∧ (unpoisonAt a s).pins = s.pins ∧
    (unpoisonAt a s).power = s.power ∧ (unpoisonAt a s).warmDue = s.warmDue ∧ (unpoisonAt a s).update = s.update ∧ (unpoisonAt a s).fwStage = s.fwStage ∧
    (unpoisonAt a s).sleepTo = s.sleepTo ∧ (unpoisonAt a s).addrs = s.addrs := by
  and_intros <;> rfl

@[simp] theorem setPanel_frame (p : Nat) (x : Panel) (s : State) :
    (setPanel p x s).pending = s.pending ∧ (setPanel p x s).fuse = s.fuse ∧ (setPanel p x s).straps = s.straps ∧ (setPanel p x s).free = s.free ∧
    (setPanel p x s).tape = s.tape ∧ (setPanel p x s).frac = s.frac ∧ (setPanel p x s).regs = s.regs ∧ (setPanel p x s).mem = s.mem ∧
    (setPanel p x s).poison = s.poison ∧ (setPanel p x s).lineKey = s.lineKey ∧ (setPanel p x s).devKey = s.devKey ∧ (setPanel p x s).cache = s.cache ∧
    (setPanel p x s).lastAtomic = s.lastAtomic ∧ (setPanel p x s).margins = s.margins ∧ (setPanel p x s).failing = s.failing ∧
    (setPanel p x s).unspared = s.unspared ∧ (setPanel p x s).laneBits = s.laneBits ∧ (setPanel p x s).centred = s.centred ∧ (setPanel p x s).offsets = s.offsets ∧
    (setPanel p x s).scrubbed = s.scrubbed ∧ (setPanel p x s).scrubSince = s.scrubSince ∧ (setPanel p x s).stalled = s.stalled ∧
    (setPanel p x s).sessions = s.sessions ∧ (setPanel p x s).slotKinds = s.slotKinds ∧ (setPanel p x s).out = s.out ∧ (setPanel p x s).nsn = s.nsn ∧
    (setPanel p x s).noticed = s.noticed ∧ (setPanel p x s).breaches = s.breaches ∧ (setPanel p x s).tallies = s.tallies ∧ (setPanel p x s).routes = s.routes ∧
    (setPanel p x s).tenants = s.tenants ∧ (setPanel p x s).stages = s.stages ∧ (setPanel p x s).models = s.models ∧ (setPanel p x s).grammars = s.grammars ∧
    (setPanel p x s).seqs = s.seqs ∧ (setPanel p x s).prefixes = s.prefixes ∧ (setPanel p x s).allotted = s.allotted ∧ (setPanel p x s).arena = s.arena ∧
    (setPanel p x s).freePages = s.freePages ∧ (setPanel p x s).deferred = s.deferred ∧ (setPanel p x s).leaked = s.leaked ∧ (setPanel p x s).kvJobs = s.kvJobs ∧
    (setPanel p x s).cowJobs = s.cowJobs ∧ (setPanel p x s).plan = s.plan ∧ (setPanel p x s).frozen = s.frozen ∧ (setPanel p x s).sealed = s.sealed ∧
    (setPanel p x s).admits = s.admits ∧ (setPanel p x s).edge = s.edge ∧ (setPanel p x s).stepNext = s.stepNext ∧ (setPanel p x s).dealNext = s.dealNext ∧
    (setPanel p x s).steps = s.steps ∧ (setPanel p x s).execAt = s.execAt ∧ (setPanel p x s).missedRun = s.missedRun ∧ (setPanel p x s).predicted = s.predicted ∧
    (setPanel p x s).admitted = s.admitted ∧ (setPanel p x s).split = s.split ∧ (setPanel p x s).laneGroups = s.laneGroups ∧ (setPanel p x s).slots = s.slots ∧
    (setPanel p x s).nodes = s.nodes ∧ (setPanel p x s).gateQueue = s.gateQueue ∧ (setPanel p x s).undealt = s.undealt ∧ (setPanel p x s).undealtMat = s.undealtMat ∧
    (setPanel p x s).redivide = s.redivide ∧ (setPanel p x s).monitors = s.monitors ∧ (setPanel p x s).lateCancels = s.lateCancels ∧ (setPanel p x s).turn = s.turn ∧
    (setPanel p x s).boxTurn = s.boxTurn ∧ (setPanel p x s).stretchModels = s.stretchModels ∧ (setPanel p x s).worked = s.worked ∧
    (setPanel p x s).stepTenants = s.stepTenants ∧ (setPanel p x s).caused = s.caused ∧ (setPanel p x s).guarded = s.guarded ∧ (setPanel p x s).skipped = s.skipped ∧
    (setPanel p x s).core2 = s.core2 ∧ (setPanel p x s).channels = s.channels ∧ (setPanel p x s).lastStop = s.lastStop ∧ (setPanel p x s).lastResp = s.lastResp ∧
    (setPanel p x s).retrainDue = s.retrainDue ∧ (setPanel p x s).trainedAt = s.trainedAt ∧ (setPanel p x s).trainedTemp = s.trainedTemp ∧
    (setPanel p x s).retrainLast = s.retrainLast ∧ (setPanel p x s).retrained = s.retrained ∧ (setPanel p x s).rotation = s.rotation ∧
    (setPanel p x s).rotAt = s.rotAt ∧ (setPanel p x s).rotLane = s.rotLane ∧ (setPanel p x s).laneFuse = s.laneFuse ∧ (setPanel p x s).repaired = s.repaired ∧
    (setPanel p x s).slicePending = s.slicePending ∧ (setPanel p x s).repart = s.repart ∧ (setPanel p x s).boot = s.boot ∧
    (setPanel p x s).zeroRegions = s.zeroRegions ∧ (setPanel p x s).secure = s.secure ∧ (setPanel p x s).fabric = s.fabric ∧ (setPanel p x s).conns = s.conns ∧
    (setPanel p x s).txRings = s.txRings ∧ (setPanel p x s).rxHeld = s.rxHeld ∧ (setPanel p x s).thimble = s.thimble ∧ (setPanel p x s).pins = s.pins ∧
    (setPanel p x s).power = s.power ∧ (setPanel p x s).warmDue = s.warmDue ∧ (setPanel p x s).update = s.update ∧ (setPanel p x s).fwStage = s.fwStage ∧
    (setPanel p x s).sleepTo = s.sleepTo ∧ (setPanel p x s).addrs = s.addrs := by
  and_intros <;> rfl

@[simp] theorem setStitcher_frame (p i : Nat) (x : Stitcher) (s : State) :
    (setStitcher p i x s).pending = s.pending ∧ (setStitcher p i x s).fuse = s.fuse ∧ (setStitcher p i x s).straps = s.straps ∧ (setStitcher p i x s).free = s.free ∧
    (setStitcher p i x s).tape = s.tape ∧ (setStitcher p i x s).frac = s.frac ∧ (setStitcher p i x s).regs = s.regs ∧ (setStitcher p i x s).mem = s.mem ∧
    (setStitcher p i x s).poison = s.poison ∧ (setStitcher p i x s).lineKey = s.lineKey ∧ (setStitcher p i x s).devKey = s.devKey ∧
    (setStitcher p i x s).cache = s.cache ∧ (setStitcher p i x s).lastAtomic = s.lastAtomic ∧ (setStitcher p i x s).margins = s.margins ∧
    (setStitcher p i x s).failing = s.failing ∧ (setStitcher p i x s).unspared = s.unspared ∧ (setStitcher p i x s).laneBits = s.laneBits ∧
    (setStitcher p i x s).centred = s.centred ∧ (setStitcher p i x s).offsets = s.offsets ∧ (setStitcher p i x s).scrubbed = s.scrubbed ∧
    (setStitcher p i x s).scrubSince = s.scrubSince ∧ (setStitcher p i x s).stalled = s.stalled ∧ (setStitcher p i x s).sessions = s.sessions ∧
    (setStitcher p i x s).slotKinds = s.slotKinds ∧ (setStitcher p i x s).out = s.out ∧ (setStitcher p i x s).nsn = s.nsn ∧
    (setStitcher p i x s).noticed = s.noticed ∧ (setStitcher p i x s).breaches = s.breaches ∧ (setStitcher p i x s).tallies = s.tallies ∧
    (setStitcher p i x s).routes = s.routes ∧ (setStitcher p i x s).tenants = s.tenants ∧ (setStitcher p i x s).stages = s.stages ∧
    (setStitcher p i x s).models = s.models ∧ (setStitcher p i x s).grammars = s.grammars ∧ (setStitcher p i x s).seqs = s.seqs ∧
    (setStitcher p i x s).prefixes = s.prefixes ∧ (setStitcher p i x s).allotted = s.allotted ∧ (setStitcher p i x s).arena = s.arena ∧
    (setStitcher p i x s).freePages = s.freePages ∧ (setStitcher p i x s).deferred = s.deferred ∧ (setStitcher p i x s).leaked = s.leaked ∧
    (setStitcher p i x s).kvJobs = s.kvJobs ∧ (setStitcher p i x s).cowJobs = s.cowJobs ∧ (setStitcher p i x s).plan = s.plan ∧
    (setStitcher p i x s).frozen = s.frozen ∧ (setStitcher p i x s).sealed = s.sealed ∧ (setStitcher p i x s).admits = s.admits ∧
    (setStitcher p i x s).edge = s.edge ∧ (setStitcher p i x s).stepNext = s.stepNext ∧ (setStitcher p i x s).dealNext = s.dealNext ∧
    (setStitcher p i x s).steps = s.steps ∧ (setStitcher p i x s).execAt = s.execAt ∧ (setStitcher p i x s).missedRun = s.missedRun ∧
    (setStitcher p i x s).predicted = s.predicted ∧ (setStitcher p i x s).admitted = s.admitted ∧ (setStitcher p i x s).split = s.split ∧
    (setStitcher p i x s).laneGroups = s.laneGroups ∧ (setStitcher p i x s).slots = s.slots ∧ (setStitcher p i x s).nodes = s.nodes ∧
    (setStitcher p i x s).gateQueue = s.gateQueue ∧ (setStitcher p i x s).undealt = s.undealt ∧ (setStitcher p i x s).undealtMat = s.undealtMat ∧
    (setStitcher p i x s).redivide = s.redivide ∧ (setStitcher p i x s).monitors = s.monitors ∧ (setStitcher p i x s).lateCancels = s.lateCancels ∧
    (setStitcher p i x s).turn = s.turn ∧ (setStitcher p i x s).boxTurn = s.boxTurn ∧ (setStitcher p i x s).stretchModels = s.stretchModels ∧
    (setStitcher p i x s).worked = s.worked ∧ (setStitcher p i x s).stepTenants = s.stepTenants ∧ (setStitcher p i x s).caused = s.caused ∧
    (setStitcher p i x s).guarded = s.guarded ∧ (setStitcher p i x s).skipped = s.skipped ∧ (setStitcher p i x s).core2 = s.core2 ∧
    (setStitcher p i x s).channels = s.channels ∧ (setStitcher p i x s).lastStop = s.lastStop ∧ (setStitcher p i x s).lastResp = s.lastResp ∧
    (setStitcher p i x s).retrainDue = s.retrainDue ∧ (setStitcher p i x s).trainedAt = s.trainedAt ∧ (setStitcher p i x s).trainedTemp = s.trainedTemp ∧
    (setStitcher p i x s).retrainLast = s.retrainLast ∧ (setStitcher p i x s).retrained = s.retrained ∧ (setStitcher p i x s).rotation = s.rotation ∧
    (setStitcher p i x s).rotAt = s.rotAt ∧ (setStitcher p i x s).rotLane = s.rotLane ∧ (setStitcher p i x s).laneFuse = s.laneFuse ∧
    (setStitcher p i x s).repaired = s.repaired ∧ (setStitcher p i x s).slicePending = s.slicePending ∧ (setStitcher p i x s).repart = s.repart ∧
    (setStitcher p i x s).boot = s.boot ∧ (setStitcher p i x s).zeroRegions = s.zeroRegions ∧ (setStitcher p i x s).secure = s.secure ∧
    (setStitcher p i x s).fabric = s.fabric ∧ (setStitcher p i x s).conns = s.conns ∧ (setStitcher p i x s).txRings = s.txRings ∧
    (setStitcher p i x s).rxHeld = s.rxHeld ∧ (setStitcher p i x s).thimble = s.thimble ∧ (setStitcher p i x s).pins = s.pins ∧
    (setStitcher p i x s).power = s.power ∧ (setStitcher p i x s).warmDue = s.warmDue ∧ (setStitcher p i x s).update = s.update ∧
    (setStitcher p i x s).fwStage = s.fwStage ∧ (setStitcher p i x s).sleepTo = s.sleepTo ∧ (setStitcher p i x s).addrs = s.addrs := by
  and_intros <;> rfl

@[simp] theorem setSlot_frame (n : Nat) (x : Slot) (s : State) :
    (setSlot n x s).pending = s.pending ∧ (setSlot n x s).fuse = s.fuse ∧ (setSlot n x s).straps = s.straps ∧ (setSlot n x s).free = s.free ∧
    (setSlot n x s).tape = s.tape ∧ (setSlot n x s).frac = s.frac ∧ (setSlot n x s).regs = s.regs ∧ (setSlot n x s).mem = s.mem ∧ (setSlot n x s).poison = s.poison ∧
    (setSlot n x s).lineKey = s.lineKey ∧ (setSlot n x s).devKey = s.devKey ∧ (setSlot n x s).cache = s.cache ∧ (setSlot n x s).lastAtomic = s.lastAtomic ∧
    (setSlot n x s).margins = s.margins ∧ (setSlot n x s).failing = s.failing ∧ (setSlot n x s).unspared = s.unspared ∧ (setSlot n x s).laneBits = s.laneBits ∧
    (setSlot n x s).centred = s.centred ∧ (setSlot n x s).offsets = s.offsets ∧ (setSlot n x s).scrubbed = s.scrubbed ∧ (setSlot n x s).scrubSince = s.scrubSince ∧
    (setSlot n x s).stalled = s.stalled ∧ (setSlot n x s).sessions = s.sessions ∧ (setSlot n x s).slotKinds = s.slotKinds ∧ (setSlot n x s).out = s.out ∧
    (setSlot n x s).nsn = s.nsn ∧ (setSlot n x s).noticed = s.noticed ∧ (setSlot n x s).breaches = s.breaches ∧ (setSlot n x s).tallies = s.tallies ∧
    (setSlot n x s).routes = s.routes ∧ (setSlot n x s).tenants = s.tenants ∧ (setSlot n x s).stages = s.stages ∧ (setSlot n x s).models = s.models ∧
    (setSlot n x s).grammars = s.grammars ∧ (setSlot n x s).seqs = s.seqs ∧ (setSlot n x s).prefixes = s.prefixes ∧ (setSlot n x s).allotted = s.allotted ∧
    (setSlot n x s).arena = s.arena ∧ (setSlot n x s).freePages = s.freePages ∧ (setSlot n x s).deferred = s.deferred ∧ (setSlot n x s).leaked = s.leaked ∧
    (setSlot n x s).kvJobs = s.kvJobs ∧ (setSlot n x s).cowJobs = s.cowJobs ∧ (setSlot n x s).plan = s.plan ∧ (setSlot n x s).frozen = s.frozen ∧
    (setSlot n x s).sealed = s.sealed ∧ (setSlot n x s).admits = s.admits ∧ (setSlot n x s).edge = s.edge ∧ (setSlot n x s).stepNext = s.stepNext ∧
    (setSlot n x s).dealNext = s.dealNext ∧ (setSlot n x s).steps = s.steps ∧ (setSlot n x s).execAt = s.execAt ∧ (setSlot n x s).missedRun = s.missedRun ∧
    (setSlot n x s).predicted = s.predicted ∧ (setSlot n x s).admitted = s.admitted ∧ (setSlot n x s).split = s.split ∧ (setSlot n x s).laneGroups = s.laneGroups ∧
    (setSlot n x s).panels = s.panels ∧ (setSlot n x s).nodes = s.nodes ∧ (setSlot n x s).gateQueue = s.gateQueue ∧ (setSlot n x s).undealt = s.undealt ∧
    (setSlot n x s).undealtMat = s.undealtMat ∧ (setSlot n x s).redivide = s.redivide ∧ (setSlot n x s).monitors = s.monitors ∧
    (setSlot n x s).lateCancels = s.lateCancels ∧ (setSlot n x s).turn = s.turn ∧ (setSlot n x s).boxTurn = s.boxTurn ∧
    (setSlot n x s).stretchModels = s.stretchModels ∧ (setSlot n x s).worked = s.worked ∧ (setSlot n x s).stepTenants = s.stepTenants ∧
    (setSlot n x s).caused = s.caused ∧ (setSlot n x s).guarded = s.guarded ∧ (setSlot n x s).skipped = s.skipped ∧ (setSlot n x s).core2 = s.core2 ∧
    (setSlot n x s).channels = s.channels ∧ (setSlot n x s).lastStop = s.lastStop ∧ (setSlot n x s).lastResp = s.lastResp ∧
    (setSlot n x s).retrainDue = s.retrainDue ∧ (setSlot n x s).trainedAt = s.trainedAt ∧ (setSlot n x s).trainedTemp = s.trainedTemp ∧
    (setSlot n x s).retrainLast = s.retrainLast ∧ (setSlot n x s).retrained = s.retrained ∧ (setSlot n x s).rotation = s.rotation ∧ (setSlot n x s).rotAt = s.rotAt ∧
    (setSlot n x s).rotLane = s.rotLane ∧ (setSlot n x s).laneFuse = s.laneFuse ∧ (setSlot n x s).repaired = s.repaired ∧
    (setSlot n x s).slicePending = s.slicePending ∧ (setSlot n x s).repart = s.repart ∧ (setSlot n x s).boot = s.boot ∧ (setSlot n x s).zeroRegions = s.zeroRegions ∧
    (setSlot n x s).secure = s.secure ∧ (setSlot n x s).fabric = s.fabric ∧ (setSlot n x s).conns = s.conns ∧ (setSlot n x s).txRings = s.txRings ∧
    (setSlot n x s).rxHeld = s.rxHeld ∧ (setSlot n x s).thimble = s.thimble ∧ (setSlot n x s).pins = s.pins ∧ (setSlot n x s).power = s.power ∧
    (setSlot n x s).warmDue = s.warmDue ∧ (setSlot n x s).update = s.update ∧ (setSlot n x s).fwStage = s.fwStage ∧ (setSlot n x s).sleepTo = s.sleepTo ∧
    (setSlot n x s).addrs = s.addrs := by
  and_intros <;> rfl

@[simp] theorem setSeq_frame (n : Nat) (x : Seq) (s : State) :
    (setSeq n x s).pending = s.pending ∧ (setSeq n x s).fuse = s.fuse ∧ (setSeq n x s).straps = s.straps ∧ (setSeq n x s).free = s.free ∧
    (setSeq n x s).tape = s.tape ∧ (setSeq n x s).frac = s.frac ∧ (setSeq n x s).regs = s.regs ∧ (setSeq n x s).mem = s.mem ∧ (setSeq n x s).poison = s.poison ∧
    (setSeq n x s).lineKey = s.lineKey ∧ (setSeq n x s).devKey = s.devKey ∧ (setSeq n x s).cache = s.cache ∧ (setSeq n x s).lastAtomic = s.lastAtomic ∧
    (setSeq n x s).margins = s.margins ∧ (setSeq n x s).failing = s.failing ∧ (setSeq n x s).unspared = s.unspared ∧ (setSeq n x s).laneBits = s.laneBits ∧
    (setSeq n x s).centred = s.centred ∧ (setSeq n x s).offsets = s.offsets ∧ (setSeq n x s).scrubbed = s.scrubbed ∧ (setSeq n x s).scrubSince = s.scrubSince ∧
    (setSeq n x s).stalled = s.stalled ∧ (setSeq n x s).sessions = s.sessions ∧ (setSeq n x s).slotKinds = s.slotKinds ∧ (setSeq n x s).out = s.out ∧
    (setSeq n x s).nsn = s.nsn ∧ (setSeq n x s).noticed = s.noticed ∧ (setSeq n x s).breaches = s.breaches ∧ (setSeq n x s).tallies = s.tallies ∧
    (setSeq n x s).routes = s.routes ∧ (setSeq n x s).tenants = s.tenants ∧ (setSeq n x s).stages = s.stages ∧ (setSeq n x s).models = s.models ∧
    (setSeq n x s).grammars = s.grammars ∧ (setSeq n x s).prefixes = s.prefixes ∧ (setSeq n x s).allotted = s.allotted ∧ (setSeq n x s).arena = s.arena ∧
    (setSeq n x s).freePages = s.freePages ∧ (setSeq n x s).deferred = s.deferred ∧ (setSeq n x s).leaked = s.leaked ∧ (setSeq n x s).kvJobs = s.kvJobs ∧
    (setSeq n x s).cowJobs = s.cowJobs ∧ (setSeq n x s).plan = s.plan ∧ (setSeq n x s).frozen = s.frozen ∧ (setSeq n x s).sealed = s.sealed ∧
    (setSeq n x s).admits = s.admits ∧ (setSeq n x s).edge = s.edge ∧ (setSeq n x s).stepNext = s.stepNext ∧ (setSeq n x s).dealNext = s.dealNext ∧
    (setSeq n x s).steps = s.steps ∧ (setSeq n x s).execAt = s.execAt ∧ (setSeq n x s).missedRun = s.missedRun ∧ (setSeq n x s).predicted = s.predicted ∧
    (setSeq n x s).admitted = s.admitted ∧ (setSeq n x s).split = s.split ∧ (setSeq n x s).laneGroups = s.laneGroups ∧ (setSeq n x s).slots = s.slots ∧
    (setSeq n x s).panels = s.panels ∧ (setSeq n x s).nodes = s.nodes ∧ (setSeq n x s).gateQueue = s.gateQueue ∧ (setSeq n x s).undealt = s.undealt ∧
    (setSeq n x s).undealtMat = s.undealtMat ∧ (setSeq n x s).redivide = s.redivide ∧ (setSeq n x s).monitors = s.monitors ∧
    (setSeq n x s).lateCancels = s.lateCancels ∧ (setSeq n x s).turn = s.turn ∧ (setSeq n x s).boxTurn = s.boxTurn ∧ (setSeq n x s).stretchModels = s.stretchModels ∧
    (setSeq n x s).worked = s.worked ∧ (setSeq n x s).stepTenants = s.stepTenants ∧ (setSeq n x s).caused = s.caused ∧ (setSeq n x s).guarded = s.guarded ∧
    (setSeq n x s).skipped = s.skipped ∧ (setSeq n x s).core2 = s.core2 ∧ (setSeq n x s).channels = s.channels ∧ (setSeq n x s).lastStop = s.lastStop ∧
    (setSeq n x s).lastResp = s.lastResp ∧ (setSeq n x s).retrainDue = s.retrainDue ∧ (setSeq n x s).trainedAt = s.trainedAt ∧
    (setSeq n x s).trainedTemp = s.trainedTemp ∧ (setSeq n x s).retrainLast = s.retrainLast ∧ (setSeq n x s).retrained = s.retrained ∧
    (setSeq n x s).rotation = s.rotation ∧ (setSeq n x s).rotAt = s.rotAt ∧ (setSeq n x s).rotLane = s.rotLane ∧ (setSeq n x s).laneFuse = s.laneFuse ∧
    (setSeq n x s).repaired = s.repaired ∧ (setSeq n x s).slicePending = s.slicePending ∧ (setSeq n x s).repart = s.repart ∧ (setSeq n x s).boot = s.boot ∧
    (setSeq n x s).zeroRegions = s.zeroRegions ∧ (setSeq n x s).secure = s.secure ∧ (setSeq n x s).fabric = s.fabric ∧ (setSeq n x s).conns = s.conns ∧
    (setSeq n x s).txRings = s.txRings ∧ (setSeq n x s).rxHeld = s.rxHeld ∧ (setSeq n x s).thimble = s.thimble ∧ (setSeq n x s).pins = s.pins ∧
    (setSeq n x s).power = s.power ∧ (setSeq n x s).warmDue = s.warmDue ∧ (setSeq n x s).update = s.update ∧ (setSeq n x s).fwStage = s.fwStage ∧
    (setSeq n x s).sleepTo = s.sleepTo ∧ (setSeq n x s).addrs = s.addrs := by
  and_intros <;> rfl

@[simp] theorem setModel_frame (n : Nat) (x : Model) (s : State) :
    (setModel n x s).pending = s.pending ∧ (setModel n x s).fuse = s.fuse ∧ (setModel n x s).straps = s.straps ∧ (setModel n x s).free = s.free ∧
    (setModel n x s).tape = s.tape ∧ (setModel n x s).frac = s.frac ∧ (setModel n x s).regs = s.regs ∧ (setModel n x s).mem = s.mem ∧
    (setModel n x s).poison = s.poison ∧ (setModel n x s).lineKey = s.lineKey ∧ (setModel n x s).devKey = s.devKey ∧ (setModel n x s).cache = s.cache ∧
    (setModel n x s).lastAtomic = s.lastAtomic ∧ (setModel n x s).margins = s.margins ∧ (setModel n x s).failing = s.failing ∧
    (setModel n x s).unspared = s.unspared ∧ (setModel n x s).laneBits = s.laneBits ∧ (setModel n x s).centred = s.centred ∧ (setModel n x s).offsets = s.offsets ∧
    (setModel n x s).scrubbed = s.scrubbed ∧ (setModel n x s).scrubSince = s.scrubSince ∧ (setModel n x s).stalled = s.stalled ∧
    (setModel n x s).sessions = s.sessions ∧ (setModel n x s).slotKinds = s.slotKinds ∧ (setModel n x s).out = s.out ∧ (setModel n x s).nsn = s.nsn ∧
    (setModel n x s).noticed = s.noticed ∧ (setModel n x s).breaches = s.breaches ∧ (setModel n x s).tallies = s.tallies ∧ (setModel n x s).routes = s.routes ∧
    (setModel n x s).tenants = s.tenants ∧ (setModel n x s).stages = s.stages ∧ (setModel n x s).grammars = s.grammars ∧ (setModel n x s).seqs = s.seqs ∧
    (setModel n x s).prefixes = s.prefixes ∧ (setModel n x s).allotted = s.allotted ∧ (setModel n x s).arena = s.arena ∧ (setModel n x s).freePages = s.freePages ∧
    (setModel n x s).deferred = s.deferred ∧ (setModel n x s).leaked = s.leaked ∧ (setModel n x s).kvJobs = s.kvJobs ∧ (setModel n x s).cowJobs = s.cowJobs ∧
    (setModel n x s).plan = s.plan ∧ (setModel n x s).frozen = s.frozen ∧ (setModel n x s).sealed = s.sealed ∧ (setModel n x s).admits = s.admits ∧
    (setModel n x s).edge = s.edge ∧ (setModel n x s).stepNext = s.stepNext ∧ (setModel n x s).dealNext = s.dealNext ∧ (setModel n x s).steps = s.steps ∧
    (setModel n x s).execAt = s.execAt ∧ (setModel n x s).missedRun = s.missedRun ∧ (setModel n x s).predicted = s.predicted ∧
    (setModel n x s).admitted = s.admitted ∧ (setModel n x s).split = s.split ∧ (setModel n x s).laneGroups = s.laneGroups ∧ (setModel n x s).slots = s.slots ∧
    (setModel n x s).panels = s.panels ∧ (setModel n x s).nodes = s.nodes ∧ (setModel n x s).gateQueue = s.gateQueue ∧ (setModel n x s).undealt = s.undealt ∧
    (setModel n x s).undealtMat = s.undealtMat ∧ (setModel n x s).redivide = s.redivide ∧ (setModel n x s).monitors = s.monitors ∧
    (setModel n x s).lateCancels = s.lateCancels ∧ (setModel n x s).turn = s.turn ∧ (setModel n x s).boxTurn = s.boxTurn ∧
    (setModel n x s).stretchModels = s.stretchModels ∧ (setModel n x s).worked = s.worked ∧ (setModel n x s).stepTenants = s.stepTenants ∧
    (setModel n x s).caused = s.caused ∧ (setModel n x s).guarded = s.guarded ∧ (setModel n x s).skipped = s.skipped ∧ (setModel n x s).core2 = s.core2 ∧
    (setModel n x s).channels = s.channels ∧ (setModel n x s).lastStop = s.lastStop ∧ (setModel n x s).lastResp = s.lastResp ∧
    (setModel n x s).retrainDue = s.retrainDue ∧ (setModel n x s).trainedAt = s.trainedAt ∧ (setModel n x s).trainedTemp = s.trainedTemp ∧
    (setModel n x s).retrainLast = s.retrainLast ∧ (setModel n x s).retrained = s.retrained ∧ (setModel n x s).rotation = s.rotation ∧
    (setModel n x s).rotAt = s.rotAt ∧ (setModel n x s).rotLane = s.rotLane ∧ (setModel n x s).laneFuse = s.laneFuse ∧ (setModel n x s).repaired = s.repaired ∧
    (setModel n x s).slicePending = s.slicePending ∧ (setModel n x s).repart = s.repart ∧ (setModel n x s).boot = s.boot ∧
    (setModel n x s).zeroRegions = s.zeroRegions ∧ (setModel n x s).secure = s.secure ∧ (setModel n x s).fabric = s.fabric ∧ (setModel n x s).conns = s.conns ∧
    (setModel n x s).txRings = s.txRings ∧ (setModel n x s).rxHeld = s.rxHeld ∧ (setModel n x s).thimble = s.thimble ∧ (setModel n x s).pins = s.pins ∧
    (setModel n x s).power = s.power ∧ (setModel n x s).warmDue = s.warmDue ∧ (setModel n x s).update = s.update ∧ (setModel n x s).fwStage = s.fwStage ∧
    (setModel n x s).sleepTo = s.sleepTo ∧ (setModel n x s).addrs = s.addrs := by
  and_intros <;> rfl

@[simp] theorem setTenant_frame (n : Nat) (x : Tenant) (s : State) :
    (setTenant n x s).pending = s.pending ∧ (setTenant n x s).fuse = s.fuse ∧ (setTenant n x s).straps = s.straps ∧ (setTenant n x s).free = s.free ∧
    (setTenant n x s).tape = s.tape ∧ (setTenant n x s).frac = s.frac ∧ (setTenant n x s).regs = s.regs ∧ (setTenant n x s).mem = s.mem ∧
    (setTenant n x s).poison = s.poison ∧ (setTenant n x s).lineKey = s.lineKey ∧ (setTenant n x s).devKey = s.devKey ∧ (setTenant n x s).cache = s.cache ∧
    (setTenant n x s).lastAtomic = s.lastAtomic ∧ (setTenant n x s).margins = s.margins ∧ (setTenant n x s).failing = s.failing ∧
    (setTenant n x s).unspared = s.unspared ∧ (setTenant n x s).laneBits = s.laneBits ∧ (setTenant n x s).centred = s.centred ∧
    (setTenant n x s).offsets = s.offsets ∧ (setTenant n x s).scrubbed = s.scrubbed ∧ (setTenant n x s).scrubSince = s.scrubSince ∧
    (setTenant n x s).stalled = s.stalled ∧ (setTenant n x s).sessions = s.sessions ∧ (setTenant n x s).slotKinds = s.slotKinds ∧ (setTenant n x s).out = s.out ∧
    (setTenant n x s).nsn = s.nsn ∧ (setTenant n x s).noticed = s.noticed ∧ (setTenant n x s).breaches = s.breaches ∧ (setTenant n x s).tallies = s.tallies ∧
    (setTenant n x s).routes = s.routes ∧ (setTenant n x s).stages = s.stages ∧ (setTenant n x s).models = s.models ∧ (setTenant n x s).grammars = s.grammars ∧
    (setTenant n x s).seqs = s.seqs ∧ (setTenant n x s).prefixes = s.prefixes ∧ (setTenant n x s).allotted = s.allotted ∧ (setTenant n x s).arena = s.arena ∧
    (setTenant n x s).freePages = s.freePages ∧ (setTenant n x s).deferred = s.deferred ∧ (setTenant n x s).leaked = s.leaked ∧ (setTenant n x s).kvJobs = s.kvJobs ∧
    (setTenant n x s).cowJobs = s.cowJobs ∧ (setTenant n x s).plan = s.plan ∧ (setTenant n x s).frozen = s.frozen ∧ (setTenant n x s).sealed = s.sealed ∧
    (setTenant n x s).admits = s.admits ∧ (setTenant n x s).edge = s.edge ∧ (setTenant n x s).stepNext = s.stepNext ∧ (setTenant n x s).dealNext = s.dealNext ∧
    (setTenant n x s).steps = s.steps ∧ (setTenant n x s).execAt = s.execAt ∧ (setTenant n x s).missedRun = s.missedRun ∧ (setTenant n x s).predicted = s.predicted ∧
    (setTenant n x s).admitted = s.admitted ∧ (setTenant n x s).split = s.split ∧ (setTenant n x s).laneGroups = s.laneGroups ∧ (setTenant n x s).slots = s.slots ∧
    (setTenant n x s).panels = s.panels ∧ (setTenant n x s).nodes = s.nodes ∧ (setTenant n x s).gateQueue = s.gateQueue ∧ (setTenant n x s).undealt = s.undealt ∧
    (setTenant n x s).undealtMat = s.undealtMat ∧ (setTenant n x s).redivide = s.redivide ∧ (setTenant n x s).monitors = s.monitors ∧
    (setTenant n x s).lateCancels = s.lateCancels ∧ (setTenant n x s).turn = s.turn ∧ (setTenant n x s).boxTurn = s.boxTurn ∧
    (setTenant n x s).stretchModels = s.stretchModels ∧ (setTenant n x s).worked = s.worked ∧ (setTenant n x s).stepTenants = s.stepTenants ∧
    (setTenant n x s).caused = s.caused ∧ (setTenant n x s).guarded = s.guarded ∧ (setTenant n x s).skipped = s.skipped ∧ (setTenant n x s).core2 = s.core2 ∧
    (setTenant n x s).channels = s.channels ∧ (setTenant n x s).lastStop = s.lastStop ∧ (setTenant n x s).lastResp = s.lastResp ∧
    (setTenant n x s).retrainDue = s.retrainDue ∧ (setTenant n x s).trainedAt = s.trainedAt ∧ (setTenant n x s).trainedTemp = s.trainedTemp ∧
    (setTenant n x s).retrainLast = s.retrainLast ∧ (setTenant n x s).retrained = s.retrained ∧ (setTenant n x s).rotation = s.rotation ∧
    (setTenant n x s).rotAt = s.rotAt ∧ (setTenant n x s).rotLane = s.rotLane ∧ (setTenant n x s).laneFuse = s.laneFuse ∧ (setTenant n x s).repaired = s.repaired ∧
    (setTenant n x s).slicePending = s.slicePending ∧ (setTenant n x s).repart = s.repart ∧ (setTenant n x s).boot = s.boot ∧
    (setTenant n x s).zeroRegions = s.zeroRegions ∧ (setTenant n x s).secure = s.secure ∧ (setTenant n x s).fabric = s.fabric ∧ (setTenant n x s).conns = s.conns ∧
    (setTenant n x s).txRings = s.txRings ∧ (setTenant n x s).rxHeld = s.rxHeld ∧ (setTenant n x s).thimble = s.thimble ∧ (setTenant n x s).pins = s.pins ∧
    (setTenant n x s).power = s.power ∧ (setTenant n x s).warmDue = s.warmDue ∧ (setTenant n x s).update = s.update ∧ (setTenant n x s).fwStage = s.fwStage ∧
    (setTenant n x s).sleepTo = s.sleepTo ∧ (setTenant n x s).addrs = s.addrs := by
  and_intros <;> rfl

@[simp] theorem setSession_frame (k : Nat) (x : Session) (s : State) :
    (setSession k x s).pending = s.pending ∧ (setSession k x s).fuse = s.fuse ∧ (setSession k x s).straps = s.straps ∧ (setSession k x s).free = s.free ∧
    (setSession k x s).tape = s.tape ∧ (setSession k x s).frac = s.frac ∧ (setSession k x s).regs = s.regs ∧ (setSession k x s).mem = s.mem ∧
    (setSession k x s).poison = s.poison ∧ (setSession k x s).lineKey = s.lineKey ∧ (setSession k x s).devKey = s.devKey ∧ (setSession k x s).cache = s.cache ∧
    (setSession k x s).lastAtomic = s.lastAtomic ∧ (setSession k x s).margins = s.margins ∧ (setSession k x s).failing = s.failing ∧
    (setSession k x s).unspared = s.unspared ∧ (setSession k x s).laneBits = s.laneBits ∧ (setSession k x s).centred = s.centred ∧
    (setSession k x s).offsets = s.offsets ∧ (setSession k x s).scrubbed = s.scrubbed ∧ (setSession k x s).scrubSince = s.scrubSince ∧
    (setSession k x s).stalled = s.stalled ∧ (setSession k x s).slotKinds = s.slotKinds ∧ (setSession k x s).out = s.out ∧ (setSession k x s).nsn = s.nsn ∧
    (setSession k x s).noticed = s.noticed ∧ (setSession k x s).breaches = s.breaches ∧ (setSession k x s).tallies = s.tallies ∧
    (setSession k x s).routes = s.routes ∧ (setSession k x s).tenants = s.tenants ∧ (setSession k x s).stages = s.stages ∧ (setSession k x s).models = s.models ∧
    (setSession k x s).grammars = s.grammars ∧ (setSession k x s).seqs = s.seqs ∧ (setSession k x s).prefixes = s.prefixes ∧
    (setSession k x s).allotted = s.allotted ∧ (setSession k x s).arena = s.arena ∧ (setSession k x s).freePages = s.freePages ∧
    (setSession k x s).deferred = s.deferred ∧ (setSession k x s).leaked = s.leaked ∧ (setSession k x s).kvJobs = s.kvJobs ∧ (setSession k x s).cowJobs = s.cowJobs ∧
    (setSession k x s).plan = s.plan ∧ (setSession k x s).frozen = s.frozen ∧ (setSession k x s).sealed = s.sealed ∧ (setSession k x s).admits = s.admits ∧
    (setSession k x s).edge = s.edge ∧ (setSession k x s).stepNext = s.stepNext ∧ (setSession k x s).dealNext = s.dealNext ∧ (setSession k x s).steps = s.steps ∧
    (setSession k x s).execAt = s.execAt ∧ (setSession k x s).missedRun = s.missedRun ∧ (setSession k x s).predicted = s.predicted ∧
    (setSession k x s).admitted = s.admitted ∧ (setSession k x s).split = s.split ∧ (setSession k x s).laneGroups = s.laneGroups ∧
    (setSession k x s).slots = s.slots ∧ (setSession k x s).panels = s.panels ∧ (setSession k x s).nodes = s.nodes ∧ (setSession k x s).gateQueue = s.gateQueue ∧
    (setSession k x s).undealt = s.undealt ∧ (setSession k x s).undealtMat = s.undealtMat ∧ (setSession k x s).redivide = s.redivide ∧
    (setSession k x s).monitors = s.monitors ∧ (setSession k x s).lateCancels = s.lateCancels ∧ (setSession k x s).turn = s.turn ∧
    (setSession k x s).boxTurn = s.boxTurn ∧ (setSession k x s).stretchModels = s.stretchModels ∧ (setSession k x s).worked = s.worked ∧
    (setSession k x s).stepTenants = s.stepTenants ∧ (setSession k x s).caused = s.caused ∧ (setSession k x s).guarded = s.guarded ∧
    (setSession k x s).skipped = s.skipped ∧ (setSession k x s).core2 = s.core2 ∧ (setSession k x s).channels = s.channels ∧
    (setSession k x s).lastStop = s.lastStop ∧ (setSession k x s).lastResp = s.lastResp ∧ (setSession k x s).retrainDue = s.retrainDue ∧
    (setSession k x s).trainedAt = s.trainedAt ∧ (setSession k x s).trainedTemp = s.trainedTemp ∧ (setSession k x s).retrainLast = s.retrainLast ∧
    (setSession k x s).retrained = s.retrained ∧ (setSession k x s).rotation = s.rotation ∧ (setSession k x s).rotAt = s.rotAt ∧
    (setSession k x s).rotLane = s.rotLane ∧ (setSession k x s).laneFuse = s.laneFuse ∧ (setSession k x s).repaired = s.repaired ∧
    (setSession k x s).slicePending = s.slicePending ∧ (setSession k x s).repart = s.repart ∧ (setSession k x s).boot = s.boot ∧
    (setSession k x s).zeroRegions = s.zeroRegions ∧ (setSession k x s).secure = s.secure ∧ (setSession k x s).fabric = s.fabric ∧
    (setSession k x s).conns = s.conns ∧ (setSession k x s).txRings = s.txRings ∧ (setSession k x s).rxHeld = s.rxHeld ∧ (setSession k x s).thimble = s.thimble ∧
    (setSession k x s).pins = s.pins ∧ (setSession k x s).power = s.power ∧ (setSession k x s).warmDue = s.warmDue ∧ (setSession k x s).update = s.update ∧
    (setSession k x s).fwStage = s.fwStage ∧ (setSession k x s).sleepTo = s.sleepTo ∧ (setSession k x s).addrs = s.addrs := by
  and_intros <;> rfl

@[simp] theorem setNode_frame (n : Nat) (x : Node2) (s : State) :
    (setNode n x s).pending = s.pending ∧ (setNode n x s).fuse = s.fuse ∧ (setNode n x s).straps = s.straps ∧ (setNode n x s).free = s.free ∧
    (setNode n x s).tape = s.tape ∧ (setNode n x s).frac = s.frac ∧ (setNode n x s).regs = s.regs ∧ (setNode n x s).mem = s.mem ∧ (setNode n x s).poison = s.poison ∧
    (setNode n x s).lineKey = s.lineKey ∧ (setNode n x s).devKey = s.devKey ∧ (setNode n x s).cache = s.cache ∧ (setNode n x s).lastAtomic = s.lastAtomic ∧
    (setNode n x s).margins = s.margins ∧ (setNode n x s).failing = s.failing ∧ (setNode n x s).unspared = s.unspared ∧ (setNode n x s).laneBits = s.laneBits ∧
    (setNode n x s).centred = s.centred ∧ (setNode n x s).offsets = s.offsets ∧ (setNode n x s).scrubbed = s.scrubbed ∧ (setNode n x s).scrubSince = s.scrubSince ∧
    (setNode n x s).stalled = s.stalled ∧ (setNode n x s).sessions = s.sessions ∧ (setNode n x s).slotKinds = s.slotKinds ∧ (setNode n x s).out = s.out ∧
    (setNode n x s).nsn = s.nsn ∧ (setNode n x s).noticed = s.noticed ∧ (setNode n x s).breaches = s.breaches ∧ (setNode n x s).tallies = s.tallies ∧
    (setNode n x s).routes = s.routes ∧ (setNode n x s).tenants = s.tenants ∧ (setNode n x s).stages = s.stages ∧ (setNode n x s).models = s.models ∧
    (setNode n x s).grammars = s.grammars ∧ (setNode n x s).seqs = s.seqs ∧ (setNode n x s).prefixes = s.prefixes ∧ (setNode n x s).allotted = s.allotted ∧
    (setNode n x s).arena = s.arena ∧ (setNode n x s).freePages = s.freePages ∧ (setNode n x s).deferred = s.deferred ∧ (setNode n x s).leaked = s.leaked ∧
    (setNode n x s).kvJobs = s.kvJobs ∧ (setNode n x s).cowJobs = s.cowJobs ∧ (setNode n x s).plan = s.plan ∧ (setNode n x s).frozen = s.frozen ∧
    (setNode n x s).sealed = s.sealed ∧ (setNode n x s).admits = s.admits ∧ (setNode n x s).edge = s.edge ∧ (setNode n x s).stepNext = s.stepNext ∧
    (setNode n x s).dealNext = s.dealNext ∧ (setNode n x s).steps = s.steps ∧ (setNode n x s).execAt = s.execAt ∧ (setNode n x s).missedRun = s.missedRun ∧
    (setNode n x s).predicted = s.predicted ∧ (setNode n x s).admitted = s.admitted ∧ (setNode n x s).split = s.split ∧ (setNode n x s).laneGroups = s.laneGroups ∧
    (setNode n x s).slots = s.slots ∧ (setNode n x s).panels = s.panels ∧ (setNode n x s).gateQueue = s.gateQueue ∧ (setNode n x s).undealt = s.undealt ∧
    (setNode n x s).undealtMat = s.undealtMat ∧ (setNode n x s).redivide = s.redivide ∧ (setNode n x s).monitors = s.monitors ∧
    (setNode n x s).lateCancels = s.lateCancels ∧ (setNode n x s).turn = s.turn ∧ (setNode n x s).boxTurn = s.boxTurn ∧
    (setNode n x s).stretchModels = s.stretchModels ∧ (setNode n x s).worked = s.worked ∧ (setNode n x s).stepTenants = s.stepTenants ∧
    (setNode n x s).caused = s.caused ∧ (setNode n x s).guarded = s.guarded ∧ (setNode n x s).skipped = s.skipped ∧ (setNode n x s).core2 = s.core2 ∧
    (setNode n x s).channels = s.channels ∧ (setNode n x s).lastStop = s.lastStop ∧ (setNode n x s).lastResp = s.lastResp ∧
    (setNode n x s).retrainDue = s.retrainDue ∧ (setNode n x s).trainedAt = s.trainedAt ∧ (setNode n x s).trainedTemp = s.trainedTemp ∧
    (setNode n x s).retrainLast = s.retrainLast ∧ (setNode n x s).retrained = s.retrained ∧ (setNode n x s).rotation = s.rotation ∧ (setNode n x s).rotAt = s.rotAt ∧
    (setNode n x s).rotLane = s.rotLane ∧ (setNode n x s).laneFuse = s.laneFuse ∧ (setNode n x s).repaired = s.repaired ∧
    (setNode n x s).slicePending = s.slicePending ∧ (setNode n x s).repart = s.repart ∧ (setNode n x s).boot = s.boot ∧ (setNode n x s).zeroRegions = s.zeroRegions ∧
    (setNode n x s).secure = s.secure ∧ (setNode n x s).fabric = s.fabric ∧ (setNode n x s).conns = s.conns ∧ (setNode n x s).txRings = s.txRings ∧
    (setNode n x s).rxHeld = s.rxHeld ∧ (setNode n x s).thimble = s.thimble ∧ (setNode n x s).pins = s.pins ∧ (setNode n x s).power = s.power ∧
    (setNode n x s).warmDue = s.warmDue ∧ (setNode n x s).update = s.update ∧ (setNode n x s).fwStage = s.fwStage ∧ (setNode n x s).sleepTo = s.sleepTo ∧
    (setNode n x s).addrs = s.addrs := by
  and_intros <;> rfl

@[simp] theorem setStep_frame (t : Step) (s : State) :
    (setStep t s).pending = s.pending ∧ (setStep t s).fuse = s.fuse ∧ (setStep t s).straps = s.straps ∧ (setStep t s).free = s.free ∧ (setStep t s).tape = s.tape ∧
    (setStep t s).frac = s.frac ∧ (setStep t s).regs = s.regs ∧ (setStep t s).mem = s.mem ∧ (setStep t s).poison = s.poison ∧ (setStep t s).lineKey = s.lineKey ∧
    (setStep t s).devKey = s.devKey ∧ (setStep t s).cache = s.cache ∧ (setStep t s).lastAtomic = s.lastAtomic ∧ (setStep t s).margins = s.margins ∧
    (setStep t s).failing = s.failing ∧ (setStep t s).unspared = s.unspared ∧ (setStep t s).laneBits = s.laneBits ∧ (setStep t s).centred = s.centred ∧
    (setStep t s).offsets = s.offsets ∧ (setStep t s).scrubbed = s.scrubbed ∧ (setStep t s).scrubSince = s.scrubSince ∧ (setStep t s).stalled = s.stalled ∧
    (setStep t s).sessions = s.sessions ∧ (setStep t s).slotKinds = s.slotKinds ∧ (setStep t s).out = s.out ∧ (setStep t s).nsn = s.nsn ∧
    (setStep t s).noticed = s.noticed ∧ (setStep t s).breaches = s.breaches ∧ (setStep t s).tallies = s.tallies ∧ (setStep t s).routes = s.routes ∧
    (setStep t s).tenants = s.tenants ∧ (setStep t s).stages = s.stages ∧ (setStep t s).models = s.models ∧ (setStep t s).grammars = s.grammars ∧
    (setStep t s).seqs = s.seqs ∧ (setStep t s).prefixes = s.prefixes ∧ (setStep t s).allotted = s.allotted ∧ (setStep t s).arena = s.arena ∧
    (setStep t s).freePages = s.freePages ∧ (setStep t s).deferred = s.deferred ∧ (setStep t s).leaked = s.leaked ∧ (setStep t s).kvJobs = s.kvJobs ∧
    (setStep t s).cowJobs = s.cowJobs ∧ (setStep t s).plan = s.plan ∧ (setStep t s).frozen = s.frozen ∧ (setStep t s).sealed = s.sealed ∧
    (setStep t s).admits = s.admits ∧ (setStep t s).edge = s.edge ∧ (setStep t s).stepNext = s.stepNext ∧ (setStep t s).dealNext = s.dealNext ∧
    (setStep t s).execAt = s.execAt ∧ (setStep t s).missedRun = s.missedRun ∧ (setStep t s).predicted = s.predicted ∧ (setStep t s).admitted = s.admitted ∧
    (setStep t s).split = s.split ∧ (setStep t s).laneGroups = s.laneGroups ∧ (setStep t s).slots = s.slots ∧ (setStep t s).panels = s.panels ∧
    (setStep t s).nodes = s.nodes ∧ (setStep t s).gateQueue = s.gateQueue ∧ (setStep t s).undealt = s.undealt ∧ (setStep t s).undealtMat = s.undealtMat ∧
    (setStep t s).redivide = s.redivide ∧ (setStep t s).monitors = s.monitors ∧ (setStep t s).lateCancels = s.lateCancels ∧ (setStep t s).turn = s.turn ∧
    (setStep t s).boxTurn = s.boxTurn ∧ (setStep t s).stretchModels = s.stretchModels ∧ (setStep t s).worked = s.worked ∧ (setStep t s).stepTenants = s.stepTenants ∧
    (setStep t s).caused = s.caused ∧ (setStep t s).guarded = s.guarded ∧ (setStep t s).skipped = s.skipped ∧ (setStep t s).core2 = s.core2 ∧
    (setStep t s).channels = s.channels ∧ (setStep t s).lastStop = s.lastStop ∧ (setStep t s).lastResp = s.lastResp ∧ (setStep t s).retrainDue = s.retrainDue ∧
    (setStep t s).trainedAt = s.trainedAt ∧ (setStep t s).trainedTemp = s.trainedTemp ∧ (setStep t s).retrainLast = s.retrainLast ∧
    (setStep t s).retrained = s.retrained ∧ (setStep t s).rotation = s.rotation ∧ (setStep t s).rotAt = s.rotAt ∧ (setStep t s).rotLane = s.rotLane ∧
    (setStep t s).laneFuse = s.laneFuse ∧ (setStep t s).repaired = s.repaired ∧ (setStep t s).slicePending = s.slicePending ∧ (setStep t s).repart = s.repart ∧
    (setStep t s).boot = s.boot ∧ (setStep t s).zeroRegions = s.zeroRegions ∧ (setStep t s).secure = s.secure ∧ (setStep t s).fabric = s.fabric ∧
    (setStep t s).conns = s.conns ∧ (setStep t s).txRings = s.txRings ∧ (setStep t s).rxHeld = s.rxHeld ∧ (setStep t s).thimble = s.thimble ∧
    (setStep t s).pins = s.pins ∧ (setStep t s).power = s.power ∧ (setStep t s).warmDue = s.warmDue ∧ (setStep t s).update = s.update ∧
    (setStep t s).fwStage = s.fwStage ∧ (setStep t s).sleepTo = s.sleepTo ∧ (setStep t s).addrs = s.addrs := by
  and_intros <;> rfl

@[simp] theorem dropStep_frame (n : Nat) (s : State) :
    (dropStep n s).pending = s.pending ∧ (dropStep n s).fuse = s.fuse ∧ (dropStep n s).straps = s.straps ∧ (dropStep n s).free = s.free ∧
    (dropStep n s).tape = s.tape ∧ (dropStep n s).frac = s.frac ∧ (dropStep n s).regs = s.regs ∧ (dropStep n s).mem = s.mem ∧ (dropStep n s).poison = s.poison ∧
    (dropStep n s).lineKey = s.lineKey ∧ (dropStep n s).devKey = s.devKey ∧ (dropStep n s).cache = s.cache ∧ (dropStep n s).lastAtomic = s.lastAtomic ∧
    (dropStep n s).margins = s.margins ∧ (dropStep n s).failing = s.failing ∧ (dropStep n s).unspared = s.unspared ∧ (dropStep n s).laneBits = s.laneBits ∧
    (dropStep n s).centred = s.centred ∧ (dropStep n s).offsets = s.offsets ∧ (dropStep n s).scrubbed = s.scrubbed ∧ (dropStep n s).scrubSince = s.scrubSince ∧
    (dropStep n s).stalled = s.stalled ∧ (dropStep n s).sessions = s.sessions ∧ (dropStep n s).slotKinds = s.slotKinds ∧ (dropStep n s).out = s.out ∧
    (dropStep n s).nsn = s.nsn ∧ (dropStep n s).noticed = s.noticed ∧ (dropStep n s).breaches = s.breaches ∧ (dropStep n s).tallies = s.tallies ∧
    (dropStep n s).routes = s.routes ∧ (dropStep n s).tenants = s.tenants ∧ (dropStep n s).stages = s.stages ∧ (dropStep n s).models = s.models ∧
    (dropStep n s).grammars = s.grammars ∧ (dropStep n s).seqs = s.seqs ∧ (dropStep n s).prefixes = s.prefixes ∧ (dropStep n s).arena = s.arena ∧
    (dropStep n s).freePages = s.freePages ∧ (dropStep n s).deferred = s.deferred ∧ (dropStep n s).leaked = s.leaked ∧ (dropStep n s).kvJobs = s.kvJobs ∧
    (dropStep n s).cowJobs = s.cowJobs ∧ (dropStep n s).plan = s.plan ∧ (dropStep n s).frozen = s.frozen ∧ (dropStep n s).sealed = s.sealed ∧
    (dropStep n s).admits = s.admits ∧ (dropStep n s).edge = s.edge ∧ (dropStep n s).stepNext = s.stepNext ∧ (dropStep n s).dealNext = s.dealNext ∧
    (dropStep n s).execAt = s.execAt ∧ (dropStep n s).missedRun = s.missedRun ∧ (dropStep n s).predicted = s.predicted ∧ (dropStep n s).admitted = s.admitted ∧
    (dropStep n s).split = s.split ∧ (dropStep n s).laneGroups = s.laneGroups ∧ (dropStep n s).slots = s.slots ∧ (dropStep n s).panels = s.panels ∧
    (dropStep n s).nodes = s.nodes ∧ (dropStep n s).gateQueue = s.gateQueue ∧ (dropStep n s).undealt = s.undealt ∧ (dropStep n s).undealtMat = s.undealtMat ∧
    (dropStep n s).redivide = s.redivide ∧ (dropStep n s).monitors = s.monitors ∧ (dropStep n s).lateCancels = s.lateCancels ∧ (dropStep n s).turn = s.turn ∧
    (dropStep n s).boxTurn = s.boxTurn ∧ (dropStep n s).stretchModels = s.stretchModels ∧ (dropStep n s).worked = s.worked ∧
    (dropStep n s).stepTenants = s.stepTenants ∧ (dropStep n s).caused = s.caused ∧ (dropStep n s).guarded = s.guarded ∧ (dropStep n s).skipped = s.skipped ∧
    (dropStep n s).core2 = s.core2 ∧ (dropStep n s).channels = s.channels ∧ (dropStep n s).lastStop = s.lastStop ∧ (dropStep n s).lastResp = s.lastResp ∧
    (dropStep n s).retrainDue = s.retrainDue ∧ (dropStep n s).trainedAt = s.trainedAt ∧ (dropStep n s).trainedTemp = s.trainedTemp ∧
    (dropStep n s).retrainLast = s.retrainLast ∧ (dropStep n s).retrained = s.retrained ∧ (dropStep n s).rotation = s.rotation ∧ (dropStep n s).rotAt = s.rotAt ∧
    (dropStep n s).rotLane = s.rotLane ∧ (dropStep n s).laneFuse = s.laneFuse ∧ (dropStep n s).repaired = s.repaired ∧ (dropStep n s).slicePending = s.slicePending ∧
    (dropStep n s).repart = s.repart ∧ (dropStep n s).boot = s.boot ∧ (dropStep n s).zeroRegions = s.zeroRegions ∧ (dropStep n s).secure = s.secure ∧
    (dropStep n s).fabric = s.fabric ∧ (dropStep n s).conns = s.conns ∧ (dropStep n s).txRings = s.txRings ∧ (dropStep n s).rxHeld = s.rxHeld ∧
    (dropStep n s).thimble = s.thimble ∧ (dropStep n s).pins = s.pins ∧ (dropStep n s).power = s.power ∧ (dropStep n s).warmDue = s.warmDue ∧
    (dropStep n s).update = s.update ∧ (dropStep n s).fwStage = s.fwStage ∧ (dropStep n s).sleepTo = s.sleepTo ∧ (dropStep n s).addrs = s.addrs := by
  and_intros <;> rfl

@[simp] theorem emitOut_frame (x : Sent) (s : State) :
    (emitOut x s).pending = s.pending ∧ (emitOut x s).fuse = s.fuse ∧ (emitOut x s).straps = s.straps ∧ (emitOut x s).free = s.free ∧ (emitOut x s).tape = s.tape ∧
    (emitOut x s).frac = s.frac ∧ (emitOut x s).regs = s.regs ∧ (emitOut x s).mem = s.mem ∧ (emitOut x s).poison = s.poison ∧ (emitOut x s).lineKey = s.lineKey ∧
    (emitOut x s).devKey = s.devKey ∧ (emitOut x s).cache = s.cache ∧ (emitOut x s).lastAtomic = s.lastAtomic ∧ (emitOut x s).margins = s.margins ∧
    (emitOut x s).failing = s.failing ∧ (emitOut x s).unspared = s.unspared ∧ (emitOut x s).laneBits = s.laneBits ∧ (emitOut x s).centred = s.centred ∧
    (emitOut x s).offsets = s.offsets ∧ (emitOut x s).scrubbed = s.scrubbed ∧ (emitOut x s).scrubSince = s.scrubSince ∧ (emitOut x s).stalled = s.stalled ∧
    (emitOut x s).sessions = s.sessions ∧ (emitOut x s).slotKinds = s.slotKinds ∧ (emitOut x s).nsn = s.nsn ∧ (emitOut x s).noticed = s.noticed ∧
    (emitOut x s).breaches = s.breaches ∧ (emitOut x s).tallies = s.tallies ∧ (emitOut x s).routes = s.routes ∧ (emitOut x s).tenants = s.tenants ∧
    (emitOut x s).stages = s.stages ∧ (emitOut x s).models = s.models ∧ (emitOut x s).grammars = s.grammars ∧ (emitOut x s).seqs = s.seqs ∧
    (emitOut x s).prefixes = s.prefixes ∧ (emitOut x s).allotted = s.allotted ∧ (emitOut x s).arena = s.arena ∧ (emitOut x s).freePages = s.freePages ∧
    (emitOut x s).deferred = s.deferred ∧ (emitOut x s).leaked = s.leaked ∧ (emitOut x s).kvJobs = s.kvJobs ∧ (emitOut x s).cowJobs = s.cowJobs ∧
    (emitOut x s).plan = s.plan ∧ (emitOut x s).frozen = s.frozen ∧ (emitOut x s).sealed = s.sealed ∧ (emitOut x s).admits = s.admits ∧ (emitOut x s).edge = s.edge ∧
    (emitOut x s).stepNext = s.stepNext ∧ (emitOut x s).dealNext = s.dealNext ∧ (emitOut x s).steps = s.steps ∧ (emitOut x s).execAt = s.execAt ∧
    (emitOut x s).missedRun = s.missedRun ∧ (emitOut x s).predicted = s.predicted ∧ (emitOut x s).admitted = s.admitted ∧ (emitOut x s).split = s.split ∧
    (emitOut x s).laneGroups = s.laneGroups ∧ (emitOut x s).slots = s.slots ∧ (emitOut x s).panels = s.panels ∧ (emitOut x s).nodes = s.nodes ∧
    (emitOut x s).gateQueue = s.gateQueue ∧ (emitOut x s).undealt = s.undealt ∧ (emitOut x s).undealtMat = s.undealtMat ∧ (emitOut x s).redivide = s.redivide ∧
    (emitOut x s).monitors = s.monitors ∧ (emitOut x s).lateCancels = s.lateCancels ∧ (emitOut x s).turn = s.turn ∧ (emitOut x s).boxTurn = s.boxTurn ∧
    (emitOut x s).stretchModels = s.stretchModels ∧ (emitOut x s).worked = s.worked ∧ (emitOut x s).stepTenants = s.stepTenants ∧ (emitOut x s).caused = s.caused ∧
    (emitOut x s).guarded = s.guarded ∧ (emitOut x s).skipped = s.skipped ∧ (emitOut x s).core2 = s.core2 ∧ (emitOut x s).channels = s.channels ∧
    (emitOut x s).lastStop = s.lastStop ∧ (emitOut x s).lastResp = s.lastResp ∧ (emitOut x s).retrainDue = s.retrainDue ∧ (emitOut x s).trainedAt = s.trainedAt ∧
    (emitOut x s).trainedTemp = s.trainedTemp ∧ (emitOut x s).retrainLast = s.retrainLast ∧ (emitOut x s).retrained = s.retrained ∧
    (emitOut x s).rotation = s.rotation ∧ (emitOut x s).rotAt = s.rotAt ∧ (emitOut x s).rotLane = s.rotLane ∧ (emitOut x s).laneFuse = s.laneFuse ∧
    (emitOut x s).repaired = s.repaired ∧ (emitOut x s).slicePending = s.slicePending ∧ (emitOut x s).repart = s.repart ∧ (emitOut x s).boot = s.boot ∧
    (emitOut x s).zeroRegions = s.zeroRegions ∧ (emitOut x s).secure = s.secure ∧ (emitOut x s).fabric = s.fabric ∧ (emitOut x s).conns = s.conns ∧
    (emitOut x s).txRings = s.txRings ∧ (emitOut x s).rxHeld = s.rxHeld ∧ (emitOut x s).thimble = s.thimble ∧ (emitOut x s).pins = s.pins ∧
    (emitOut x s).power = s.power ∧ (emitOut x s).warmDue = s.warmDue ∧ (emitOut x s).update = s.update ∧ (emitOut x s).fwStage = s.fwStage ∧
    (emitOut x s).sleepTo = s.sleepTo ∧ (emitOut x s).addrs = s.addrs := by
  and_intros <;> rfl

/-- A free value changes only the counter of free values. -/
theorem fresh_state (s : State) : (fresh s).2 = { s with free := s.free + 1 } := rfl

end Sys2Proof.Laws
end

