-- ==== Sys2Proof/Laws/Ops.lean ====
section
/-! SUPPORT. What the named operations do: registers and their fields, counters, stored bytes, and writes to memory under a key context. -/

namespace Sys2Proof.Laws

open Sys2Proof.Machine

/-- A register reads as what was stored in it. -/
theorem rd_wr_same (a : Nat) (v : Word) (s : State) (h : regsWf s.regs = true) : rd (wr a v s) a = v := sget_sput_same _ _ _ _ h

/-- Storing one register leaves every other. -/
theorem rd_wr_other (a b : Nat) (v : Word) (s : State) (h : b ≠ a) : rd (wr a v s) b = rd s b := sget_sput_other _ _ _ _ _ h

theorem rdF_wrF_same (a hi lo v : Nat) (s : State) (h : regsWf s.regs = true) (l : lo ≤ hi) (k : hi < 64) :
    rdF (wrF a hi lo v s) a hi lo = v % 2 ^ (hi + 1 - lo) := by
  unfold rdF wrF
  rw [rd_wr_same _ _ _ h, getBits_setBits_same _ _ _ _ l k]

theorem rdF_wrF_other (a hi lo v hi' lo' : Nat) (s : State) (h : regsWf s.regs = true) (l : lo ≤ hi) (k : hi < 64) (d : hi < lo' ∨ hi' < lo) :
    rdF (wrF a hi lo v s) a hi' lo' = rdF s a hi' lo' := by
  unfold rdF wrF
  rw [rd_wr_same _ _ _ h, getBits_setBits_other _ _ _ _ _ _ l k d]

theorem rd_wrF_other (a hi lo v b : Nat) (s : State) (h : b ≠ a) : rd (wrF a hi lo v s) b = rd s b := rd_wr_other _ _ _ _ h

theorem rd_wrB_other (a i : Nat) (x : Bool) (b : Nat) (s : State) (h : b ≠ a) : rd (wrB a i x s) b = rd s b := rd_wr_other _ _ _ _ h

theorem rdB_wrB_same (a i : Nat) (x : Bool) (s : State) (h : regsWf s.regs = true) (k : i < 64) : rdB (wrB a i x s) a i = x := by
  unfold rdB wrB
  rw [rd_wr_same _ _ _ h, getBit_setBit_same _ _ _ k]

/-- The register file stays canonical. -/
theorem regsWf_wr (a : Nat) (v : Word) (s : State) (h : regsWf s.regs = true) : regsWf (wr a v s).regs = true := swf_sput _ _ _ _ h

theorem regsWf_wrF (a hi lo v : Nat) (s : State) (h : regsWf s.regs = true) : regsWf (wrF a hi lo v s).regs = true := swf_sput _ _ _ _ h

theorem regsWf_wrB (a i : Nat) (b : Bool) (s : State) (h : regsWf s.regs = true) : regsWf (wrB a i b s).regs = true := swf_sput _ _ _ _ h

/-- Counting changes registers alone. -/
theorem bump_only (a n : Nat) (s : State) : ∃ r, bump a n s = { s with regs := r } := by
  unfold bump setOverflow
  repeat' split
  · exact ⟨s.regs, rfl⟩
  · exact ⟨_, rfl⟩
  · exact ⟨_, rfl⟩
  · exact ⟨_, rfl⟩

theorem getByte_putByte_same (a : Nat) (b : Byte) (s : State) (h : Memory.wf s.mem = true) : getByte (putByte a b s) a = b := sget_sput_same _ _ _ _ h

theorem getByte_putByte_other (a c : Nat) (b : Byte) (s : State) (h : c ≠ a) : getByte (putByte a b s) c = getByte s c := sget_sput_other _ _ _ _ _ h

theorem wf_putByte (a : Nat) (b : Byte) (s : State) (h : Memory.wf s.mem = true) : Memory.wf (putByte a b s).mem = true := swf_sput _ _ _ _ h

theorem wf_putBytes (a : Nat) (bs : List Byte) (s : State) (h : Memory.wf s.mem = true) : Memory.wf (putBytes a bs s).mem = true := by
  induction bs generalizing a s with
  | nil => exact h
  | cons b bs ih => exact ih _ _ (wf_putByte _ _ _ h)

/-- Storing bytes changes memory alone. -/
theorem putBytes_only (a : Nat) (bs : List Byte) (s : State) : putBytes a bs s = { s with mem := (putBytes a bs s).mem } := by
  induction bs generalizing a s with
  | nil => rfl
  | cons b bs ih =>
    rw [putBytes, ih]
    rfl

/-- A byte outside the bytes stored is as before. -/
theorem getByte_putBytes_other (a c : Nat) (bs : List Byte) (s : State) (h : c < a ∨ a + bs.length ≤ c) :
    getByte (putBytes a bs s) c = getByte s c := by
  induction bs generalizing a s with
  | nil => rfl
  | cons b bs ih =>
    rw [putBytes, ih, getByte_putByte_other]
    · simp only [List.length_cons] at h; omega
    · simp only [List.length_cons] at h; omega

/-- A byte among the bytes stored is the one stored there. -/
theorem getByte_putBytes_at (a i : Nat) (bs : List Byte) (s : State) (h : Memory.wf s.mem = true) (k : i < bs.length) :
    getByte (putBytes a bs s) (a + i) = bs[i] := by
  induction bs generalizing a s i with
  | nil => simp at k
  | cons b bs ih =>
    rw [putBytes]
    cases i with
    | zero =>
      rw [getByte_putBytes_other _ _ _ _ (by omega)]
      exact getByte_putByte_same _ _ _ h
    | succ i =>
      rw [show a + (i + 1) = a + 1 + i by omega, ih _ _ _ (wf_putByte _ _ _ h) (by simpa using k)]
      simp

/-- An access to a line's cache entry leaves what is stored and under which context it stands. -/
theorem touchLine_stored (alloc : Bool) (ctx : Nat) (w : Bool) (l : Nat) (s : State) :
    (touchLine alloc ctx w l s).mem = s.mem ∧ (touchLine alloc ctx w l s).lineKey = s.lineKey ∧ (touchLine alloc ctx w l s).fuse = s.fuse ∧
      (touchLine alloc ctx w l s).poison = s.poison := by
  have room : ∀ n t, (makeRoom n t).mem = t.mem ∧ (makeRoom n t).lineKey = t.lineKey ∧ (makeRoom n t).fuse = t.fuse ∧ (makeRoom n t).poison = t.poison := by
    intro n t
    unfold makeRoom
    dsimp only
    split <;> exact ⟨rfl, rfl, rfl, rfl⟩
  have counted : ∀ b : Bool, (if b then bump 0x900020 1 s else s).mem = s.mem ∧ (if b then bump 0x900020 1 s else s).lineKey = s.lineKey ∧
      (if b then bump 0x900020 1 s else s).fuse = s.fuse ∧ (if b then bump 0x900020 1 s else s).poison = s.poison := by
    intro b
    obtain ⟨r, e⟩ := bump_only 0x900020 1 s
    rw [e]
    split <;> exact ⟨rfl, rfl, rfl, rfl⟩
  unfold touchLine
  dsimp only
  split
  · obtain ⟨x, y, z, w⟩ := room (sliceOf l) (if ((sget (fun _ => CacheLine.none) s.cache l).held && decide ((sget (fun _ => CacheLine.none) s.cache l).ctx ≠ ctx)) then bump 0x900020 1 s else s)
    obtain ⟨x', y', z', w'⟩ := counted ((sget (fun _ => CacheLine.none) s.cache l).held && decide ((sget (fun _ => CacheLine.none) s.cache l).ctx ≠ ctx))
    exact ⟨x.trans x', y.trans y', z.trans z', w.trans w'⟩
  · exact counted _

/-- A block of 16 bytes whose every byte is stored as before is as before. -/
theorem xtsBlock_congr (s t : State) (b : Nat) (h : ∀ c, c / 16 = b / 16 → getByte t c = getByte s c) : xtsBlock t b = xtsBlock s b := by
  unfold xtsBlock peekLe getBytes
  rw [List.map_congr_left (fun i k => h (b / 16 * 16 + i) (by have := List.mem_range.1 k; omega))]

theorem byteAs_congr (s t : State) (ctx b : Nat) (h : t.mem = s.mem) (k : t.lineKey = s.lineKey) (f : t.fuse = s.fuse) : byteAs t ctx b = byteAs s ctx b := by
  have g : ∀ c, getByte t c = getByte s c := fun c => by unfold getByte; rw [h]
  unfold byteAs ctxOf capacity
  rw [g, k, f, xtsBlock_congr s t b (fun c _ => g c)]

/-- Memory and the key contexts are in canonical form. -/
def stored (s : State) : Prop := Memory.wf s.mem = true ∧ swf (fun _ => 0) s.lineKey = true

/-- Rewriting a line under a context leaves every byte as that context reads it, and the line stands under it. -/
theorem rekeyLine_reads (ctx l : Nat) (s : State) (a : l % 64 = 0) (h : stored s) :
    stored (rekeyLine ctx l s) ∧ (rekeyLine ctx l s).fuse = s.fuse ∧ ctxOf (rekeyLine ctx l s) l = ctx ∧
      (∀ b, ctxOf s b = ctx → ctxOf (rekeyLine ctx l s) b = ctx) ∧ ∀ b, byteAs (rekeyLine ctx l s) ctx b = byteAs s ctx b := by
  have al : l / 64 * 64 = l := by omega
  unfold rekeyLine
  split
  next e => exact ⟨h, rfl, e, fun _ k => k, fun _ => rfl⟩
  next e =>
    dsimp only
    have p := putBytes_only l ((List.range 64).map (fun i => byteAs s ctx (l + i))) s
    have ln : ((List.range 64).map (fun i => byteAs s ctx (l + i))).length = 64 := by simp
    have at_ : ∀ i, i < 64 → getByte (putBytes l ((List.range 64).map (fun i => byteAs s ctx (l + i))) s) (l + i) = byteAs s ctx (l + i) := by
      intro i q
      rw [getByte_putBytes_at l i _ s h.1 (by simpa using q)]
      simp
    have out := fun c => getByte_putBytes_other l c ((List.range 64).map (fun i => byteAs s ctx (l + i))) s
    have wf := wf_putBytes l ((List.range 64).map (fun i => byteAs s ctx (l + i))) s h.1
    rw [ln] at out
    have keys : (putBytes l ((List.range 64).map (fun i => byteAs s ctx (l + i))) s).lineKey = s.lineKey := by rw [p]
    have fu : (putBytes l ((List.range 64).map (fun i => byteAs s ctx (l + i))) s).fuse = s.fuse := by rw [p]
    generalize putBytes l ((List.range 64).map (fun i => byteAs s ctx (l + i))) s = t at *
    have here : ∀ b, b / 64 * 64 = l → sget (fun _ => 0) (sput (fun _ => 0) t.lineKey l ctx) (b / 64 * 64) = ctx := by
      intro b q
      rw [q]
      exact sget_sput_same _ _ _ _ (by rw [keys]; exact h.2)
    have there : ∀ b, b / 64 * 64 ≠ l → sget (fun _ => 0) (sput (fun _ => 0) t.lineKey l ctx) (b / 64 * 64) = ctxOf s b := by
      intro b q
      rw [sget_sput_other _ _ _ _ _ q, keys]
      rfl
    refine ⟨⟨wf, swf_sput _ _ _ _ (by rw [keys]; exact h.2)⟩, fu, here l al, ?_, ?_⟩
    · intro b k
      by_cases q : b / 64 * 64 = l
      · exact here b q
      · exact (there b q).trans k
    · intro b
      by_cases q : b / 64 * 64 = l
      · have g := at_ (b - l) (by omega)
        rw [show l + (b - l) = b by omega] at g
        rw [← g]
        unfold byteAs ctxOf
        rw [here b q, if_neg (fun z => z.2 rfl)]
        rfl
      · have e := xtsBlock_congr s { t with lineKey := sput (fun _ => 0) t.lineKey l ctx } b (fun c k => out c (by omega))
        unfold byteAs
        rw [e, show ctxOf { t with lineKey := sput (fun _ => 0) t.lineKey l ctx } b = ctxOf s b from there b q,
          show getByte { t with lineKey := sput (fun _ => 0) t.lineKey l ctx } b = getByte s b from out b (by omega)]
        unfold capacity
        dsimp only
        rw [fu]

/-- The lines a write takes over: each stands under the writer's context and reads as it did. -/
theorem rekeyLines_reads (alloc : Bool) (ctx : Nat) (ls : List Nat) (s : State) (a : ∀ l ∈ ls, l % 64 = 0) (h : stored s) :
    let t := ls.foldl (fun s l => rekeyLine ctx l (touchLine alloc ctx true l s)) s
    stored t ∧ t.fuse = s.fuse ∧ (∀ b, ctxOf s b = ctx → ctxOf t b = ctx) ∧ (∀ b, b / 64 * 64 ∈ ls → ctxOf t b = ctx) ∧ ∀ b, byteAs t ctx b = byteAs s ctx b := by
  induction ls generalizing s with
  | nil => exact ⟨h, rfl, fun _ k => k, fun _ k => absurd k (by simp), fun _ => rfl⟩
  | cons l ls ih =>
    obtain ⟨m, k, f, _⟩ := touchLine_stored alloc ctx true l s
    have h' : stored (touchLine alloc ctx true l s) := ⟨by rw [m]; exact h.1, by rw [k]; exact h.2⟩
    obtain ⟨w1, f1, c1, s1, b1⟩ := rekeyLine_reads ctx l _ (a l (by simp)) h'
    obtain ⟨w2, f2, s2, c2, b2⟩ := ih (rekeyLine ctx l (touchLine alloc ctx true l s)) (fun x q => a x (by simp [q])) w1
    refine ⟨w2, f2.trans (f1.trans f), fun b q => s2 b (s1 b ?_), ?_, fun b => (b2 b).trans ((b1 b).trans (byteAs_congr _ _ _ _ m k f))⟩
    · unfold ctxOf at q ⊢
      rw [k]
      exact q
    · intro b q
      rcases List.mem_cons.1 q with q | q
      · refine s2 b ?_
        have al := a l (by simp)
        have e : ctxOf (rekeyLine ctx l (touchLine alloc ctx true l s)) b = ctxOf (rekeyLine ctx l (touchLine alloc ctx true l s)) l := by
          unfold ctxOf
          rw [q, show l / 64 * 64 = l by omega]
        rw [e]
        exact c1
      · exact c2 b q

/-- Settling poison leaves what is stored. -/
theorem settlePoison_stored (a n : Nat) (p : Bool) (s : State) :
    (settlePoison a n p s).mem = s.mem ∧ (settlePoison a n p s).lineKey = s.lineKey ∧ (settlePoison a n p s).fuse = s.fuse := by
  unfold settlePoison
  generalize unitsOf a n = l
  induction l generalizing s with
  | nil => exact ⟨rfl, rfl, rfl⟩
  | cons u l ih =>
    rw [List.foldl_cons]
    obtain ⟨x, y, z⟩ := ih (if p then poisonAt u s else if a ≤ u ∧ u + poisonSize u ≤ a + n then unpoisonAt u s else s)
    rw [x, y, z]
    repeat' split
    all_goals exact ⟨rfl, rfl, rfl⟩

theorem linesOf_aligned (a n : Nat) : ∀ l ∈ linesOf a n, l % 64 = 0 := by
  intro l h
  unfold linesOf at h
  split at h
  · simp at h
  · obtain ⟨i, _, e⟩ := List.mem_map.1 h
    omega

theorem line_of_byte (a n b : Nat) (h : a ≤ b) (k : b < a + n) : b / 64 * 64 ∈ linesOf a n := by
  unfold linesOf
  rw [if_neg (by omega)]
  refine List.mem_map.2 ⟨b / 64 - a / 64, List.mem_range.2 (by omega), ?_⟩
  congr 1
  omega

/-- A write under a key context: every byte outside the bytes written reads under that context as before, and the bytes written read as what was written. -/
theorem byteAs_storeBytes (alloc : Bool) (ctx a : Nat) (bytes : List Byte) (poison : Bool) (s : State) (h : stored s)
    (k : inStack s a bytes.length = true ∨ capacity s ≤ a) :
    (∀ b, b < a ∨ a + bytes.length ≤ b → byteAs (storeBytes alloc ctx a bytes poison s) ctx b = byteAs s ctx b) ∧
      ∀ i (q : i < bytes.length), byteAs (storeBytes alloc ctx a bytes poison s) ctx (a + i) = bytes[i] := by
  unfold storeBytes
  dsimp only
  obtain ⟨w, f, _, c, r⟩ := rekeyLines_reads alloc ctx (linesOf a bytes.length) s (linesOf_aligned a _) h
  have key : ∀ t : State, stored t → t.fuse = s.fuse → (∀ b, byteAs t ctx b = byteAs s ctx b) →
      (∀ b c, a ≤ c → c < a + bytes.length → c / 64 = b / 64 → b < capacity s → ctxOf t b = ctx) →
      (∀ b, b < a ∨ a + bytes.length ≤ b → byteAs (settlePoison a bytes.length poison (putBytes a bytes t)) ctx b = byteAs s ctx b) ∧
        ∀ i (q : i < bytes.length), byteAs (settlePoison a bytes.length poison (putBytes a bytes t)) ctx (a + i) = bytes[i] := by
    intro t wt ft rt ct
    obtain ⟨m, y, z⟩ := settlePoison_stored a bytes.length poison (putBytes a bytes t)
    have p := putBytes_only a bytes t
    have yk : (putBytes a bytes t).lineKey = t.lineKey := by rw [p]
    have yf : (putBytes a bytes t).fuse = t.fuse := by rw [p]
    constructor
    · intro b q
      rw [byteAs_congr _ _ _ _ m y z, ← rt b]
      have yc : ctxOf (putBytes a bytes t) b = ctxOf t b := by
        unfold ctxOf
        rw [yk]
      have yq : capacity (putBytes a bytes t) = capacity t := by
        unfold capacity
        rw [yf]
      unfold byteAs
      rw [yc, yq, getByte_putBytes_other _ _ _ _ q]
      split
      next e =>
        rw [xtsBlock_congr t _ b (fun c k => getByte_putBytes_other _ _ _ _ (by
          by_contra z
          exact e.2 (ct b c (by omega) (by omega) (by omega) (by
            have := e.1
            unfold capacity at this ⊢
            rwa [ft] at this)))) ]
      next => rfl
    · intro i q
      rw [byteAs_congr _ _ _ _ m y z]
      unfold byteAs
      rw [getByte_putBytes_at _ _ _ _ wt.1 q, if_neg]
      rintro ⟨u, v⟩
      apply v
      unfold ctxOf
      rw [yk]
      unfold capacity at u ct
      rw [yf, ft] at u
      exact ct (a + i) (a + i) (by omega) (by omega) rfl u
  split
  · refine key _ w f r (fun b x y z e _ => c b ?_)
    have := line_of_byte a _ x y z
    rwa [e] at this
  · refine key s h rfl (fun _ => rfl) (fun b x y _ e z => ?_)
    rcases k with k | k
    · contradiction
    · unfold capacity at k z
      omega

end Sys2Proof.Laws
end

