-- ==== Sys2Proof/Laws/Sent.lean ====
section
/-! SUPPORT. What sending a message changes: sessions, counters, what left the device and the numbers of notices, and nothing else. -/

namespace Sys2Proof.Laws

open Sys2Proof.Machine

theorem sentOnly_refl (s : State) : sentOnly s s := rfl

theorem sentOnly_trans {s t u : State} (h : sentOnly s t) (k : sentOnly t u) : sentOnly s u := by
  unfold sentOnly at *
  rw [k, h]

theorem sent_bump (a n : Nat) (s : State) : sentOnly s (bump a n s) := by
  obtain ⟨r, e⟩ := bump_only a n s
  rw [e]
  rfl

theorem sent_setSession (k : Nat) (x : Session) (s : State) : sentOnly s (setSession k x s) := rfl

theorem sent_emitOut (x : Sent) (s : State) : sentOnly s (emitOut x s) := rfl

theorem sent_fresh (s : State) : sentOnly s (fresh s).2 := rfl

theorem sent_charge (t k n : Nat) (s : State) : sentOnly s (charge t k n s) := rfl

theorem sent_transmit (x : Session) (d : Datagram) (s : State) : sentOnly s (transmit x d s) := by
  unfold transmit
  dsimp only
  split
  · exact sentOnly_trans (sent_charge _ _ _ _) (sentOnly_trans (sent_bump _ _ _) (sentOnly_trans (sent_bump _ _ _) (sent_emitOut _ _)))
  · exact sentOnly_trans (sent_bump _ _ _) (sent_emitOut _ _)

theorem sent_countPayload (n : Nat) (w : Bool) (m : Nat) (s : State) : sentOnly s (countPayload n w m s) := by
  unfold countPayload
  exact sentOnly_trans (sent_bump _ _ _) (sentOnly_trans (sent_bump _ _ _) (sentOnly_trans (sent_bump _ _ _) (sent_bump _ _ _)))

theorem sent_undelivered (n : Nat) (s : State) : sentOnly s (undelivered n s) := sent_bump _ _ _

theorem sent_endSession (k : Nat) (s : State) : sentOnly s (endSession k s) := by
  unfold endSession
  dsimp only
  split
  · exact sentOnly_trans (sent_undelivered _ _) (sent_setSession _ _ _)
  · exact sentOnly_refl s

theorem sent_enqueueRaw (k : Nat) (d : Datagram) (s : State) : sentOnly s (enqueueRaw k d s) := by
  unfold enqueueRaw
  dsimp only
  split
  · exact sentOnly_trans (sent_setSession _ _ _) (sent_transmit _ _ _)
  · exact sent_setSession _ _ _

theorem sent_enqueue (d : Datagram) (s : State) : sentOnly s (enqueue d s).2 := by
  unfold enqueue
  dsimp only
  split
  · exact sent_undelivered 1 s
  · split
    · exact sentOnly_trans (sent_undelivered _ _) (sent_endSession _ _)
    · split
      · split
        · exact sentOnly_trans (sentOnly_trans (sent_countPayload _ _ _ _) (sent_enqueueRaw _ _ _)) (sent_endSession _ _)
        · exact sentOnly_trans (sent_countPayload _ _ _ _) (sent_enqueueRaw _ _ _)
      · split
        · exact sentOnly_trans (sent_enqueueRaw _ _ _) (sent_endSession _ _)
        · exact sent_enqueueRaw _ _ _

theorem sent_noticeOnce (ty src : Nat) (ts : List Nat) (te m c : Nat) (b : List Byte) (s : State) : sentOnly s (noticeOnce ty src ts te m c b s).2 := by
  unfold noticeOnce
  dsimp only
  generalize noticeRoutes _ ty ts = l
  have key : ∀ (z : List (Nat × Nat × Nat × Nat) × State), sentOnly s z.2 →
      sentOnly s (l.foldl (fun (acc : List (Nat × Nat × Nat × Nat) × State) r =>
        match enqueue (mkMsg 3 r.1 r.2 0 0 0 c (noticeHead s ty src (sget (fun _ => 0) s.nsn src % 2 ^ 32) te m c ++ b)) acc.2 with
        | (.lost m, s) => (acc.1 ++ [(16, r.1, r.2, m)], s)
        | (.ended, s) => (acc.1 ++ [(15, r.1, r.2, 0)], s)
        | (_, s) => (acc.1, s)) z).2 := by
    induction l with
    | nil => exact fun _ h => h
    | cons r l ih =>
      intro z h
      rw [List.foldl_cons]
      apply ih
      have k := sent_enqueue (mkMsg 3 r.1 r.2 0 0 0 c (noticeHead s ty src (sget (fun _ => 0) s.nsn src % 2 ^ 32) te m c ++ b)) z.2
      revert k
      generalize enqueue _ z.2 = q
      intro k
      rcases q with ⟨_ | _ | _ | _, q⟩ <;> exact sentOnly_trans h k
  exact key _ rfl

theorem sent_noticeSessions (n : Nat) (l : List (Nat × Nat × Nat × Nat)) (s : State) : sentOnly s (noticeSessions n l s) := by
  induction n generalizing l s with
  | zero => exact sentOnly_refl s
  | succ n ih =>
    match l with
    | [] => exact sentOnly_refl s
    | (ty, mb, se, m) :: r => exact sentOnly_trans (sent_noticeOnce _ _ _ _ _ _ _ _) (ih _ _)

/-- Sending a message. -/
theorem sent_sendMsg (d : Datagram) (s : State) : sentOnly s (sendMsg d s) := by
  unfold sendMsg
  have k := sent_enqueue d s
  revert k
  generalize enqueue d s = q
  intro k
  rcases q with ⟨_ | _ | _ | _, q⟩
  · exact k
  · exact sentOnly_trans k (sent_noticeSessions _ _ _)
  · exact sentOnly_trans k (sent_noticeSessions _ _ _)
  · exact k

/-- Sending a response. -/
theorem sent_respond (m se co c st : Nat) (p : List Byte) (s : State) : sentOnly s (respond m se co c st p s) := sent_sendMsg _ _

/-- Sending a refusal with an open VALUE. -/
theorem sent_refuseAt (m se co c st f t : Nat) (s : State) : sentOnly s (refuseAt m se co c st f t s) :=
  sentOnly_trans (sent_fresh s) (sent_sendMsg _ _)

/-- Sending a notice. -/
theorem sent_notifyAt (ty src : Nat) (ts : List Nat) (te m c : Nat) (b : List Byte) (s : State) : sentOnly s (notifyAt ty src ts te m c b s) :=
  sentOnly_trans (sent_noticeOnce _ _ _ _ _ _ _ _) (sent_noticeSessions _ _ _)

end Sys2Proof.Laws
end

