-- ==== Sys2Proof/Tests/Slice0.lean ====
section
/-! SUPPORT. Tests: what WellFormed refuses, a witness for the hypotheses of every statement, and the effects of some commands on small states. -/

namespace Sys2Proof.Tests

open Sys2Proof.Machine

set_option Elab.async false

/-- The canonical form from its parts, as one fact to decide. -/
theorem canonical_of {s : State} (h : Memory.wf s.mem = true ∧ regsWf s.regs = true ∧ rising s.poison = true ∧ swf (fun _ => 0) s.lineKey = true) : Canonical s :=
  ⟨h.1, h.2.1, h.2.2.1, h.2.2.2⟩

/-- A request that the controller takes, as one fact to decide. -/
theorem takes_of {c : CmdSpec} {r : Req} {s : State}
    (h : (serving s = true ∧ s.core2 = false ∧ c.roles.contains (roleOf r.mailbox) = true ∧ (roleOf r.mailbox = 2 → (sessionOf s (sessionKey r.mailbox r.session)).cred = true)) ∧
      (roleOf r.mailbox = 0 → (tenantOf s r.mailbox).resetting = []) ∧ slotPoisoned s r = false ∧ (c.stack = true → rdB s 0x50008 61 = false) ∧
      inTurn r s = true ∧ behind c r s = false) : Takes c r s :=
  ⟨h.1.1, h.1.2.1, h.1.2.2.1, h.1.2.2.2, h.2.1, h.2.2.1, h.2.2.2.1, h.2.2.2.2.1, h.2.2.2.2.2⟩

/-- An atomic that acts, as one fact to decide. -/
theorem atomic_of {who : Requester} {a n : Nat} {s : State}
    (h : a % n = 0 ∧ (inStack s a n = true ∨ inScratch s a n = true) ∧ anyPoison s a n = false ∧ stallsAt s a = false ∧
      (outsideHem who && inScratch s a n && inHemPool s a n) = false) : AtomicActs who a n s :=
  ⟨h.1, h.2.1, h.2.2.1, h.2.2.2.1, h.2.2.2.2⟩

/-- A device whose firmware serves (SYS_STATUS.STATE 4), with everything else at reset. -/
def up : State := { State.reset with regs := [(8, 0x8000000000000000#64)] }

/-- The reset state with some registers written. -/
def holding (r : List (Nat × Word)) : State := { State.reset with regs := r }

/-- A device that is awake: RESET_N high, every rail on. -/
def awakeUp : State := { up with pins := { Pins.reset with resetLow := false, rails := [0, 1, 2, 3, 4, 5, 6] } }

/-- A broadcast wake frame without a key, with counter 9 for device 1. -/
def macFrame0 : MacFrame := ⟨2 ^ 48 - 1, 0x88B5, leBytes 4 0x454B4157 ++ leBytes 8 1 ++ leBytes 8 9 ++ leBytes 28 0⟩

/-- A request of a mailbox in session 0. -/
def ask (mailbox : Nat) (payload : List Byte) : Req := ⟨mailbox, 0, 0, 0, payload⟩

/-- A datagram to operator session 0 without payload, its tag to be set. -/
def gram : Datagram := ⟨0x4F42, 1, 1, 64, 0, 0, 0, 0, 0x0107, 0, 0, [], []⟩

/-- Its arrival. -/
def came : Arrival := ⟨56, ⟨0, 0, 1, 1⟩, 0⟩

/-- A piece of format 0. -/
def aPiece : Piece := ⟨0, 0, 0, false, 0, 0, 0, 0, 0, 1, 1, 0, 0, 0, 0, 0, 1, 0, 1, 0, 0, 0, 1, 0⟩

/-- A run of it over two tiles. -/
def aRun : StRun := ⟨aPiece, false, 47, 0, [⟨0, 0, 0⟩, ⟨1, 0, 1⟩], false, false, 0, 0, []⟩

/-- An idle stitcher's state with a run. -/
def stitching (st : Stitcher) : State := { State.reset with panels := [(47, { Panel.none with stitchers := [(127, st)] })] }

/-- A record of step 0, piece 0. -/
def aRecord : Record := ⟨0, 0, 0, 0, 0, 0, 0, 0, 0, false⟩

/-- A dense command of step 0, operation 0. -/
def aCommand : MatCmd := ⟨0, 0, 0, 0, 0, 0, 0, 1, [], [], 0, 1, 0, 1, 0, 0, 0, 0, 1, false, true⟩

/-- A plan entry of model 0. -/
def aPlan : PlanEntry := ⟨0, 0, 0, [], 0, 0, 0, 0, [], none⟩

/-- An operation that is not released. -/
def anOp : OpRun := ⟨0, 0, 0, 0, 0, false, false, false, 0, 1, false, false⟩

/-- Step 0 of model 0, admitted at an earlier edge. -/
def aStep : Step := ⟨0, 0, 0, 0, aPlan, 1, 1, 0, .running, [], [anOp], [], [], [], 0, ⟨0, 0, 0, 0⟩, 64, false, 0, false, [], 0, [0], 12, 18, none, []⟩

/-- A sequence's part in it that draws. -/
def aPart : StepSeq := ⟨0, 0, 0, 0, [], true, [], none, 0, 0, 0, 0, false, false⟩

/-- The reset state with one step. -/
def stepping (t : Step) : State := { State.reset with steps := [t] }

/-- The reset state with work on panel 47. -/
def panelWith (x : Panel) (t : Step) : State := { State.reset with panels := [(47, x)], steps := [t] }

/-- The reset state with a firmware channel. -/
def channelWith (x : Channel) : State := { State.reset with channels := [(63, x)] }

/-- A tenant that exists. -/
def tenant : Tenant := { Tenant.none with live := true }

/-- A model that is resident and shared, with its image at address 0. -/
def resident : Model := { Model.none with live := true, owner := 64, size := 448 }

/-- The bytes of a model image of one layer with one dense operation, but for zeros (R475, R476). -/
def imageBytes : List Host.Cell :=
  [(0, 0x4D#8), (1, 0x4F#8), (2, 0x44#8), (3, 0x4C#8), (4, 1#8), (6, 1#8), (9, 1#8), (12, 64#8), (20, 1#8), (22, 1#8), (25, 1#8), (26, 1#8), (27, 0x44#8),
   (256, 1#8), (260, 4#8), (306, 0x80#8), (307, 0x3F#8), (320, 1#8), (322, 0x80#8), (323, 1#8), (391, 1#8), (399, 4#8), (403, 0x44#8), (404, 1#8), (416, 1#8)]

/-- A serving device with that model. -/
def loaded : State := { up with models := [(0, resident)], mem := imageBytes, arena := (0x10000, 0x1000000) }

/-- An open sequence of tenant 0 on that model. -/
def aSeq : Seq := { Seq.none with state := .idle }

/-- The device with it. -/
def running : State := { loaded with seqs := [(0, aSeq)] }

/-- A connection to device 2. -/
def aConn : Conn := { Conn.none with phase := .open_, peer := 2 }

/-- A device whose Kralyn is on, with back interface 0 up, in partition 7 with devices 1 and 2. -/
def linked (x : Conn) : State :=
  { State.reset with
    regs := [(0xB00000, 0x8000000000000000#64), (0xB00010, 0x8000010000000000#64), (0xB01800, 0x8000000000000000#64), (0xB02008, 1#64)], fabric := { Fabric.none with id := 7, members := [1, 2] }, conns := [(0, x)] }

/-- A Kralyn message on connection 0, its tag to be set. -/
def aMessage (payload : List Byte) : KrMsg := ⟨1, 2, 1, 0, 0, 0, 0, 0, 0, payload, [], 0, 0⟩

/-- What a first CONNECT or ACCEPT of device 2 carries: both identifiers, levels 1 and 1. -/
def setup : List Byte := leBytes 8 2 ++ leBytes 8 7 ++ [1#8, 1#8] ++ zeros 34

/-- A timekeeping exchange without delay. -/
def exchange : Exchange := ⟨0, 0, 0, 0, 0, 0, false, true, 0, 0, 0, 0⟩

/-- A member of partition 7 behind the timekeepers. -/
def member (ids : List Nat) : State := { State.reset with regs := [(0xB00010, 0x8000000000000000#64)], fabric := { Fabric.none with id := 7, members := ids } }

/-- A serving device with an owner's maintenance session. -/
def owned : State := { up with sessions := [(1040, { Session.none with live := true, cred := true })] }

/-- A device whose controller has come back from a restart (R339, R383). -/
def settled (s : State) : State :=
  reloadWdog (wrF 8 63 61 4 { settleJournal s with thimble := { (settleJournal s).thimble with sealDue := true } })

/-- The state that a datagram's arrival leaves before its header is looked at. -/
def counted (d : Datagram) (s : State) : State :=
  bump 0xA00018 1 (charge d.mailbox 0 (frameBits (!(mappedV4 came.peer.addr)) (decide (rdF s (portCfg came.peer.port) 43 32 ≠ 0)) came.udpLength) s)

/-- A set-up message with its tag under the partition key (R404). -/
def setupSigned (t : Nat) (s : State) (k : KrMsg) : KrMsg :=
  { k with tag := setupTag (partitionKey (bump 0xB00020 1 s) (leAt k.payload 8 8)) (krHeaderOf t k) k.payload }

/-- A message on connection 0 with its tag (R367, R404). -/
def sealedOn (t responder initiator n : Nat) (s : State) (k : KrMsg) : KrMsg :=
  let c := connOf (bump 0xB00020 1 s) 0
  { k with tag := Config.gcmTag c.key (krNonce c.salt (if c.initiator then initiator else responder) n) (krHeaderOf t k) k.payload }

/-- A tag that is one byte too long is not the tag. -/
theorem longer (x : List Byte) : x ++ [0#8] ≠ x := by simp

/-- A state in the boot fetch. -/
def booting : State := { holding [(8, 0x2000000000000000#64)] with pins := awakeUp.pins, boot := { Boot.none with started := true } }

/-- A boot message with its tag (R333). -/
def bootGram (command : Nat) : Datagram :=
  let d : Datagram := { gram with type := 5, mailbox := 0xFFFF, flags := 256, command := command }
  { d with tag := (Config.shake256 (headerBytes d ++ d.payload)).take 16 }

/-- Its arrival at the link-local address of the boot interface. -/
def bootCame : Arrival := { came with dest := linkLocal booting 0 0 }

theorem bootGram_passes (command : Nat) (h : command = 2 ∨ command = 4) : (bootReceipt (bootGram command) bootCame booting).1 = true := by
  have e : rdF (bump 0xA00018 1 booting) 0x10 3 2 = 0 := by decide +kernel
  have l : decide (bootCame.dest ≠ linkLocal (bump 0xA00018 1 booting) 0 0) = false := decide_eq_false (fun z => z rfl)
  unfold bootReceipt
  rw [if_neg (by decide +kernel)]
  dsimp only
  rw [e, l, if_neg (by rcases h with rfl | rfl <;> decide +kernel), if_neg (fun z => z rfl), if_neg (by rcases h with rfl | rfl <;> decide +kernel)]

/-- A device that takes datagrams for the operator's session 0. -/
def listening : State :=
  { holding [(8, 0x8000000000000000#64), (0xA00008, 0x8000000000000000#64), (0xA01408, 0x8000000000000000#64)] with pins := awakeUp.pins, sessions := [(1024, { Session.none with live := true })] }

/-- That datagram with its tag, and flags and a message number of its own. -/
def signed (flags msn : Nat) : Datagram :=
  let d : Datagram := { gram with flags := flags, msn := msn }
  let x := sessionOf listening (sessionKey d.mailbox (d.flags % 16))
  { d with tag := Config.gcmTag x.key (obushNonce x.salt (if flagAck d.flags then 2 else 0) (d.flags % 16) d.mailbox (if flagAck d.flags then d.correlation else d.msn)) (headerBytes d) d.payload }

/-- A serving device with a staged firmware image and trailer, but for zeros, under a root whose key is empty (R385, R397). -/
def rooted : State :=
  { up with
    fwStage := some 0, fuse := { State.reset.fuse with rootDigest := digest [] },
    mem := [(0, 0x42#8), (1, 0x52#8), (2, 0x55#8), (3, 0x4D#8), (8, 1#8), (12, 1#8), (20, 64#8), (64, 0x54#8), (65, 0x54#8), (66, 0x52#8), (67, 0x4C#8), (68, 0x49#8), (69, 0x11#8),
      (72, 0x54#8), (73, 0x43#8), (74, 0x52#8), (75, 0x54#8), (76, 5#8), (77, 1#8), (78, 1#8), (79, 7#8)] }

/-- Its image, and the state in which that has been read. -/
def rootedImage : List Byte := stagedFirmware rooted 4489
def rootedRead : State := readStage 4489 rooted

/-- The signatures of its signer's certificate and of the image. -/
def rootedSigs : Verified :=
  let cert := slice rootedImage 72 3137
  [([], ascii "TUITH-CERT" ++ slice cert 0 1857, slice cert 1857 1280), (certKey cert, ascii "TUITH-FW" ++ rootedImage.take 64, slice rootedImage 3209 1280)]

/-- Reading the image leaves the fuses alone. -/
theorem rooted_fuse : rootedRead.fuse = rooted.fuse :=
  (Laws.keeps_touchRange true (deviceCtx rooted) 0 4489 rooted (Laws.Keeps.refl rooted)).fuse

theorem rooted_sound : codeSound rootedRead (verifier rootedRead rootedSigs) rootedImage 64 = true := by
  have r : rootSigned (verifier rootedRead rootedSigs) (slice rootedImage 72 3137) = true := by
    simp only [rootSigned, verifier, rootedSigs, List.any_cons, beq_self_eq_true, Bool.and_true, Bool.or_eq_true, decide_eq_true_eq]
    exact .inl (congrArg Fuse.rootDigest rooted_fuse).symm
  have g : signedBy (verifier rootedRead rootedSigs) (certKey (slice rootedImage 72 3137)) "TUITH-FW" (rootedImage.take 64) (slice rootedImage 3209 1280) = true := by
    simp [signedBy, verifier, rootedSigs]
  have k : certKind [5] (slice rootedImage 72 3137) = true := by decide +kernel
  unfold codeSound signerCertSound
  dsimp only
  rw [r, g, k]
  decide +kernel

/-- States and operands that meet the hypotheses of IdleStepMovesTape, one for each of its clauses. -/
theorem test_hypotheses_of_IdleStepMovesTape :
    (∃ (s : State), s.pending = [] ∧ (s.pins.resetLow = true ∨ s.pins.clockLost = true)) ∧
    (∃ (s : State), s.pending = [] ∧ s.pins.resetLow = false ∧ s.pins.clockLost = false) :=
  ⟨⟨State.reset, by decide +kernel⟩,
    ⟨awakeUp, by decide +kernel⟩⟩

/-- States and operands that meet the hypotheses of StepKeepsCanonical. -/
theorem test_hypotheses_of_StepKeepsCanonical : ∃ (s : State) (t : State), Canonical s ∧ step s = .next t :=
  ⟨State.reset, State.reset, canonical_of (by decide +kernel), rfl⟩

/-- States and operands that meet the hypotheses of CommandsKeepQueueAndFuses. -/
theorem test_hypotheses_of_CommandsKeepQueueAndFuses : ∃ (c : Instr) (s : State) (t : State), exec c s = .next t :=
  ⟨.tapInstruction 1, State.reset, State.reset, rfl⟩

/-- States and operands that meet the hypotheses of FieldsAndBytesReadBack, one for each of its clauses. -/
theorem test_hypotheses_of_FieldsAndBytesReadBack :
    (∃ (hi : Nat) (lo : Nat), lo ≤ hi ∧ hi < 64) ∧
    (∃ (hi : Nat) (lo : Nat) (hi' : Nat) (lo' : Nat), lo ≤ hi ∧ hi < 64 ∧ (hi < lo' ∨ hi' < lo)) ∧
    (∃ (n : Nat) (v : Nat) (i : _), i < (leBytes n v).length) :=
  ⟨⟨63, 0, by decide +kernel⟩,
    ⟨7, 4, 3, 8, by decide +kernel⟩,
    ⟨1, 0, 0, by decide +kernel⟩⟩

/-- States and operands that meet the hypotheses of SerialNumberOrder, one for each of its clauses. -/
theorem test_hypotheses_of_SerialNumberOrder :
    (∃ (n : Nat) (a : Nat) (b : Nat), 1 ≤ n ∧ a < 2 ^ n ∧ b < 2 ^ n) ∧
    (∃ (n : Nat) (a : Nat) (b : Nat), 1 ≤ n ∧ a < 2 ^ n ∧ b < 2 ^ n ∧ (a + 2 ^ n - b) % 2 ^ n = 2 ^ (n - 1)) :=
  ⟨⟨1, 1, 0, by decide +kernel⟩,
    ⟨32, 0x80000000, 0, by decide +kernel⟩⟩

/-- States and operands that meet the hypotheses of SplitHalves. -/
theorem test_hypotheses_of_SplitHalves : ∃ (x : Int), -32639 ≤ x ∧ x ≤ 32639 :=
  ⟨-32639, by decide +kernel⟩

/-- States and operands that meet the hypotheses of StoredBytesReadBack, one for each of its clauses. -/
theorem test_hypotheses_of_StoredBytesReadBack :
    (∃ (s : State) (a : Nat) (bytes : List Byte) (i : _), Canonical s ∧ (inStack s a bytes.length = true ∨ capacity s ≤ a) ∧ i < bytes.length) ∧
    (∃ (s : State) (a : Nat) (bytes : List Byte) (b : _), Canonical s ∧ (inStack s a bytes.length = true ∨ capacity s ≤ a) ∧ (b < a ∨ a + bytes.length ≤ b)) :=
  ⟨⟨State.reset, 0, [1#8], 0, canonical_of (by decide +kernel), by decide +kernel⟩,
    ⟨State.reset, 0, [1#8], 1, canonical_of (by decide +kernel), by decide +kernel⟩⟩

/-- States and operands that meet the hypotheses of TickCountersSaturate, one for each of its clauses. -/
theorem test_hypotheses_of_TickCountersSaturate :
    (∃ (s : State) (k : Nat) (n : Nat), Canonical s ∧ k < 3 ∧ 0 < n ∧ (rd s (0x100030 + 8 * k)).toNat + n ≥ 2 ^ 64 - 1) ∧
    (∃ (s : State) (k : Nat) (n : Nat), Canonical s ∧ k < 3 ∧ 0 < n ∧ (rd s (0x100030 + 8 * k)).toNat + n < 2 ^ 64 - 1) ∧
    (∃ (s : State) (k : Nat) (n : Nat) (value : Word), Canonical s ∧ k < 3 ∧ 0 < n ∧ getBit value 63 = true) :=
  ⟨⟨holding [(0x100030, 0xFFFFFFFFFFFFFFFE#64)], 0, 1, canonical_of (by decide +kernel), by decide +kernel⟩,
    ⟨holding [(0x100040, 0xFFFFFFFFFFFFFFFD#64)], 2, 1, canonical_of (by decide +kernel), by decide +kernel⟩,
    ⟨State.reset, 2, 1, 0x8000000000000000#64, canonical_of (by decide +kernel), by decide +kernel⟩⟩

/-- States and operands that meet the hypotheses of RegisterWriteObeysAccess, one for each of its clauses. -/
theorem test_hypotheses_of_RegisterWriteObeysAccess :
    (∃ (a : Nat), regAt a = none ∧ ownCommand a = false ∧ a ≠ 0x800008) ∧
    (∃ (s : State) (a : Nat) (d : RegDesc), Canonical s ∧ regAt a = some d ∧ ownCommand a = false) ∧
    (∃ (a : Nat), regionRegs.contains a = true) ∧
    (∃ (a : Nat), regionRegs.contains a = false ∧ (groupOfCtrl a).isSome = true) ∧
    (∃ (i : Nat), i < 8) ∧
    (∃ (i : Nat), i < 8) ∧
    (∃ (i : Nat), i < 8) ∧
    (∃ (i : Nat), i < 8) ∧
    (∃ (i : Nat), i < 64) ∧
    (∃ (i : Nat), i < 64) ∧
    (∃ (i : Nat) (j : _), i < 24 ∧ j < 16) ∧
    (∃ (i : Nat), i < 64) ∧
    (∃ (i : Nat), i < 32) ∧
    (∃ (i : Nat), i < 66) :=
  ⟨⟨0x58, by decide +kernel⟩,
    ⟨State.reset, 0x50010, reg1 "MEM_SCRUB" 0x50010 [fRW 63 63 1, fRWz 7 0 24], canonical_of (by decide +kernel), by decide +kernel⟩,
    ⟨0x30000, by decide +kernel⟩,
    ⟨0x100048, by decide +kernel⟩,
    ⟨7, by decide +kernel⟩,
    ⟨7, by decide +kernel⟩,
    ⟨7, by decide +kernel⟩,
    ⟨7, by decide +kernel⟩,
    ⟨63, by decide +kernel⟩,
    ⟨63, by decide +kernel⟩,
    ⟨23, 15, by decide +kernel⟩,
    ⟨63, by decide +kernel⟩,
    ⟨31, by decide +kernel⟩,
    ⟨65, by decide +kernel⟩⟩

/-- States and operands that meet the hypotheses of ResetAndClockEvents, one for each of its clauses. -/
theorem test_hypotheses_of_ResetAndClockEvents :
    (∃ (s : State), Canonical s) ∧
    (∃ (s : State) (back : Bool) (port : _) (iface : _) (up : _), Canonical s ∧ port < 4 ∧ iface < ifaces (rdF s (portCfg ((if back then 4 else 0) + port)) 57 56) ∧ (up = true → rdB s (portCfg ((if back then 4 else 0) + port)) 63 = false) ∧ (asleep s = false ∨ back = false ∧ port = 0 ∧ iface = 0)) ∧
    (∃ (s : State) (back : Bool) (port : _) (iface : _), asleep s = true ∧ (back = true ∨ port ≠ 0 ∨ iface ≠ 0)) :=
  ⟨⟨State.reset, canonical_of (by decide +kernel)⟩,
    ⟨State.reset, true, 3, 0, true, canonical_of (by decide +kernel), by decide +kernel⟩,
    ⟨holding [(0xC00000, 0x6000000000000000#64)], true, 0, 0, by decide +kernel⟩⟩

/-- States and operands that meet the hypotheses of ColdBootTakesStraps. -/
theorem test_hypotheses_of_ColdBootTakesStraps : ∃ (x : Straps) (s : State), s.pins.resetLow = true ∧ s.pins.clockLost = false ∧ x.thimble = 0 ∧ x.tick < 4 ∧ x.profile < 4 ∧ x.cap < 8 ∧ x.portmode < 4 ∧ x.bootport < 4 :=
  ⟨⟨0, 3, 7, 3, 3, 3⟩, State.reset, by decide +kernel⟩

/-- States and operands that meet the hypotheses of PowerAndTrainingEvents, one for each of its clauses. -/
theorem test_hypotheses_of_PowerAndTrainingEvents :
    (∃ (s : State) (rail : _), s.pins.resetLow = false ∧ rail ∈ s.pins.rails) ∧
    (∃ (s : State) (at_ : _), s.pins.retryAt = some at_) ∧
    (∃ (s : State), s.boot.started = true ∧ rdB s 0x50008 63 = false) ∧
    (∃ (s : State), rdB s 0x50008 63 = true ∧ rdB s 0x50008 62 = false ∧ (s.boot.entered && decide (rdF s 8 63 61 = 3)) = true) ∧
    (∃ (s : State), Canonical s ∧ rdB s 0x50008 63 = true ∧ rdB s 0x50008 62 = false ∧ (s.boot.entered && decide (rdF s 8 63 61 = 3)) = false) :=
  ⟨⟨awakeUp, 6, by decide +kernel⟩,
    ⟨{ State.reset with pins := { Pins.reset with retryAt := some 5 } }, 5, by decide +kernel⟩,
    ⟨{ State.reset with boot := { Boot.none with started := true } }, by decide +kernel⟩,
    ⟨{ holding [(8, 0x6000000000000000#64), (0x50008, 0x8000000000000000#64)] with boot := { Boot.none with entered := true } }, by decide +kernel⟩,
    ⟨holding [(0x50008, 0x8000000000000000#64)], canonical_of (by decide +kernel), by decide +kernel⟩⟩

/-- States and operands that meet the hypotheses of BootFetchEvents, one for each of its clauses. -/
theorem test_hypotheses_of_BootFetchEvents :
    (∃ (s : State), fetching s = true ∧ s.boot.service = none) ∧
    (∃ (d : Datagram) (a : _) (s : State), (bootReceipt d a s).1 = true ∧ d.command = 2) ∧
    (∃ (d : Datagram) (a : _) (s : State), (bootReceipt d a s).1 = true ∧ d.command = 4) ∧
    (∃ (s : State) (off : _) (q : BootAsk), s.boot.asked.find? (fun q => q.offset == off) = some q ∧ 16 ≤ q.resends) ∧
    (∃ (s : State) (off : _) (q : BootAsk), s.boot.asked.find? (fun q => q.offset == off) = some q ∧ q.resends < 16) :=
  ⟨⟨{ holding [(8, 0x2000000000000000#64)] with boot := { Boot.none with started := true } }, by decide +kernel⟩,
    ⟨bootGram 2, bootCame, booting, bootGram_passes 2 (.inl rfl), rfl⟩,
    ⟨bootGram 4, bootCame, booting, bootGram_passes 4 (.inr rfl), rfl⟩,
    ⟨{ State.reset with boot := { Boot.none with asked := [⟨0, 0, 0, 16⟩] } }, 0, ⟨0, 0, 0, 16⟩, by decide +kernel⟩,
    ⟨{ State.reset with boot := { Boot.none with asked := [⟨0, 0, 0, 15⟩] } }, 0, ⟨0, 0, 0, 15⟩, by decide +kernel⟩⟩

/-- States and operands that meet the hypotheses of RestartEvents, one for each of its clauses. -/
theorem test_hypotheses_of_RestartEvents :
    (∃ (s : State) (w : WarmDue), s.warmDue = some w ∧ w.acked = true) ∧
    (∃ (s : State) (w : WarmDue), s.warmDue = some w ∧ w.acked = false) ∧
    (∃ (s : State) (w : WarmDue), s.warmDue = some w ∧ w.acked = false ∧ (∀ e ∈ s.sessions, e.2.ackDue = false) ∧ (∀ e ∈ s.conns, e.2.ackDue = false)) ∧
    (∃ (s : State) (w : WarmDue), s.warmDue = some w) ∧
    (∃ (s : State) (t : State), Canonical s ∧ t = reloadWdog (wrF 8 63 61 4 { settleJournal s with thimble := { (settleJournal s).thimble with sealDue := true } }) ∧ rdF s 8 63 61 = 6 ∧ rdF s 0xC00000 63 61 ≠ 4 ∧ s.warmDue = none ∧ s.secure.damaged = false ∧ s.update = none) ∧
    (∃ (s : State) (t : State) (u : Update), Canonical s ∧ t = reloadWdog (wrF 8 63 61 4 { settleJournal s with thimble := { (settleJournal s).thimble with sealDue := true } }) ∧ rdF s 8 63 61 = 6 ∧ rdF s 0xC00000 63 61 ≠ 4 ∧ s.warmDue = none ∧ s.secure.damaged = false ∧ s.update = some u ∧ u.paused = true) ∧
    (∃ (s : State) (at_ : _), s.thimble.wdogAt = some at_ ∧ restartable s = true) ∧
    (∃ (s : State), restartable s = true) ∧
    (∃ (s : State), 4 ≤ s.missedRun ∧ serving s = true ∧ s.thimble.sealDue = false) :=
  ⟨⟨{ State.reset with warmDue := some ⟨1, 0, 0, 0, true⟩ }, ⟨1, 0, 0, 0, true⟩, by decide +kernel⟩,
    ⟨{ State.reset with warmDue := some ⟨1, 0, 0, 0, false⟩ }, ⟨1, 0, 0, 0, false⟩, by decide +kernel⟩,
    ⟨{ State.reset with warmDue := some ⟨1, 0, 0, 0, false⟩, sessions := [(0, Session.none)], conns := [(0, Conn.none)] }, ⟨1, 0, 0, 0, false⟩, by decide +kernel⟩,
    ⟨{ State.reset with warmDue := some ⟨1, 0, 0, 0, false⟩ }, ⟨1, 0, 0, 0, false⟩, by decide +kernel⟩,
    ⟨holding [(8, 0xC000000000000000#64)], settled (holding [(8, 0xC000000000000000#64)]), canonical_of (by decide +kernel), rfl, by decide +kernel⟩,
    ⟨{ holding [(8, 0xC000000000000000#64)] with update := some ⟨64, true⟩ }, settled { holding [(8, 0xC000000000000000#64)] with update := some ⟨64, true⟩ }, ⟨64, true⟩, canonical_of (by decide +kernel), rfl, by decide +kernel⟩,
    ⟨{ up with thimble := { Thimble.none with wdogAt := some 5 } }, 5, by decide +kernel⟩,
    ⟨up, by decide +kernel⟩,
    ⟨{ up with missedRun := 4 }, by decide +kernel⟩⟩

/-- States and operands that meet the hypotheses of TickEvents, one for each of its clauses. -/
theorem test_hypotheses_of_TickEvents :
    (∃ (s : State), tickless s = false ∧ asleep s = false ∧ thState s ≠ 5) ∧
    (∃ (s : State), tickless s = false ∧ (asleep s = true ∨ thState s = 5)) ∧
    (∃ (s : State), Canonical s ∧ (s.frozen || serialAtLeast 64 (s.edge + 1000) s.tape) = true) ∧
    (∃ (s : State), s.frozen = false ∧ serialAtLeast 64 (s.edge + 1000) s.tape = false) ∧
    (∃ (s : State), s.frozen = false) ∧
    (∃ (s : State), Canonical s ∧ s.frozen = true ∧ rdB s 0x100028 0 = false) ∧
    (∃ (s : State) (u : State), u = runTo (s.edge + period s - 20000) s ∧ runState u = 4 ∧ nextAdmits u = true ∧ u.plan = [] ∧ u.seqs.any (fun e => decide (e.2.state = .ready)) = true) ∧
    (∃ (s : State), s.guarded = false ∧ s.skipped = false) ∧
    (∃ (s : State) (u : Update), s.update = some u ∧ u.paused = true ∧ runState s = 5 ∧ unfinishedSteps s = []) :=
  ⟨⟨awakeUp, by decide +kernel⟩,
    ⟨{ awakeUp with regs := [(8, 0xE000000000000000#64), (0xC00000, 0x6000000000000000#64)] }, by decide +kernel⟩,
    ⟨{ State.reset with frozen := true }, canonical_of (by decide +kernel), by decide +kernel⟩,
    ⟨{ State.reset with tape := 1001, frozen := false }, by decide +kernel⟩,
    ⟨State.reset, by decide +kernel⟩,
    ⟨{ State.reset with frozen := true }, canonical_of (by decide +kernel), by decide +kernel⟩,
    ⟨{ up with seqs := [(0, { Seq.none with state := .ready })] }, runTo (({ up with seqs := [(0, { Seq.none with state := .ready })] } : State).edge + period { up with seqs := [(0, { Seq.none with state := .ready })] } - 20000) { up with seqs := [(0, { Seq.none with state := .ready })] }, rfl, by decide +kernel⟩,
    ⟨State.reset, by decide +kernel⟩,
    ⟨{ holding [(8, 0xA000000000000000#64)] with update := some ⟨0, true⟩ }, ⟨0, true⟩, by decide +kernel⟩⟩

/-- States and operands that meet the hypotheses of TableLookupIsDotProduct, one for each of its clauses. -/
theorem test_hypotheses_of_TableLookupIsDotProduct :
    (∃ (fmt : Nat) (n : Nat) (v : Nat) (j : Nat) (lane : Nat) (lanes : List (List Int)), fmt < 3 ∧ v < 256 ∧ j < chunkBytes fmt ∧ lane < n ∧ lanes.length = n ∧ (n = 8 ∧ (∀ l ∈ lanes, ∀ a ∈ l, -128 ≤ a ∧ a ≤ 127) ∨ n = 16 ∧ ∀ l ∈ lanes, ∀ a ∈ l, -8 ≤ a ∧ a ≤ 7)) ∧
    (∃ (fmt : Nat) (v : Nat) (j : Nat) (lane : Nat) (lanes : List (List Int)), fmt < 3 ∧ v < 256 ∧ j < chunkBytes fmt ∧ lane < lanes.length) :=
  ⟨⟨2, 8, 255, 0, 7, List.replicate 8 [-128, 127], by decide +kernel⟩,
    ⟨2, 255, 0, 0, [[1]], by decide +kernel⟩⟩

/-- States and operands that meet the hypotheses of MaximumIgnoresOrder, one for each of its clauses. -/
theorem test_hypotheses_of_MaximumIgnoresOrder :
    (∃ (a : F32) (b : F32), (fIsNaN a = true ∨ fIsNaN b = true)) ∧
    (∃ (a : F32) (b : F32), fIsNaN a = false ∧ fIsNaN b = false ∧ fLt a b = true) :=
  ⟨⟨0x7FC00001#32, 0#32, by decide +kernel⟩,
    ⟨0#32, 0x3F800000#32, by decide +kernel⟩⟩

/-- States and operands that meet the hypotheses of MergeIgnoresOrder. -/
theorem test_hypotheses_of_MergeIgnoresOrder : ∃ (e : MergeEntry) (a : Record) (b : Record), a.op = e.op ∧ b.op = e.op ∧ combination e.op a.ptag = true ∧ combination e.op b.ptag = true ∧ tagsAgree e.ptag a.ptag = true ∧ tagsAgree e.ptag b.ptag = true ∧ (e.op ≠ 1 → a.ptag = 2 → a.piece ≠ b.piece ∧ e.pending.length ≤ 6 ∧ ∀ x ∈ e.pending, x.1 ≠ a.piece ∧ x.1 ≠ b.piece) :=
  ⟨⟨0, 0, 0, 0, 0, 2, 0, 0, 0#32, [], false⟩, { aRecord with ptag := 2 }, { aRecord with ptag := 2, piece := 1 }, by decide +kernel⟩

/-- States and operands that meet the hypotheses of StitcherEvents, one for each of its clauses. -/
theorem test_hypotheses_of_StitcherEvents :
    (∃ (s : State) (p : _) (i : _) (q : _) (how : _) (k : _) (e : QEntry), p < 48 ∧ i < 128 ∧ isolated s p = false ∧ stitcherFailed s p i = false ∧ takesNow (stitcherOf s p i) = true ∧ findPiece s p = some (q, how, k) ∧ (panelOf s q).queue[k]? = some e ∧ heldUp s [(e.piece.tlist, 4 * e.piece.tcount)] = false) ∧
    (∃ (s : State) (p : _) (i : _) (r : _) (c : _), p < 48 ∧ i < 128 ∧ isolated s p = false ∧ stitcherFailed s p i = false ∧ (upcoming (stitcherOf s p i)).head? = some (r, c) ∧ (halfOf (stitcherOf s p i) (stitcherOf s p i).half).valid = false ∧ heldUp s (feedRanges s r c) = false) ∧
    (∃ (s : State) (p : _) (i : _) (r : _) (c : _), p < 48 ∧ i < 128 ∧ isolated s p = false ∧ stitcherFailed s p i = false ∧ (upcoming (stitcherOf s p i)).head? = some (r, c) ∧ (halfOf (stitcherOf s p i) (stitcherOf s p i).half).valid = true) ∧
    (∃ (s : State) (p : _) (i : _) (r : _) (c : _) (e : StreamErrors), p < 48 ∧ i < 128 ∧ isolated s p = false ∧ stitcherFailed s p i = false ∧ (stitcherOf s p i).cur = some r ∧ (chunksOf r.piece.fmt r.tiles)[r.done]? = some c ∧ (halfOf (stitcherOf s p i) (stitcherOf s p i).half).valid = true ∧ e.unzipped = false ∧ e.empty = false ∧ e.parity = false ∧ e.uncorrectable = false) ∧
    (∃ (s : State) (p : _) (i : _) (r : _) (c : _) (e : StreamErrors), p < 48 ∧ i < 128 ∧ isolated s p = false ∧ stitcherFailed s p i = false ∧ (stitcherOf s p i).cur = some r ∧ (chunksOf r.piece.fmt r.tiles)[r.done]? = some c ∧ e.unzipped = true) ∧
    (∃ (s : State) (p : _) (i : _) (r : _) (c : _) (e : StreamErrors), p < 48 ∧ i < 128 ∧ isolated s p = false ∧ stitcherFailed s p i = false ∧ (stitcherOf s p i).cur = some r ∧ (chunksOf r.piece.fmt r.tiles)[r.done]? = some c ∧ (halfOf (stitcherOf s p i) (stitcherOf s p i).half).valid = true ∧ e.unzipped = false ∧ e.empty = true) ∧
    (∃ (s : State) (p : _) (i : _) (r : _) (c : _) (e : StreamErrors), p < 48 ∧ i < 128 ∧ isolated s p = false ∧ stitcherFailed s p i = false ∧ (stitcherOf s p i).cur = some r ∧ (chunksOf r.piece.fmt r.tiles)[r.done]? = some c ∧ (halfOf (stitcherOf s p i) (stitcherOf s p i).half).valid = false ∧ e.unzipped = false) ∧
    (∃ (s : State) (p : _) (i : _) (r : _) (c : _) (e : StreamErrors), p < 48 ∧ i < 128 ∧ isolated s p = false ∧ stitcherFailed s p i = false ∧ (stitcherOf s p i).cur = some r ∧ (chunksOf r.piece.fmt r.tiles)[r.done]? = some c ∧ (halfOf (stitcherOf s p i) (stitcherOf s p i).half).valid = true ∧ e.unzipped = false ∧ e.empty = false ∧ (e.parity = true ∨ e.uncorrectable = true)) ∧
    (∃ (s : State) (p : _) (i : _) (r : _) (e : StreamErrors), p < 48 ∧ i < 128 ∧ isolated s p = false ∧ stitcherFailed s p i = false ∧ (stitcherOf s p i).cur = some r ∧ (chunksOf r.piece.fmt r.tiles)[r.done]? = none ∧ r.done ≠ 0 ∧ (e.parity = true ∨ e.uncorrectable = true)) ∧
    (∃ (s : State) (p : _) (i : _) (r : _), p < 48 ∧ i < 128 ∧ isolated s p = false ∧ stitcherFailed s p i = false ∧ (stitcherOf s p i).cur = some r ∧ runStreamed r = true ∧ (stitcherOf s p i).port = []) ∧
    (∃ (s : State) (p : _) (i : _) (r : _), p < 48 ∧ i < 128 ∧ isolated s p = false ∧ stitcherFailed s p i = false ∧ (stitcherOf s p i).cur = some r ∧ runStreamed r = true ∧ (stitcherOf s p i).port ≠ []) ∧
    (∃ (s : State) (p : _), p < 48 ∧ isolated s p = false) :=
  ⟨⟨{ State.reset with panels := [(47, { Panel.none with queue := [⟨aPiece, true⟩] })] }, 47, 127, 47, 0, 0, ⟨aPiece, true⟩, by decide +kernel⟩,
    ⟨stitching { Stitcher.none with cur := some aRun }, 47, 127, aRun, (0, 0), by decide +kernel⟩,
    ⟨stitching { Stitcher.none with cur := some aRun, half0 := ⟨true, false, []⟩ }, 47, 127, aRun, (0, 0), by decide +kernel⟩,
    ⟨stitching { Stitcher.none with cur := some aRun, half0 := ⟨true, false, []⟩ }, 47, 127, aRun, (0, 0), StreamErrors.clean, by decide +kernel⟩,
    ⟨stitching { Stitcher.none with cur := some aRun }, 47, 127, aRun, (0, 0), { StreamErrors.clean with unzipped := true }, by decide +kernel⟩,
    ⟨stitching { Stitcher.none with cur := some aRun, half0 := ⟨true, false, []⟩ }, 47, 127, aRun, (0, 0), { StreamErrors.clean with empty := true }, by decide +kernel⟩,
    ⟨stitching { Stitcher.none with cur := some aRun }, 47, 127, aRun, (0, 0), StreamErrors.clean, by decide +kernel⟩,
    ⟨stitching { Stitcher.none with cur := some aRun, half0 := ⟨true, false, []⟩ }, 47, 127, aRun, (0, 0), { StreamErrors.clean with uncorrectable := true }, by decide +kernel⟩,
    ⟨stitching { Stitcher.none with cur := some { aRun with done := 2 } }, 47, 127, { aRun with done := 2 }, { StreamErrors.clean with parity := true }, by decide +kernel⟩,
    ⟨stitching { Stitcher.none with cur := some { aRun with done := 2 } }, 47, 127, { aRun with done := 2 }, by decide +kernel⟩,
    ⟨stitching { Stitcher.none with cur := some { aRun with done := 2 }, port := [aRecord] }, 47, 127, { aRun with done := 2 }, by decide +kernel⟩,
    ⟨State.reset, 47, by decide +kernel⟩⟩

/-- States and operands that meet the hypotheses of SeamEvents, one for each of its clauses. -/
theorem test_hypotheses_of_SeamEvents :
    (∃ (s : State) (p : _) (port : _) (r : _) (s' : State), popPort p port s = some (r, s') ∧ p < 48 ∧ isolated s p = false ∧ dropped s r = false ∧ (panelOf s p).window.length < 1024) ∧
    (∃ (s : State) (p : _) (port : _) (r : _) (s' : State), popPort p port s = some (r, s') ∧ p < 48 ∧ isolated s p = false ∧ dropped s r = true) ∧
    (∃ (s : State) (p : _) (r : _) (rs : _) (t : Step), p < 48 ∧ isolated s p = false ∧ (panelOf s p).window = r :: rs ∧ stepOfRecord s r = some t ∧ t.attempt = r.attempt) ∧
    (∃ (s : State) (p : _) (r : _) (rs : _) (t : Step), p < 48 ∧ isolated s p = false ∧ (panelOf s p).window = r :: rs ∧ stepOfRecord s r = some t ∧ t.attempt ≠ r.attempt) ∧
    (∃ (s : State) (n : _) (t : Step) (k : _) (i : _) (o : _), stepOf s n = some t ∧ nextLevel t = some k ∧ mayRelease s t = true ∧ levelReady t k = true ∧ (List.range t.ops.length).find? (fun i => (t.ops[i]?.map (fun o => atLevel k o && sendsRecords o && !o.reserved && !o.released)).getD false) = some i ∧ t.ops[i]? = some o ∧ (∀ m, m < 8 → reservedIn s m + reserveWords s t i o m ≤ 524288)) ∧
    (∃ (s : State) (n : _) (t : Step) (k : _), stepOf s n = some t ∧ nextLevel t = some k ∧ mayRelease s t = true ∧ levelReady t k = true ∧ s.gateQueue.length + (gatesReleased s t k).length ≤ 127) ∧
    (∃ (s : State) (n : _) (t : Step) (i : _) (o : _) (u : State), u = atCompletion s ∧ stepOf u n = some t ∧ t.phase = .running ∧ (modelOf u t.model).faulted = false ∧ closable u t = some i ∧ t.ops[i]? = some o) ∧
    (∃ (s : State) (n : _) (t : Step) (i : _) (p : _) (u : State), u = atCompletion s ∧ stepOf u n = some t ∧ t.phase = .running ∧ (modelOf u t.model).faulted = false ∧ closable u t = some i ∧ p < 48 ∧ isolated u p = false) ∧
    (∃ (s : State) (n : _) (t : Step), stepOf (atCompletion s) n = some t ∧ (modelOf (atCompletion s) t.model).faulted = true) :=
  ⟨⟨panelWith { Panel.none with finIn := [aRecord] } aStep, 47, none, aRecord, stepping aStep, rfl, by decide +kernel⟩,
    ⟨panelWith { Panel.none with finIn := [aRecord] } { aStep with attempt := 1 }, 47, none, aRecord, stepping { aStep with attempt := 1 }, rfl, by decide +kernel⟩,
    ⟨panelWith { Panel.none with window := [aRecord] } aStep, 47, aRecord, [], aStep, by decide +kernel⟩,
    ⟨panelWith { Panel.none with window := [aRecord] } { aStep with attempt := 1 }, 47, aRecord, [], { aStep with attempt := 1 }, by decide +kernel⟩,
    ⟨{ stepping aStep with regs := [(0x30000, 0x8000000000000000#64)] }, 0, aStep, (0, 0), 0, anOp, by decide +kernel⟩,
    ⟨{ stepping aStep with regs := [(0x30000, 0x8000000000000000#64)] }, 0, aStep, (0, 0), by decide +kernel⟩,
    ⟨stepping { aStep with ops := [{ anOp with released := true, expanded := true }] }, 0, { aStep with ops := [{ anOp with released := true, expanded := true }] }, 0, { anOp with released := true, expanded := true }, atCompletion (stepping { aStep with ops := [{ anOp with released := true, expanded := true }] }), rfl, by decide +kernel⟩,
    ⟨stepping { aStep with ops := [{ anOp with released := true, expanded := true }] }, 0, { aStep with ops := [{ anOp with released := true, expanded := true }] }, 0, 47, atCompletion (stepping { aStep with ops := [{ anOp with released := true, expanded := true }] }), rfl, by decide +kernel⟩,
    ⟨{ stepping aStep with models := [(0, { resident with faulted := true })] }, 0, aStep, by decide +kernel⟩⟩

/-- States and operands that meet the hypotheses of StepEvents, one for each of its clauses. -/
theorem test_hypotheses_of_StepEvents :
    (∃ (s : State), tapePast s (guardTape s) = true) ∧
    (∃ (s : State), tapePast s (guardTape s) = false) ∧
    (∃ (s : State) (n : _) (t : Step) (u : State), u = atCompletion s ∧ stepOf u n = some t ∧ t.phase = .sampling ∧ t.seqs.any stillDraws = false ∧ (modelOf u t.model).faulted = false) ∧
    (∃ (s : State) (n : _) (x : _) (t : Step) (q : _) (bad : _) (u : State), u = touchAll (deviceCtx s) (drawRanges s x q) s ∧ stepOf s n = some t ∧ partOf t x = some q ∧ t.phase = .sampling ∧ stillDraws q = true ∧ (modelOf s t.model).faulted = false ∧ heldUp s (drawRanges s x q) = false ∧ (logitRow u t q).2 = false ∧ badGrammar u x q bad = false) ∧
    (∃ (s : State) (n : _) (x : _) (t : Step) (q : _) (bad : _) (u : State), u = touchAll (deviceCtx s) (drawRanges s x q) s ∧ stepOf s n = some t ∧ partOf t x = some q ∧ t.phase = .sampling ∧ stillDraws q = true ∧ (modelOf s t.model).faulted = false ∧ heldUp s (drawRanges s x q) = false ∧ ((logitRow u t q).2 = true ∨ badGrammar u x q bad = true)) ∧
    (∃ (s : State) (n : _) (i : _) (rest : _) (t : Step) (o : _) (u : State), u = atCompletion s ∧ u.gateQueue = (n, i) :: rest ∧ stepOf u n = some t ∧ (modelOf u t.model).faulted = false ∧ t.ops[i]? = some o) ∧
    (∃ (s : State) (n : _) (t : Step) (i : _) (o : _), stepOf s n = some t ∧ (modelOf s t.model).faulted = false ∧ (List.range t.ops.length).find? (fun i => (t.ops[i]?.map (fun o => o.kind != 2 && entExpert o.bits && o.released && !o.expanded)).getD false) = some i ∧ t.ops[i]? = some o) :=
  ⟨⟨{ State.reset with tape := 245000 }, by decide +kernel⟩,
    ⟨State.reset, by decide +kernel⟩,
    ⟨stepping { aStep with phase := .sampling }, 0, { aStep with phase := .sampling }, atCompletion (stepping { aStep with phase := .sampling }), rfl, by decide +kernel⟩,
    ⟨{ stepping { aStep with phase := .sampling, seqs := [aPart] } with models := [(0, resident)] }, 0, 0, { aStep with phase := .sampling, seqs := [aPart] }, aPart, false, touchAll (deviceCtx { stepping { aStep with phase := .sampling, seqs := [aPart] } with models := [(0, resident)] }) (drawRanges { stepping { aStep with phase := .sampling, seqs := [aPart] } with models := [(0, resident)] } 0 aPart) { stepping { aStep with phase := .sampling, seqs := [aPart] } with models := [(0, resident)] }, rfl, by decide +kernel⟩,
    ⟨{ stepping { aStep with phase := .sampling, seqs := [aPart] } with models := [(0, resident)], seqs := [(0, { Seq.none with par := { SeqParams.none with grammar := some 0 } })] }, 0, 0, { aStep with phase := .sampling, seqs := [aPart] }, aPart, true, touchAll (deviceCtx { stepping { aStep with phase := .sampling, seqs := [aPart] } with models := [(0, resident)], seqs := [(0, { Seq.none with par := { SeqParams.none with grammar := some 0 } })] }) (drawRanges { stepping { aStep with phase := .sampling, seqs := [aPart] } with models := [(0, resident)], seqs := [(0, { Seq.none with par := { SeqParams.none with grammar := some 0 } })] } 0 aPart) { stepping { aStep with phase := .sampling, seqs := [aPart] } with models := [(0, resident)], seqs := [(0, { Seq.none with par := { SeqParams.none with grammar := some 0 } })] }, rfl, by decide +kernel⟩,
    ⟨{ stepping aStep with gateQueue := [(0, 0)] }, 0, 0, [], aStep, anOp, atCompletion { stepping aStep with gateQueue := [(0, 0)] }, rfl, by decide +kernel⟩,
    ⟨stepping { aStep with ops := [{ anOp with bits := 2 ^ 142, released := true }] }, 0, { aStep with ops := [{ anOp with bits := 2 ^ 142, released := true }] }, 0, { anOp with bits := 2 ^ 142, released := true }, by decide +kernel⟩⟩

/-- States and operands that meet the hypotheses of EngineCommands, one for each of its clauses. -/
theorem test_hypotheses_of_EngineCommands :
    (∃ (s : State) (p : _) (c : MatCmd), p < 48 ∧ isolated s p = false ∧ headCommand s p = some c ∧ c.opc = 0 ∧ heldUp s (denseRanges s c) = false) ∧
    (∃ (s : State) (p : _) (c : MatCmd) (t : _) (o : _), p < 48 ∧ isolated s p = false ∧ stopped s = false ∧ headCommand s p = some c ∧ c.opc = 1 ∧ stepOf s c.step = some t ∧ t.ops[c.op]? = some o ∧ heldUp s ((lanesOf c.lanemask).flatMap (fetchRanges s t c)) = false) ∧
    (∃ (s : State), stopped s = true) ∧
    (∃ (s : State) (p : _) (c : MatCmd) (t : _) (o : _), p < 48 ∧ isolated s p = false ∧ headCommand s p = some c ∧ c.opc = 2 ∧ stepOf s c.step = some t ∧ t.ops[c.op]? = some o ∧ heldUp s (embedRanges s c t) = false) ∧
    (∃ (s : State) (ranges : _), heldUp s ranges = true) ∧
    (∃ (s : State) (p : _) (c : MatCmd) (t : _) (o : _), p < 48 ∧ isolated s p = false ∧ headCommand s p = some c ∧ c.opc = 3 ∧ stepOf s c.step = some t ∧ t.ops[c.op]? = some o) :=
  ⟨⟨panelWith { Panel.none with mq := [aCommand] } aStep, 47, aCommand, by decide +kernel⟩,
    ⟨panelWith { Panel.none with mq := [{ aCommand with opc := 1 }] } aStep, 47, { aCommand with opc := 1 }, aStep, anOp, by decide +kernel⟩,
    ⟨holding [(0x300000, 0x8000000000000000#64)], by decide +kernel⟩,
    ⟨panelWith { Panel.none with mq := [{ aCommand with opc := 2 }] } aStep, 47, { aCommand with opc := 2 }, aStep, anOp, by decide +kernel⟩,
    ⟨holding [(chStatus (channelOf 0), 0x2000000000000000#64)], [(0, 1)], by decide +kernel⟩,
    ⟨panelWith { Panel.none with mq := [{ aCommand with opc := 3 }] } aStep, 47, { aCommand with opc := 3 }, aStep, anOp, by decide +kernel⟩⟩

/-- States and operands that meet the hypotheses of VectorRegistersReadBack, one for each of its clauses. -/
theorem test_hypotheses_of_VectorRegistersReadBack :
    (∃ (x : VecEngine) (es : List (F32 × Bool)) (i : _), swf vZero x.v = true ∧ es.length = 64 ∧ i < es.length) ∧
    (∃ (x : VecEngine) (n : Nat) (es : List (F32 × Bool)) (m : _) (i : _), swf vZero x.v = true ∧ es.length = 64 ∧ m ≠ n ∧ i < 64) :=
  ⟨⟨VecEngine.none, List.replicate 64 (0#32, true), 63, by decide +kernel⟩,
    ⟨VecEngine.none, 31, List.replicate 64 (0#32, false), 0, 63, by decide +kernel⟩⟩

/-- States and operands that meet the hypotheses of VectorInstructions, one for each of its clauses. -/
theorem test_hypotheses_of_VectorInstructions :
    (∃ (s : State) (p : Nat) (d : _) (a : _) (b : _) (c : _), p < 48 ∧ isolated s p = false ∧ d < 32 ∧ a < 32 ∧ b < 32 ∧ c < 32) ∧
    (∃ (s : State) (p : Nat) (d : _) (a : _) (c : _) (t : _) (o : _), p < 48 ∧ isolated s p = false ∧ d < 32 ∧ a < 4 ∧ (vecOf s p).cmd = some c ∧ stepOf s c.step = some t ∧ t.ops[c.op]? = some o) :=
  ⟨⟨State.reset, 47, 31, 31, 31, 31, by decide +kernel⟩,
    ⟨panelWith { Panel.none with vec := { VecEngine.none with cmd := some aCommand } } aStep, 47, 31, 3, aCommand, aStep, anOp, by decide +kernel⟩⟩

/-- States and operands that meet the hypotheses of CacheEvents, one for each of its clauses. -/
theorem test_hypotheses_of_CacheEvents :
    (∃ (s : State) (j : _), nextJob s = some j ∧ stopped s = false ∧ heldUp s [jobRange s j] = false) ∧
    (∃ (s : State) (j : _), s.kvJobs.find? (fun j => j.started && !j.done) = some j ∧ (seqOf s j.seq).gen = j.gen) ∧
    (∃ (s : State) (seq : _) (layer : _) (j : _), s.cowJobs.find? (fun j => j.seq == seq && j.layer == layer) = some j ∧ stopped s = false ∧ rdB s 0x100028 0 = true ∧ heldUp s [pageRange j.src, pageRange j.dst] = false) ∧
    (∃ (s : State) (seq : _), 4000 ≤ (seqOf s seq).pageWait ∧ ((seqOf s seq).state = .idle ∨ (seqOf s seq).state = .ready)) :=
  ⟨⟨{ State.reset with kvJobs := [⟨0, 0, false, 0, 0, [], false, false⟩] }, ⟨0, 0, false, 0, 0, [], false, false⟩, by decide +kernel⟩,
    ⟨{ State.reset with kvJobs := [⟨0, 0, false, 0, 0, [], true, false⟩] }, ⟨0, 0, false, 0, 0, [], true, false⟩, by decide +kernel⟩,
    ⟨{ holding [(0x100028, 1#64)] with cowJobs := [⟨0, 0, 0, 0, 1⟩] }, 0, 0, ⟨0, 0, 0, 0, 1⟩, by decide +kernel⟩,
    ⟨{ State.reset with seqs := [(4095, { Seq.none with state := .ready, pageWait := 4000 })] }, 4095, by decide +kernel⟩⟩

/-- States and operands that meet the hypotheses of ShuttleMoves, one for each of its clauses. -/
theorem test_hypotheses_of_ShuttleMoves :
    (∃ (s : State) (ch : Nat), 56 ≤ ch ∧ ch < 64 ∧ stopped s = false ∧ (chanOf s ch).paused = false ∧ (chanOf s ch).phase = .moving ∧ heldUp s (descRanges s (chCtx s ch) (chanOf s ch).bits) = false ∧ dOp (chanOf s ch).bits = 0) ∧
    (∃ (s : State) (ch : Nat), 56 ≤ ch ∧ ch < 64 ∧ stopped s = false ∧ (chanOf s ch).paused = false ∧ (chanOf s ch).phase = .moving ∧ heldUp s (descRanges s (chCtx s ch) (chanOf s ch).bits) = false ∧ dOp (chanOf s ch).bits = 1) ∧
    (∃ (s : State) (ch : Nat), 56 ≤ ch ∧ ch < 64 ∧ stopped s = false ∧ (chanOf s ch).paused = false ∧ (chanOf s ch).phase = .moving ∧ heldUp s (descRanges s (chCtx s ch) (chanOf s ch).bits) = false ∧ dOp (chanOf s ch).bits = 2) ∧
    (∃ (s : State) (ch : Nat), 56 ≤ ch ∧ ch < 64 ∧ stopped s = false ∧ (chanOf s ch).paused = false ∧ (chanOf s ch).phase = .moving ∧ heldUp s (descRanges s (chCtx s ch) (chanOf s ch).bits) = false ∧ dOp (chanOf s ch).bits = 3) ∧
    (∃ (s : State) (ch : Nat), 56 ≤ ch ∧ ch < 64 ∧ stopped s = false ∧ (chanOf s ch).paused = false ∧ (chanOf s ch).phase = .moving ∧ heldUp s (descRanges s (chCtx s ch) (chanOf s ch).bits) = false ∧ dOp (chanOf s ch).bits = 4) ∧
    (∃ (s : State) (ch : Nat), 56 ≤ ch ∧ ch < 64 ∧ stopped s = false ∧ (chanOf s ch).paused = false ∧ (chanOf s ch).phase = .moving ∧ heldUp s (descRanges s (chCtx s ch) (chanOf s ch).bits) = false ∧ dOp (chanOf s ch).bits = 5) ∧
    (∃ (s : State) (ch : Nat), 56 ≤ ch ∧ ch < 64 ∧ stopped s = false ∧ (chanOf s ch).paused = false ∧ (chanOf s ch).phase = .moving ∧ heldUp s (descRanges s (chCtx s ch) (chanOf s ch).bits) = false ∧ dOp (chanOf s ch).bits = 6) :=
  ⟨⟨channelWith { Channel.none with phase := .moving, bits := 0 }, 63, by decide +kernel⟩,
    ⟨channelWith { Channel.none with phase := .moving, bits := 1 }, 63, by decide +kernel⟩,
    ⟨channelWith { Channel.none with phase := .moving, bits := 2 }, 63, by decide +kernel⟩,
    ⟨channelWith { Channel.none with phase := .moving, bits := 3 }, 63, by decide +kernel⟩,
    ⟨channelWith { Channel.none with phase := .moving, bits := 4 }, 63, by decide +kernel⟩,
    ⟨channelWith { Channel.none with phase := .moving, bits := 5 }, 63, by decide +kernel⟩,
    ⟨channelWith { Channel.none with phase := .moving, bits := 6 }, 63, by decide +kernel⟩⟩

/-- States and operands that meet the hypotheses of FillWritesPattern, one for each of its clauses. -/
theorem test_hypotheses_of_FillWritesPattern :
    (∃ (s : State) (dst : Nat) (len : Nat) (i : _), Canonical s ∧ inStack s dst len = true ∧ i < len) ∧
    (∃ (s : State) (dst : Nat) (len : Nat) (b : _), Canonical s ∧ inStack s dst len = true ∧ (b < dst ∨ dst + len ≤ b)) :=
  ⟨⟨State.reset, 0, 1, 0, canonical_of (by decide +kernel), by decide +kernel⟩,
    ⟨State.reset, 1, 1, 2, canonical_of (by decide +kernel), by decide +kernel⟩⟩

/-- States and operands that meet the hypotheses of ShuttleControl, one for each of its clauses. -/
theorem test_hypotheses_of_ShuttleControl :
    (∃ (s : State) (ch : _), 56 ≤ ch ∧ ch < 64 ∧ chEnabled s ch = true ∧ (chanOf s ch).phase = .idle ∧ (chanOf s ch).head ≠ chTail s ch ∧ stopped s = false ∧ (chanOf s ch).paused = false ∧ heldUp s [(headAt s ch, 64)] = false) ∧
    (∃ (s : State) (ch : _), 56 ≤ ch ∧ ch < 64 ∧ stopped s = false ∧ (chanOf s ch).paused = false ∧ (chanOf s ch).phase = .waiting ∧ trigNow s (chanOf s ch) = .fires) ∧
    (∃ (s : State) (ch : _), 56 ≤ ch ∧ ch < 64 ∧ stopped s = false ∧ (chanOf s ch).paused = false ∧ (chanOf s ch).phase = .waiting ∧ trigNow s (chanOf s ch) = .fails) ∧
    (∃ (s : State) (ch : _), 56 ≤ ch ∧ ch < 64 ∧ stopped s = false ∧ (chanOf s ch).paused = false ∧ (chanOf s ch).phase = .waiting ∧ trigNow s (chanOf s ch) = .waits) ∧
    (∃ (s : State) (ch : _), 56 ≤ ch ∧ ch < 64 ∧ stopped s = false ∧ (chanOf s ch).paused = false ∧ (chanOf s ch).phase = .waiting ∧ (dTrig (chanOf s ch).bits = 0 ∨ dTrig (chanOf s ch).bits = 1 ∧ serialAtLeast 64 s.tape (dTime (chanOf s ch).bits) = true)) ∧
    (∃ (s : State) (ch : _), 56 ≤ ch ∧ ch < 64 ∧ (chanOf s ch).phase = .moved ∧ heldUp s [(recordAt s ch, 32)] = false) ∧
    (∃ (s : State) (ch : _) (addr : _), ch < 64 ∧ addr < 2 ^ 48 ∧ inMap s addr 1 = false) ∧
    (∃ (s : State) (addr : _), inMap s addr 1 = true) ∧
    (∃ (s : State), Canonical s ∧ (∀ t ∈ s.steps, ∀ c, t.carry = some c → c.waits = false)) ∧
    (∃ (s : State) (ch : _) (value : Word) (x : Channel), Canonical s ∧ x = chanOf s ch ∧ 56 ≤ ch ∧ ch < 64 ∧ chEnabled s ch = false ∧ getBit value 63 = true ∧ getBit value 62 = false ∧ ringPlaced s (getBits value 47 6 * 64) (64 * 2 ^ (getBits value 50 48 + 1)) = true ∧ ringPlaced s (rdF s (chCtrl ch + 0x10) 47 5 * 32) (32 * 2 ^ (getBits value 50 48 + 1)) = true) ∧
    (∃ (ch : _) (value : Word), 56 ≤ ch ∧ ch < 64 ∧ getBit value 62 = true) ∧
    (∃ (s : State) (ch : _), Canonical s ∧ 56 ≤ ch ∧ ch < 64) :=
  ⟨⟨holding [(0x3017E0, 0x8000000000000000#64), (0x3017E8, 1#64)], 63, by decide +kernel⟩,
    ⟨channelWith { Channel.none with phase := .waiting }, 63, by decide +kernel⟩,
    ⟨channelWith { Channel.none with phase := .waiting, bits := 3 * 2 ^ 4 + 62 * 2 ^ 16 + 2 ^ 32 }, 63, by decide +kernel⟩,
    ⟨channelWith { Channel.none with phase := .waiting, bits := 2 ^ 4 + 5 * 2 ^ 384 }, 63, by decide +kernel⟩,
    ⟨channelWith { Channel.none with phase := .waiting }, 63, by decide +kernel⟩,
    ⟨channelWith { Channel.none with phase := .moved }, 63, by decide +kernel⟩,
    ⟨State.reset, 63, 2 ^ 48 - 1, by decide +kernel⟩,
    ⟨State.reset, 0, by decide +kernel⟩,
    ⟨State.reset, canonical_of (by decide +kernel), nofun⟩,
    ⟨State.reset, 63, 0x8000000000000000#64, chanOf State.reset 63, canonical_of (by decide +kernel), rfl, by decide +kernel⟩,
    ⟨63, 0x4000000000000000#64, by decide +kernel⟩,
    ⟨State.reset, 56, canonical_of (by decide +kernel), by decide +kernel⟩⟩

/-- States and operands that meet the hypotheses of AtomicsActInSlices, one for each of its clauses. -/
theorem test_hypotheses_of_AtomicsActInSlices :
    (∃ (s : State) (who : Requester) (a : Nat) (v : Nat), Canonical s ∧ AtomicActs who a 4 s ∧ v < 2 ^ 32) ∧
    (∃ (s : State) (who : Requester) (wide : Bool) (a : Nat) (v : Nat) (compare : _), Canonical s ∧ AtomicActs who a (wordBytes wide) s ∧ v < 2 ^ (8 * wordBytes wide) ∧ compare < 2 ^ (8 * wordBytes wide)) ∧
    (∃ (s : State) (who : Requester) (a : Nat), Canonical s ∧ AtomicActs who a 4 s) ∧
    (∃ (s : State) (who : Requester) (a : Nat) (v : Nat) (compare : Nat) (c : Instr), Canonical s ∧ (∀ ch, who ≠ .shuttle ch) ∧ stallsAt s a = false ∧ (a % 4 ≠ 0 ∧ c ∈ [.addI32 who a v, .addF32 who a v, .minI32 who a v, .maxI32 who a v, .minF32 who a v, .maxF32 who a v, .andOp who false a v, .orOp who false a v, .cas who false a compare v, .refInc who a, .refDec who a] ∨ a % 8 ≠ 0 ∧ c ∈ [.andOp who true a v, .orOp who true a v, .cas who true a compare v])) ∧
    (∃ (s : State) (who : Requester) (wide : Bool) (a : Nat) (v : Nat) (compare : Nat) (c : Instr), stallsAt s a = true ∧ c ∈ [.addI32 who a v, .addF32 who a v, .minI32 who a v, .maxI32 who a v, .minF32 who a v, .maxF32 who a v, .andOp who wide a v, .orOp who wide a v, .cas who wide a compare v, .refInc who a, .refDec who a]) ∧
    (∃ (s : State) (a : Nat) (p : Nat), pageAtRef s a = some p ∧ stallsAt s a = false ∧ (atomicStep .planEngine a 4 incWord s).lastAtomic.poisoned = true) ∧
    (∃ (s : State) (who : Requester) (a : Nat) (n : Nat) (v : Nat) (compare : Nat) (c : Instr), a % n = 0 ∧ (inStack s a n = true ∨ inScratch s a n = true) ∧ anyPoison s a n = true ∧ stallsAt s a = false ∧ (n = 4 ∧ c ∈ [.addI32 who a v, .addF32 who a v, .minI32 who a v, .maxI32 who a v, .minF32 who a v, .maxF32 who a v, .andOp who false a v, .orOp who false a v, .cas who false a compare v] ∨ n = 4 ∧ who ≠ .planEngine ∧ c = .refInc who a ∨ n = 8 ∧ c ∈ [.andOp who true a v, .orOp who true a v, .cas who true a compare v])) :=
  ⟨⟨State.reset, .controller, 0, 2 ^ 32 - 1, canonical_of (by decide +kernel), atomic_of (by decide +kernel), by decide +kernel⟩,
    ⟨State.reset, .shuttle 0, true, 8, 2 ^ 64 - 1, 0, canonical_of (by decide +kernel), atomic_of (by decide +kernel), by decide +kernel⟩,
    ⟨State.reset, .controller, 4, canonical_of (by decide +kernel), atomic_of (by decide +kernel)⟩,
    ⟨State.reset, .controller, 3, 0, 0, .refDec .controller 3, canonical_of (by decide +kernel), nofun, by decide +kernel⟩,
    ⟨holding [(chStatus (channelOf 0), 0x2000000000000000#64)], .controller, false, 0, 0, 0, .refDec .controller 0, by decide +kernel⟩,
    ⟨{ holding [(0x40008, 0x8000000000001000#64), (0x40018, 1#64)] with poison := [4096] }, 4096, 0, by decide +kernel⟩,
    ⟨{ State.reset with poison := [0] }, .controller, 0, 4, 0, 0, .refInc .controller 0, by decide +kernel⟩⟩

/-- States and operands that meet the hypotheses of LineAccesses, one for each of its clauses. -/
theorem test_hypotheses_of_LineAccesses :
    (∃ (s : State) (addr : _), Canonical s ∧ inStack s addr (64 - addr % 64) = true ∧ stallsAt s addr = false) ∧
    (∃ (s : State) (addr : _) (bytes : List Byte), Canonical s ∧ bytes ≠ [] ∧ addr % 64 + bytes.length ≤ 64 ∧ inStack s addr bytes.length = true ∧ stallsAt s addr = false) ∧
    (∃ (s : State) (who : Requester) (addr : _), Canonical s ∧ (∀ ch, who ≠ .shuttle ch) ∧ inMemory s addr 1 = false ∧ inMap s addr (64 - addr % 64) = false ∧ stallsAt s addr = false) ∧
    (∃ (s : State) (addr : _), stallsAt s addr = true) ∧
    (∃ (s : State) (line : _), rdB s 0x50010 63 = true ∧ line / 64 * 64 < capacity s ∧ stallsAt s (line / 64 * 64) = false ∧ (scrubPass s).scrubbed.contains (line / 64 * 64) = false) :=
  ⟨⟨State.reset, 63, canonical_of (by decide +kernel), by decide +kernel⟩,
    ⟨State.reset, 63, [1#8], canonical_of (by decide +kernel), by decide +kernel⟩,
    ⟨State.reset, .controller, 2 ^ 48, canonical_of (by decide +kernel), nofun, by decide +kernel⟩,
    ⟨holding [(chStatus (channelOf 0), 0x2000000000000000#64)], 0, by decide +kernel⟩,
    ⟨State.reset, 24 * 64 * 2 ^ 30 - 64, by decide +kernel⟩⟩

/-- States and operands that meet the hypotheses of ChannelEvents, one for each of its clauses. -/
theorem test_hypotheses_of_ChannelEvents :
    (∃ (s : State) (ch : _) (lane : _) (lost : _), ch < 384 ∧ laneServes s ch lane = true ∧ s.failing.contains (128 * ch + lane) = false ∧ s.unspared.contains (128 * ch + lane) = false ∧ rdB s (chStatus ch) 63 = true ∧ (lost = true ∨ failLimit s ≤ bitsOn s ch lane) ∧ 0 < sparesFree s ch) ∧
    (∃ (s : State) (ch : _) (lane : _) (lost : _), ch < 384 ∧ laneServes s ch lane = true ∧ s.failing.contains (128 * ch + lane) = false ∧ s.unspared.contains (128 * ch + lane) = false ∧ rdB s (chStatus ch) 63 = true ∧ (lost = true ∨ failLimit s ≤ bitsOn s ch lane) ∧ sparesFree s ch = 0) ∧
    (∃ (s : State) (ch : _), ch < 384 ∧ s.retrainDue.contains ch = true ∧ rdB s (chStatus ch) 61 = false ∧ retrainWaits s ch = false) ∧
    (∃ (s : State) (ch : _), ch < 384 ∧ rdB s (chStatus ch) 61 = true) ∧
    (∃ (s : State) (value : Word), Canonical s ∧ getBit value 63 = true ∧ getBits value 8 0 ≤ 383 ∧ rdB s 0x50018 62 = false) ∧
    (∃ (s : State) (ch : _) (m : MarginRun), marginOf s ch = some m ∧ m.waiter = none) ∧
    (∃ (s : State) (ch : _) (m : MarginRun) (w : _), marginOf s ch = some m ∧ m.waiter = some w) ∧
    (∃ (s : State) (slice : _) (ch : _) (value : Word), slice < 24 ∧ ch < 16 ∧ marginOf s (16 * slice + ch) = none ∧ getBit value 63 = false) ∧
    (∃ (s : State) (slice : _) (ch : _) (value : Word), Canonical s ∧ slice < 24 ∧ ch < 16 ∧ marginOf s (16 * slice + ch) = none ∧ getBit value 63 = true ∧ getBits value 60 54 ≤ 79 ∧ getBits value 15 0 ≠ 0 ∧ 0 < sparesFree s (16 * slice + ch) ∧ rdB s (chStatus (16 * slice + ch)) 61 = false) ∧
    (∃ (s : State) (dwell : _) (c : _), serving s = true ∧ 2 ≤ rdF s 8 60 59 ∧ 1 ≤ dwell ∧ dwell ≤ 65535 ∧ rotationNext s = some c) :=
  ⟨⟨holding [(chStatus 383, 0x8000000000000000#64)], 383, 79, true, by decide +kernel⟩,
    ⟨{ holding [(chStatus 383, 0x8000000000000000#64)] with failing := [128 * 383, 128 * 383 + 1] }, 383, 79, true, by decide +kernel⟩,
    ⟨{ State.reset with retrainDue := [383] }, 383, by decide +kernel⟩,
    ⟨holding [(chStatus 383, 0x2000000000000000#64)], 383, by decide +kernel⟩,
    ⟨State.reset, 0x800000000000017F#64, canonical_of (by decide +kernel), by decide +kernel⟩,
    ⟨{ State.reset with margins := [(0, some ⟨0, true, 0, none⟩)] }, 0, ⟨0, true, 0, none⟩, by decide +kernel⟩,
    ⟨{ State.reset with margins := [(0, some ⟨0, false, 0, some ⟨64, 0, 0, 0⟩⟩)] }, 0, ⟨0, false, 0, some ⟨64, 0, 0, 0⟩⟩, ⟨64, 0, 0, 0⟩, by decide +kernel⟩,
    ⟨State.reset, 23, 15, 0#64, by decide +kernel⟩,
    ⟨State.reset, 23, 15, 0x93C0000000000001#64, canonical_of (by decide +kernel), by decide +kernel⟩,
    ⟨holding [(8, 0x9000000000000000#64), (chStatus 0, 0x8000000000000000#64)], 65535, 0, by decide +kernel⟩⟩

/-- States and operands that meet the hypotheses of FramesReceived, one for each of its clauses. -/
theorem test_hypotheses_of_FramesReceived :
    (∃ (s : State) (u : State) (f : Frame) (p : Nat), p = (if f.back then 4 else 0) + f.port ∧ u = bump (portCfg p + 0x28) f.fecCorrected (bump (portCfg p + 0x10) 1 s) ∧ f.port < 4 ∧ f.iface < 8 ∧ rdB s (portStatus p) f.iface = true ∧ rdF s 8 63 61 ≠ 7 ∧ f.fecOk = false) ∧
    (∃ (s : State) (u : State) (f : Frame) (p : Nat), p = (if f.back then 4 else 0) + f.port ∧ u = bump (portCfg p + 0x28) f.fecCorrected (bump (portCfg p + 0x10) 1 s) ∧ f.port < 4 ∧ f.iface < 8 ∧ rdB s (portStatus p) f.iface = true ∧ rdF s 8 63 61 ≠ 7 ∧ f.fecOk = true ∧ f.fcsOk = false) ∧
    (∃ (s : State) (u : State) (f : Frame) (p : Nat), p = (if f.back then 4 else 0) + f.port ∧ u = bump (portCfg p + 0x28) f.fecCorrected (bump (portCfg p + 0x10) 1 s) ∧ f.port < 4 ∧ f.iface < 8 ∧ rdB s (portStatus p) f.iface = true ∧ rdF s 8 63 61 ≠ 7 ∧ f.fecOk = true ∧ f.fcsOk = true ∧ (9216 < f.size ∨ vlanOk s p f.vid = false ∨ f.fragment = true ∨ frameServed u f = false)) ∧
    (∃ (s : State) (u : State) (f : Frame) (p : Nat), p = (if f.back then 4 else 0) + f.port ∧ u = bump (portCfg p + 0x28) f.fecCorrected (bump (portCfg p + 0x10) 1 s) ∧ f.port < 4 ∧ f.iface < 8 ∧ rdB s (portStatus p) f.iface = true ∧ rdF s 8 63 61 ≠ 7 ∧ f.fecOk = true ∧ f.fcsOk = true ∧ f.size ≤ 9216 ∧ vlanOk s p f.vid = true ∧ f.fragment = false ∧ (f.kind = 1 ∧ (ifaceAddrs u p f.iface 6).contains f.target = true ∨ f.kind = 2 ∧ (ifaceAddrs u p f.iface 4).contains f.target = true ∧ rdB s (if f.back then 0xB00000 else 0xA00000) (if f.back then 62 else 63) = true ∨ f.kind = 3 ∧ rdB s 0xA00000 62 = true ∨ f.kind = 7 ∧ rdB s (if f.back then 0xB00000 else 0xA00000) (if f.back then 62 else 63) = true ∧ rdB s 0xA00000 62 = true)) ∧
    (∃ (s : State) (u : State) (f : Frame) (p : Nat), p = (if f.back then 4 else 0) + f.port ∧ u = bump (portCfg p + 0x28) f.fecCorrected (bump (portCfg p + 0x10) 1 s) ∧ f.port < 4 ∧ f.iface < 8 ∧ rdB s (portStatus p) f.iface = true ∧ rdF s 8 63 61 ≠ 7 ∧ f.fecOk = true ∧ f.fcsOk = true ∧ f.size ≤ 9216 ∧ vlanOk s p f.vid = true ∧ f.fragment = false ∧ f.kind = 5 ∧ f.udpPort = rdF s (if f.back then 0xB00000 else 0xA00000) 15 0 ∧ f.checksumOk = true) ∧
    (∃ (s : State) (u : State) (f : Frame) (p : Nat), p = (if f.back then 4 else 0) + f.port ∧ u = bump (portCfg p + 0x28) f.fecCorrected (bump (portCfg p + 0x10) 1 s) ∧ f.port < 4 ∧ f.iface < 8 ∧ rdB s (portStatus p) f.iface = true ∧ rdF s 8 63 61 ≠ 7 ∧ f.fecOk = true ∧ f.fcsOk = true ∧ f.size ≤ 9216 ∧ vlanOk s p f.vid = true ∧ f.fragment = false ∧ f.kind = 6 ∧ rdB s (if f.back then 0xB00000 else 0xA00000) (if f.back then 62 else 63) = true ∧ f.udpPort = rdF s (if f.back then 0xB00000 else 0xA00000) 15 0 ∧ f.checksumOk = true) :=
  ⟨⟨holding [(portStatus 7, 0x80#64)], bump (portCfg 7 + 0x28) 3 (bump (portCfg 7 + 0x10) 1 (holding [(portStatus 7, 0x80#64)])), ⟨true, 3, 7, 64, true, 3, false, none, 0, false, true, 0, 0⟩, 7, rfl, rfl, by decide +kernel⟩,
    ⟨holding [(portStatus 7, 0x80#64)], bump (portCfg 7 + 0x28) 3 (bump (portCfg 7 + 0x10) 1 (holding [(portStatus 7, 0x80#64)])), ⟨true, 3, 7, 64, false, 3, true, none, 0, false, true, 0, 0⟩, 7, rfl, rfl, by decide +kernel⟩,
    ⟨holding [(portStatus 7, 0x80#64)], bump (portCfg 7 + 0x28) 3 (bump (portCfg 7 + 0x10) 1 (holding [(portStatus 7, 0x80#64)])), ⟨true, 3, 7, 9217, true, 3, true, none, 1, false, true, 0, 0⟩, 7, rfl, rfl, by decide +kernel⟩,
    ⟨{ holding [(portStatus 7, 0x80#64), (0xA00000, 0x4000000000000000#64)] with addrs := [⟨7, 7, 6, 64, 5#8 :: zeros 15⟩] }, bump (portCfg 7 + 0x28) 3 (bump (portCfg 7 + 0x10) 1 { holding [(portStatus 7, 0x80#64), (0xA00000, 0x4000000000000000#64)] with addrs := [⟨7, 7, 6, 64, 5#8 :: zeros 15⟩] }), ⟨true, 3, 7, 9216, true, 3, true, none, 3, false, true, 0, 5⟩, 7, rfl, rfl, by decide +kernel⟩,
    ⟨holding [(0xB00000, 0xABCD#64), (portStatus 7, 0x80#64)], bump (portCfg 7 + 0x28) 3 (bump (portCfg 7 + 0x10) 1 (holding [(0xB00000, 0xABCD#64), (portStatus 7, 0x80#64)])), ⟨true, 3, 7, 9216, true, 3, true, none, 5, false, true, 0xABCD, 0⟩, 7, rfl, rfl, by decide +kernel⟩,
    ⟨holding [(0xB00000, 0x400000000000ABCD#64), (portStatus 7, 0x80#64)], bump (portCfg 7 + 0x28) 3 (bump (portCfg 7 + 0x10) 1 (holding [(0xB00000, 0x400000000000ABCD#64), (portStatus 7, 0x80#64)])), ⟨true, 3, 7, 9216, true, 3, true, none, 6, false, true, 0xABCD, 0⟩, 7, rfl, rfl, by decide +kernel⟩⟩

/-- States and operands that meet the hypotheses of DatagramsReceived, one for each of its clauses. -/
theorem test_hypotheses_of_DatagramsReceived :
    (∃ (s : State), asleep s = true) ∧
    (∃ (s : State) (d : Datagram) (a : Arrival) (u : State), u = bump 0xA00018 1 (charge d.mailbox 0 (frameBits (!(mappedV4 a.peer.addr)) (decide (rdF s (portCfg a.peer.port) 43 32 ≠ 0)) a.udpLength) s) ∧ asleep s = false ∧ obHeaderBad d a u = true) ∧
    (∃ (s : State) (d : Datagram) (a : Arrival) (x : Session) (u : State), u = bump 0xA00018 1 (charge d.mailbox 0 (frameBits (!(mappedV4 a.peer.addr)) (decide (rdF s (portCfg a.peer.port) 43 32 ≠ 0)) a.udpLength) s) ∧ x = sessionOf u (sessionKey d.mailbox (d.flags % 16)) ∧ d.tag ≠ Config.gcmTag x.key (obushNonce x.salt (if flagAck d.flags then 2 else 0) (d.flags % 16) d.mailbox (if flagAck d.flags then d.correlation else d.msn)) (headerBytes d) d.payload ∧ asleep s = false ∧ obHeaderBad d a u = false) ∧
    (∃ (s : State) (d : Datagram) (a : Arrival) (x : Session) (u : State), u = bump 0xA00018 1 (charge d.mailbox 0 (frameBits (!(mappedV4 a.peer.addr)) (decide (rdF s (portCfg a.peer.port) 43 32 ≠ 0)) a.udpLength) s) ∧ x = sessionOf u (sessionKey d.mailbox (d.flags % 16)) ∧ d.tag = Config.gcmTag x.key (obushNonce x.salt (if flagAck d.flags then 2 else 0) (d.flags % 16) d.mailbox (if flagAck d.flags then d.correlation else d.msn)) (headerBytes d) d.payload ∧ asleep s = false ∧ obHeaderBad d a u = false ∧ flagAck d.flags = true) ∧
    (∃ (s : State) (d : Datagram) (a : Arrival) (x : Session) (u : State), u = bump 0xA00018 1 (charge d.mailbox 0 (frameBits (!(mappedV4 a.peer.addr)) (decide (rdF s (portCfg a.peer.port) 43 32 ≠ 0)) a.udpLength) s) ∧ x = sessionOf u (sessionKey d.mailbox (d.flags % 16)) ∧ d.tag = Config.gcmTag x.key (obushNonce x.salt (if flagAck d.flags then 2 else 0) (d.flags % 16) d.mailbox (if flagAck d.flags then d.correlation else d.msn)) (headerBytes d) d.payload ∧ asleep s = false ∧ obHeaderBad d a u = false ∧ flagAck d.flags = false ∧ d.msn = x.rxNext) ∧
    (∃ (s : State) (d : Datagram) (a : Arrival) (x : Session) (u : State), u = bump 0xA00018 1 (charge d.mailbox 0 (frameBits (!(mappedV4 a.peer.addr)) (decide (rdF s (portCfg a.peer.port) 43 32 ≠ 0)) a.udpLength) s) ∧ x = sessionOf u (sessionKey d.mailbox (d.flags % 16)) ∧ d.tag = Config.gcmTag x.key (obushNonce x.salt (if flagAck d.flags then 2 else 0) (d.flags % 16) d.mailbox (if flagAck d.flags then d.correlation else d.msn)) (headerBytes d) d.payload ∧ asleep s = false ∧ obHeaderBad d a u = false ∧ flagAck d.flags = false ∧ d.msn ≠ x.rxNext ∧ serialLater 32 x.rxNext d.msn = true) ∧
    (∃ (s : State) (d : Datagram) (a : Arrival) (x : Session) (u : State), u = bump 0xA00018 1 (charge d.mailbox 0 (frameBits (!(mappedV4 a.peer.addr)) (decide (rdF s (portCfg a.peer.port) 43 32 ≠ 0)) a.udpLength) s) ∧ x = sessionOf u (sessionKey d.mailbox (d.flags % 16)) ∧ d.tag = Config.gcmTag x.key (obushNonce x.salt (if flagAck d.flags then 2 else 0) (d.flags % 16) d.mailbox (if flagAck d.flags then d.correlation else d.msn)) (headerBytes d) d.payload ∧ asleep s = false ∧ obHeaderBad d a u = false ∧ flagAck d.flags = false ∧ d.msn ≠ x.rxNext ∧ serialLater 32 x.rxNext d.msn = false) :=
  ⟨⟨holding [(0xC00000, 0x6000000000000000#64)], by decide +kernel⟩,
    ⟨State.reset, gram, came, counted gram State.reset, rfl, by decide +kernel⟩,
    ⟨listening, { signed 0 0 with tag := (signed 0 0).tag ++ [0#8] }, came, _, _, rfl, rfl, longer _, by decide +kernel⟩,
    ⟨listening, signed 16 0, came, _, _, rfl, rfl, rfl, by decide +kernel⟩,
    ⟨listening, signed 0 0, came, _, _, rfl, rfl, rfl, by decide +kernel⟩,
    ⟨listening, signed 0 0xFFFFFFFF, came, _, _, rfl, rfl, rfl, by decide +kernel⟩,
    ⟨listening, signed 0 1, came, _, _, rfl, rfl, rfl, by decide +kernel⟩⟩

/-- States and operands that meet the hypotheses of TransportEvents, one for each of its clauses. -/
theorem test_hypotheses_of_TransportEvents :
    (∃ (s : State) (m : _) (k : _) (u : State) (x : Session), u = runTo ((sessionOf s (sessionKey m k)).timer + rdF s 0xA00010 23 0) s ∧ x = sessionOf u (sessionKey m k) ∧ (sessionOf s (sessionKey m k)).live = true ∧ (sessionOf s (sessionKey m k)).unacked ≠ [] ∧ x.expiries + 1 < rdF u 0xA00010 55 48) ∧
    (∃ (s : State) (m : _) (k : _) (u : State) (x : Session), u = runTo ((sessionOf s (sessionKey m k)).timer + rdF s 0xA00010 23 0) s ∧ x = sessionOf u (sessionKey m k) ∧ (sessionOf s (sessionKey m k)).live = true ∧ (sessionOf s (sessionKey m k)).unacked ≠ [] ∧ rdF u 0xA00010 55 48 ≤ x.expiries + 1) ∧
    (∃ (s : State) (m : _) (value : Word), m < 66 ∧ getBit value 62 = true ∧ slotKind s m (getBits value 23 16) = .control) ∧
    (∃ (m : _) (value : Word), m < 66 ∧ getBit value 62 = false) ∧
    (∃ (s : State) (back : Bool) (port : _), port < 4 ∧ rdB s (portCfg ((if back then 4 else 0) + port)) 63 = true) :=
  ⟨⟨{ State.reset with sessions := [(1024, { Session.none with live := true, unacked := [gram] })] }, 64, 0, _, _, rfl, rfl, by decide +kernel⟩,
    ⟨{ State.reset with sessions := [(1024, { Session.none with live := true, unacked := [gram], expiries := 1000 })] }, 64, 0, _, _, rfl, rfl, by decide +kernel⟩,
    ⟨{ State.reset with slotKinds := [(256 * 65 + 255, .control)] }, 65, 0x4000000000FF0000#64, by decide +kernel⟩,
    ⟨65, 0#64, by decide +kernel⟩,
    ⟨holding [(portCfg 7, 0x8000000000000000#64)], true, 3, by decide +kernel⟩⟩

/-- States and operands that meet the hypotheses of PowerEvents, one for each of its clauses. -/
theorem test_hypotheses_of_PowerEvents :
    (∃ (s : State), thState s = 1) ∧
    (∃ (s : State) (f : MacFrame), asleep s = true ∧ acting s 4 = [] ∧ f.etherType = 0x88B5 ∧ (f.dest = s.fuse.macBase ∨ f.dest = 2 ^ 48 - 1) ∧ 48 ≤ f.data.length ∧ leAt f.data 0 4 = 0x454B4157 ∧ leAt f.data 4 8 = s.fuse.deviceId.toNat ∧ (rd s 0xC00018).toNat < leAt f.data 12 8 ∧ ((∃ key, s.thimble.wakeKey = some key ∧ leAt f.data 20 1 = 1 ∧ slice f.data 32 16 = kdf "TUITH-WAKE" (key ++ slice f.data 0 32) 16) ∨ s.thimble.wakeKey = none ∧ leAt f.data 20 1 = 0)) ∧
    (∃ (s : State) (f : MacFrame), asleep s = true ∧ acting s 4 = [] ∧ (f.etherType ≠ 0x88B5 ∨ leAt f.data 4 8 ≠ s.fuse.deviceId.toNat ∨ leAt f.data 12 8 ≤ (rd s 0xC00018).toNat ∨ leAt f.data 20 1 = 0 ∧ s.thimble.wakeKey ≠ none ∨ leAt f.data 20 1 ≠ 0 ∧ s.thimble.wakeKey = none)) ∧
    (∃ (s : State), thState s = 1 ∧ s.steps.all (fun t => decide (t.phase = .stageDone)) = true) ∧
    (∃ (s : State), s.pins.resetLow = false ∧ s.pins.clockLost = false) ∧
    (∃ (s : State) (die : _), s.pins.resetLow = false ∧ die < 6) ∧
    (∃ (s : State) (watts : _), Canonical s ∧ rdB s 0x800018 63 = false ∧ (1400 < watts ∨ rdF s 0x800000 10 0 < watts ∧ 4999 ≤ s.power.above)) ∧
    (∃ (s : State) (watts : _), watts ≤ 1400 ∧ watts ≤ rdF s 0x800000 10 0) ∧
    (∃ (s : State), Canonical s) ∧
    (∃ (s : State), s.power.droop = true) ∧
    (∃ (s : State) (value : Word), Canonical s ∧ s.thimble.wdogAt ≠ none ∧ getBit value 63 = true) :=
  ⟨⟨holding [(0xC00000, 0x2000000000000000#64)], by decide +kernel⟩,
    ⟨holding [(0xC00000, 0x6000000000000000#64)], macFrame0, by decide +kernel⟩,
    ⟨holding [(0xC00000, 0x6000000000000000#64)], { macFrame0 with etherType := 0x800 }, by decide +kernel⟩,
    ⟨holding [(0xC00000, 0x2000000000000000#64)], by decide +kernel⟩,
    ⟨awakeUp, by decide +kernel⟩,
    ⟨awakeUp, 5, by decide +kernel⟩,
    ⟨State.reset, 1401, canonical_of (by decide +kernel), by decide +kernel⟩,
    ⟨State.reset, 0, by decide +kernel⟩,
    ⟨State.reset, canonical_of (by decide +kernel)⟩,
    ⟨{ State.reset with power := { Power.none with droop := true } }, by decide +kernel⟩,
    ⟨{ State.reset with thimble := { Thimble.none with wdogAt := some 0 } }, 0x8000000000000000#64, canonical_of (by decide +kernel), by decide +kernel⟩⟩

/-- States and operands that meet the hypotheses of SamplesAreFiltered, one for each of its clauses. -/
theorem test_hypotheses_of_SamplesAreFiltered :
    (∃ (s : State) (c : Nat) (x : Int), Canonical s ∧ c < 15 ∧ -32768 ≤ x ∧ x ≤ 32767 ∧ s.thimble.primed.contains c = true) ∧
    (∃ (s : State) (c : Nat) (x : Int), Canonical s ∧ c < 15 ∧ -32768 ≤ x ∧ x ≤ 32767 ∧ s.thimble.primed.contains c = false) :=
  ⟨⟨{ State.reset with thimble := { Thimble.none with primed := [14] } }, 14, -32768, canonical_of (by decide +kernel), by decide +kernel⟩,
    ⟨State.reset, 14, 32767, canonical_of (by decide +kernel), by decide +kernel⟩⟩

/-- States and operands that meet the hypotheses of MonitorEvents, one for each of its clauses. -/
theorem test_hypotheses_of_MonitorEvents :
    (∃ (s : State) (m : _) (event : _) (v : _), m < 32 ∧ rdB s (monCfg m) 63 = true ∧ sourceValue s m event = some v ∧ rdB s (monCfg m) 0 = false) ∧
    (∃ (s : State) (m : _) (event : _) (v : _), m < 32 ∧ rdB s (monCfg m) 63 = true ∧ sourceValue s m event = some v ∧ rdB s (monCfg m) 0 = true ∧ (monOf s m).prev = none) ∧
    (∃ (s : State) (m : _) (event : _) (v : _) (p : _), m < 32 ∧ rdB s (monCfg m) 63 = true ∧ sourceValue s m event = some v ∧ rdB s (monCfg m) 0 = true ∧ (monOf s m).prev = some p) ∧
    (∃ (s : State) (m : _), Canonical s ∧ m < 32) ∧
    (∃ (s : State) (m : _) (event : _) (v : _), Canonical s ∧ v = toSigned 64 event ∧ m < 32 ∧ rdB s (monCfg m) 63 = true ∧ (rdF s (monCfg m) 55 48 = 2 ∨ rdF s (monCfg m) 55 48 = 3 ∨ rdF s (monCfg m) 55 48 = 7) ∧ rdB s (monCfg m) 0 = false) ∧
    (∃ (s : State) (u : State) (model : _) (t : Nat), u = runTo t s ∧ (modelOf s model).pause = some t ∧ pauseOn (modelOf u model) = true ∧ (modelOf u model).lift = true) ∧
    (∃ (s : State) (u : State) (model : _) (t : Nat), u = runTo t s ∧ (modelOf s model).pause = some t ∧ pauseOn (modelOf u model) = true ∧ (modelOf u model).lift = false) :=
  ⟨⟨holding [(monCfg 31, 0x8002000000000000#64)], 31, 5, 5, by decide +kernel⟩,
    ⟨holding [(monCfg 31, 0x8002000000000001#64)], 31, 5, 5, by decide +kernel⟩,
    ⟨{ holding [(monCfg 31, 0x8002000000000001#64)] with monitors := [(31, ⟨some 3, 0, 0, 0⟩)] }, 31, 5, 5, 3, by decide +kernel⟩,
    ⟨State.reset, 31, canonical_of (by decide +kernel), by decide +kernel⟩,
    ⟨holding [(monCfg 31, 0x8002000000000000#64)], 31, 2 ^ 64 - 5, -5, canonical_of (by decide +kernel), rfl, by decide +kernel⟩,
    ⟨{ State.reset with models := [(0, { resident with quarantined := true, pause := some 9, lift := true })] }, runTo 9 { State.reset with models := [(0, { resident with quarantined := true, pause := some 9, lift := true })] }, 0, 9, rfl, by decide +kernel⟩,
    ⟨{ State.reset with models := [(0, { resident with quarantined := true, pause := some 9 })] }, runTo 9 { State.reset with models := [(0, { resident with quarantined := true, pause := some 9 })] }, 0, 9, rfl, by decide +kernel⟩⟩

/-- States and operands that meet the hypotheses of KralynMessages, one for each of its clauses. -/
theorem test_hypotheses_of_KralynMessages :
    (∃ (s : State) (k : KrMsg) (u : State), u = bump 0xB00020 1 s ∧ k.tag = setupTag (partitionKey u (leAt k.payload 8 8)) (krHeaderOf 1 k) k.payload ∧ krArrives s k = true ∧ isMember u = true ∧ leAt k.payload 8 8 = u.fabric.id ∧ u.fabric.members.contains (leAt k.payload 0 8) = true ∧ max 1 (ownLevel u - 1) ≤ leAt k.payload 17 1 ∧ leAt k.payload 16 1 ≤ ownLevel u ∧ connOfPeer u (leAt k.payload 0 8) = none) ∧
    (∃ (s : State) (k : KrMsg) (u : State), u = bump 0xB00020 1 s ∧ k.tag ≠ setupTag (partitionKey u (leAt k.payload 8 8)) (krHeaderOf 1 k) k.payload ∧ krArrives s k = true) ∧
    (∃ (s : State) (k : KrMsg) (u : State) (i : _), u = bump 0xB00020 1 s ∧ k.tag = setupTag (partitionKey u (leAt k.payload 8 8)) (krHeaderOf 2 k) k.payload ∧ krArrives s k = true ∧ krLookup u k.conn = some i ∧ (connOf u i).phase = .connecting ∧ (connOf u i).peer = leAt k.payload 0 8 ∧ (connOf u i).part = leAt k.payload 8 8) ∧
    (∃ (s : State) (k : KrMsg) (u : State) (i : _), u = bump 0xB00020 1 s ∧ k.tag = setupTag (partitionKey u (connOf u i).part) (krHeaderOf 3 k) k.payload ∧ krArrives s k = true ∧ connOfPeer u (leAt k.payload 4 8) = some i ∧ (connOf u i).phase = .connecting ∧ leAt k.payload 0 2 ≠ 0x0301 ∧ krLookup u k.conn = some i) ∧
    (∃ (s : State) (k : KrMsg) (u : State) (i : _) (v : State) (t : State), krArrives s k = true ∧ u = bump 0xB00020 1 s ∧ krLookup u k.conn = some i ∧ (connOf u i).phase ≠ .connecting ∧ k.csn = (connOf u i).rxNext % 2 ^ 32 ∧ k.tag = Config.gcmTag (connOf u i).key (krNonce (connOf u i).salt (if (connOf u i).initiator then 1 else 0) k.csn) (krHeaderOf 4 k) k.payload ∧ intoChannel { k with src := (connOf u i).peer } .clean u = some v ∧ t = firmwareTakes { k with src := (connOf u i).peer } v) ∧
    (∃ (s : State) (k : KrMsg) (e : SramError) (u : State) (i : _), u = bump 0xB00020 1 s ∧ k.tag = Config.gcmTag (connOf u i).key (krNonce (connOf u i).salt (if (connOf u i).initiator then 1 else 0) k.csn) (krHeaderOf 4 k) k.payload ∧ intoChannel { k with src := (connOf u i).peer } e u = none ∧ krArrives s k = true ∧ krLookup u k.conn = some i ∧ (connOf u i).phase ≠ .connecting ∧ k.csn = (connOf u i).rxNext % 2 ^ 32) ∧
    (∃ (s : State) (k : KrMsg) (u : State) (i : _) (t : State), u = bump 0xB00020 1 s ∧ k.tag = Config.gcmTag (connOf u i).key (krNonce (connOf u i).salt (if (connOf u i).initiator then 1 else 0) k.csn) (krHeaderOf 7 k) k.payload ∧ t = takeCap (connOf u i).peer k.payload u ∧ krArrives s k = true ∧ krLookup u k.conn = some i ∧ (connOf u i).phase ≠ .connecting ∧ k.csn = (connOf u i).rxNext % 2 ^ 32) ∧
    (∃ (s : State) (k : KrMsg) (u : State) (i : _), u = bump 0xB00020 1 s ∧ k.tag = Config.gcmTag (connOf u i).key (krNonce (connOf u i).salt (if (connOf u i).initiator then 3 else 2) k.aux) (krHeaderOf 5 k) k.payload ∧ krArrives s k = true ∧ krLookup u k.conn = some i ∧ (connOf u i).phase ≠ .connecting ∧ (connOf u i).ackSeen = none) ∧
    (∃ (s : State) (k : KrMsg) (u : State) (i : _), u = bump 0xB00020 1 s ∧ k.tag = Config.gcmTag (connOf u i).key (krNonce (connOf u i).salt (if (connOf u i).initiator then 1 else 0) k.csn) (krHeaderOf 6 k) k.payload ∧ krArrives s k = true ∧ krLookup u k.conn = some i ∧ (connOf u i).phase ≠ .connecting ∧ k.csn = (connOf u i).rxNext % 2 ^ 32) ∧
    (∃ (s : State) (ring : _), ring < 8 ∧ krOn s = true ∧ asleep s = false ∧ txQueued s ring ≠ []) ∧
    (∃ (s : State) (i : _) (u : State), u = runTo ((connOf s i).timer + (connOf s i).rto) s ∧ (connOf s i).phase ≠ .free ∧ (connOf s i).unacked ≠ []) :=
  ⟨⟨{ linked Conn.none with conns := [] }, setupSigned 1 ({ linked Conn.none with conns := [] }) (aMessage setup), bump 0xB00020 1 ({ linked Conn.none with conns := [] }), rfl, rfl, by decide +kernel⟩,
    ⟨{ linked Conn.none with conns := [] }, { setupSigned 1 ({ linked Conn.none with conns := [] }) (aMessage setup) with tag := (setupSigned 1 ({ linked Conn.none with conns := [] }) (aMessage setup)).tag ++ [0#8] }, bump 0xB00020 1 ({ linked Conn.none with conns := [] }), rfl, longer _, by decide +kernel⟩,
    ⟨linked { aConn with phase := .connecting, part := 7 }, setupSigned 2 (linked { aConn with phase := .connecting, part := 7 }) (aMessage setup), bump 0xB00020 1 (linked { aConn with phase := .connecting, part := 7 }), 0, rfl, rfl, by decide +kernel⟩,
    ⟨linked { aConn with phase := .connecting, part := 7 }, { aMessage (leBytes 4 0x0207 ++ leBytes 8 2) with tag := setupTag (partitionKey (bump 0xB00020 1 (linked { aConn with phase := .connecting, part := 7 })) (connOf (bump 0xB00020 1 (linked { aConn with phase := .connecting, part := 7 })) 0).part) (krHeaderOf 3 (aMessage (leBytes 4 0x0207 ++ leBytes 8 2))) (aMessage (leBytes 4 0x0207 ++ leBytes 8 2)).payload }, bump 0xB00020 1 (linked { aConn with phase := .connecting, part := 7 }), 0, rfl, rfl, by decide +kernel⟩,
    by
  obtain ⟨v, hv⟩ := Option.isSome_iff_exists.mp (show (intoChannel { { aMessage [] with tag := Config.gcmTag (connOf (bump 0xB00020 1 (linked aConn)) 0).key (krNonce (connOf (bump 0xB00020 1 (linked aConn)) 0).salt (if (connOf (bump 0xB00020 1 (linked aConn)) 0).initiator then 1 else 0) (aMessage []).csn) (krHeaderOf 4 (aMessage [])) (aMessage []).payload } with src := (connOf (bump 0xB00020 1 (linked aConn)) 0).peer } .clean (bump 0xB00020 1 (linked aConn))).isSome = true by decide +kernel)
  exact ⟨linked aConn, { aMessage [] with tag := Config.gcmTag (connOf (bump 0xB00020 1 (linked aConn)) 0).key (krNonce (connOf (bump 0xB00020 1 (linked aConn)) 0).salt (if (connOf (bump 0xB00020 1 (linked aConn)) 0).initiator then 1 else 0) (aMessage []).csn) (krHeaderOf 4 (aMessage [])) (aMessage []).payload }, (bump 0xB00020 1 (linked aConn)), 0, v, _, by decide +kernel, rfl, by decide +kernel, by decide +kernel, by decide +kernel, rfl, hv, rfl⟩,
    ⟨linked aConn, sealedOn 4 0 1 0 (linked aConn) { aMessage [] with channel := 64 }, .clean, bump 0xB00020 1 (linked aConn), 0, rfl, rfl, rfl, by decide +kernel⟩,
    ⟨linked aConn, sealedOn 7 0 1 0 (linked aConn) (aMessage []), bump 0xB00020 1 (linked aConn), 0, takeCap (connOf (bump 0xB00020 1 (linked aConn)) 0).peer [] (bump 0xB00020 1 (linked aConn)), rfl, rfl, rfl, by decide +kernel⟩,
    ⟨linked aConn, sealedOn 5 2 3 0 (linked aConn) (aMessage []), bump 0xB00020 1 (linked aConn), 0, rfl, rfl, by decide +kernel⟩,
    ⟨linked aConn, sealedOn 6 0 1 0 (linked aConn) (aMessage []), bump 0xB00020 1 (linked aConn), 0, rfl, rfl, by decide +kernel⟩,
    ⟨holding [(0xB00000, 0x8000000000000000#64), (txCtrl 7, 0x8000000000000000#64), (txCtrl 7 + 8, 1#64)], 7, by decide +kernel⟩,
    ⟨linked { aConn with unacked := [⟨4, 0, [], [], [], none⟩] }, 0, _, rfl, by decide +kernel⟩⟩

/-- States and operands that meet the hypotheses of KralynRegisters, one for each of its clauses. -/
theorem test_hypotheses_of_KralynRegisters :
    (∃ (s : State) (ring : _), Canonical s ∧ ring < 8) ∧
    (∃ (s : State) (channel : _), Canonical s ∧ channel < 64) ∧
    (∃ (s : State) (ring : _) (value : Word), Canonical s ∧ ring < 8 ∧ rdB s (txCtrl ring) 63 = false ∧ getBit value 63 = true ∧ ringPlaced s (getBits value 47 5 * 32) (32 * 2 ^ (getBits value 50 48 + 1)) = true ∧ ringPlaced s (rdF s (txCtrl ring + 0x10) 47 4 * 16) (16 * 2 ^ (getBits value 50 48 + 1)) = true) ∧
    (∃ (s : State) (channel : _) (value : Word), Canonical s ∧ channel < 64 ∧ rdB s (rxCtrl channel) 63 = false ∧ getBit value 63 = true ∧ ringPlaced s (getBits value 47 10 * 1024) (9216 * 2 ^ (getBits value 50 48 + 1)) = true) ∧
    (∃ (s : State) (ring : _) (value : Word), Canonical s ∧ ring < 8 ∧ getBit value 63 = false) ∧
    (∃ (s : State) (channel : _) (value : Word), Canonical s ∧ channel < 64 ∧ getBit value 63 = false) :=
  ⟨⟨State.reset, 7, canonical_of (by decide +kernel), by decide +kernel⟩,
    ⟨State.reset, 63, canonical_of (by decide +kernel), by decide +kernel⟩,
    ⟨State.reset, 7, 0x8000000000000000#64, canonical_of (by decide +kernel), by decide +kernel⟩,
    ⟨State.reset, 63, 0x8000000000000000#64, canonical_of (by decide +kernel), by decide +kernel⟩,
    ⟨State.reset, 7, 0#64, canonical_of (by decide +kernel), by decide +kernel⟩,
    ⟨State.reset, 63, 0#64, canonical_of (by decide +kernel), by decide +kernel⟩⟩

/-- States and operands that meet the hypotheses of TimeExchanges, one for each of its clauses. -/
theorem test_hypotheses_of_TimeExchanges :
    (∃ (s : State) (k : _), isMember s = true ∧ isKeeper s = true ∧ nextBack s 0 = some k) ∧
    (∃ (s : State) (k : _), nextBack s 0 = some k) ∧
    (∃ (s : State), nextBack s 0 = none) ∧
    (∃ (s : State) (x : Exchange), isMember s = true ∧ isPrimary s = false ∧ x.icvOk = true) ∧
    (∃ (s : State) (m : _), isMember s = true ∧ isKeeper s = true ∧ s.fabric.members.contains m = true) ∧
    (∃ (s : State) (x : Exchange), isMember s = true ∧ isPrimary s = false ∧ (x.icvOk = false ∨ x.syncId ≠ x.followId ∨ x.reqId ≠ x.respId ∨ exchangeDelay x < 0 ∨ wideLimit < exchangeDelay x)) ∧
    (∃ (s : State) (x : Exchange), isMember s = true ∧ isPrimary s = false ∧ x.icvOk = true ∧ x.syncId = x.followId ∧ x.reqId = x.respId ∧ 0 ≤ exchangeDelay x ∧ exchangeDelay x ≤ wideLimit ∧ x.standby = onStandby s ∧ isKeeper s = false) ∧
    (∃ (s : State) (x : Exchange), isMember s = true ∧ isPrimary s = false ∧ x.icvOk = true ∧ x.syncId = x.followId ∧ x.reqId = x.respId ∧ 0 ≤ exchangeDelay x ∧ exchangeDelay x ≤ wideLimit ∧ x.standby = false ∧ onStandby s = true) ∧
    (∃ (s : State), s.fabric.stepping = true) ∧
    (∃ (s : State) (u : _), u = runTo (s.fabric.seenAt + switchNs s) s ∧ isMember s = true ∧ isPrimary s = false ∧ (isStandby s && isKeeper s) = false ∧ onStandby s = false ∧ s.fabric.standby.isSome = true) :=
  ⟨⟨{ member [1, 2] with regs := [(0x200010, 0x0800000000000000#64), (0xB00010, 0x8000000000000000#64), (0xB02008, 1#64)] }, 0, by decide +kernel⟩,
    ⟨linked Conn.none, 0, by decide +kernel⟩,
    ⟨State.reset, by decide +kernel⟩,
    ⟨member [2, 1], exchange, by decide +kernel⟩,
    ⟨{ member [1, 2] with regs := [(0x200010, 0x0800000000000000#64), (0xB00010, 0x8000000000000000#64)] }, 2, by decide +kernel⟩,
    ⟨member [2, 1], { exchange with icvOk := false }, by decide +kernel⟩,
    ⟨member [2, 3, 1], exchange, by decide +kernel⟩,
    ⟨{ member [2, 3, 1] with regs := [(0x200010, 0x1000000000000000#64), (0xB00010, 0x8000000000000000#64)] }, exchange, by decide +kernel⟩,
    ⟨{ State.reset with fabric := { Fabric.none with stepping := true } }, by decide +kernel⟩,
    ⟨{ member [2, 1] with fabric := { Fabric.none with id := 7, members := [2, 1], standby := some 1 } }, runTo (switchNs (member [2, 1])) { member [2, 1] with fabric := { Fabric.none with id := 7, members := [2, 1], standby := some 1 } }, rfl, by decide +kernel⟩⟩

/-- States and operands that meet the hypotheses of RegisterCommands, one for each of its clauses. -/
theorem test_hypotheses_of_RegisterCommands :
    (∃ (s : State), Canonical s) ∧
    (∃ (s : State) (n : _), Canonical s ∧ n < 64) ∧
    (∃ (s : State) (a : _), Canonical s ∧ regionRegs.contains a = true) ∧
    (∃ (s : State) (c : _) (value : Word) (g : CtrGroup) (i : _), Canonical s ∧ groupOfCtrl c = some (g, i) ∧ getBit value 63 = true) :=
  ⟨⟨State.reset, canonical_of (by decide +kernel)⟩,
    ⟨State.reset, 63, canonical_of (by decide +kernel), by decide +kernel⟩,
    ⟨State.reset, 0x30000, canonical_of (by decide +kernel), by decide +kernel⟩,
    ⟨State.reset, 0x100048, 0x8000000000000000#64, ⟨0x100030, 3, 0x100048, 1, 1, none⟩, 0, canonical_of (by decide +kernel), by decide +kernel⟩⟩

/-- States and operands that meet the hypotheses of RequestGates, one for each of its clauses. -/
theorem test_hypotheses_of_RequestGates :
    (∃ (c : CmdSpec) (s : State), heard c s = false) ∧
    (∃ (r : Req) (s : State), inTurn r s = false) ∧
    (∃ (c : CmdSpec) (r : Req) (s : State), heard c s = true ∧ inTurn r s = true ∧ c.roles.contains (roleOf r.mailbox) = false) ∧
    (∃ (c : CmdSpec) (r : Req) (s : State), heard c s = true ∧ inTurn r s = true ∧ c.roles.contains (roleOf r.mailbox) = true ∧ roleOf r.mailbox = 2 ∧ (sessionOf s (sessionKey r.mailbox r.session)).cred = false) ∧
    (∃ (c : CmdSpec) (r : Req) (s : State), heard c s = true ∧ inTurn r s = true ∧ c.roles.contains (roleOf r.mailbox) = true ∧ roleOf r.mailbox = 0 ∧ (tenantOf s r.mailbox).resetting ≠ []) ∧
    (∃ (c : CmdSpec) (len : Bool) (r : Req) (s : State), len = false ∧ heard c s = true ∧ inTurn r s = true ∧ c.roles.contains (roleOf r.mailbox) = true ∧ (roleOf r.mailbox = 2 → (sessionOf s (sessionKey r.mailbox r.session)).cred = true) ∧ (roleOf r.mailbox = 0 → (tenantOf s r.mailbox).resetting = [])) ∧
    (∃ (c : CmdSpec) (len : Bool) (r : Req) (s : State), len = true ∧ heard c s = true ∧ inTurn r s = true ∧ c.roles.contains (roleOf r.mailbox) = true ∧ (roleOf r.mailbox = 2 → (sessionOf s (sessionKey r.mailbox r.session)).cred = true) ∧ (roleOf r.mailbox = 0 → (tenantOf s r.mailbox).resetting = []) ∧ slotPoisoned s r = true) ∧
    (∃ (c : CmdSpec) (len : Bool) (r : Req) (s : State), len = true ∧ heard c s = true ∧ inTurn r s = true ∧ c.roles.contains (roleOf r.mailbox) = true ∧ (roleOf r.mailbox = 2 → (sessionOf s (sessionKey r.mailbox r.session)).cred = true) ∧ (roleOf r.mailbox = 0 → (tenantOf s r.mailbox).resetting = []) ∧ slotPoisoned s r = false ∧ c.stack = true ∧ rdB s 0x50008 61 = true) ∧
    (∃ (c : CmdSpec) (len : Bool) (r : Req) (s : State), len = true ∧ heard c s = true ∧ inTurn r s = true ∧ c.roles.contains (roleOf r.mailbox) = true ∧ (roleOf r.mailbox = 2 → (sessionOf s (sessionKey r.mailbox r.session)).cred = true) ∧ (roleOf r.mailbox = 0 → (tenantOf s r.mailbox).resetting = []) ∧ slotPoisoned s r = false ∧ (c.stack = true → rdB s 0x50008 61 = false) ∧ behind c r s = true) :=
  ⟨⟨⟨0x0102, [1], false⟩, State.reset, by decide +kernel⟩,
    ⟨ask 65 [], { up with slotKinds := [(256 * 64, .control), (256 * 65, .control)] }, by decide +kernel⟩,
    ⟨⟨0x0102, [1], false⟩, ask 0 [], up, by decide +kernel⟩,
    ⟨⟨0x0F04, [2], false⟩, ask 65 [], up, by decide +kernel⟩,
    ⟨⟨0x0401, [0], true⟩, ask 63 [], { up with tenants := [(63, { tenant with resetting := [⟨64, 0, 0, 0⟩] })] }, by decide +kernel⟩,
    ⟨⟨0x0102, [1], false⟩, false, ask 64 [], up, rfl, by decide +kernel⟩,
    ⟨⟨0x0102, [1], false⟩, true, ask 64 [], { holding [(8, 0x8000000000000000#64), (0xA00008, 0x8000000000000000#64)] with poison := [9216 * 256 * 64] }, rfl, by decide +kernel⟩,
    ⟨⟨0x0301, [0, 1], true⟩, true, ask 64 [], holding [(8, 0x8000000000000000#64), (0x50008, 0x2000000000000000#64)], rfl, by decide +kernel⟩,
    ⟨⟨0x0304, [0, 1], false⟩, true, ask 64 (zeros 3), { running with models := [(0, { resident with unload := [⟨64, 0, 0, 0⟩] })] }, rfl, by decide +kernel⟩⟩

/-- States and operands that meet the hypotheses of RefusedRequestChangesNothing. -/
theorem test_hypotheses_of_RefusedRequestChangesNothing : ∃ (b : State → Reply) (s : State), ((∃ st f v, b s = .refuse st f v) ∨ (∃ st f, b s = .refuseOpen st f) ∨ (∃ st o, b s = .badImage st o) ∨ ∃ at_, b s = .busy at_) :=
  ⟨(fun _ => .busy 0), up, .inr (.inr (.inr ⟨0, rfl⟩))⟩

/-- States and operands that meet the hypotheses of DeviceCommands, one for each of its clauses. -/
theorem test_hypotheses_of_DeviceCommands :
    (∃ (s : State) (r : Req), Takes ⟨0x0101, [0, 1, 2], false⟩ r s ∧ r.payload = []) ∧
    (∃ (s : State) (r : Req), Takes ⟨0x0107, [0, 1, 2], false⟩ r s ∧ r.payload = []) ∧
    (∃ (s : State) (r : Req) (u : _), Takes ⟨0x0103, [1], false⟩ r s ∧ u = (if pay r 0 1 = 0xFF then s else wrF 0x100018 55 48 (pay r 0 1) s) ∧ r.payload.length = 4 ∧ (pay r 0 1 = 0xFF ∨ pay r 0 1 ≤ 40) ∧ (pay r 2 2 = 0 ∨ 16 ≤ pay r 2 2) ∧ pay r 2 2 ≤ 4096) ∧
    (∃ (s : State) (r : Req), Takes ⟨0x0104, [1], false⟩ r s ∧ r.payload.length = 2 ∧ pay r 0 1 ≤ 7 ∧ pay r 1 1 ≤ 3 ∧ (4 ≤ pay r 0 1 → isMember s = false) ∧ rdB s (portCfg (pay r 0 1)) 63 = false) ∧
    (∃ (s : State) (r : Req), Takes ⟨0x0105, [1], false⟩ r s ∧ r.payload.length = 20 ∧ pay r 0 1 ≤ 3 ∧ pay r 1 1 < ifaces (rdF s (portCfg (pay r 0 1)) 57 56) ∧ (pay r 2 1 = 4 ∧ pay r 3 1 ≤ 32 ∨ pay r 2 1 = 6 ∧ pay r 3 1 ≤ 128)) ∧
    (∃ (s : State) (r : Req), Takes ⟨0x0106, [1, 2], false⟩ r s ∧ r.payload.length = 1 ∧ pay r 0 1 = 0) :=
  ⟨⟨up, ask 63 [], takes_of (by decide +kernel), by decide +kernel⟩,
    ⟨up, ask 63 [], takes_of (by decide +kernel), by decide +kernel⟩,
    ⟨up, ask 64 [40#8, 0#8, 0#8, 16#8], wrF 0x100018 55 48 40 up, takes_of (by decide +kernel), rfl, by decide +kernel⟩,
    ⟨up, ask 64 [7#8, 3#8], takes_of (by decide +kernel), by decide +kernel⟩,
    ⟨up, ask 64 ([3#8, 0#8, 6#8, 128#8] ++ zeros 16), takes_of (by decide +kernel), by decide +kernel⟩,
    ⟨up, ask 64 [0#8], takes_of (by decide +kernel), by decide +kernel⟩⟩

/-- States and operands that meet the hypotheses of TickPeriodCommand, one for each of its clauses. -/
theorem test_hypotheses_of_TickPeriodCommand :
    (∃ (s : State) (r : Req), Takes ⟨0x0102, [1], false⟩ r s ∧ Canonical s ∧ r.payload.length = 4 ∧ 50 ≤ pay r 0 4 ∧ pay r 0 4 ≤ 4000 ∧ isMember s = false) ∧
    (∃ (s : State) (r : Req), Takes ⟨0x0102, [1], false⟩ r s ∧ r.payload.length = 4 ∧ (pay r 0 4 < 50 ∨ 4000 < pay r 0 4)) :=
  ⟨⟨up, ask 64 (leBytes 4 4000), takes_of (by decide +kernel), canonical_of (by decide +kernel), by decide +kernel⟩,
    ⟨up, ask 64 (leBytes 4 49), takes_of (by decide +kernel), by decide +kernel⟩⟩

/-- States and operands that meet the hypotheses of TenantCommands, one for each of its clauses. -/
theorem test_hypotheses_of_TenantCommands :
    (∃ (s : State) (r : Req), Takes ⟨0x0201, [1], false⟩ r s ∧ r.payload.length = 8 ∧ pay r 0 1 ≤ 63 ∧ pay r 1 1 ≤ 15 ∧ pay r 2 2 ≠ 0 ∧ plainProfile s = false ∧ (tenantOf s (pay r 0 1)).live = false) ∧
    (∃ (s : State) (r : Req), Takes ⟨0x0202, [1], false⟩ r s ∧ r.payload.length = 1 ∧ plainProfile s = false ∧ pay r 0 1 ≤ 63 ∧ (tenantOf s (pay r 0 1)).live = true ∧ ownedModels s (pay r 0 1) = 0 ∧ openSeqs s (pay r 0 1) = 0) ∧
    (∃ (s : State) (r : Req), Takes ⟨0x0203, [1], false⟩ r s ∧ r.payload.length = 1 ∧ pay r 0 1 ≤ 63 ∧ (tenantOf s (pay r 0 1)).live = true) ∧
    (∃ (s : State) (r : Req), Takes ⟨0x0204, [1], false⟩ r s ∧ r.payload.length = 8 ∧ pay r 0 1 ≤ 63 ∧ pay r 1 1 ≤ 15 ∧ pay r 2 2 ≠ 0 ∧ (tenantOf s (pay r 0 1)).live = true) ∧
    (∃ (s : State) (r : Req), Takes ⟨0x0205, [0, 1], false⟩ r s ∧ r.payload.length = 1 ∧ pay r 0 1 ≤ 63 ∧ foreign r (pay r 0 1) = false ∧ (tenantOf s (pay r 0 1)).live = true) ∧
    (∃ (s : State) (r : Req), Takes ⟨0x0701, [1], false⟩ r s ∧ Canonical s ∧ r.payload.length = 12 ∧ pay r 0 1 ≤ 63 ∧ (tenantOf s (pay r 0 1)).live = true ∧ pay r 2 2 ≤ 256 ∧ pay r 4 4 < 2 ^ 24 ∧ pay r 8 4 < 2 ^ 31) ∧
    (∃ (s : State) (r : Req), Takes ⟨0x0702, [0, 1], false⟩ r s ∧ r.payload.length = 1 ∧ pay r 0 1 ≤ 63 ∧ foreign r (pay r 0 1) = false ∧ (tenantOf s (pay r 0 1)).live = true) ∧
    (∃ (s : State) (r : Req), Takes ⟨0x0801, [0, 1], false⟩ r s ∧ r.payload.length = 12 ∧ routeNamed r s = none ∧ pay r 1 1 ≤ 15) ∧
    (∃ (s : State) (r : Req), Takes ⟨0x0802, [0, 1], false⟩ r s ∧ r.payload.length = 1 ∧ routeNamed r s = none) :=
  ⟨⟨holding [(8, 0x8800000000000000#64)], ask 64 [63#8, 15#8, 1#8, 0#8, 0#8, 0#8, 0#8, 0#8], takes_of (by decide +kernel), by decide +kernel⟩,
    ⟨{ holding [(8, 0x8800000000000000#64)] with tenants := [(63, tenant)] }, ask 64 [63#8], takes_of (by decide +kernel), by decide +kernel⟩,
    ⟨{ up with tenants := [(63, tenant)] }, ask 64 [63#8], takes_of (by decide +kernel), by decide +kernel⟩,
    ⟨{ up with tenants := [(63, tenant)] }, ask 64 [63#8, 15#8, 1#8, 0#8, 0#8, 0#8, 0#8, 0#8], takes_of (by decide +kernel), by decide +kernel⟩,
    ⟨{ up with tenants := [(63, tenant)] }, ask 63 [63#8], takes_of (by decide +kernel), by decide +kernel⟩,
    ⟨{ up with tenants := [(63, tenant)] }, ask 64 ([63#8, 0#8, 0#8, 1#8] ++ zeros 8), takes_of (by decide +kernel), canonical_of (by decide +kernel), by decide +kernel⟩,
    ⟨{ up with tenants := [(63, tenant)] }, ask 63 [63#8], takes_of (by decide +kernel), by decide +kernel⟩,
    ⟨{ up with tenants := [(63, tenant)] }, ask 63 ([63#8, 15#8] ++ zeros 10), takes_of (by decide +kernel), by decide +kernel⟩,
    ⟨up, ask 64 [64#8], takes_of (by decide +kernel), by decide +kernel⟩⟩

/-- States and operands that meet the hypotheses of ModelCommands, one for each of its clauses. -/
theorem test_hypotheses_of_ModelCommands :
    (∃ (s : State) (r : Req) (owner : _) (i : _) (a : _) (t : _), Takes ⟨0x0301, [0, 1], true⟩ r s ∧ owner = (if roleOf r.mailbox = 0 then r.mailbox else pay r 8 1) ∧ allotBlock (pay r 0 8) s = some (a, t) ∧ r.payload.length = 16 ∧ owner ≤ 64 ∧ (owner < 64 → (tenantOf s owner).live = true) ∧ freeStageNo s = some i) ∧
    (∃ (s : State) (r : Req) (x : _), Takes ⟨0x0302, [0, 1], true⟩ r s ∧ x = stageOf s (pay r 0 2) ∧ 13 ≤ r.payload.length ∧ r.payload.length ≤ 9120 ∧ x.live = true ∧ ownsObject r x.owner = true ∧ pay r 4 8 + (r.payload.drop 12).length ≤ x.size) ∧
    (∃ (s : State) (r : Req) (ok : _) (x : _) (u : _) (m : _) (base : _) (v : _) (w : _) (d : _), Takes ⟨0x0303, [0, 1], true⟩ r s ∧ x = stageOf s (pay r 0 2) ∧ u = adoptBlock (tenantCtx s x.owner) x.base x.size s ∧ d = digest (stagedBytes u x) ∧ placeImage (pay r 4 1 % 2 == 1) x u = some (base, v) ∧ w = takeModel (pay r 0 2) m base (pay r 4 1 % 2 == 1) x d v ∧ r.payload.length = 8 ∧ x.live = true ∧ ownsObject r x.owner = true ∧ imageFault (stagedReader u x) x.size = none ∧ signatureFault u (stagedReader u x) x.size 128 ok = none ∧ (pay r 2 2 = 0xFFFF ∧ freeModelNo u = some m ∨ pay r 2 2 ≤ 2047 ∧ m = pay r 2 2 ∧ (modelOf u m).live = false) ∧ (divideModel w m).length ≤ 32) ∧
    (∃ (s : State) (r : Req), Takes ⟨0x0304, [0, 1], false⟩ r s ∧ r.payload.length = 3 ∧ modelNamed r s false = none ∧ seqsOfModel s (pay r 0 2) = []) ∧
    (∃ (s : State) (r : Req), Takes ⟨0x0304, [0, 1], false⟩ r s ∧ r.payload.length = 3 ∧ modelNamed r s false = none ∧ seqsOfModel s (pay r 0 2) ≠ [] ∧ pay r 2 1 % 2 = 1) ∧
    (∃ (s : State) (r : Req) (z : _), Takes ⟨0x0305, [0, 1], false⟩ r s ∧ z = (modelOf s (pay r 0 2)).scaleNext.getD (none, none, none) ∧ r.payload.length = 5 ∧ modelNamed r s false = none ∧ (pay r 2 1 ≤ 1 ∨ pay r 2 1 = 0xFF) ∧ (pay r 3 1 = 0 ∨ 4 ≤ pay r 3 1) ∧ pay r 3 1 ≤ 20 ∧ (pay r 4 1 = 0 ∨ 16 ≤ pay r 4 1) ∧ pay r 4 1 ≤ 32) ∧
    (∃ (s : State) (r : Req) (x : _), Takes ⟨0x0306, [0, 1], false⟩ r s ∧ x = modelOf s (pay r 0 2) ∧ r.payload.length = 2 ∧ modelNamed r s true = none) ∧
    (∃ (s : State) (r : Req) (x : _), Takes ⟨0x0307, [1], true⟩ r s ∧ x = modelOf s (pay r 0 2) ∧ r.payload.length = 4112 ∧ modelNamed r s true = none ∧ pay r 8 8 % 4096 = 0 ∧ x.base < pay r 8 8 + 4096 ∧ pay r 8 8 < x.base + x.size ∧ x.quarantined = true) ∧
    (∃ (s : State) (r : Req) (x : _), Takes ⟨0x0308, [1], false⟩ r s ∧ x = { modelOf s (pay r 0 2) with replica := pay r 8 8 } ∧ r.payload.length = 16 ∧ modelNamed r s true = none) :=
  ⟨⟨loaded, ask 64 (leBytes 8 448 ++ leBytes 8 64), 64, 0, 0x10000, keepBlock 0x10000 4096 loaded, takes_of (by decide +kernel), rfl, rfl, by decide +kernel⟩,
    ⟨{ up with stages := [(0, ⟨true, 64, 0, 1⟩)] }, ask 64 (zeros 13), ⟨true, 64, 0, 1⟩, takes_of (by decide +kernel), rfl, by decide +kernel⟩,
    ⟨{ loaded with models := [], stages := [(0, ⟨true, 64, 0, 448⟩)] }, ask 64 [0#8, 0#8, 0xFF#8, 0xFF#8, 0#8, 0#8, 0#8, 0#8], [], ⟨true, 64, 0, 448⟩, adoptBlock (tenantCtx { loaded with models := [], stages := [(0, ⟨true, 64, 0, 448⟩)] } 64) 0 448 { loaded with models := [], stages := [(0, ⟨true, 64, 0, 448⟩)] }, 0, 0, adoptBlock (tenantCtx { loaded with models := [], stages := [(0, ⟨true, 64, 0, 448⟩)] } 64) 0 448 { loaded with models := [], stages := [(0, ⟨true, 64, 0, 448⟩)] }, takeModel 0 0 0 false ⟨true, 64, 0, 448⟩ (digest (stagedBytes (adoptBlock (tenantCtx { loaded with models := [], stages := [(0, ⟨true, 64, 0, 448⟩)] } 64) 0 448 { loaded with models := [], stages := [(0, ⟨true, 64, 0, 448⟩)] }) ⟨true, 64, 0, 448⟩)) (adoptBlock (tenantCtx { loaded with models := [], stages := [(0, ⟨true, 64, 0, 448⟩)] } 64) 0 448 { loaded with models := [], stages := [(0, ⟨true, 64, 0, 448⟩)] }), digest (stagedBytes (adoptBlock (tenantCtx { loaded with models := [], stages := [(0, ⟨true, 64, 0, 448⟩)] } 64) 0 448 { loaded with models := [], stages := [(0, ⟨true, 64, 0, 448⟩)] }) ⟨true, 64, 0, 448⟩), takes_of (by decide +kernel), rfl, rfl, rfl, rfl, rfl, by decide +kernel⟩,
    ⟨loaded, ask 64 (zeros 3), takes_of (by decide +kernel), by decide +kernel⟩,
    ⟨running, ask 64 [0#8, 0#8, 1#8], takes_of (by decide +kernel), by decide +kernel⟩,
    ⟨loaded, ask 64 [0#8, 0#8, 0xFF#8, 20#8, 32#8], (none, none, none), takes_of (by decide +kernel), rfl, by decide +kernel⟩,
    ⟨loaded, ask 63 (zeros 2), resident, takes_of (by decide +kernel), rfl, by decide +kernel⟩,
    ⟨{ loaded with models := [(0, { resident with quarantined := true })] }, ask 64 (zeros 4112), { resident with quarantined := true }, takes_of (by decide +kernel), rfl, by decide +kernel⟩,
    ⟨loaded, ask 64 (zeros 16), { resident with replica := 0 }, takes_of (by decide +kernel), rfl, by decide +kernel⟩⟩

/-- States and operands that meet the hypotheses of GrammarCommands, one for each of its clauses. -/
theorem test_hypotheses_of_GrammarCommands :
    (∃ (s : State) (r : Req) (ok : _) (x : _) (u : _) (g : _) (a : _) (t : _), Takes ⟨0x0601, [0, 1], true⟩ r s ∧ x = stageOf s (pay r 0 2) ∧ u = adoptBlock (tenantCtx s x.owner) x.base x.size s ∧ allotBlock (8 * stagedReader u x 12 4 + 8 * stagedReader u x 28 4) u = some (a, t) ∧ r.payload.length = 8 ∧ x.live = true ∧ ownsObject r x.owner = true ∧ grammarFault (stagedReader u x) x.size = none ∧ signatureFault u (stagedReader u x) x.size (grammarRef (stagedReader u x) x.size) ok = none ∧ (pay r 2 1 = 0xFF ∧ freeGrammarNo u = some g ∨ pay r 2 1 ≠ 0xFF ∧ g = pay r 2 1 ∧ (grammarOf u g).live = false)) ∧
    (∃ (s : State) (r : Req) (x : _), Takes ⟨0x0602, [0, 1], false⟩ r s ∧ x = grammarOf s (pay r 0 1) ∧ r.payload.length = 1 ∧ x.live = true ∧ ownsObject r x.owner = true ∧ s.seqs.any (fun e => isOpen e.2 && decide (e.2.par.grammar = some (pay r 0 1))) = false) :=
  ⟨⟨{ up with stages := [(0, ⟨true, 64, 0, 160⟩)], mem := [(0, 32#8), (6, 40#8), (12, 1#8), (28, 1#8)], arena := (0x1000, 0x100000) }, ask 64 [0#8, 0#8, 0xFF#8, 0#8, 0#8, 0#8, 0#8, 0#8], [], ⟨true, 64, 0, 160⟩, adoptBlock (tenantCtx { up with stages := [(0, ⟨true, 64, 0, 160⟩)], mem := [(0, 32#8), (6, 40#8), (12, 1#8), (28, 1#8)], arena := (0x1000, 0x100000) } 64) 0 160 { up with stages := [(0, ⟨true, 64, 0, 160⟩)], mem := [(0, 32#8), (6, 40#8), (12, 1#8), (28, 1#8)], arena := (0x1000, 0x100000) }, 0, 0x1000, keepBlock 0x1000 4096 (adoptBlock (tenantCtx { up with stages := [(0, ⟨true, 64, 0, 160⟩)], mem := [(0, 32#8), (6, 40#8), (12, 1#8), (28, 1#8)], arena := (0x1000, 0x100000) } 64) 0 160 { up with stages := [(0, ⟨true, 64, 0, 160⟩)], mem := [(0, 32#8), (6, 40#8), (12, 1#8), (28, 1#8)], arena := (0x1000, 0x100000) }), takes_of (by decide +kernel), rfl, rfl, rfl, by decide +kernel⟩,
    ⟨{ up with grammars := [(255, ⟨true, 64, 0x1000, 16⟩)] }, ask 64 [255#8], ⟨true, 64, 0x1000, 16⟩, takes_of (by decide +kernel), rfl, by decide +kernel⟩⟩

/-- States and operands that meet the hypotheses of SequenceCommands, one for each of its clauses. -/
theorem test_hypotheses_of_SequenceCommands :
    (∃ (s : State) (r : Req) (n : _) (p : _) (img : _) (pre : _) (ring : _) (list : _) (t : _) (u : _) (x : _), Takes ⟨0x0401, [0], true⟩ r s ∧ p = openParams r ∧ img = imageOf s (modelOf s p.model) ∧ pre = (match p.prefixRec with | none => Prefix.none | some h => prefixOf s (h % 4096)) ∧ allotBlock 65536 s = some (ring, t) ∧ allotBlock (4 * imgLayers img * maxPages img) t = some (list, u) ∧ x = { Seq.none with gen := (seqOf s n).gen, state := .idle, tenant := r.mailbox, par := p, ringAddr := ring, listAddr := list, gstate := grammarStart s p.grammar, lastServed := s.edge, flushed := pre.length, committed := pre.length } ∧ openLength r = true ∧ openFault r s = none ∧ freeContext s = some n) ∧
    (∃ (s : State) (r : Req) (flags : _) (x : _) (u : _), x = seqOf s (pay r 0 2) ∧ u = ringAppend (pay r 0 2) (idsAt r.payload 8 (pay r 4 4)) s ∧ (modelOf s (seqOf s (pay r 0 2)).par.model).faulted = false ∧ slotPoisoned s r = false ∧ rdB s 0x50008 61 = false ∧ r.mailbox < 64 ∧ pay r 0 2 < 4096 ∧ x.state ≠ .free ∧ x.state ≠ .ending ∧ x.gen = pay r 2 2 ∧ x.tenant = r.mailbox ∧ fedLate r x s = false ∧ r.payload.length = 8 + 4 * pay r 4 4 ∧ 1 ≤ pay r 4 4 ∧ pay r 4 4 ≤ 2278 ∧ flagDraft flags = false ∧ firstBeyond (imgVocab (imageOf s (modelOf s x.par.model))) (idsAt r.payload 8 (pay r 4 4)) = none ∧ pay r 4 4 ≤ 16384 - x.ringCount) ∧
    (∃ (s : State) (r : Req) (flags : _) (x : _) (u : _), x = seqOf s (pay r 0 2) ∧ u = setSeq (pay r 0 2) { x with drafts := x.drafts ++ idsAt r.payload 8 (pay r 4 4) } s ∧ (modelOf s (seqOf s (pay r 0 2)).par.model).faulted = false ∧ slotPoisoned s r = false ∧ rdB s 0x50008 61 = false ∧ r.mailbox < 64 ∧ pay r 0 2 < 4096 ∧ x.state ≠ .free ∧ x.state ≠ .ending ∧ x.gen = pay r 2 2 ∧ x.tenant = r.mailbox ∧ fedLate r x s = false ∧ r.payload.length = 8 + 4 * pay r 4 4 ∧ 1 ≤ pay r 4 4 ∧ pay r 4 4 ≤ 2278 ∧ flagDraft flags = true ∧ x.par.draftSource = 1 ∧ firstBeyond (imgVocab (imageOf s (modelOf s x.par.model))) (idsAt r.payload 8 (pay r 4 4)) = none) ∧
    (∃ (s : State) (r : Req) (x : _), Takes ⟨0x0403, [0, 1], false⟩ r s ∧ x = seqOf s (pay r 0 2) ∧ r.payload.length = 4 ∧ seqFault r 0 s = none) ∧
    (∃ (s : State) (r : Req) (x : _), Takes ⟨0x0404, [0, 1], false⟩ r s ∧ x = seqOf s (pay r 0 2) ∧ r.payload.length = 4 ∧ seqFault r 0 s = none) ∧
    (∃ (s : State) (r : Req) (x : _), Takes ⟨0x0405, [0], false⟩ r s ∧ x = seqOf s (pay r 0 2) ∧ r.payload.length = 8 + 4 * pay r 6 2 ∧ seqFault r 0 s = none ∧ 1 ≤ pay r 6 2 ∧ pay r 6 2 ≤ 2278 ∧ pay r 4 2 = x.allowed.length ∧ x.allowed.length + pay r 6 2 ≤ x.par.nlist ∧ firstNotRising (imgVocab (imageOf s (modelOf s x.par.model))) x.allowed.getLast? 0 (idsAt r.payload 8 (pay r 6 2)) = none) :=
  ⟨⟨loaded, ask 0 (zeros 34 ++ [1#8] ++ zeros 5 ++ [1#8] ++ zeros 23), 0, openParams (ask 0 (zeros 34 ++ [1#8] ++ zeros 5 ++ [1#8] ++ zeros 23)), imageOf loaded resident, Prefix.none, 0x10000, 0x20000, keepBlock 0x10000 65536 loaded, keepBlock 0x20000 4096 (keepBlock 0x10000 65536 loaded), { aSeq with par := openParams (ask 0 (zeros 34 ++ [1#8] ++ zeros 5 ++ [1#8] ++ zeros 23)), ringAddr := 0x10000, listAddr := 0x20000 }, takes_of (by decide +kernel), rfl, rfl, rfl, rfl, rfl, rfl, by decide +kernel⟩,
    ⟨running, ask 0 (zeros 4 ++ leBytes 4 1 ++ leBytes 4 255), 0, aSeq, ringAppend 0 [255] running, rfl, rfl, by decide +kernel⟩,
    ⟨{ loaded with seqs := [(0, { aSeq with par := { SeqParams.none with draftSource := 1 } })] }, ask 0 (zeros 4 ++ leBytes 4 1 ++ leBytes 4 255), 64, { aSeq with par := { SeqParams.none with draftSource := 1 } }, setSeq 0 { aSeq with par := { SeqParams.none with draftSource := 1 }, drafts := [255] } { loaded with seqs := [(0, { aSeq with par := { SeqParams.none with draftSource := 1 } })] }, rfl, rfl, by decide +kernel⟩,
    ⟨running, ask 64 (zeros 4), aSeq, takes_of (by decide +kernel), rfl, by decide +kernel⟩,
    ⟨running, ask 64 (zeros 4), aSeq, takes_of (by decide +kernel), rfl, by decide +kernel⟩,
    ⟨{ loaded with seqs := [(0, { aSeq with par := { SeqParams.none with nlist := 1 } })] }, ask 0 (zeros 6 ++ [1#8, 0#8] ++ leBytes 4 255), { aSeq with par := { SeqParams.none with nlist := 1 } }, takes_of (by decide +kernel), rfl, by decide +kernel⟩⟩

/-- States and operands that meet the hypotheses of PrefixCommands, one for each of its clauses. -/
theorem test_hypotheses_of_PrefixCommands :
    (∃ (s : State) (r : Req) (x : _), Takes ⟨0x0501, [0], true⟩ r s ∧ x = seqOf s (pay r 0 2) ∧ r.payload.length = 8 ∧ seqFault r 0 s = none ∧ x.state ≠ .ending ∧ x.cancelPending = false ∧ 1 ≤ pay r 4 4 ∧ pay r 4 4 ≤ x.committed ∧ (s.prefixes.filter (fun e => e.2.live)).length < 4096) ∧
    (∃ (s : State) (r : Req), Takes ⟨0x0502, [0, 1], true⟩ r s ∧ r.payload.length = 8 ∧ handleFault r 0 (pay r 0 8) s = none) ∧
    (∃ (s : State) (r : Req) (x : _), Takes ⟨0x0503, [0, 1], false⟩ r s ∧ x = prefixOf s (pay r 0 8 % 4096) ∧ r.payload.length = 8 ∧ handleFault r 0 (pay r 0 8) s = none) :=
  ⟨⟨{ loaded with seqs := [(0, { aSeq with committed := 1 })] }, ask 0 (zeros 4 ++ leBytes 4 1), { aSeq with committed := 1 }, takes_of (by decide +kernel), rfl, by decide +kernel⟩,
    ⟨{ up with prefixes := [(4095, { Prefix.none with live := true })] }, ask 0 (leBytes 8 4095), takes_of (by decide +kernel), by decide +kernel⟩,
    ⟨{ up with prefixes := [(4095, { Prefix.none with live := true })] }, ask 64 (leBytes 8 4095), { Prefix.none with live := true }, takes_of (by decide +kernel), rfl, by decide +kernel⟩⟩

/-- States and operands that meet the hypotheses of PowerCommands, one for each of its clauses. -/
theorem test_hypotheses_of_PowerCommands :
    (∃ (s : State) (r : Req), Takes ⟨0x0904, [1], false⟩ r s ∧ r.payload = []) ∧
    (∃ (s : State) (r : Req), Takes ⟨0x0901, [1], false⟩ r s ∧ r.payload.length = 8 ∧ 600 ≤ pay r 0 2 ∧ pay r 0 2 ≤ 1100 ∧ 10 ≤ pay r 4 4 ∧ pay r 4 4 ≤ 60000) ∧
    (∃ (s : State) (r : Req), Takes ⟨0x0902, [1], false⟩ r s ∧ r.payload.length = 1 ∧ pay r 0 1 % 2 = 1) ∧
    (∃ (s : State) (r : Req), Takes ⟨0x0902, [1], false⟩ r s ∧ r.payload.length = 1 ∧ pay r 0 1 % 2 = 0 ∧ rdB s 0xB00010 62 = false) ∧
    (∃ (s : State) (r : Req), Takes ⟨0x0902, [1], false⟩ r s ∧ r.payload.length = 1 ∧ pay r 0 1 % 2 = 0 ∧ rdB s 0xB00010 62 = true) ∧
    (∃ (s : State) (r : Req), Takes ⟨0x0903, [1], false⟩ r s ∧ Canonical s ∧ r.payload.length = 1 ∧ isMember s = false ∧ inPause s = false ∧ pay r 0 1 = 1 ∧ rdB s 0x800028 63 = true) ∧
    (∃ (s : State) (r : Req), Takes ⟨0x0903, [1], false⟩ r s ∧ Canonical s ∧ r.payload.length = 1 ∧ isMember s = false ∧ inPause s = false ∧ pay r 0 1 = 2 ∧ s.models.any (fun e => e.2.live) = false ∧ s.seqs.any (fun e => isOpen e.2) = false) ∧
    (∃ (s : State) (r : Req), Takes ⟨0x0905, [0, 1], false⟩ r s ∧ r.payload.length = 1 ∧ foreign r (pay r 0 1) = false ∧ pay r 0 1 ≤ 63 ∧ (tenantOf s (pay r 0 1)).live = true) :=
  ⟨⟨up, ask 64 [], takes_of (by decide +kernel), by decide +kernel⟩,
    ⟨up, ask 64 (leBytes 2 1100 ++ zeros 2 ++ leBytes 4 60000), takes_of (by decide +kernel), by decide +kernel⟩,
    ⟨up, ask 64 [1#8], takes_of (by decide +kernel), by decide +kernel⟩,
    ⟨up, ask 64 [0#8], takes_of (by decide +kernel), by decide +kernel⟩,
    ⟨{ up with regs := [(8, 0x8000000000000000#64), (0xB00010, 0x4000000000000000#64)] }, ask 64 [0#8], takes_of (by decide +kernel), by decide +kernel⟩,
    ⟨holding [(8, 0x8000000000000000#64), (0x800028, 0x8000000000000000#64)], ask 64 [1#8], takes_of (by decide +kernel), canonical_of (by decide +kernel), by decide +kernel⟩,
    ⟨up, ask 64 [2#8], takes_of (by decide +kernel), canonical_of (by decide +kernel), by decide +kernel⟩,
    ⟨{ up with tenants := [(63, tenant)] }, ask 63 [63#8], takes_of (by decide +kernel), by decide +kernel⟩⟩

/-- States and operands that meet the hypotheses of MemoryAndFabricCommands, one for each of its clauses. -/
theorem test_hypotheses_of_MemoryAndFabricCommands :
    (∃ (s : State) (r : Req), Takes ⟨0x0A01, [1], false⟩ r s ∧ r.payload.length = 1 ∧ pay r 0 1 ≤ 15 ∧ usedBeyond s (scratchBase + scratchSize (pay r 0 1)) = false) ∧
    (∃ (s : State) (r : Req), Takes ⟨0x0A02, [1], false⟩ r s ∧ r.payload.length = 2 ∧ 16 ≤ pay r 0 2 ∧ pay r 0 2 ≤ 256 ∧ s.seqs.any (fun e => !e.2.segs.isEmpty) = false ∧ (rdB s 0x40020 63 = true → inScratch s (rdF s 0x40020 47 20 * 2 ^ 20) (pay r 0 2 * 2 ^ 20) = true ∧ ((scratchUsed s).filter (fun b => decide (b.1 ≠ rdF s 0x40020 47 20 * 2 ^ 20))).any (fun b => overlaps (rdF s 0x40020 47 20 * 2 ^ 20, pay r 0 2 * 2 ^ 20) b) = false)) ∧
    (∃ (s : State) (r : Req) (c : _), Takes ⟨0x0A03, [1], false⟩ r s ∧ c = pay r 0 2 ∧ r.payload.length = 8 ∧ c ≤ 383 ∧ pay r 2 1 ≤ 79 ∧ pay r 3 1 ≤ 1 ∧ offsetByte (pay r 4 1) = true ∧ offsetByte (pay r 5 1) = true ∧ pay r 6 2 ≠ 0 ∧ rdB s (chStatus c) 61 = false ∧ 0 < sparesFree s c ∧ marginOf s c = none) ∧
    (∃ (s : State) (r : Req) (c : _) (m : _) (u : _), Takes ⟨0x0A03, [1], false⟩ r s ∧ c = pay r 0 2 ∧ u = abortMargin c s ∧ r.payload.length = 8 ∧ c ≤ 383 ∧ pay r 2 1 ≤ 79 ∧ pay r 3 1 ≤ 1 ∧ offsetByte (pay r 4 1) = true ∧ offsetByte (pay r 5 1) = true ∧ pay r 6 2 ≠ 0 ∧ rdB s (chStatus c) 61 = false ∧ 0 < sparesFree s c ∧ marginOf s c = some m ∧ m.rotation = true) ∧
    (∃ (s : State) (r : Req), Takes ⟨0x0A04, [1, 2], false⟩ r s ∧ r.payload.length = 2 ∧ pay r 0 2 ≤ 383) ∧
    (∃ (s : State) (r : Req), Takes ⟨0x0B01, [1], false⟩ r s ∧ 20 ≤ r.payload.length ∧ r.payload.length ≤ 9120 ∧ (r.payload.length - 12) % 8 = 0 ∧ pay r 0 8 ≠ 0 ∧ 50 ≤ pay r 8 2 ∧ pay r 8 2 ≤ 4000 ∧ isMember s = false ∧ (addIds [] (joinIds r)).length ≤ 16384) ∧
    (∃ (s : State) (r : Req), Takes ⟨0x0B01, [1], false⟩ r s ∧ 20 ≤ r.payload.length ∧ r.payload.length ≤ 9120 ∧ (r.payload.length - 12) % 8 = 0 ∧ pay r 0 8 ≠ 0 ∧ 50 ≤ pay r 8 2 ∧ pay r 8 2 ≤ 4000 ∧ isMember s = true ∧ s.fabric.id = pay r 0 8 ∧ s.fabric.period = 1000 * pay r 8 2 ∧ (addIds s.fabric.members (joinIds r)).length ≤ 16384) ∧
    (∃ (s : State) (r : Req), Takes ⟨0x0B02, [1], false⟩ r s ∧ r.payload = [] ∧ isMember s = false) ∧
    (∃ (s : State) (r : Req), Takes ⟨0x0B02, [1], false⟩ r s ∧ Canonical s ∧ r.payload = [] ∧ isMember s = true) ∧
    (∃ (s : State) (r : Req), Takes ⟨0x0B03, [1], false⟩ r s ∧ r.payload = []) :=
  ⟨⟨up, ask 64 [15#8], takes_of (by decide +kernel), by decide +kernel⟩,
    ⟨up, ask 64 (leBytes 2 256), takes_of (by decide +kernel), by decide +kernel⟩,
    ⟨up, ask 64 (leBytes 2 383 ++ [79#8, 1#8, 31#8, 224#8] ++ leBytes 2 1), 383, takes_of (by decide +kernel), rfl, by decide +kernel⟩,
    ⟨{ up with margins := [(383, some ⟨0, true, 0, none⟩)] }, ask 64 (leBytes 2 383 ++ [79#8, 1#8, 31#8, 224#8] ++ leBytes 2 1), 383, ⟨0, true, 0, none⟩, abortMargin 383 { up with margins := [(383, some ⟨0, true, 0, none⟩)] }, takes_of (by decide +kernel), rfl, rfl, by decide +kernel⟩,
    ⟨up, ask 64 (leBytes 2 383), takes_of (by decide +kernel), by decide +kernel⟩,
    ⟨up, ask 64 (leBytes 8 7 ++ leBytes 2 4000 ++ zeros 2 ++ leBytes 8 2), takes_of (by decide +kernel), by decide +kernel⟩,
    ⟨{ up with regs := [(8, 0x8000000000000000#64), (0xB00010, 0x8000000000000000#64)], fabric := { Fabric.none with id := 7, period := 50000, members := [1] } }, ask 64 (leBytes 8 7 ++ leBytes 2 50 ++ zeros 2 ++ leBytes 8 2), takes_of (by decide +kernel), by decide +kernel⟩,
    ⟨up, ask 64 [], takes_of (by decide +kernel), by decide +kernel⟩,
    ⟨{ up with regs := [(8, 0x8000000000000000#64), (0xB00010, 0x8000000000000000#64)], fabric := { Fabric.none with id := 7, members := [1] } }, ask 64 [], takes_of (by decide +kernel), canonical_of (by decide +kernel), by decide +kernel⟩,
    ⟨up, ask 64 [], takes_of (by decide +kernel), by decide +kernel⟩⟩

/-- States and operands that meet the hypotheses of MonitorCommands, one for each of its clauses. -/
theorem test_hypotheses_of_MonitorCommands :
    (∃ (s : State) (r : Req), Takes ⟨0x0C01, [1], false⟩ r s ∧ r.payload.length = 32 ∧ pay r 0 1 = 0xFF ∧ pay r 8 2 ≤ 60000) ∧
    (∃ (s : State) (r : Req), Takes ⟨0x0C01, [1], false⟩ r s ∧ r.payload.length = 32 ∧ pay r 0 1 ≤ 31 ∧ pay r 1 1 ≤ 7 ∧ (natBits (pay r 6 1) 1 1 = 1 → pay r 16 8 ≠ 0)) ∧
    (∃ (s : State) (r : Req), Takes ⟨0x0C02, [1], false⟩ r s ∧ r.payload.length = 1 ∧ pay r 0 1 ≤ 31) ∧
    (∃ (s : State) (r : Req), Takes ⟨0x0C03, [1], false⟩ r s ∧ r.payload.length = 2 ∧ pay r 0 1 ≤ 1) ∧
    (∃ (s : State) (r : Req), Takes ⟨0x0C04, [1, 2], false⟩ r s ∧ r.payload.length = 8 ∧ 1 ≤ pay r 1 1 ∧ pay r 1 1 ≤ 64) :=
  ⟨⟨up, ask 64 ([0xFF#8] ++ zeros 7 ++ leBytes 2 60000 ++ zeros 22), takes_of (by decide +kernel), by decide +kernel⟩,
    ⟨up, ask 64 ([31#8, 7#8] ++ zeros 14 ++ leBytes 8 1 ++ zeros 8), takes_of (by decide +kernel), by decide +kernel⟩,
    ⟨up, ask 64 [31#8], takes_of (by decide +kernel), by decide +kernel⟩,
    ⟨up, ask 64 [1#8, 0#8], takes_of (by decide +kernel), by decide +kernel⟩,
    ⟨up, ask 64 ([0#8, 64#8] ++ zeros 6), takes_of (by decide +kernel), by decide +kernel⟩⟩

/-- States and operands that meet the hypotheses of SecurityCommands, one for each of its clauses. -/
theorem test_hypotheses_of_SecurityCommands :
    (∃ (s : State) (r : Req) (a : _), Takes ⟨0x0D01, [1], true⟩ r s ∧ 9 ≤ r.payload.length ∧ r.payload.length ≤ 9120 ∧ pay r 0 8 + (r.payload.drop 8).length ≤ stageBytes ∧ s.fwStage = some a) ∧
    (∃ (s : State) (r : Req) (a : _) (t : _), Takes ⟨0x0D01, [1], true⟩ r s ∧ allotBlock stageBytes s = some (a, t) ∧ 9 ≤ r.payload.length ∧ r.payload.length ≤ 9120 ∧ pay r 0 8 + (r.payload.drop 8).length ≤ stageBytes ∧ s.fwStage = none) ∧
    (∃ (s : State) (r : Req) (ok : Verified) (img : List Byte) (u : State), Takes ⟨0x0D02, [1], true⟩ r s ∧ r.payload.length = 8 ∧ s.update = none ∧ pay r 0 8 ≤ stageBytes ∧ img = stagedFirmware s (pay r 0 8) ∧ u = readStage (pay r 0 8) s ∧ codeSound u (verifier u ok) img (leAt img 20 4) = true ∧ levelClash u (leAt img 8 1) = false) ∧
    (∃ (s : State) (w : Verifier) (img : List Byte) (trail : Nat), codeSound s w img trail = true) ∧
    (∃ (s : State) (r : Req), Takes ⟨0x0E01, [0, 1, 2], false⟩ r s ∧ r.payload.length = 1 ∧ pay r 0 1 ≤ 4) ∧
    (∃ (s : State) (r : Req), Takes ⟨0x0E02, [0, 1, 2], false⟩ r s ∧ r.payload.length = 32) ∧
    (∃ (s : State) (r : Req) (ok : _) (cred : _) (ct : _), Takes ⟨0x0E03, [1, 2], false⟩ r s ∧ cred = (natBits (pay r 3 1) 1 1 == 1) ∧ ct = padTo (Config.kemCiphertext (slice r.payload 8 1568) (fresh s).1) 1568 ∧ r.payload.length = (if cred then 5993 else 1576) ∧ sessionFault r ok s = none) :=
  ⟨⟨{ up with fwStage := some 0x10000 }, ask 64 (zeros 9), 0x10000, takes_of (by decide +kernel), by decide +kernel⟩,
    ⟨{ up with arena := (0x10000, 0x1000000) }, ask 64 (zeros 9), 0x10000, keepBlock 0x10000 3670016 { up with arena := (0x10000, 0x1000000) }, takes_of (by decide +kernel), rfl, by decide +kernel⟩,
    by
  have p : pay (ask 64 (leBytes 8 4489)) 0 8 = 4489 := by decide +kernel
  refine ⟨rooted, ask 64 (leBytes 8 4489), rootedSigs, rootedImage, rootedRead, takes_of (by decide +kernel), by decide +kernel, by decide +kernel, by decide +kernel, ?_, ?_, ?_, by decide +kernel⟩
  · rw [p]; rfl
  · rw [p]; rfl
  · rw [show leAt rootedImage 20 4 = 64 by decide +kernel]; exact rooted_sound,
    ⟨rootedRead, verifier rootedRead rootedSigs, rootedImage, 64, rooted_sound⟩,
    ⟨up, ask 64 [4#8], takes_of (by decide +kernel), by decide +kernel⟩,
    ⟨up, ask 64 (zeros 32), takes_of (by decide +kernel), by decide +kernel⟩,
    ⟨up, ask 64 (leBytes 2 64 ++ [1#8] ++ zeros 1573), [], false, padTo (Config.kemCiphertext (slice (leBytes 2 64 ++ [1#8] ++ zeros 1573) 8 1568) (fresh up).1) 1568, takes_of (by decide +kernel), rfl, rfl, by decide +kernel⟩⟩

/-- States and operands that meet the hypotheses of MaintenanceCommands, one for each of its clauses. -/
theorem test_hypotheses_of_MaintenanceCommands :
    (∃ (s : State) (r : Req) (k : _), Takes ⟨0x0F01, [2], false⟩ r s ∧ r.payload.length = 8 ∧ pay r 0 1 ≤ 23 ∧ pay r 1 1 ≤ 15 ∧ pay r 2 1 ≤ 15 ∧ pay r 4 4 < rowsOfBank s ∧ drained s = true ∧ k = 16 * (16 * pay r 0 1 + pay r 1 1) + pay r 2 1) ∧
    (∃ (s : State) (r : Req) (c : _) (l : _), Takes ⟨0x0F02, [2], false⟩ r s ∧ l = sget (fun _ => []) s.laneFuse c ∧ r.payload.length = 3 ∧ pay r 0 1 ≤ 23 ∧ pay r 1 1 ≤ 15 ∧ pay r 2 1 ≤ 79 ∧ drained s = true ∧ c = 16 * pay r 0 1 + pay r 1 1 ∧ (l.contains (pay r 2 1) = true ∨ l.length < 2)) ∧
    (∃ (s : State) (r : Req), Takes ⟨0x0F03, [2], false⟩ r s ∧ r.payload.length = 1 ∧ pay r 0 1 ≤ 23) ∧
    (∃ (s : State) (r : Req), Takes ⟨0x0F04, [2], false⟩ r s ∧ r.payload.length = 1 ∧ pay r 0 1 % 2 = 0) ∧
    (∃ (s : State) (r : Req), Takes ⟨0x0F04, [2], false⟩ r s ∧ r.payload.length = 1 ∧ pay r 0 1 % 2 = 1 ∧ drained s = true) ∧
    (∃ (s : State) (r : Req) (code : _), Takes ⟨code, [0, 1, 2], false⟩ r s ∧ listedCodes.contains code = false) :=
  ⟨⟨owned, ask 65 ([23#8, 15#8, 15#8] ++ zeros 5), 6143, takes_of (by decide +kernel), by decide +kernel⟩,
    ⟨owned, ask 65 [23#8, 15#8, 79#8], 383, [], takes_of (by decide +kernel), rfl, by decide +kernel⟩,
    ⟨owned, ask 65 [23#8], takes_of (by decide +kernel), by decide +kernel⟩,
    ⟨owned, ask 65 [0#8], takes_of (by decide +kernel), by decide +kernel⟩,
    ⟨owned, ask 65 [1#8], takes_of (by decide +kernel), by decide +kernel⟩,
    ⟨up, ask 64 [], 0, takes_of (by decide +kernel), by decide +kernel⟩⟩


/-- No straps pulled. -/
def straps0 : Straps := ⟨0, 0, 0, 0, 0, 0⟩

/-- A sample that reads nothing. -/
def thReads0 : ThReads := ⟨List.replicate 10 none, [], []⟩

/-- Every region at address 0. -/
def regions0 : Regions := ⟨0, 0, 0, 0, 0, 0, 0, 0, 0, 0, 0⟩

/-- A clean frame on interface 0 of port 0. -/
def frame0 : Frame := ⟨false, 0, 0, 64, true, 0, true, none, 0, false, true, 0, 0⟩

/-- One command of each row that is well formed. -/
theorem test_wf_accepts :
    ([.resetNAssert, .coldBoot straps0, .railFailure 0, .railRetry none, .clk100Loss, .refclkLoss false, .linkStateChange false 0 0 false,
      .memTrainingComplete [], .zeroFillComplete regions0, .bootSolicit, .bootOffer gram came, .bootRequestTimeout 0, .bootBlock gram came [] false,
      .warmReset false, .controllerRestart, .watchdogExpiry, .privateMemoryUncorrectable, .tickEdge, .planSeal, .planCommitWrite [], .planFreezeTimeout,
      .missedTickLimit, .executionBegin, .cowCopyComplete 0 0 MoveErrors.clean] : List Instr).all Instr.wf = true ∧
    ([.emissionGuard, .stitcherTakePiece 0 0 [], .tableBuild 0 0 .clean, .chunkStreamStart 0 0 StreamErrors.clean, .accBankSwap 0 0 [] [],
      .queueStoreUncorrectable 0, .seamRecordL1 0 none false, .seamRecordL2 0 false, .seamReserve 0, .barrierRelease 0, .seamOperationClose 0 none [],
      .stepCommit 0, .samplerDraw 0 0 false, .gateRouting 0, .expertPieceExpansion 0, .denseCommand 0 .clean, .attentionCommand 0 .clean MoveErrors.clean,
      .embeddingGather 0 .clean, .vectorProgram 0 .clean, .vNop 0, .vAdd 0 0 0 0, .vSub 0 0 0 0, .vMul 0 0 0 0, .vFma 0 0 0 0 0] : List Instr).all Instr.wf = true ∧
    ([.vMax 0 0 0 0, .vMin 0 0 0 0, .vExp 0 0 0, .vRcp 0 0 0, .vRsq 0 0 0, .vDiv 0 0 0 0, .vLd 0 0 0, .vSt 0 0 0, .vRsum 0 0 0, .vRmax 0 0 0, .vPhase 0,
      .pageWrite MoveErrors.clean, .hemWriteComplete, .pageWaitLimit 0, .shuttleDescHead 0, .shuttleTriggerFire 0, .shuttleCopy 0 MoveErrors.clean,
      .shuttleFill 0, .shuttleCompare 0 MoveErrors.clean, .pageListGather 0 MoveErrors.clean, .reduceInto 0 MoveErrors.clean,
      .shuttleWind 0 MoveErrors.clean, .shuttleUnwind 0 MoveErrors.clean, .shuttleDescComplete 0] : List Instr).all Instr.wf = true ∧
    ([.shuttleBusError 0 0, .shuttleResume, .addI32 .gate 0 0, .addF32 .gate 0 0, .minI32 .gate 0 0, .maxI32 .gate 0 0, .minF32 .gate 0 0, .maxF32 .gate 0 0,
      .andOp .gate false 0 0, .orOp .gate false 0 0, .cas .gate false 0 0 0, .refInc .gate 0, .refDec .gate 0, .memoryAccess .gate 0 0 .read [] none,
      .patrolScrub 0 [], .laneFailing 0 0 false, .retrain 0, .retrainComplete 0, .marginRunEnd 0 0 0, .marginRotation 0 0 0 1, .ethernetFrameReceive frame0,
      .obushDatagramReceive gram came .clean, .obushRetransmitTimeout 0 0, .bootMessageReceive gram came] : List Instr).all Instr.wf = true ∧
    ([.wakeFrame macFrame0, .sleepEntryComplete, .thimbleSample thReads0, .thermalTrip 0, .powerMonitorSample 0, .droopTrip, .droopEnd, .monitorSample 0 0,
      .quarantinePauseExpire 0, .kralynTxDesc 0, .kralynConnectReceive (aMessage []), .kralynAcceptReceive (aMessage []), .kralynRefuseReceive (aMessage []),
      .kralynDataReceive (aMessage []) .clean, .kralynAckReceive (aMessage []), .kralynCloseReceive (aMessage []), .kralynCapReceive (aMessage []),
      .kralynRetransmitTimeout 0, .kralynConnectionLoss 0, .tapeSyncSend, .tapeSyncReceive exchange, .tapeDelayReqReceive 0 0 false,
      .tapeExchangeComplete exchange, .joinStep] : List Instr).all Instr.wf = true ∧
    ([.timekeeperSwitch, .firmwareUpdatePauseEnd, .deviceInfo (ask 64 []), .deviceTick (ask 64 []), .devicePlan (ask 64 []), .devicePort (ask 64 []),
      .deviceAddr (ask 64 []), .deviceReset (ask 64 []), .deviceStatus (ask 64 []), .tenantCreate (ask 64 []), .tenantDestroy (ask 64 []),
      .tenantReset (ask 64 []), .tenantSet (ask 64 []), .tenantQuery (ask 64 []), .budgetSet (ask 64 []), .budgetQuery (ask 64 []), .noticeRoute (ask 64 []),
      .noticeQuery (ask 64 []), .modelStage (ask 64 []), .modelPut (ask 64 []), .modelLoad (ask 64 []) [], .modelUnload (ask 64 []), .modelScale (ask 64 []),
      .modelQuery (ask 64 [])] : List Instr).all Instr.wf = true ∧
    ([.modelRestore (ask 64 []), .modelReplica (ask 64 []), .grammarLoad (ask 64 []) [], .grammarUnload (ask 64 []), .seqOpen (ask 64 []),
      .seqFeed (ask 64 []) 0, .seqCancel (ask 64 []), .seqQuery (ask 64 []), .seqAllow (ask 64 []), .prefixPin (ask 64 []), .prefixUnpin (ask 64 []),
      .prefixQuery (ask 64 []), .powerCap (ask 64 []), .powerCoord (ask 64 []), .powerSleep (ask 64 []), .powerQuery (ask 64 []), .powerEnergy (ask 64 []),
      .memorySlice (ask 64 []), .memoryHem (ask 64 []), .memoryMargin (ask 64 []), .memoryQuery (ask 64 []), .fabricJoin (ask 64 []),
      .fabricLeave (ask 64 []), .fabricQuery (ask 64 [])] : List Instr).all Instr.wf = true ∧
    ([.monitorSet (ask 64 []), .monitorRead (ask 64 []), .monitorClear (ask 64 []), .monitorRegs (ask 64 []), .firmwarePut (ask 64 []),
      .firmwareUpdate (ask 64 []) [], .attestCerts (ask 64 []), .attestQuote (ask 64 []), .attestSession (ask 64 []) [], .maintRow (ask 64 []),
      .maintFuse (ask 64 []), .maintRread (ask 64 []), .maintDebug (ask 64 []), .tickPeriodNextWrite 0#64, .memRetrainStart 0#64, .chMarginStart 0 0 0#64,
      .chCtrlEnable 0 0#64, .chCtrlResume 0 0#64, .chTailWrite 0 0#64, .krTxCtrlEnable 0 0#64, .krTxTailWrite 0 0#64, .krRxCtrlEnable 0 0#64,
      .krRxHeadWrite 0 0#64, .mboxRelease 0 0#64] : List Instr).all Instr.wf = true ∧
    ([.errlogHeadWrite 0#64, .bucketLevelWrite 0 0#64, .monCfgWrite 0 0#64, .thWdogPet 0#64, .regionEnableWrite 0 0#64, .counterCtrlClear 0 0#64,
      .registerWrite 0 0#64, .tapInstruction 0, .modeChangeComplete false 0, .unknownCommand (ask 64 []) 0, .core2PlannerHelp] : List Instr).all Instr.wf = true := by decide +kernel

/-- An operand of kind straps with a field out of its range is refused, in every command that carries one. -/
theorem test_wf_refuses_straps :
    ([.coldBoot ⟨2, 0, 0, 0, 0, 0⟩, .coldBoot ⟨0, 4, 0, 0, 0, 0⟩, .coldBoot ⟨0, 0, 8, 0, 0, 0⟩, .coldBoot ⟨0, 0, 0, 4, 0, 0⟩, .coldBoot ⟨0, 0, 0, 0, 4, 0⟩,
      .coldBoot ⟨0, 0, 0, 0, 0, 4⟩] : List Instr).all (fun c => !c.wf) = true := by decide +kernel

/-- A rail one above the last is refused, in every command that names one. -/
theorem test_wf_refuses_rail :
    ([.railFailure 7, .railRetry (some 7)] : List Instr).all (fun c => !c.wf) = true := by decide +kernel

/-- A port one above the last is refused, in every command that names one. -/
theorem test_wf_refuses_port :
    ([.linkStateChange false 4 0 false, .modeChangeComplete false 4] : List Instr).all (fun c => !c.wf) = true := by decide +kernel

/-- A interface one above the last is refused, in every command that names one. -/
theorem test_wf_refuses_interface :
    ([.linkStateChange false 0 8 false] : List Instr).all (fun c => !c.wf) = true := by decide +kernel

/-- An operand of kind regions with a field out of its range is refused, in every command that carries one. -/
theorem test_wf_refuses_regions :
    ([.zeroFillComplete ⟨2 ^ 52, 0, 0, 0, 0, 0, 0, 0, 0, 0, 0⟩, .zeroFillComplete ⟨0, 2 ^ 52, 0, 0, 0, 0, 0, 0, 0, 0, 0⟩,
      .zeroFillComplete ⟨0, 0, 2 ^ 52, 0, 0, 0, 0, 0, 0, 0, 0⟩, .zeroFillComplete ⟨0, 0, 0, 2 ^ 52, 0, 0, 0, 0, 0, 0, 0⟩,
      .zeroFillComplete ⟨0, 0, 0, 0, 2 ^ 52, 0, 0, 0, 0, 0, 0⟩, .zeroFillComplete ⟨0, 0, 0, 0, 0, 2 ^ 52, 0, 0, 0, 0, 0⟩,
      .zeroFillComplete ⟨0, 0, 0, 0, 0, 0, 2 ^ 52, 0, 0, 0, 0⟩, .zeroFillComplete ⟨0, 0, 0, 0, 0, 0, 0, 2 ^ 52, 0, 0, 0⟩,
      .zeroFillComplete ⟨0, 0, 0, 0, 0, 0, 0, 0, 2 ^ 52, 0, 0⟩, .zeroFillComplete ⟨0, 0, 0, 0, 0, 0, 0, 0, 0, 2 ^ 52, 0⟩,
      .zeroFillComplete ⟨0, 0, 0, 0, 0, 0, 0, 0, 0, 0, 2 ^ 52⟩] : List Instr).all (fun c => !c.wf) = true := by decide +kernel

/-- An operand of kind datagram with a field out of its range is refused, in every command that carries one. -/
theorem test_wf_refuses_datagram :
    ([.bootOffer ({ gram with magic := 2 ^ 16 }) came, .bootOffer ({ gram with version := 2 ^ 8 }) came, .bootOffer ({ gram with type := 2 ^ 8 }) came,
      .bootOffer ({ gram with mailbox := 2 ^ 16 }) came, .bootOffer ({ gram with flags := 2 ^ 16 }) came, .bootOffer ({ gram with length := 2 ^ 32 }) came,
      .bootOffer ({ gram with command := 2 ^ 16 }) came, .bootOffer ({ gram with status := 2 ^ 16 }) came, .bootOffer ({ gram with tape := 2 ^ 64 }) came,
      .bootOffer ({ gram with correlation := 2 ^ 32 }) came, .bootOffer ({ gram with msn := 2 ^ 32 }) came,
      .bootBlock ({ gram with magic := 2 ^ 16 }) came [] false, .obushDatagramReceive ({ gram with magic := 2 ^ 16 }) came .clean,
      .bootMessageReceive ({ gram with magic := 2 ^ 16 }) came] : List Instr).all (fun c => !c.wf) = true := by decide +kernel

/-- A word 32 one above the last is refused, in every command that names one. -/
theorem test_wf_refuses_word_32 :
    ([.bootRequestTimeout (2 ^ 32), .addI32 .gate 0 (2 ^ 32), .addF32 .gate 0 (2 ^ 32), .minI32 .gate 0 (2 ^ 32), .maxI32 .gate 0 (2 ^ 32),
      .minF32 .gate 0 (2 ^ 32), .maxF32 .gate 0 (2 ^ 32)] : List Instr).all (fun c => !c.wf) = true := by decide +kernel

/-- A sequence context one above the last is refused, in every command that names one. -/
theorem test_wf_refuses_sequence_context :
    ([.cowCopyComplete 4096 0 MoveErrors.clean, .samplerDraw 0 4096 false, .pageWaitLimit 4096] : List Instr).all (fun c => !c.wf) = true := by decide +kernel

/-- An operand of kind move errors with a field out of its range is refused, in every command that carries one. -/
theorem test_wf_refuses_move_errors :
    ([.cowCopyComplete 0 0 ⟨[2 ^ 32], []⟩, .cowCopyComplete 0 0 ⟨[], [(2 ^ 32, .clean)]⟩, .attentionCommand 0 .clean ⟨[2 ^ 32], []⟩,
      .pageWrite ⟨[2 ^ 32], []⟩, .shuttleCopy 0 ⟨[2 ^ 32], []⟩, .shuttleCompare 0 ⟨[2 ^ 32], []⟩, .pageListGather 0 ⟨[2 ^ 32], []⟩,
      .reduceInto 0 ⟨[2 ^ 32], []⟩, .shuttleWind 0 ⟨[2 ^ 32], []⟩, .shuttleUnwind 0 ⟨[2 ^ 32], []⟩] : List Instr).all (fun c => !c.wf) = true := by decide +kernel

/-- A panel one above the last is refused, in every command that names one. -/
theorem test_wf_refuses_panel :
    ([.stitcherTakePiece 48 0 [], .tableBuild 48 0 .clean, .chunkStreamStart 48 0 StreamErrors.clean, .accBankSwap 48 0 [] [], .queueStoreUncorrectable 48,
      .seamRecordL1 48 none false, .seamRecordL2 48 false, .denseCommand 48 .clean, .attentionCommand 48 .clean MoveErrors.clean, .embeddingGather 48 .clean,
      .vectorProgram 48 .clean, .vNop 48, .vAdd 48 0 0 0, .vSub 48 0 0 0, .vMul 48 0 0 0, .vFma 48 0 0 0 0, .vMax 48 0 0 0, .vMin 48 0 0 0, .vExp 48 0 0,
      .vRcp 48 0 0, .vRsq 48 0 0, .vDiv 48 0 0 0, .vLd 48 0 0, .vSt 48 0 0] : List Instr).all (fun c => !c.wf) = true ∧
    ([.vRsum 48 0 0, .vRmax 48 0 0, .vPhase 48] : List Instr).all (fun c => !c.wf) = true := by decide +kernel

/-- A stitcher one above the last is refused, in every command that names one. -/
theorem test_wf_refuses_stitcher :
    ([.stitcherTakePiece 0 128 [], .tableBuild 0 128 .clean, .chunkStreamStart 0 128 StreamErrors.clean, .accBankSwap 0 128 [] [],
      .seamRecordL1 0 (some 128) false] : List Instr).all (fun c => !c.wf) = true := by decide +kernel

/-- An operand of kind stream errors with a field out of its range is refused, in every command that carries one. -/
theorem test_wf_refuses_stream_errors :
    ([.chunkStreamStart 0 0 ({ StreamErrors.clean with corrected := 2 ^ 32 })] : List Instr).all (fun c => !c.wf) = true := by decide +kernel

/-- A step one above the last is refused, in every command that names one. -/
theorem test_wf_refuses_step :
    ([.seamReserve (2 ^ 32), .barrierRelease (2 ^ 32), .seamOperationClose (2 ^ 32) none [], .stepCommit (2 ^ 32), .samplerDraw (2 ^ 32) 0 false,
      .gateRouting (2 ^ 32), .expertPieceExpansion (2 ^ 32)] : List Instr).all (fun c => !c.wf) = true := by decide +kernel

/-- A vector register one above the last is refused, in every command that names one. -/
theorem test_wf_refuses_vector_register :
    ([.vAdd 0 32 0 0, .vAdd 0 0 32 0, .vAdd 0 0 0 32, .vSub 0 32 0 0, .vSub 0 0 32 0, .vSub 0 0 0 32, .vMul 0 32 0 0, .vMul 0 0 32 0, .vMul 0 0 0 32,
      .vFma 0 32 0 0 0, .vFma 0 0 32 0 0, .vFma 0 0 0 32 0, .vFma 0 0 0 0 32, .vMax 0 32 0 0, .vMax 0 0 32 0, .vMax 0 0 0 32, .vMin 0 32 0 0, .vMin 0 0 32 0,
      .vMin 0 0 0 32, .vExp 0 32 0, .vExp 0 0 32, .vRcp 0 32 0, .vRcp 0 0 32, .vRsq 0 32 0] : List Instr).all (fun c => !c.wf) = true ∧
    ([.vRsq 0 0 32, .vDiv 0 32 0 0, .vDiv 0 0 32 0, .vDiv 0 0 0 32, .vLd 0 32 0, .vLd 0 0 32, .vSt 0 32 0, .vSt 0 0 32, .vRsum 0 32 0, .vRsum 0 0 32,
      .vRmax 0 32 0, .vRmax 0 0 32] : List Instr).all (fun c => !c.wf) = true := by decide +kernel

/-- A shuttle channel one above the last is refused, in every command that names one. -/
theorem test_wf_refuses_shuttle_channel :
    ([.shuttleDescHead 64, .shuttleTriggerFire 64, .shuttleCopy 64 MoveErrors.clean, .shuttleFill 64, .shuttleCompare 64 MoveErrors.clean,
      .pageListGather 64 MoveErrors.clean, .reduceInto 64 MoveErrors.clean, .shuttleWind 64 MoveErrors.clean, .shuttleUnwind 64 MoveErrors.clean,
      .shuttleDescComplete 64, .shuttleBusError 64 0, .chCtrlEnable 64 0#64, .chCtrlResume 64 0#64, .chTailWrite 64 0#64] : List Instr).all (fun c => !c.wf) = true := by decide +kernel

/-- A address one above the last is refused, in every command that names one. -/
theorem test_wf_refuses_address :
    ([.shuttleBusError 0 (2 ^ 52), .addI32 .gate (2 ^ 52) 0, .addF32 .gate (2 ^ 52) 0, .minI32 .gate (2 ^ 52) 0, .maxI32 .gate (2 ^ 52) 0,
      .minF32 .gate (2 ^ 52) 0, .maxF32 .gate (2 ^ 52) 0, .andOp .gate false (2 ^ 52) 0, .orOp .gate false (2 ^ 52) 0, .cas .gate false (2 ^ 52) 0 0,
      .refInc .gate (2 ^ 52), .refDec .gate (2 ^ 52), .regionEnableWrite (2 ^ 52) 0#64, .counterCtrlClear (2 ^ 52) 0#64, .registerWrite (2 ^ 52) 0#64] : List Instr).all (fun c => !c.wf) = true := by decide +kernel

/-- An operand of kind requester with a field out of its range is refused, in every command that carries one. -/
theorem test_wf_refuses_requester :
    ([.addI32 (.shuttle 64) 0 0, .addI32 (.panel 48) 0 0, .addF32 (.shuttle 64) 0 0, .minI32 (.shuttle 64) 0 0, .maxI32 (.shuttle 64) 0 0,
      .minF32 (.shuttle 64) 0 0, .maxF32 (.shuttle 64) 0 0, .andOp (.shuttle 64) false 0 0, .orOp (.shuttle 64) false 0 0, .cas (.shuttle 64) false 0 0 0,
      .refInc (.shuttle 64) 0, .refDec (.shuttle 64) 0, .memoryAccess (.shuttle 64) 0 0 .read [] none] : List Instr).all (fun c => !c.wf) = true := by decide +kernel

/-- A word 64 one above the last is refused, in every command that names one. -/
theorem test_wf_refuses_word_64 :
    ([.andOp .gate false 0 (2 ^ 64), .orOp .gate false 0 (2 ^ 64), .cas .gate false 0 (2 ^ 64) 0, .cas .gate false 0 0 (2 ^ 64), .monitorSample 0 (2 ^ 64)] : List Instr).all (fun c => !c.wf) = true := by decide +kernel

/-- An operand of kind line op with a field out of its range is refused, in every command that carries one. -/
theorem test_wf_refuses_line_op :
    ([.memoryAccess .gate 0 0 (.write [0#8]) [] none] : List Instr).all (fun c => !c.wf) = true := by decide +kernel

/-- A memory channel one above the last is refused, in every command that names one. -/
theorem test_wf_refuses_memory_channel :
    ([.laneFailing 384 0 false, .retrain 384, .retrainComplete 384, .marginRunEnd 384 0 0] : List Instr).all (fun c => !c.wf) = true := by decide +kernel

/-- A lane one above the last is refused, in every command that names one. -/
theorem test_wf_refuses_lane :
    ([.laneFailing 0 82 false] : List Instr).all (fun c => !c.wf) = true := by decide +kernel

/-- An operand of kind frame with a field out of its range is refused, in every command that carries one. -/
theorem test_wf_refuses_frame :
    ([.ethernetFrameReceive ({ frame0 with port := 4 }), .ethernetFrameReceive ({ frame0 with iface := 8 }),
      .ethernetFrameReceive ({ frame0 with udpPort := 2 ^ 16 }), .ethernetFrameReceive ({ frame0 with target := 2 ^ 128 })] : List Instr).all (fun c => !c.wf) = true := by decide +kernel

/-- A mailbox one above the last is refused, in every command that names one. -/
theorem test_wf_refuses_mailbox :
    ([.obushRetransmitTimeout 66 0, .mboxRelease 66 0#64] : List Instr).all (fun c => !c.wf) = true := by decide +kernel

/-- A session one above the last is refused, in every command that names one. -/
theorem test_wf_refuses_session :
    ([.obushRetransmitTimeout 0 16] : List Instr).all (fun c => !c.wf) = true := by decide +kernel

/-- An operand of kind mac frame with a field out of its range is refused, in every command that carries one. -/
theorem test_wf_refuses_mac_frame :
    ([.wakeFrame ⟨2 ^ 48, 0, []⟩, .wakeFrame ⟨0, 2 ^ 16, []⟩] : List Instr).all (fun c => !c.wf) = true := by decide +kernel

/-- An operand of kind thimble reads with a field out of its range is refused, in every command that carries one. -/
theorem test_wf_refuses_thimble_reads :
    ([.thimbleSample ⟨[], [], []⟩, .thimbleSample ⟨List.replicate 10 none, [(128, 0)], []⟩, .thimbleSample ⟨List.replicate 10 none, [], [128]⟩] : List Instr).all (fun c => !c.wf) = true := by decide +kernel

/-- A monitor one above the last is refused, in every command that names one. -/
theorem test_wf_refuses_monitor :
    ([.monitorSample 32 0, .monCfgWrite 32 0#64] : List Instr).all (fun c => !c.wf) = true := by decide +kernel

/-- A model one above the last is refused, in every command that names one. -/
theorem test_wf_refuses_model :
    ([.quarantinePauseExpire 2048] : List Instr).all (fun c => !c.wf) = true := by decide +kernel

/-- A transmit ring one above the last is refused, in every command that names one. -/
theorem test_wf_refuses_transmit_ring :
    ([.kralynTxDesc 8, .krTxCtrlEnable 8 0#64, .krTxTailWrite 8 0#64] : List Instr).all (fun c => !c.wf) = true := by decide +kernel

/-- An operand of kind kralyn message with a field out of its range is refused, in every command that carries one. -/
theorem test_wf_refuses_kralyn_message :
    ([.kralynConnectReceive ({ aMessage [] with level := 2 ^ 8 }), .kralynConnectReceive ({ aMessage [] with conn := 2 ^ 32 }),
      .kralynConnectReceive ({ aMessage [] with flags := 2 ^ 16 }), .kralynConnectReceive ({ aMessage [] with channel := 2 ^ 16 }),
      .kralynConnectReceive ({ aMessage [] with src := 2 ^ 64 }), .kralynConnectReceive ({ aMessage [] with dst := 2 ^ 64 }),
      .kralynConnectReceive ({ aMessage [] with csn := 2 ^ 32 }), .kralynConnectReceive ({ aMessage [] with aux := 2 ^ 32 }),
      .kralynConnectReceive ({ aMessage [] with tape := 2 ^ 64 }), .kralynConnectReceive ({ aMessage [] with port := 4 }),
      .kralynConnectReceive ({ aMessage [] with iface := 8 }), .kralynAcceptReceive ({ aMessage [] with level := 2 ^ 8 }),
      .kralynRefuseReceive ({ aMessage [] with level := 2 ^ 8 }), .kralynDataReceive ({ aMessage [] with level := 2 ^ 8 }) .clean,
      .kralynAckReceive ({ aMessage [] with level := 2 ^ 8 }), .kralynCloseReceive ({ aMessage [] with level := 2 ^ 8 }),
      .kralynCapReceive ({ aMessage [] with level := 2 ^ 8 })] : List Instr).all (fun c => !c.wf) = true := by decide +kernel

/-- A connection one above the last is refused, in every command that names one. -/
theorem test_wf_refuses_connection :
    ([.kralynRetransmitTimeout 16384, .kralynConnectionLoss 16384] : List Instr).all (fun c => !c.wf) = true := by decide +kernel

/-- An operand of kind exchange with a field out of its range is refused, in every command that carries one. -/
theorem test_wf_refuses_exchange :
    ([.tapeExchangeComplete ({ exchange with syncId := 2 ^ 16 }), .tapeExchangeComplete ({ exchange with followId := 2 ^ 16 }),
      .tapeExchangeComplete ({ exchange with reqId := 2 ^ 16 }), .tapeExchangeComplete ({ exchange with respId := 2 ^ 16 })] : List Instr).all (fun c => !c.wf) = true := by decide +kernel

/-- An operand of kind request with a field out of its range is refused, in every command that carries one. -/
theorem test_wf_refuses_request :
    ([.deviceInfo ⟨66, 0, 0, 0, []⟩, .deviceInfo ⟨0, 256, 0, 0, []⟩, .deviceInfo ⟨0, 0, 16, 0, []⟩, .deviceInfo ⟨0, 0, 0, 2 ^ 32, []⟩,
      .deviceTick ⟨66, 0, 0, 0, []⟩, .devicePlan ⟨66, 0, 0, 0, []⟩, .devicePort ⟨66, 0, 0, 0, []⟩, .deviceAddr ⟨66, 0, 0, 0, []⟩,
      .deviceReset ⟨66, 0, 0, 0, []⟩, .deviceStatus ⟨66, 0, 0, 0, []⟩, .tenantCreate ⟨66, 0, 0, 0, []⟩, .tenantDestroy ⟨66, 0, 0, 0, []⟩,
      .tenantReset ⟨66, 0, 0, 0, []⟩, .tenantSet ⟨66, 0, 0, 0, []⟩, .tenantQuery ⟨66, 0, 0, 0, []⟩, .budgetSet ⟨66, 0, 0, 0, []⟩,
      .budgetQuery ⟨66, 0, 0, 0, []⟩, .noticeRoute ⟨66, 0, 0, 0, []⟩, .noticeQuery ⟨66, 0, 0, 0, []⟩, .modelStage ⟨66, 0, 0, 0, []⟩,
      .modelPut ⟨66, 0, 0, 0, []⟩, .modelLoad ⟨66, 0, 0, 0, []⟩ [], .modelUnload ⟨66, 0, 0, 0, []⟩, .modelScale ⟨66, 0, 0, 0, []⟩] : List Instr).all (fun c => !c.wf) = true ∧
    ([.modelQuery ⟨66, 0, 0, 0, []⟩, .modelRestore ⟨66, 0, 0, 0, []⟩, .modelReplica ⟨66, 0, 0, 0, []⟩, .grammarLoad ⟨66, 0, 0, 0, []⟩ [],
      .grammarUnload ⟨66, 0, 0, 0, []⟩, .seqOpen ⟨66, 0, 0, 0, []⟩, .seqFeed ⟨66, 0, 0, 0, []⟩ 0, .seqCancel ⟨66, 0, 0, 0, []⟩, .seqQuery ⟨66, 0, 0, 0, []⟩,
      .seqAllow ⟨66, 0, 0, 0, []⟩, .prefixPin ⟨66, 0, 0, 0, []⟩, .prefixUnpin ⟨66, 0, 0, 0, []⟩, .prefixQuery ⟨66, 0, 0, 0, []⟩, .powerCap ⟨66, 0, 0, 0, []⟩,
      .powerCoord ⟨66, 0, 0, 0, []⟩, .powerSleep ⟨66, 0, 0, 0, []⟩, .powerQuery ⟨66, 0, 0, 0, []⟩, .powerEnergy ⟨66, 0, 0, 0, []⟩,
      .memorySlice ⟨66, 0, 0, 0, []⟩, .memoryHem ⟨66, 0, 0, 0, []⟩, .memoryMargin ⟨66, 0, 0, 0, []⟩, .memoryQuery ⟨66, 0, 0, 0, []⟩,
      .fabricJoin ⟨66, 0, 0, 0, []⟩, .fabricLeave ⟨66, 0, 0, 0, []⟩] : List Instr).all (fun c => !c.wf) = true ∧
    ([.fabricQuery ⟨66, 0, 0, 0, []⟩, .monitorSet ⟨66, 0, 0, 0, []⟩, .monitorRead ⟨66, 0, 0, 0, []⟩, .monitorClear ⟨66, 0, 0, 0, []⟩,
      .monitorRegs ⟨66, 0, 0, 0, []⟩, .firmwarePut ⟨66, 0, 0, 0, []⟩, .firmwareUpdate ⟨66, 0, 0, 0, []⟩ [], .attestCerts ⟨66, 0, 0, 0, []⟩,
      .attestQuote ⟨66, 0, 0, 0, []⟩, .attestSession ⟨66, 0, 0, 0, []⟩ [], .maintRow ⟨66, 0, 0, 0, []⟩, .maintFuse ⟨66, 0, 0, 0, []⟩,
      .maintRread ⟨66, 0, 0, 0, []⟩, .maintDebug ⟨66, 0, 0, 0, []⟩, .unknownCommand ⟨66, 0, 0, 0, []⟩ 0] : List Instr).all (fun c => !c.wf) = true := by decide +kernel

/-- A slice one above the last is refused, in every command that names one. -/
theorem test_wf_refuses_slice :
    ([.chMarginStart 24 0 0#64] : List Instr).all (fun c => !c.wf) = true := by decide +kernel

/-- A receive channel one above the last is refused, in every command that names one. -/
theorem test_wf_refuses_receive_channel :
    ([.krRxCtrlEnable 64 0#64, .krRxHeadWrite 64 0#64] : List Instr).all (fun c => !c.wf) = true := by decide +kernel

/-- The checks that stand in one command alone: a training result, a margin rotation, a die, the bits and storage errors of a line, a table or a seam, a feed flag, a line address, an operation code. -/
theorem test_wf_refuses_others :
    ([.tapInstruction 256, .unknownCommand (ask 64 []) 65536, .memTrainingComplete [⟨384, [], true⟩], .memTrainingComplete [⟨0, [82], true⟩],
      .marginRotation 2 0 0 1, .marginRotation 0 64 0 1, .marginRotation 0 0 64 1, .marginRotation 0 0 0 0, .marginRotation 0 0 0 65536, .thermalTrip 6,
      .seqFeed (ask 64 []) 65536, .chMarginStart 0 16 0#64, .memoryAccess .gate 1 0 .read [] none, .memoryAccess .gate (2 ^ 52) 0 .read [] none,
      .patrolScrub 1 [], .memoryAccess .gate 0 0 .read [(8, [])] none, .memoryAccess .gate 0 0 .read [(0, [82])] none, .patrolScrub 0 [(8, [0])],
      .patrolScrub 0 [(0, [82])], .stitcherTakePiece 0 0 [(2 ^ 32, .clean)], .seamOperationClose 0 none [(4096, 0, 0)],
      .seamOperationClose 0 none [(0, 2 ^ 32, 0)], .seamOperationClose 0 none [(0, 0, 16)], .bucketLevelWrite 64 0#64] : List Instr).all (fun c => !c.wf) = true := by decide +kernel

/-- A payload of 65536 bytes is refused. -/
theorem test_wf_refuses_long_payload : (Instr.deviceInfo ⟨0, 0, 0, 0, List.replicate (2 ^ 16) 0#8⟩).wf = false := by
  simp only [Instr.wf, Req.wf, List.length_replicate, Nat.lt_irrefl, decide_false, Bool.and_false]


/-- What a command leaves, the state itself where it answers no next state. -/
def after (c : Instr) (s : State) : State :=
  match exec c s with
  | .next t => t
  | _ => s

/-- The header of the emit of the worked example of spec/14, in wire order. -/
theorem test_emit_header :
    headerBytes ⟨0x4F42, 1, 4, 5, 2, 999, 64, 2000000245120, 0, 0, 0, [], []⟩ =
      [0x42#8, 0x4F#8, 1#8, 4#8, 5#8, 0#8, 2#8, 0#8, 0xE7#8, 3#8, 0#8, 0#8, 0x40#8, 0#8, 0#8, 0#8,
        0x80#8, 0xDD#8, 0x4D#8, 0xA9#8, 0xD1#8, 1#8, 0#8, 0#8, 0#8, 0#8, 0#8, 0#8, 0#8, 0#8, 0#8, 0#8] := by decide +kernel

/-- The nonce of that emit behind its salt. -/
theorem test_emit_nonce : (obushNonce (zeros 4) 1 2 5 999).drop 4 = [1#8, 2#8, 5#8, 0#8, 0xE7#8, 3#8, 0#8, 0#8] := by decide +kernel

/-- The weight byte of the worked example of spec/02: value 65 over the activations of lane 0. -/
theorem test_linen_pattern : patternSum 0 65 [12, -7, 30, 0, -45] = 64 := by decide +kernel

/-- Byte 65 of group 1 reads entry 193, and byte 177 its negation; 243 is void (R47, R48). -/
theorem test_linen_entries : byteEntry 0 1 65 = some (193, false) ∧ byteEntry 0 1 177 = some (193, true) ∧ byteEntry 0 1 243 = none := by decide +kernel

/-- 18,432 times 2^−6 times 0.046875 is 13.5 (worked example of spec/02). -/
theorem test_linen_scales : fMul (fMul (fOfInt 18432) 0x3C800000#32) 0x3D400000#32 = 0x41580000#32 := by decide +kernel

/-- 1.5 times the int8 code −37 on the scale 0.0625 is −3.46875 (the example under R184). -/
theorem test_widened_product :
    blockSum [((0x3FC00000#32, 0x3F800000#32), (0xC2140000#32, 0x3D800000#32))] = 0xC05E0000#32 := by decide +kernel

/-- A NaN in a maximum gives the quiet NaN, and +0 is greater than −0 (R149). -/
theorem test_maximum : fMax 0xFF800001#32 0x3F800000#32 = 0x7FC00000#32 ∧ fMax 0x80000000#32 0#32 = 0#32 := by decide +kernel

/-- The address of the example under R258. -/
theorem test_interleave : channelOf 0x12345678 = 376 ∧ sliceOf 0x12345678 = 23 ∧ channelOf (0x12345678 + 256) = 377 := by decide +kernel

/-- The histogram of the worked example of spec/12. -/
def histogram : List Nat := ((((List.replicate 256 0).set 0 40000).set 1 4000).set 16 1536).set 17 12000 |>.set 255 8000

/-- Its code lengths (R285). -/
theorem test_code_lengths :
    ([0, 1, 16, 17, 255].map fun v => (codeLengths histogram).getD v 0) = [1, 4, 4, 2, 3] := by decide +kernel

/-- Its canonical codes (R286). -/
theorem test_codes :
    canonicalCodes (((((List.replicate 256 0).set 0 1).set 1 4).set 16 4).set 17 2 |>.set 255 3) =
      [(0, 1, 0), (17, 2, 2), (255, 3, 6), (1, 4, 14), (16, 4, 15)] := by decide +kernel

/-- The exchange of the worked example of spec/16, in 2^−16 ns: offset 40.125 and delay 490.375. -/
theorem test_exchange :
    exchangeOffset ⟨0, 156008448, 655360000, 810041344, 121241600, 125173760, false, true, 1, 1, 2, 2⟩ = 2629632 ∧
      exchangeDelay ⟨0, 156008448, 655360000, 810041344, 121241600, 125173760, false, true, 1, 1, 2, 2⟩ = 32137216 := by decide +kernel

/-- STRAP_TICK 3 selects a tick of 1,000,000 ns (R12). -/
theorem test_strap_tick : rdF (after (.coldBoot ⟨0, 0, 0, 0, 0, 3⟩) State.reset) 0x100000 21 0 = 1000000 := by decide +kernel

/-- A period that is no whole number of microseconds is not taken up (R13). -/
theorem test_tick_period_refused : rdB (after (.tickPeriodNextWrite 0x800000000000C351#64) State.reset) 0x100008 63 = false := by decide +kernel

/-- 4 ms is the longest period (R13). -/
theorem test_tick_period_longest : rdB (after (.tickPeriodNextWrite 0x80000000003D0900#64) State.reset) 0x100008 63 = true := by decide +kernel

/-- Stack memory with four bytes at address 0. -/
def wordAt (b : List Byte) : State := putBytes 0 b State.reset

/-- ADD_I32 wraps (R266). -/
theorem test_add_i32_wraps : peekLe (after (.addI32 .gate 0 2) (wordAt [0xFF#8, 0xFF#8, 0xFF#8, 0xFF#8])) 0 4 = 1 := by decide +kernel

/-- MIN_I32 is signed (R266). -/
theorem test_min_i32_signed : peekLe (after (.minI32 .gate 0 0xFFFFFFFF) (wordAt [1#8])) 0 4 = 0xFFFFFFFF := by decide +kernel

/-- MIN_F32 puts −0 below +0 (R266). -/
theorem test_min_f32_zeros : peekLe (after (.minF32 .gate 0 0x80000000) (wordAt [])) 0 4 = 0x80000000 := by decide +kernel

/-- CAS stores only where the word equals the compare operand (R266). -/
theorem test_cas :
    peekLe (after (.cas .gate false 0 7 9) (wordAt [7#8])) 0 4 = 9 ∧ peekLe (after (.cas .gate false 0 8 9) (wordAt [7#8])) 0 4 = 7 := by decide +kernel

/-- REF_INC saturates (R266). -/
theorem test_ref_inc_saturates : peekLe (after (.refInc .gate 0) (wordAt [0xFF#8, 0xFF#8, 0xFF#8, 0xFF#8])) 0 4 = 0xFFFFFFFF := by decide +kernel

/-- REF_DEC of 0 leaves 0 and counts (R266). -/
theorem test_ref_dec_zero :
    peekLe (after (.refDec .gate 0) (wordAt [])) 0 4 = 0 ∧ rd (after (.refDec .gate 0) (wordAt [])) (sliceReg 0 0x20) = 1#64 := by decide +kernel

/-- Two vector registers of panel 0, all elements 1.0 and 2.0. -/
def twoRegs : State :=
  setVec 0 (putV (putV (vecOf State.reset 0) 1 (List.replicate 64 (0x3F800000#32, false))) 2 (List.replicate 64 (0x40000000#32, false))) State.reset

/-- V_SUB takes its second operand from its first (R188). -/
theorem test_v_sub : (vReg (vecOf (after (.vSub 0 3 1 2) twoRegs) 0) 3).getD 63 0 = 0xBF800000#32 := by decide +kernel

/-- V_FMA adds its third operand to the product, and a source may be the destination (R188). -/
theorem test_v_fma_same : (vReg (vecOf (after (.vFma 0 2 2 2 1) twoRegs) 0) 2).getD 0 0 = 0x40A00000#32 := by decide +kernel

/-- An empty queue is one period of the 100 MHz clock: the tape moves by 10 ns where it runs (log entry 41). -/
theorem test_idle_step : (match step awakeUp with
  | .next t => decide (t.tape = awakeUp.tape + 10)
  | _ => false) = true := by decide +kernel

/-- A command behind another waits (the queue is first in, first out). -/
theorem test_queue_order : (match step { State.reset with pending := [.tapInstruction 1, .tickEdge] } with
  | .next t => decide (t.pending = [.tickEdge])
  | _ => false) = true := by decide +kernel

end Sys2Proof.Tests
end

section
/-! The fp32 maximum of R149. Away from NaN it is the maximum of the keys of `fKey`, and a key determines its value; so the laws of `max` on integers carry over to `fMax`. -/

namespace Sys2Proof.Proofs

open Sys2Proof.Machine

/-- The sign bit is set in the upper half of the patterns. -/
theorem fSign_eq_true_iff (x : F32) : fSign x = true ↔ x.toNat / 2 ^ 31 = 1 := beq_iff_eq

/-- The sign and the magnitude of a pattern determine it. -/
theorem eq_of_fSign_fMag {a b : F32} (hs : fSign a = fSign b) (hm : fMag a = fMag b) : a = b := by
  rw [Bool.eq_iff_iff, fSign_eq_true_iff, fSign_eq_true_iff] at hs
  unfold fMag at hm
  have ha := a.isLt
  have hb := b.isLt
  exact BitVec.eq_of_toNat_eq (by omega)

/-- No two patterns have one key: the keys of positive sign are the magnitudes, those of negative sign lie below zero. -/
theorem fKey_injective : Function.Injective fKey := by
  intro a b h
  unfold fKey at h
  cases ha : fSign a <;> cases hb : fSign b <;> simp only [ha, hb, if_true, if_false, Bool.false_eq_true] at h
  · exact eq_of_fSign_fMag (ha.trans hb.symm) (by omega)
  · omega
  · omega
  · exact eq_of_fSign_fMag (ha.trans hb.symm) (by omega)

/-- A NaN on either side gives the canonical quiet NaN (R149). -/
theorem fMax_of_isNaN {a b : F32} (h : fIsNaN a = true ∨ fIsNaN b = true) : fMax a b = qNaN := by
  simp [fMax, h]

/-- Without a NaN, the operand of the greater key. -/
theorem fMax_of_not_isNaN {a b : F32} (ha : fIsNaN a = false) (hb : fIsNaN b = false) :
    fMax a b = if fKey a < fKey b then b else a := by
  simp [fMax, ha, hb]

/-- Without a NaN, the key of the maximum is the maximum of the keys. -/
theorem fKey_fMax {a b : F32} (ha : fIsNaN a = false) (hb : fIsNaN b = false) :
    fKey (fMax a b) = max (fKey a) (fKey b) := by
  rw [fMax_of_not_isNaN ha hb, apply_ite fKey]
  split <;> omega

/-- The maximum is a NaN exactly where an operand is. -/
@[simp] theorem fIsNaN_fMax (a b : F32) : fIsNaN (fMax a b) = (fIsNaN a || fIsNaN b) := by
  by_cases h : fIsNaN a = true ∨ fIsNaN b = true
  · rw [fMax_of_isNaN h, (Bool.or_eq_true _ _).mpr h]
    decide
  · obtain ⟨ha, hb⟩ : fIsNaN a = false ∧ fIsNaN b = false := by simpa using h
    rw [fMax_of_not_isNaN ha hb]
    split <;> simp [ha, hb]

/-- The IEEE order implies the order of the keys. -/
theorem fKey_lt_of_fLt {a b : F32} (h : fLt a b = true) : fKey a < fKey b := by
  unfold fLt at h
  split at h
  · contradiction
  · split at h
    · contradiction
    · exact of_decide_eq_true h

/-- With the keys injective, the maximum of keys decides the maximum whichever operand stands first. -/
theorem fMax_comm (a b : F32) : fMax a b = fMax b a := by
  by_cases h : fIsNaN a = true ∨ fIsNaN b = true
  · rw [fMax_of_isNaN h, fMax_of_isNaN h.symm]
  · obtain ⟨ha, hb⟩ : fIsNaN a = false ∧ fIsNaN b = false := by simpa using h
    apply fKey_injective
    rw [fKey_fMax ha hb, fKey_fMax hb ha, max_comm]

/-- A maximum of three is the same however it is grouped: the quiet NaN where one of them is a NaN, else the value of the greatest key. -/
theorem fMax_assoc (a b c : F32) : fMax (fMax a b) c = fMax a (fMax b c) := by
  by_cases h : fIsNaN a = true ∨ fIsNaN b = true ∨ fIsNaN c = true
  · rw [fMax_of_isNaN (a := fMax a b) (by simpa [or_assoc] using h), fMax_of_isNaN (b := fMax b c) (by simpa using h)]
  · obtain ⟨ha, hb, hc⟩ : fIsNaN a = false ∧ fIsNaN b = false ∧ fIsNaN c = false := by simpa using h
    have hab : fIsNaN (fMax a b) = false := by simp [ha, hb]
    have hbc : fIsNaN (fMax b c) = false := by simp [hb, hc]
    apply fKey_injective
    rw [fKey_fMax hab hc, fKey_fMax ha hb, fKey_fMax ha hbc, fKey_fMax hb hc, max_assoc]

/-- The lesser operand of the IEEE order gives way, on either side (R149). -/
theorem fMax_of_fLt {a b : F32} (ha : fIsNaN a = false) (hb : fIsNaN b = false) (h : fLt a b = true) :
    fMax a b = b ∧ fMax b a = b := by
  have hmax : fMax a b = b := by rw [fMax_of_not_isNaN ha hb, if_pos (fKey_lt_of_fLt h)]
  exact ⟨hmax, (fMax_comm b a).trans hmax⟩

/-- +0 is greater than −0 (R149). -/
theorem fMax_posZero_negZero : fMax 0#32 0x80000000#32 = 0#32 := by decide

/-- Settles O21: away from NaN the maximum is the maximum of injective keys, so it inherits the laws of `max`; the quiet NaN absorbs. -/
theorem maximumIgnoresOrder : Obligations.MaximumIgnoresOrder :=
  ⟨fun _ _ => fMax_of_isNaN, fMax_posZero_negZero, (fMax_comm _ _).trans fMax_posZero_negZero,
    fun _ _ => fMax_of_fLt, fMax_comm, fMax_assoc⟩

end Sys2Proof.Proofs
end

section
/-! The filter of R422 on a thimble channel. A signed count of w bits is the balanced residue of its bits modulo 2^w, so a value in range is read back as it was stored; and the filter's next value lies between the old value and the sample, so it stays in range. What a sample stores in TH_CH is stated for every channel that the thimble reads, channel 15 with an address set among them (R421). -/

namespace Sys2Proof.Proofs

open Sys2Proof.Machine Sys2Proof.Laws

/-- Two's complement is the balanced residue. -/
theorem toSigned_eq_bmod {w : Nat} (hw : 0 < w) (n : Nat) : toSigned w n = (n : Int).bmod (2 ^ w) := by
  obtain ⟨k, rfl⟩ : ∃ k, w = k + 1 := ⟨w - 1, by omega⟩
  have hpow : 2 ^ (k + 1) = 2 * 2 ^ k := pow_succ' 2 k
  unfold toSigned Int.bmod
  simp only [Nat.add_sub_cancel]
  rw [show ((n : Int) % (2 ^ (k + 1) : Nat)) = ((n % 2 ^ (k + 1) : Nat) : Int) by push_cast; rfl]
  split <;> split <;> omega

/-- Cutting a number to w bits leaves its signed value. -/
theorem toSigned_mod (w n : Nat) : toSigned w (n % 2 ^ w) = toSigned w n := by
  simp only [toSigned, Nat.mod_mod]

/-- A signed value of w bits is read back as it was stored. -/
theorem toSigned_ofSigned {w : Nat} {x : Int} (hw : 0 < w) (hlo : -2 ^ (w - 1) ≤ x) (hhi : x < 2 ^ (w - 1)) :
    toSigned w (ofSigned w x) = x := by
  obtain ⟨k, rfl⟩ : ∃ k, w = k + 1 := ⟨w - 1, by omega⟩
  have hpow : (2 : Int) ^ (k + 1) = 2 * 2 ^ k := pow_succ' 2 k
  have hnn : 0 ≤ x % ((2 ^ (k + 1) : Nat) : Int) := Int.emod_nonneg _ (by positivity)
  rw [toSigned_eq_bmod hw, ofSigned, Int.toNat_of_nonneg hnn, Int.emod_bmod]
  simp only [Nat.add_sub_cancel] at hlo hhi
  exact Int.bmod_eq_of_le (by push_cast; omega) (by push_cast; omega)

/-- A signed value of w bits is in range. -/
theorem toSigned_bounds {w : Nat} (hw : 0 < w) (n : Nat) : -2 ^ (w - 1) ≤ toSigned w n ∧ toSigned w n < 2 ^ (w - 1) := by
  obtain ⟨k, rfl⟩ : ∃ k, w = k + 1 := ⟨w - 1, by omega⟩
  have hpow : (2 : Int) ^ (k + 1) = 2 * 2 ^ k := pow_succ' 2 k
  have hpos : 0 < 2 ^ (k + 1) := by positivity
  have hle := Int.le_bmod (x := n) hpos
  have hlt := Int.bmod_lt (x := n) hpos
  rw [toSigned_eq_bmod hw, Nat.add_sub_cancel]
  push_cast at hle hlt ⊢
  omega

/-- A step of a fraction 1/d of the way, rounded down, stays between the bounds of where it starts and where it heads. -/
theorem partial_step_bounds {lo hi x y d : Int} (hd : 0 < d) (hx : lo ≤ x ∧ x < hi) (hy : lo ≤ y ∧ y < hi) :
    lo ≤ y + (x - y) / d ∧ y + (x - y) / d < hi := by
  obtain ⟨hlx, hxh⟩ := hx
  obtain ⟨hly, hyh⟩ := hy
  rcases le_total y x with hyx | hxy
  · have hnn : 0 ≤ (x - y) / d := Int.ediv_nonneg (by omega) hd.le
    have hle : (x - y) / d ≤ x - y := Int.ediv_le_self _ (by omega)
    omega
  · have hnp : (x - y) / d ≤ 0 := Int.ediv_nonpos_of_nonpos_of_neg (by omega) hd
    have hge : x - y ≤ (x - y) / d := by
      rw [Int.le_ediv_iff_mul_le hd]
      nlinarith
    omega

/-- A field reads as before when a bit outside it is set. -/
theorem rdF_wrB_other {a i hi lo : Nat} {b : Bool} {s : State} (h : regsWf s.regs = true) (k : i < 64) (d : i < lo ∨ hi < i) :
    rdF (wrB a i b s) a hi lo = rdF s a hi lo :=
  rdF_wrF_other a i i _ hi lo s h (Nat.le_refl i) k d

/-- The filter's value after the sample x of channel c (R422). -/
def nextFilt (s : State) (c : Nat) (x : Int) : Int :=
  if s.thimble.primed.contains c then filt s c + (x - filt s c) / ((2 ^ rdF s (thCh c) 2 0 : Nat) : Int) else x

/-- TH_CH of channel c after the sample x, written field by field: RAW, FILT and VALID. -/
def storeSample (c : Nat) (x y : Int) (s : State) : State :=
  wrB (thCh c) 31 true (wrF (thCh c) 47 32 (ofSigned 16 y) (wrF (thCh c) 63 48 (ofSigned 16 x) s))

/-- The channel has taken its first sample since the cold reset. -/
def markPrimed (c : Nat) (s : State) : State :=
  { s with thimble := { s.thimble with primed := insNat s.thimble.primed c } }

theorem rdF_markPrimed (c : Nat) (s : State) (a hi lo : Nat) : rdF (markPrimed c s) a hi lo = rdF s a hi lo := rfl

theorem rdB_markPrimed (c : Nat) (s : State) (a i : Nat) : rdB (markPrimed c s) a i = rdB s a i := rfl

theorem filt_markPrimed (c : Nat) (s : State) (c' : Nat) : filt (markPrimed c s) c' = filt s c' := rfl

/-- A count that TH_CH holds is 16 bits wide and signed (R421). -/
def InRange (x : Int) : Prop := -32768 ≤ x ∧ x < 32768

theorem filt_inRange (s : State) (c : Nat) : InRange (filt s c) := by
  simpa [InRange, filt] using toSigned_bounds (w := 16) (by decide) (rdF s (thCh c) 47 32)

theorem toSigned_ofSigned_of_inRange {x : Int} (hx : InRange x) : toSigned 16 (ofSigned 16 x) = x := by
  obtain ⟨hlo, hhi⟩ := hx
  exact toSigned_ofSigned (by decide) (by simpa using hlo) (by simpa using hhi)

theorem nextFilt_inRange {s : State} {c : Nat} {x : Int} (hx : InRange x) : InRange (nextFilt s c x) := by
  unfold nextFilt
  split
  · exact partial_step_bounds (by positivity) hx (filt_inRange s c)
  · exact hx

/-- A sample of a channel that is read stores RAW, FILT and VALID, and primes the filter (R421, R422). -/
theorem sampleChannel_value {s : State} {c : Nat} {x : Int} (hon : c ≠ 15 ∨ rdF s 0xC00020 6 0 ≠ 0) (hx : InRange x) :
    sampleChannel c (.value x) s = markPrimed c (storeSample c x (nextFilt s c x) s) := by
  have hread : (decide (c ≠ 15) || decide (rdF s 0xC00020 6 0 ≠ 0)) = true := by simpa using hon
  simp only [sampleChannel, hread, toSigned_ofSigned_of_inRange hx, Bool.not_true, Bool.false_eq_true, if_false, markPrimed, storeSample, nextFilt]

/-- A failed read clears VALID and does nothing else (R421). -/
theorem sampleChannel_failed (c : Nat) (s : State) : sampleChannel c .failed s = wrB (thCh c) 31 false s := rfl

section
variable {s : State} (hregs : regsWf s.regs = true)
include hregs

theorem raw_storeSample (c : Nat) {x : Int} (y : Int) (hx : InRange x) :
    toSigned 16 (rdF (storeSample c x y s) (thCh c) 63 48) = x := by
  have hraw := regsWf_wrF (thCh c) 63 48 (ofSigned 16 x) s hregs
  have hfilt := regsWf_wrF (thCh c) 47 32 (ofSigned 16 y) _ hraw
  rw [storeSample, rdF_wrB_other hfilt (by decide) (by decide), rdF_wrF_other _ _ _ _ _ _ _ hraw (by decide) (by decide) (by decide),
    rdF_wrF_same _ _ _ _ _ hregs (by decide) (by decide), toSigned_mod, toSigned_ofSigned_of_inRange hx]

theorem filt_storeSample (c : Nat) (x : Int) {y : Int} (hy : InRange y) : filt (storeSample c x y s) c = y := by
  have hraw := regsWf_wrF (thCh c) 63 48 (ofSigned 16 x) s hregs
  have hfilt := regsWf_wrF (thCh c) 47 32 (ofSigned 16 y) _ hraw
  rw [filt, storeSample, rdF_wrB_other hfilt (by decide) (by decide), rdF_wrF_same _ _ _ _ _ hraw (by decide) (by decide),
    toSigned_mod, toSigned_ofSigned_of_inRange hy]

theorem valid_storeSample (c : Nat) (x y : Int) : rdB (storeSample c x y s) (thCh c) 31 = true :=
  rdB_wrB_same _ _ _ _ (regsWf_wrF _ _ _ _ _ (regsWf_wrF _ _ _ _ _ hregs)) (by decide)

/-- After a sample RAW is the sample, VALID is set and FILT is the filter's next value, on every channel that is read (R421, R422). -/
theorem th_ch_after_value {c : Nat} {x : Int} (hon : c ≠ 15 ∨ rdF s 0xC00020 6 0 ≠ 0) (hx : InRange x) :
    toSigned 16 (rdF (sampleChannel c (.value x) s) (thCh c) 63 48) = x ∧ rdB (sampleChannel c (.value x) s) (thCh c) 31 = true ∧
      filt (sampleChannel c (.value x) s) c = nextFilt s c x := by
  rw [sampleChannel_value hon hx, rdF_markPrimed, rdB_markPrimed, filt_markPrimed]
  exact ⟨raw_storeSample hregs c _ hx, valid_storeSample hregs c x _, filt_storeSample hregs c x (nextFilt_inRange hx)⟩

/-- After a failed read FILT is as before and VALID is clear (R421). -/
theorem th_ch_after_failed (c : Nat) :
    filt (sampleChannel c .failed s) c = filt s c ∧ rdB (sampleChannel c .failed s) (thCh c) 31 = false := by
  rw [sampleChannel_failed]
  exact ⟨congrArg (toSigned 16) (rdF_wrB_other hregs (by decide) (by decide)), rdB_wrB_same _ _ _ _ hregs (by decide)⟩

end

/-- Settles O40: the fields of TH_CH are stored apart from each other, and the filter's next value, between the old one and the sample, is in the range that reads back. -/
theorem samplesAreFiltered : Obligations.SamplesAreFiltered := by
  intro s c x hs hc hlo hhi
  have hx : InRange x := ⟨hlo, Int.lt_add_one_of_le hhi⟩
  obtain ⟨hraw, hvalid, hfilt⟩ := th_ch_after_value hs.regs (.inl hc.ne) hx
  refine ⟨hraw, hvalid, fun hprimed => ?_, fun hprimed => ?_, th_ch_after_failed hs.regs c⟩
  · rw [hfilt, nextFilt, if_pos hprimed]
  · rw [hfilt, nextFilt, if_neg (ne_true_of_eq_false hprimed)]

end Sys2Proof.Proofs
end

section
/-! Serial-number order (R448): what the model's two comparisons say of n-bit numbers, by the difference of the numbers modulo 2^n. -/

namespace Sys2Proof.Proofs

open Sys2Proof.Machine

section
variable {n a b : Nat}

theorem serialLater_iff (hb : b < 2 ^ n) :
    serialLater n a b = true ↔ 1 ≤ (a + 2 ^ n - b) % 2 ^ n ∧ (a + 2 ^ n - b) % 2 ^ n < 2 ^ (n - 1) := by
  simp only [serialLater, Nat.mod_eq_of_lt hb, Bool.and_eq_true, decide_eq_true_eq]

theorem serialAtLeast_iff (ha : a < 2 ^ n) (hb : b < 2 ^ n) :
    serialAtLeast n a b = true ↔ a = b ∨ serialLater n a b = true := by
  simp only [serialAtLeast, Nat.mod_eq_of_lt ha, Nat.mod_eq_of_lt hb, Bool.or_eq_true, decide_eq_true_eq]

/-- A difference of half the range is neither 0, as that of equal numbers, nor below half the range, as that of a later number. -/
theorem serialAtLeast_eq_false_of_half (ha : a < 2 ^ n) (hb : b < 2 ^ n) (hhalf : (a + 2 ^ n - b) % 2 ^ n = 2 ^ (n - 1)) :
    serialAtLeast n a b = false := by
  rw [Bool.eq_false_iff, ne_eq, serialAtLeast_iff ha hb, serialLater_iff hb, hhalf]
  rintro (rfl | ⟨-, hlater⟩)
  · rw [Nat.add_sub_cancel_left, Nat.mod_self] at hhalf
    exact (Nat.two_pow_pos (n - 1)).ne hhalf
  · exact Nat.lt_irrefl _ hlater

end

/-- Settles O9: both comparisons read the difference modulo 2^n, and for it "below 2^(n−1)" is "at most 2^(n−1) − 1", as 2^(n−1) is positive. -/
theorem serialNumberOrder : Obligations.SerialNumberOrder := by
  intro n a b _ ha hb
  refine ⟨?_, serialAtLeast_iff ha hb, serialAtLeast_eq_false_of_half ha hb⟩
  rw [serialLater_iff hb, Nat.le_sub_one_iff_lt (Nat.two_pow_pos (n - 1))]

end Sys2Proof.Proofs
end

section
/-! What a step is, and what every command has in common: it answers a next state (R434), it leaves the waiting commands and the fuses alone (R392), and it keeps the canonical forms. -/

namespace Sys2Proof.Proofs

open Sys2Proof.Machine Sys2Proof.Laws

/-- An outcome that is a next state. -/
def Answers (o : Host.Outcome State Fault Refusal) : Prop := ∃ t, o = .next t

theorem Answers.next (t : State) : Answers (.next t) := ⟨t, rfl⟩

theorem Answers.ite {c : Prop} [Decidable c] {x y : Host.Outcome State Fault Refusal} (hx : Answers x) (hy : Answers y) : Answers (if c then x else y) := by
  split
  · exact hx
  · exact hy

/-- Whatever the handling of a request comes to, the controller answers a next state. -/
theorem control_answers (c : CmdSpec) (len : Bool) (b : State → Reply) (r : Req) (s : State) : Answers (Machine.control c len b r s) := by
  unfold Machine.control
  dsimp only
  repeat' apply Answers.ite
  all_goals exact .next _

/-- A write of a register that is a command of its own answers as that command does. -/
theorem writeOwn_answers (addr : Nat) (value : Word) (s : State) : Answers (writeOwn addr value s) := by
  simp only [writeOwn, writeArray, execRegionEnableWrite, execCounterCtrlClear, execMemRetrainStart, execTickPeriodNextWrite, execErrlogHeadWrite, execThWdogPet,
    execChMarginStart, execChCtrlEnable, execChTailWrite, execKrTxCtrlEnable, execKrTxTailWrite, execKrRxCtrlEnable, execKrRxHeadWrite, execBucketLevelWrite, execMonCfgWrite, execMboxRelease]
  repeat' split
  all_goals exact .next _

/-- Every command answers a next state: the meanings are next states outright, branches that end in next states, or requests that the controller takes. -/
theorem exec_answers (c : Instr) (s : State) : Answers (exec c s) := by
  cases c with
  | resetNAssert | clk100Loss | refclkLoss _ | planSeal | planCommitWrite _ | emissionGuard | shuttleResume | addI32 _ _ _ | addF32 _ _ _ | minI32 _ _ _ | maxI32 _ _ _
    | minF32 _ _ _ | maxF32 _ _ _ | andOp _ _ _ _ | orOp _ _ _ _ | cas _ _ _ _ _ | refInc _ _ | refDec _ _ | memoryAccess _ _ _ _ _ _ | droopTrip | tickPeriodNextWrite _
    | memRetrainStart _ | errlogHeadWrite _ | thWdogPet _ | tapInstruction _ => exact .next _
  | deviceInfo _ | deviceTick _ | devicePlan _ | devicePort _ | deviceAddr _ | deviceReset _ | deviceStatus _ | tenantCreate _ | tenantDestroy _ | tenantReset _
    | tenantSet _ | tenantQuery _ | budgetSet _ | budgetQuery _ | noticeRoute _ | noticeQuery _ | modelStage _ | modelPut _ | modelLoad _ _ | modelUnload _ | modelScale _
    | modelQuery _ | modelRestore _ | modelReplica _ | grammarLoad _ _ | grammarUnload _ | seqOpen _ | seqCancel _ | seqQuery _ | seqAllow _ | prefixPin _ | prefixUnpin _
    | prefixQuery _ | powerCap _ | powerCoord _ | powerSleep _ | powerQuery _ | powerEnergy _ | memorySlice _ | memoryHem _ | memoryMargin _ | memoryQuery _
    | fabricJoin _ | fabricLeave _ | fabricQuery _ | monitorSet _ | monitorRead _ | monitorClear _ | monitorRegs _ | firmwarePut _ | firmwareUpdate _ _ | attestCerts _
    | attestQuote _ | attestSession _ _ | maintRow _ | maintFuse _ | maintRread _ | maintDebug _ => apply control_answers
  | unknownCommand _ _ => exact .ite (.next _) (by apply control_answers)
  | registerWrite _ _ => exact .ite (writeOwn_answers _ _ _) (.next _)
  | coldBoot _ | railFailure _ | linkStateChange _ _ _ _ | memTrainingComplete _ | zeroFillComplete _ | bootSolicit | bootOffer _ _ | bootBlock _ _ _ _
    | privateMemoryUncorrectable | tickEdge | planFreezeTimeout | missedTickLimit | executionBegin | queueStoreUncorrectable _ | vNop _ | vAdd _ _ _ _ | vSub _ _ _ _
    | vMul _ _ _ _ | vFma _ _ _ _ _ | vMax _ _ _ _ | vMin _ _ _ _ | vExp _ _ _ | vRcp _ _ _ | vRsq _ _ _ | vDiv _ _ _ _ | vLd _ _ _ | vSt _ _ _ | vRsum _ _ _
    | vRmax _ _ _ | vPhase _ | pageWaitLimit _ | shuttleDescHead _ | shuttleTriggerFire _ | shuttleCopy _ _ | shuttleFill _ | shuttleCompare _ _ | pageListGather _ _
    | reduceInto _ _ | shuttleWind _ _ | shuttleUnwind _ _ | shuttleDescComplete _ | shuttleBusError _ _ | patrolScrub _ _ | laneFailing _ _ _ | retrain _
    | retrainComplete _ | ethernetFrameReceive _ | obushDatagramReceive _ _ _ | obushRetransmitTimeout _ _ | bootMessageReceive _ _ | wakeFrame _ | sleepEntryComplete
    | thimbleSample _ | thermalTrip _ | powerMonitorSample _ | droopEnd | kralynTxDesc _ | kralynDataReceive _ _ | kralynCapReceive _ | kralynRetransmitTimeout _
    | kralynConnectionLoss _ | tapeSyncSend | tapeSyncReceive _ | tapeDelayReqReceive _ _ _ | tapeExchangeComplete _ | joinStep | timekeeperSwitch | chMarginStart _ _ _
    | chCtrlEnable _ _ | chCtrlResume _ _ | chTailWrite _ _ | krTxCtrlEnable _ _ | krTxTailWrite _ _ | krRxCtrlEnable _ _ | krRxHeadWrite _ _ | mboxRelease _ _
    | bucketLevelWrite _ _ | monCfgWrite _ _ | regionEnableWrite _ _ | modeChangeComplete _ _ | core2PlannerHelp =>
    repeat' apply Answers.ite
    all_goals exact .next _
  | railRetry _ | bootRequestTimeout _ | warmReset _ | controllerRestart | watchdogExpiry | cowCopyComplete _ _ _ | stitcherTakePiece _ _ _ | tableBuild _ _ _
    | chunkStreamStart _ _ _ | accBankSwap _ _ _ _ | seamRecordL1 _ _ _ | seamRecordL2 _ _ | seamReserve _ | barrierRelease _ | seamOperationClose _ _ _ | stepCommit _
    | samplerDraw _ _ _ | gateRouting _ | expertPieceExpansion _ | denseCommand _ _ | attentionCommand _ _ _ | embeddingGather _ _ | vectorProgram _ _ | pageWrite _
    | hemWriteComplete | marginRunEnd _ _ _ | marginRotation _ _ _ _ | monitorSample _ _ | quarantinePauseExpire _ | kralynConnectReceive _ | kralynAcceptReceive _
    | kralynRefuseReceive _ | kralynAckReceive _ | kralynCloseReceive _ | firmwareUpdatePauseEnd | seqFeed _ _ | counterCtrlClear _ _ =>
    dsimp only [exec, execRailRetry, execBootRequestTimeout, execWarmReset, execControllerRestart, execWatchdogExpiry, execCowCopyComplete, execStitcherTakePiece, execTableBuild,
      execChunkStreamStart, execAccBankSwap, execSeamRecordL1, execSeamRecordL2, execSeamReserve, execBarrierRelease, execSeamOperationClose, execStepCommit, execSamplerDraw,
      execGateRouting, execExpertPieceExpansion, execDenseCommand, execAttentionCommand, execEmbeddingGather, execVectorProgram, execPageWrite, execHemWriteComplete,
      execMarginRunEnd, execMarginRotation, execMonitorSample, execQuarantinePauseExpire, execKralynConnectReceive, execKralynAcceptReceive, execKralynRefuseReceive,
      execKralynAckReceive, execKralynCloseReceive, execFirmwareUpdatePauseEnd, execSeqFeed, execCounterCtrlClear]
    repeat' split
    all_goals exact .next _

/-- What a command leaves alone and keeps, from what its meaning does. -/
theorem exec_keeps (c : Instr) (s : State) : KeepsOut s (exec c s) :=
  match c with
  | .resetNAssert => keeps_execResetNAssert s
  | .coldBoot _ => keeps_execColdBoot _ s
  | .railFailure _ => keeps_execRailFailure _ s
  | .railRetry _ => keeps_execRailRetry _ s
  | .clk100Loss => keeps_execClk100Loss s
  | .refclkLoss _ => keeps_execRefclkLoss _ s
  | .linkStateChange _ _ _ _ => keeps_execLinkStateChange _ _ _ _ s
  | .memTrainingComplete _ => keeps_execMemTrainingComplete _ s
  | .zeroFillComplete _ => keeps_execZeroFillComplete _ s
  | .bootSolicit => keeps_execBootSolicit s
  | .bootOffer _ _ => keeps_execBootOffer _ _ s
  | .bootRequestTimeout _ => keeps_execBootRequestTimeout _ s
  | .bootBlock _ _ _ _ => keeps_execBootBlock _ _ _ _ s
  | .warmReset _ => keeps_execWarmReset _ s
  | .controllerRestart => keeps_execControllerRestart s
  | .watchdogExpiry => keeps_execWatchdogExpiry s
  | .privateMemoryUncorrectable => keeps_execPrivateMemoryUncorrectable s
  | .tickEdge => keeps_execTickEdge s
  | .planSeal => keeps_execPlanSeal s
  | .planCommitWrite _ => keeps_execPlanCommitWrite _ s
  | .planFreezeTimeout => keeps_execPlanFreezeTimeout s
  | .missedTickLimit => keeps_execMissedTickLimit s
  | .executionBegin => keeps_execExecutionBegin s
  | .cowCopyComplete _ _ _ => keeps_execCowCopyComplete _ _ _ s
  | .emissionGuard => keeps_execEmissionGuard s
  | .stitcherTakePiece _ _ _ => keeps_execStitcherTakePiece _ _ _ s
  | .tableBuild _ _ _ => keeps_execTableBuild _ _ _ s
  | .chunkStreamStart _ _ _ => keeps_execChunkStreamStart _ _ _ s
  | .accBankSwap _ _ _ _ => keeps_execAccBankSwap _ _ _ _ s
  | .queueStoreUncorrectable _ => keeps_execQueueStoreUncorrectable _ s
  | .seamRecordL1 _ _ _ => keeps_execSeamRecordL1 _ _ _ s
  | .seamRecordL2 _ _ => keeps_execSeamRecordL2 _ _ s
  | .seamReserve _ => keeps_execSeamReserve _ s
  | .barrierRelease _ => keeps_execBarrierRelease _ s
  | .seamOperationClose _ _ _ => keeps_execSeamOperationClose _ _ _ s
  | .stepCommit _ => keeps_execStepCommit _ s
  | .samplerDraw _ _ _ => keeps_execSamplerDraw _ _ _ s
  | .gateRouting _ => keeps_execGateRouting _ s
  | .expertPieceExpansion _ => keeps_execExpertPieceExpansion _ s
  | .denseCommand _ _ => keeps_execDenseCommand _ _ s
  | .attentionCommand _ _ _ => keeps_execAttentionCommand _ _ _ s
  | .embeddingGather _ _ => keeps_execEmbeddingGather _ _ s
  | .vectorProgram _ _ => keeps_execVectorProgram _ _ s
  | .vNop _ => keeps_execVNop _ s
  | .vAdd _ _ _ _ => keeps_execVAdd _ _ _ _ s
  | .vSub _ _ _ _ => keeps_execVSub _ _ _ _ s
  | .vMul _ _ _ _ => keeps_execVMul _ _ _ _ s
  | .vFma _ _ _ _ _ => keeps_execVFma _ _ _ _ _ s
  | .vMax _ _ _ _ => keeps_execVMax _ _ _ _ s
  | .vMin _ _ _ _ => keeps_execVMin _ _ _ _ s
  | .vExp _ _ _ => keeps_execVExp _ _ _ s
  | .vRcp _ _ _ => keeps_execVRcp _ _ _ s
  | .vRsq _ _ _ => keeps_execVRsq _ _ _ s
  | .vDiv _ _ _ _ => keeps_execVDiv _ _ _ _ s
  | .vLd _ _ _ => keeps_execVLd _ _ _ s
  | .vSt _ _ _ => keeps_execVSt _ _ _ s
  | .vRsum _ _ _ => keeps_execVRsum _ _ _ s
  | .vRmax _ _ _ => keeps_execVRmax _ _ _ s
  | .vPhase _ => keeps_execVPhase _ s
  | .pageWrite _ => keeps_execPageWrite _ s
  | .hemWriteComplete => keeps_execHemWriteComplete s
  | .pageWaitLimit _ => keeps_execPageWaitLimit _ s
  | .shuttleDescHead _ => keeps_execShuttleDescHead _ s
  | .shuttleTriggerFire _ => keeps_execShuttleTriggerFire _ s
  | .shuttleCopy _ _ => keeps_execShuttleCopy _ _ s
  | .shuttleFill _ => keeps_execShuttleFill _ s
  | .shuttleCompare _ _ => keeps_execShuttleCompare _ _ s
  | .pageListGather _ _ => keeps_execPageListGather _ _ s
  | .reduceInto _ _ => keeps_execReduceInto _ _ s
  | .shuttleWind _ _ => keeps_execShuttleWind _ _ s
  | .shuttleUnwind _ _ => keeps_execShuttleUnwind _ _ s
  | .shuttleDescComplete _ => keeps_execShuttleDescComplete _ s
  | .shuttleBusError _ _ => keeps_execShuttleBusError _ _ s
  | .shuttleResume => keeps_execShuttleResume s
  | .addI32 _ _ _ => keeps_execAddI32 _ _ _ s
  | .addF32 _ _ _ => keeps_execAddF32 _ _ _ s
  | .minI32 _ _ _ => keeps_execMinI32 _ _ _ s
  | .maxI32 _ _ _ => keeps_execMaxI32 _ _ _ s
  | .minF32 _ _ _ => keeps_execMinF32 _ _ _ s
  | .maxF32 _ _ _ => keeps_execMaxF32 _ _ _ s
  | .andOp _ _ _ _ => keeps_execAndOp _ _ _ _ s
  | .orOp _ _ _ _ => keeps_execOrOp _ _ _ _ s
  | .cas _ _ _ _ _ => keeps_execCas _ _ _ _ _ s
  | .refInc _ _ => keeps_execRefInc _ _ s
  | .refDec _ _ => keeps_execRefDec _ _ s
  | .memoryAccess _ _ _ _ _ _ => keeps_execMemoryAccess _ _ _ _ _ _ s
  | .patrolScrub _ _ => keeps_execPatrolScrub _ _ s
  | .laneFailing _ _ _ => keeps_execLaneFailing _ _ _ s
  | .retrain _ => keeps_execRetrain _ s
  | .retrainComplete _ => keeps_execRetrainComplete _ s
  | .marginRunEnd _ _ _ => keeps_execMarginRunEnd _ _ _ s
  | .marginRotation _ _ _ _ => keeps_execMarginRotation _ _ _ _ s
  | .ethernetFrameReceive _ => keeps_execEthernetFrameReceive _ s
  | .obushDatagramReceive _ _ _ => keeps_execObushDatagramReceive _ _ _ s
  | .obushRetransmitTimeout _ _ => keeps_execObushRetransmitTimeout _ _ s
  | .bootMessageReceive _ _ => keeps_execBootMessageReceive _ _ s
  | .wakeFrame _ => keeps_execWakeFrame _ s
  | .sleepEntryComplete => keeps_execSleepEntryComplete s
  | .thimbleSample _ => keeps_execThimbleSample _ s
  | .thermalTrip _ => keeps_execThermalTrip _ s
  | .powerMonitorSample _ => keeps_execPowerMonitorSample _ s
  | .droopTrip => keeps_execDroopTrip s
  | .droopEnd => keeps_execDroopEnd s
  | .monitorSample _ _ => keeps_execMonitorSample _ _ s
  | .quarantinePauseExpire _ => keeps_execQuarantinePauseExpire _ s
  | .kralynTxDesc _ => keeps_execKralynTxDesc _ s
  | .kralynConnectReceive _ => keeps_execKralynConnectReceive _ s
  | .kralynAcceptReceive _ => keeps_execKralynAcceptReceive _ s
  | .kralynRefuseReceive _ => keeps_execKralynRefuseReceive _ s
  | .kralynDataReceive _ _ => keeps_execKralynDataReceive _ _ s
  | .kralynAckReceive _ => keeps_execKralynAckReceive _ s
  | .kralynCloseReceive _ => keeps_execKralynCloseReceive _ s
  | .kralynCapReceive _ => keeps_execKralynCapReceive _ s
  | .kralynRetransmitTimeout _ => keeps_execKralynRetransmitTimeout _ s
  | .kralynConnectionLoss _ => keeps_execKralynConnectionLoss _ s
  | .tapeSyncSend => keeps_execTapeSyncSend s
  | .tapeSyncReceive _ => keeps_execTapeSyncReceive _ s
  | .tapeDelayReqReceive _ _ _ => keeps_execTapeDelayReqReceive _ _ _ s
  | .tapeExchangeComplete _ => keeps_execTapeExchangeComplete _ s
  | .joinStep => keeps_execJoinStep s
  | .timekeeperSwitch => keeps_execTimekeeperSwitch s
  | .firmwareUpdatePauseEnd => keeps_execFirmwareUpdatePauseEnd s
  | .deviceInfo _ => keeps_execDeviceInfo _ s
  | .deviceTick _ => keeps_execDeviceTick _ s
  | .devicePlan _ => keeps_execDevicePlan _ s
  | .devicePort _ => keeps_execDevicePort _ s
  | .deviceAddr _ => keeps_execDeviceAddr _ s
  | .deviceReset _ => keeps_execDeviceReset _ s
  | .deviceStatus _ => keeps_execDeviceStatus _ s
  | .tenantCreate _ => keeps_execTenantCreate _ s
  | .tenantDestroy _ => keeps_execTenantDestroy _ s
  | .tenantReset _ => keeps_execTenantReset _ s
  | .tenantSet _ => keeps_execTenantSet _ s
  | .tenantQuery _ => keeps_execTenantQuery _ s
  | .budgetSet _ => keeps_execBudgetSet _ s
  | .budgetQuery _ => keeps_execBudgetQuery _ s
  | .noticeRoute _ => keeps_execNoticeRoute _ s
  | .noticeQuery _ => keeps_execNoticeQuery _ s
  | .modelStage _ => keeps_execModelStage _ s
  | .modelPut _ => keeps_execModelPut _ s
  | .modelLoad _ _ => keeps_execModelLoad _ _ s
  | .modelUnload _ => keeps_execModelUnload _ s
  | .modelScale _ => keeps_execModelScale _ s
  | .modelQuery _ => keeps_execModelQuery _ s
  | .modelRestore _ => keeps_execModelRestore _ s
  | .modelReplica _ => keeps_execModelReplica _ s
  | .grammarLoad _ _ => keeps_execGrammarLoad _ _ s
  | .grammarUnload _ => keeps_execGrammarUnload _ s
  | .seqOpen _ => keeps_execSeqOpen _ s
  | .seqFeed _ _ => keeps_execSeqFeed _ _ s
  | .seqCancel _ => keeps_execSeqCancel _ s
  | .seqQuery _ => keeps_execSeqQuery _ s
  | .seqAllow _ => keeps_execSeqAllow _ s
  | .prefixPin _ => keeps_execPrefixPin _ s
  | .prefixUnpin _ => keeps_execPrefixUnpin _ s
  | .prefixQuery _ => keeps_execPrefixQuery _ s
  | .powerCap _ => keeps_execPowerCap _ s
  | .powerCoord _ => keeps_execPowerCoord _ s
  | .powerSleep _ => keeps_execPowerSleep _ s
  | .powerQuery _ => keeps_execPowerQuery _ s
  | .powerEnergy _ => keeps_execPowerEnergy _ s
  | .memorySlice _ => keeps_execMemorySlice _ s
  | .memoryHem _ => keeps_execMemoryHem _ s
  | .memoryMargin _ => keeps_execMemoryMargin _ s
  | .memoryQuery _ => keeps_execMemoryQuery _ s
  | .fabricJoin _ => keeps_execFabricJoin _ s
  | .fabricLeave _ => keeps_execFabricLeave _ s
  | .fabricQuery _ => keeps_execFabricQuery _ s
  | .monitorSet _ => keeps_execMonitorSet _ s
  | .monitorRead _ => keeps_execMonitorRead _ s
  | .monitorClear _ => keeps_execMonitorClear _ s
  | .monitorRegs _ => keeps_execMonitorRegs _ s
  | .firmwarePut _ => keeps_execFirmwarePut _ s
  | .firmwareUpdate _ _ => keeps_execFirmwareUpdate _ _ s
  | .attestCerts _ => keeps_execAttestCerts _ s
  | .attestQuote _ => keeps_execAttestQuote _ s
  | .attestSession _ _ => keeps_execAttestSession _ _ s
  | .maintRow _ => keeps_execMaintRow _ s
  | .maintFuse _ => keeps_execMaintFuse _ s
  | .maintRread _ => keeps_execMaintRread _ s
  | .maintDebug _ => keeps_execMaintDebug _ s
  | .tickPeriodNextWrite _ => keeps_execTickPeriodNextWrite _ s
  | .memRetrainStart _ => keeps_execMemRetrainStart _ s
  | .chMarginStart _ _ _ => keeps_execChMarginStart _ _ _ s
  | .chCtrlEnable _ _ => keeps_execChCtrlEnable _ _ s
  | .chCtrlResume _ _ => keeps_execChCtrlResume _ _ s
  | .chTailWrite _ _ => keeps_execChTailWrite _ _ s
  | .krTxCtrlEnable _ _ => keeps_execKrTxCtrlEnable _ _ s
  | .krTxTailWrite _ _ => keeps_execKrTxTailWrite _ _ s
  | .krRxCtrlEnable _ _ => keeps_execKrRxCtrlEnable _ _ s
  | .krRxHeadWrite _ _ => keeps_execKrRxHeadWrite _ _ s
  | .mboxRelease _ _ => keeps_execMboxRelease _ _ s
  | .errlogHeadWrite _ => keeps_execErrlogHeadWrite _ s
  | .bucketLevelWrite _ _ => keeps_execBucketLevelWrite _ _ s
  | .monCfgWrite _ _ => keeps_execMonCfgWrite _ _ s
  | .thWdogPet _ => keeps_execThWdogPet _ s
  | .regionEnableWrite _ _ => keeps_execRegionEnableWrite _ _ s
  | .counterCtrlClear _ _ => keeps_execCounterCtrlClear _ _ s
  | .registerWrite _ _ => keeps_execRegisterWrite _ _ s
  | .tapInstruction _ => keeps_execTapInstruction _ s
  | .modeChangeComplete _ _ => keeps_execModeChangeComplete _ _ s
  | .unknownCommand _ _ => keeps_execUnknownCommand _ _ s
  | .core2PlannerHelp => keeps_execCore2PlannerHelp s

/-- Settles O1: both sides unfold to the same command on the same state. -/
theorem stepTakesFront : Obligations.StepTakesFront := fun _ _ => rfl

/-- Settles O4: every list is empty at reset. -/
theorem canonicalAtReset : Obligations.CanonicalAtReset := ⟨rfl, rfl, rfl, rfl⟩

/-- Settles O5: with no command waiting the tape alone moves on; otherwise the command in front keeps the canonical forms, whatever queue stands behind it. -/
theorem stepKeepsCanonical : Obligations.StepKeepsCanonical := by
  intro s t hs hstep
  cases hp : s.pending with
  | nil =>
    simp only [step, hp] at hstep
    cases hstep
    exact (keeps_idle s (Keeps.refl s)).inv hs
  | cons c rest =>
    simp only [step, hp] at hstep
    exact (exec_keeps c _ t hstep).inv ⟨hs.mem, hs.regs, hs.poison, hs.keys⟩

/-- Settles O6: every command's effect is in the relation that the laws prove of each meaning. -/
theorem commandsKeepQueueAndFuses : Obligations.CommandsKeepQueueAndFuses := fun c s t h =>
  ⟨(exec_keeps c s t h).pending, (exec_keeps c s t h).fuse⟩

/-- Settles O7: the case split over the commands. -/
theorem everyCommandAnswers : Obligations.EveryCommandAnswers := exec_answers

end Sys2Proof.Proofs
end

section
/-! The idle step and the state after reset; bit fields, byte order and the halves of split mode; bytes stored under a key context. -/

namespace Sys2Proof.Proofs

open Sys2Proof.Machine Sys2Proof.Laws

/-- Settles O2: the tape and its fraction are quotient and remainder of the same number. -/
theorem idleStepMovesTape : Obligations.IdleStepMovesTape := by
  intro s hp
  have hstep : step s = .next (idle s) := by simp only [step, hp]
  refine ⟨fun h => ?_, fun hr hc => ⟨idle s, hstep, (keeps_idle s (Keeps.refl s)).pending.trans hp, ?_, ?_⟩⟩
  · rw [hstep, idle, if_pos (by simpa using h)]
  · rw [idle, if_neg (by simp [hr, hc]), fineTape, Nat.mul_comm s.tape]
    exact Nat.div_add_mod _ _
  · rw [idle, if_neg (by simp [hr, hc])]

/-- Settles O3: every table is empty, so each read gives what an unlisted entry reads as. -/
theorem resetState : Obligations.ResetState :=
  ⟨rfl, rfl, fun _ => rfl, rfl, fun _ => rfl, rfl, rfl, rfl, fun _ => rfl, fun _ => rfl, fun _ => rfl, fun _ => rfl, rfl⟩

/-- Byte i of a little-endian field is the number's digit i to the base 256. -/
theorem leBytes_getElem (n v i : Nat) (h : i < (leBytes n v).length) : (leBytes n v)[i] = BitVec.ofNat 8 (v / 256 ^ i) := by
  induction n generalizing v i with
  | zero => simp [leBytes] at h
  | succ n ih =>
    cases i with
    | zero =>
      apply BitVec.eq_of_toNat_eq
      simp [leBytes]
    | succ i =>
      simp only [leBytes, List.getElem_cons_succ, ih, Nat.div_div_eq_div_mul, Nat.pow_succ']

/-- Settles O8, from the laws of fields and of little-endian bytes. -/
theorem fieldsAndBytesReadBack : Obligations.FieldsAndBytesReadBack :=
  ⟨fun w hi lo v h k => ⟨getBits_setBits_same w hi lo v h k, fun hi' lo' => getBits_setBits_other w hi lo v hi' lo' h k⟩,
    fun n v => ⟨leBytes_length n v, ofLe_leBytes n v, leBytes_getElem n v⟩⟩

/-- Settles O10: the low half is the balanced residue modulo 256, so its difference from the value is a multiple of 256. -/
theorem splitHalves : Obligations.SplitHalves := by
  intro x hlo hhi
  unfold splitHigh splitLow
  omega

/-- Settles O11, from the law of a write under a key context. -/
theorem storedBytesReadBack : Obligations.StoredBytesReadBack := by
  intro s alloc ctx a bytes poison hs hplace
  obtain ⟨others, written⟩ := byteAs_storeBytes alloc ctx a bytes poison s ⟨hs.mem, hs.keys⟩ hplace
  exact ⟨written, others⟩

end Sys2Proof.Proofs
end

section
/-! The gates that every request passes, and what a refusal changes. -/

namespace Sys2Proof.Proofs

open Sys2Proof.Machine Sys2Proof.Laws

section
variable {c : CmdSpec} {len : Bool} {b : State → Reply} {r : Req} {s : State}

/-- A request that the firmware does not hear, or that is not the next in turn, stays in its slot. -/
theorem control_waits (h : heard c s = false ∨ inTurn r s = false) : Machine.control c len b r s = .next s := by
  unfold Machine.control
  rw [if_pos (by simpa using h)]

/-- A request in turn that the firmware hears meets the role of its mailbox first. -/
theorem control_badRole (hh : heard c s = true) (ht : inTurn r s = true) (hrole : c.roles.contains (roleOf r.mailbox) = false) :
    Machine.control c len b r s = .next (refuseAt r.mailbox r.session r.correlation c.code 0x0501 0xFFFF s.tape s) := by
  unfold Machine.control
  simp only [hh, ht, hrole, Bool.not_true, Bool.or_self, Bool.not_false, if_true, Bool.false_eq_true, if_false]

section
variable (hh : heard c s = true) (ht : inTurn r s = true) (hrole : c.roles.contains (roleOf r.mailbox) = true)
include hh ht hrole

/-- Then the owner's credential of a maintenance session. -/
theorem control_noCredential (hm : roleOf r.mailbox = 2) (hcred : (sessionOf s (sessionKey r.mailbox r.session)).cred = false) :
    Machine.control c len b r s = .next (refuseAt r.mailbox r.session r.correlation c.code 0x0504 0xFFFF s.tape s) := by
  unfold Machine.control
  rw [if_neg (by simp [hh, ht])]
  dsimp only
  rw [if_neg (by simp only [hrole]; decide), if_pos ⟨hm, by simp [hcred]⟩]

/-- Then a reset of the sender's tenant. -/
theorem control_resetting (hm : roleOf r.mailbox = 0) (hreset : (tenantOf s r.mailbox).resetting ≠ []) :
    Machine.control c len b r s = .next (refuseAt r.mailbox r.session r.correlation c.code 0x0101 0xFFFF (ordinaryEdge s) s) := by
  unfold Machine.control
  rw [if_neg (by simp [hh, ht])]
  dsimp only
  rw [if_neg (by simp only [hrole]; decide), if_neg (by simp [hm]), if_pos ⟨hm, by simpa using hreset⟩]

/-- A request past role, credential and reset meets its length, its slot, the stack memory and the requests before it on the same object. -/
theorem control_past_sender (hcred : roleOf r.mailbox = 2 → (sessionOf s (sessionKey r.mailbox r.session)).cred = true)
    (hreset : roleOf r.mailbox = 0 → (tenantOf s r.mailbox).resetting = []) :
    Machine.control c len b r s =
      if !len then .next (refuseAt r.mailbox r.session r.correlation c.code 0x0205 0xFFFF s.tape s)
      else if slotPoisoned s r then .next (respond r.mailbox r.session r.correlation c.code 0x0404 [] s)
      else if c.stack && rdB s 0x50008 61 then .next (refuseAt r.mailbox r.session r.correlation c.code 0x0404 0xFFFF s.tape s)
      else if behind c r s then .next s
      else .next (conclude c r s (b s)) := by
  unfold Machine.control
  rw [if_neg (by simp [hh, ht])]
  dsimp only
  rw [if_neg (by simp only [hrole]; decide), if_neg (fun z => by simp [hcred z.1] at z), if_neg (fun z => by simp [hreset z.1] at z)]

end
end

/-- Settles O46: each gate is met in the order of `control`. -/
theorem requestGates : Obligations.RequestGates := by
  intro c len b r s
  refine ⟨rfl, fun h => control_waits (.inl h), fun h => control_waits (.inr h), fun hh ht => ⟨control_badRole hh ht, fun hrole => ⟨control_noCredential hh ht hrole, control_resetting hh ht hrole, fun hcred hreset => ?_⟩⟩⟩
  rw [control_past_sender hh ht hrole hcred hreset]
  refine ⟨fun hlen => ?_, fun hlen hslot => ?_, fun hlen hslot hneeds hlost => ?_, fun hlen hslot hstack hbehind => ?_⟩
  · simp [hlen]
  · simp [hlen, hslot]
  · simp [hlen, hslot, hneeds, hlost]
  · have hmem : (c.stack && rdB s 0x50008 61) = false := by simpa using hstack
    simp [hlen, hslot, hmem, hbehind]

/-- What the refusals of a command's own handling send. -/
theorem sent_conclude_refusal {c : CmdSpec} {r : Req} {s : State} {x : Reply}
    (h : (∃ st f v, x = .refuse st f v) ∨ (∃ st f, x = .refuseOpen st f) ∨ (∃ st o, x = .badImage st o) ∨ ∃ at_, x = .busy at_) :
    sentOnly s (conclude c r s x) := by
  rcases h with ⟨st, f, v, rfl⟩ | ⟨st, f, rfl⟩ | ⟨st, o, rfl⟩ | ⟨at_, rfl⟩
  · exact sent_respond _ _ _ _ _ _ _
  · exact sent_refuseAt _ _ _ _ _ _ _ _
  · exact sent_respond _ _ _ _ _ _ _
  · exact sent_refuseAt _ _ _ _ _ _ _ _

/-- An outcome that changes only what sending a message changes. -/
def Sends (s : State) (o : Host.Outcome State Fault Refusal) : Prop := ∃ t, o = .next t ∧ sentOnly s t

theorem Sends.next {s t : State} (h : sentOnly s t) : Sends s (.next t) := ⟨t, rfl, h⟩

theorem Sends.ite {s : State} {c : Prop} [Decidable c] {x y : Host.Outcome State Fault Refusal} (hx : Sends s x) (hy : Sends s y) : Sends s (if c then x else y) := by
  split
  · exact hx
  · exact hy

/-- Every gate of a request sends one refusal or nothing, so the handling alone decides whether more than sending happens. -/
theorem sends_control {c : CmdSpec} {len : Bool} {b : State → Reply} {r : Req} {s : State} (h : sentOnly s (conclude c r s (b s))) :
    Sends s (Machine.control c len b r s) := by
  have stays : Sends s (.next s) := .next (sentOnly_refl s)
  have told (st tape : Nat) : Sends s (.next (refuseAt r.mailbox r.session r.correlation c.code st 0xFFFF tape s)) := .next (sent_refuseAt _ _ _ _ _ _ _ _)
  exact .ite stays (.ite (told _ _) (.ite (told _ _) (.ite (told _ _) (.ite (told _ _) (.ite (.next (sent_respond _ _ _ _ _ _ _)) (.ite (told _ _) (.ite stays (.next h))))))))

/-- Settles O47: a gate or the handling sends one response, and a response changes only what sending changes. -/
theorem refusedRequestChangesNothing : Obligations.RefusedRequestChangesNothing :=
  ⟨sent_respond, fun _ _ _ _ _ h => sends_control (sent_conclude_refusal h)⟩

end Sys2Proof.Proofs
end

section
/-! Registers: what a counter reads after it counted (R42), what zeroing a group of counters leaves, and what a write does to the fields of a register (R7, R8). -/

namespace Sys2Proof.Proofs

open Sys2Proof.Machine Sys2Proof.Laws

/-! Every update of registers rests on these facts of `wr`. -/

theorem wr_only (a : Nat) (v : Word) (s : State) : wr a v s = { s with regs := (wr a v s).regs } := rfl

theorem rdF_wrF_elsewhere {a hi lo v b hi' lo' : Nat} {s : State} (h : b ≠ a) : rdF (wrF a hi lo v s) b hi' lo' = rdF s b hi' lo' := by
  simp only [rdF, rd_wrF_other _ _ _ _ _ _ h]

theorem rdB_wrF_elsewhere {a hi lo v b i : Nat} {s : State} (h : b ≠ a) : rdB (wrF a hi lo v s) b i = rdB s b i := by
  simp only [rdB, rd_wrF_other _ _ _ _ _ _ h]

theorem rdF_wrB_elsewhere {a i : Nat} {x : Bool} {b hi' lo' : Nat} {s : State} (h : b ≠ a) : rdF (wrB a i x s) b hi' lo' = rdF s b hi' lo' := by
  simp only [rdF, rd_wrB_other _ _ _ _ _ h]

theorem rdB_wrB_elsewhere {a i : Nat} {x : Bool} {b j : Nat} {s : State} (h : b ≠ a) : rdB (wrB a i x s) b j = rdB s b j := by
  simp only [rdB, rd_wrB_other _ _ _ _ _ h]

theorem rdB_wrF_other {a hi lo v i : Nat} {s : State} (h : regsWf s.regs = true) (l : lo ≤ hi) (k : hi < 64) (d : hi < i ∨ i < lo) :
    rdB (wrF a hi lo v s) a i = rdB s a i :=
  congrArg (· == 1) (rdF_wrF_other a hi lo v i i s h l k d)

theorem wrB_eq_wrF (a i : Nat) (b : Bool) (s : State) : wrB a i b s = wrF a i i (if b then 1 else 0) s := rfl

theorem rdF_wrB_other' {a i : Nat} {x : Bool} {hi' lo' : Nat} {s : State} (h : regsWf s.regs = true) (k : i < 64) (d : i < lo' ∨ hi' < i) :
    rdF (wrB a i x s) a hi' lo' = rdF s a hi' lo' :=
  rdF_wrF_other a i i _ hi' lo' s h (Nat.le_refl i) k d

/-! Counters. -/

/-- Every control register stands past the counters of its group, in each copy, and has a bit for each of them. -/
theorem ctrGroups_ctrl : ∀ g ∈ ctrGroups, g.first + 8 * g.n ≤ g.ctrl ∧ g.n ≤ 64 := by decide

/-- A counter's control register stands past it. -/
theorem ctrlOf_past {a c k : Nat} (h : ctrlOf a = some (c, k)) : a < c ∧ k < 64 := by
  obtain ⟨g, hg, hi⟩ := List.exists_of_findSome?_eq_some h
  obtain ⟨hctrl, hn⟩ := ctrGroups_ctrl g hg
  obtain ⟨⟨i, k'⟩, hindex, heq⟩ := Option.map_eq_some_iff.1 hi
  simp only [Prod.mk.injEq] at heq
  obtain ⟨rfl, rfl⟩ := heq
  unfold CtrGroup.index at hindex
  dsimp only at hindex
  have hstride := Nat.div_mul_le_self (a - g.first) g.stride
  by_cases hcopies : g.copies = 1
  · simp only [hcopies, if_true, Option.ite_none_left_eq_some, Option.ite_none_right_eq_some, Option.some.injEq, Prod.mk.injEq] at hindex
    obtain ⟨-, ⟨-, -, hlt, -⟩, rfl, rfl⟩ := hindex
    omega
  · simp only [hcopies, if_false, Option.ite_none_left_eq_some, Option.ite_none_right_eq_some, Option.some.injEq, Prod.mk.injEq] at hindex
    obtain ⟨-, ⟨-, -, hlt, -⟩, rfl, rfl⟩ := hindex
    omega

section
variable {a n : Nat} {s : State}

theorem bump_below (h : (rd s a).toNat + n < max64) (hn : n ≠ 0) : bump a n s = wr a (BitVec.ofNat 64 ((rd s a).toNat + n)) s := by
  rw [bump, if_neg hn, if_pos h]

theorem bump_full (h : max64 ≤ (rd s a).toNat + n) (hn : n ≠ 0) : bump a n s = setOverflow a (wr a (BitVec.ofNat 64 max64) s) := by
  rw [bump, if_neg hn, if_neg (Nat.not_lt.2 h)]

theorem setOverflow_some {c k : Nat} (h : ctrlOf a = some (c, k)) : setOverflow a s = wrB c k true s := by
  rw [setOverflow, h]

/-- Setting an overflow bit leaves every register but the control register. -/
theorem rd_setOverflow_other {b : Nat} (h : ∀ c k, ctrlOf a = some (c, k) → b ≠ c) : rd (setOverflow a s) b = rd s b := by
  unfold setOverflow
  split
  · exact rd_wrB_other _ _ _ _ _ (h _ _ ‹_›)
  · rfl

/-- Counting leaves every register but the counter and its control register. -/
theorem rd_bump_other {b : Nat} (hb : b ≠ a) (h : ∀ c k, ctrlOf a = some (c, k) → b ≠ c) : rd (bump a n s) b = rd s b := by
  unfold bump
  repeat' split
  · rfl
  · exact rd_wr_other _ _ _ _ hb
  · rw [rd_setOverflow_other h, rd_wr_other _ _ _ _ hb]

/-- A counter reads as the events counted, and stays at its largest value (R42). -/
theorem rd_bump_same (hs : regsWf s.regs = true) : (rd (bump a n s) a).toNat = min ((rd s a).toNat + n) (2 ^ 64 - 1) := by
  have hmax : max64 = 2 ^ 64 - 1 := rfl
  by_cases hn : n = 0
  · subst hn
    rw [bump, if_pos rfl]
    have := (rd s a).isLt
    omega
  · by_cases hlt : (rd s a).toNat + n < max64
    · rw [bump_below hlt hn, rd_wr_same _ _ _ hs, BitVec.toNat_ofNat, Nat.mod_eq_of_lt (by omega)]
      omega
    · rw [bump_full (by omega) hn, rd_setOverflow_other (fun c k h => (ctrlOf_past h).1.ne), rd_wr_same _ _ _ hs, BitVec.toNat_ofNat, hmax]
      omega

/-- A counter that reaches its largest value sets its overflow bit (R42). -/
theorem rdB_bump_overflow {c k : Nat} (hs : regsWf s.regs = true) (hc : ctrlOf a = some (c, k)) (hn : n ≠ 0) (hfull : max64 ≤ (rd s a).toNat + n) :
    rdB (bump a n s) c k = true := by
  rw [bump_full hfull hn, setOverflow_some hc, rdB_wrB_same _ _ _ _ (regsWf_wr _ _ _ hs) (ctrlOf_past hc).2]

theorem regsWf_bump (hs : regsWf s.regs = true) : regsWf (bump a n s).regs = true := by
  unfold bump setOverflow
  repeat' split
  · exact hs
  · exact regsWf_wr _ _ _ hs
  · exact regsWf_wrB _ _ _ _ (regsWf_wr _ _ _ hs)
  · exact regsWf_wr _ _ _ hs

theorem bump_frame : bump a n s = { s with regs := (bump a n s).regs } := by
  obtain ⟨r, h⟩ := bump_only a n s
  rw [h]

end

/-! Zeroing a group of counters. -/

/-- Zero the registers of a list. -/
def zeroRegs (l : List Nat) (s : State) : State := l.foldl (fun s a => wr a 0 s) s

theorem clearGroup_eq {c i : Nat} {g : CtrGroup} {s : State} (h : groupOfCtrl c = some (g, i)) : clearGroup c s = wr c 0 (zeroRegs (g.addrs i) s) := by
  rw [clearGroup, h]
  rfl

theorem zeroRegs_frame (l : List Nat) (s : State) : zeroRegs l s = { s with regs := (zeroRegs l s).regs } := by
  induction l generalizing s with
  | nil => rfl
  | cons a l ih => exact ih (wr a 0 s)

theorem regsWf_zeroRegs (l : List Nat) {s : State} (hs : regsWf s.regs = true) : regsWf (zeroRegs l s).regs = true := by
  induction l generalizing s with
  | nil => exact hs
  | cons a l ih => exact ih (regsWf_wr a 0 s hs)

theorem rd_zeroRegs_other {l : List Nat} {b : Nat} (h : b ∉ l) (s : State) : rd (zeroRegs l s) b = rd s b := by
  induction l generalizing s with
  | nil => rfl
  | cons a l ih =>
    rw [List.mem_cons, not_or] at h
    exact (ih h.2 (wr a 0 s)).trans (rd_wr_other _ _ _ _ h.1)

theorem rd_zeroRegs_mem {l : List Nat} {b : Nat} (h : b ∈ l) {s : State} (hs : regsWf s.regs = true) : rd (zeroRegs l s) b = 0 := by
  induction l generalizing s with
  | nil => cases h
  | cons a l ih =>
    by_cases hb : b ∈ l
    · exact ih hb (regsWf_wr a 0 s hs)
    · obtain rfl : b = a := by simpa [hb] using h
      exact (rd_zeroRegs_other hb (wr b 0 s)).trans (rd_wr_same b 0 s hs)

section
variable {c i : Nat} {g : CtrGroup} {s : State} (hc : groupOfCtrl c = some (g, i)) (hs : regsWf s.regs = true)
include hc

theorem clearGroup_frame : clearGroup c s = { s with regs := (clearGroup c s).regs } := by
  rw [clearGroup_eq hc, wr_only, zeroRegs_frame]

theorem rd_clearGroup_other {b : Nat} (hb : b ≠ c) (h : b ∉ g.addrs i) : rd (clearGroup c s) b = rd s b := by
  rw [clearGroup_eq hc, rd_wr_other _ _ _ _ hb, rd_zeroRegs_other h]

include hs

theorem rd_clearGroup_counter {b : Nat} (hb : b ≠ c) (h : b ∈ g.addrs i) : rd (clearGroup c s) b = 0 := by
  rw [clearGroup_eq hc, rd_wr_other _ _ _ _ hb, rd_zeroRegs_mem h hs]

theorem rd_clearGroup_ctrl : rd (clearGroup c s) c = 0 := by
  rw [clearGroup_eq hc, rd_wr_same _ _ _ (regsWf_zeroRegs _ hs)]

end

/-- A write of CLEAR to a counter control zeroes its group. -/
theorem exec_counterCtrlClear {c i : Nat} {g : CtrGroup} {value : Word} {s : State} (hc : groupOfCtrl c = some (g, i)) (hv : getBit value 63 = true) :
    exec (.counterCtrlClear c value) s = .next (clearGroup c s) := by
  dsimp only [exec, execCounterCtrlClear]
  rw [hc]
  simp only [hv, if_true]

/-- The three counters of the tick block and their control register (R42). -/
theorem tickCounter_ctrl : ∀ k < 3, ctrlOf (0x100030 + 8 * k) = some (0x100048, k) := by decide

theorem tickCounter_group : groupOfCtrl 0x100048 = some (⟨0x100030, 3, 0x100048, 1, 1, none⟩, 0) := by decide

/-- Settles O12: the cases of `bump`, and the zeroing of the group. -/
theorem tickCountersSaturate : Obligations.TickCountersSaturate := by
  intro s k n hs hk hn
  have hsame := rd_bump_same (a := 0x100030 + 8 * k) (n := n) hs.regs
  refine ⟨fun hfull => ⟨?_, rdB_bump_overflow hs.regs (tickCounter_ctrl k hk) hn.ne' hfull⟩, fun hlt => ?_, fun value hclear =>
    ⟨_, exec_counterCtrlClear tickCounter_group hclear, rd_clearGroup_counter tickCounter_group hs.regs (by omega) ?_, ?_⟩⟩
  · rw [hsame, Nat.min_eq_right hfull]
  · rw [hsame, Nat.min_eq_left hlt.le]
  · exact List.mem_map.2 ⟨k, by simp [hk], rfl⟩
  · rw [rdB, rd_clearGroup_ctrl tickCounter_group hs.regs]
    simp [getBit, getBits, natBits]

end Sys2Proof.Proofs
end

section
/-! Register writes (R7, R8, R9): where a register stands in the table, what a write does to each field, and which writes are commands of their own. -/

namespace Sys2Proof.Proofs

open Sys2Proof.Machine Sys2Proof.Laws

/-! The fields of a register do not overlap. -/

/-- The fields lie in the register, each apart from those behind it. -/
def fieldsApart : List Field → Bool
  | [] => true
  | f :: l => decide (f.lo ≤ f.hi) && decide (f.hi < 64) && l.all (fun g => decide (f.hi < g.lo ∨ g.hi < f.lo)) && fieldsApart l

theorem regTable_fieldsApart : regTable.all (fun d => fieldsApart d.fields) = true := by decide +kernel

theorem fieldsApart_of_regAt {a : Nat} {d : RegDesc} (h : regAt a = some d) : fieldsApart d.fields = true :=
  List.all_eq_true.1 regTable_fieldsApart d (List.mem_of_find?_eq_some h)

theorem fieldsApart_cons {f : Field} {l : List Field} (h : fieldsApart (f :: l) = true) :
    f.lo ≤ f.hi ∧ f.hi < 64 ∧ (∀ g ∈ l, f.hi < g.lo ∨ g.hi < f.lo) ∧ fieldsApart l = true := by
  simp only [fieldsApart, Bool.and_eq_true, decide_eq_true_eq, List.all_eq_true] at h
  obtain ⟨⟨⟨hle, hlt⟩, hapart⟩, hl⟩ := h
  exact ⟨hle, hlt, hapart, hl⟩

theorem fieldsApart_lt {l : List Field} (h : fieldsApart l = true) {f : Field} (hf : f ∈ l) : f.hi < 64 := by
  induction l with
  | nil => cases hf
  | cons g l ih =>
    obtain ⟨-, hlt, -, hl⟩ := fieldsApart_cons h
    rcases List.mem_cons.1 hf with rfl | hf
    · exact hlt
    · exact ih hl hf

/-! Updates of one register: what they leave alone, and which of its bits. -/

/-- t is s with register a changed, and no bit of it from lo to hi. -/
structure LeavesBits (a hi lo : Nat) (s t : State) : Prop where
  frame : t = { s with regs := t.regs }
  canonical : regsWf s.regs = true → regsWf t.regs = true
  others : ∀ b, b ≠ a → rd t b = rd s b
  bits : regsWf s.regs = true → ∀ hi' lo', lo ≤ lo' → hi' ≤ hi → rdF t a hi' lo' = rdF s a hi' lo'

theorem LeavesBits.refl (a hi lo : Nat) (s : State) : LeavesBits a hi lo s s := ⟨rfl, id, fun _ _ => rfl, fun _ _ _ _ _ => rfl⟩

theorem LeavesBits.trans {a hi lo : Nat} {s t u : State} (h : LeavesBits a hi lo s t) (k : LeavesBits a hi lo t u) : LeavesBits a hi lo s u where
  frame := by rw [k.frame, h.frame]
  canonical hs := k.canonical (h.canonical hs)
  others b hb := (k.others b hb).trans (h.others b hb)
  bits hs hi' lo' hlo hhi := (k.bits (h.canonical hs) hi' lo' hlo hhi).trans (h.bits hs hi' lo' hlo hhi)

theorem leavesBits_wrF {a hi lo v hi' lo' : Nat} (s : State) (hle : lo ≤ hi) (hlt : hi < 64) (hapart : hi < lo' ∨ hi' < lo) :
    LeavesBits a hi' lo' s (wrF a hi lo v s) where
  frame := rfl
  canonical hs := regsWf_wrF a hi lo v s hs
  others b hb := rd_wrF_other a hi lo v b s hb
  bits hs hi'' lo'' hlo hhi := rdF_wrF_other a hi lo v hi'' lo'' s hs hle hlt (by omega)

/-! A write to one field. -/

/-- What a write of v does to field f of register a. -/
def writeOne (a : Nat) (v : Word) (s : State) (f : Field) : State := if f.acc = .w1c then clearBits a v s f else writeField a v s f

theorem writeFields_eq {a : Nat} {d : RegDesc} (h : regAt a = some d) (v : Word) (s : State) : writeFields a v s = d.fields.foldl (writeOne a v) s := by
  rw [writeFields, h]
  rfl

section
variable {a : Nat} {v : Word}

/-- Clearing bits by a list of positions leaves every bit range they do not meet. -/
theorem leavesBits_clear (lo : Nat) (l : List Nat) (hl : ∀ i ∈ l, lo + i < 64) {hi' lo' : Nat} (hapart : ∀ i ∈ l, lo + i < lo' ∨ hi' < lo + i) (s : State) :
    LeavesBits a hi' lo' s (l.foldl (fun s i => if getBit v (lo + i) then wrB a (lo + i) false s else s) s) := by
  induction l generalizing s with
  | nil => exact .refl a hi' lo' s
  | cons i l ih =>
    rw [List.foldl_cons]
    refine .trans ?_ (ih (fun j hj => hl j (by simp [hj])) (fun j hj => hapart j (by simp [hj])) _)
    split
    · exact leavesBits_wrF s (Nat.le_refl _) (hl i (by simp)) (hapart i (by simp))
    · exact .refl a hi' lo' s

/-- A bit among those cleared reads 0 where the write has a 1, and as before elsewhere. -/
theorem rdB_clear (lo : Nat) (l : List Nat) (hnodup : l.Nodup) (hl : ∀ i ∈ l, lo + i < 64) {i : Nat} (hi : i ∈ l) {s : State} (hs : regsWf s.regs = true) :
    rdB (l.foldl (fun s i => if getBit v (lo + i) then wrB a (lo + i) false s else s) s) a (lo + i) = (rdB s a (lo + i) && !(getBit v (lo + i))) := by
  induction l generalizing s with
  | nil => cases hi
  | cons j l ih =>
    rw [List.foldl_cons]
    obtain ⟨hj, hnodup⟩ := List.nodup_cons.1 hnodup
    have hl' : ∀ i ∈ l, lo + i < 64 := fun i hi => hl i (by simp [hi])
    have hs' : regsWf (if getBit v (lo + j) then wrB a (lo + j) false s else s).regs = true := by
      split
      · exact regsWf_wrB _ _ _ _ hs
      · exact hs
    rcases List.mem_cons.1 hi with rfl | hi
    · have hrest := leavesBits_clear (a := a) (v := v) lo l hl' (hi' := lo + i) (lo' := lo + i)
        (fun k hk => by have : k ≠ i := fun h => hj (h ▸ hk); omega) (if getBit v (lo + i) then wrB a (lo + i) false s else s)
      rw [show rdB _ a (lo + i) = rdB (if getBit v (lo + i) then wrB a (lo + i) false s else s) a (lo + i) from
        congrArg (· == 1) (hrest.bits hs' _ _ (Nat.le_refl _) (Nat.le_refl _))]
      split
      next hv => rw [rdB_wrB_same _ _ _ _ hs (hl i (by simp)), hv]; simp
      next hv => simp [hv]
    · have hne : i ≠ j := fun h => hj (h ▸ hi)
      rw [ih hnodup hl' hi hs']
      split
      · rw [show rdB (wrB a (lo + j) false s) a (lo + i) = rdB s a (lo + i) from
          congrArg (· == 1) (rdF_wrB_other' hs (hl j (by simp)) (by omega))]
      · rfl

/-- A write to one field leaves the bits apart from it. -/
theorem leavesBits_writeOne {f : Field} (hle : f.lo ≤ f.hi) (hlt : f.hi < 64) {hi' lo' : Nat} (hapart : f.hi < lo' ∨ hi' < f.lo) (s : State) :
    LeavesBits a hi' lo' s (writeOne a v s f) := by
  unfold writeOne
  split
  · exact leavesBits_clear f.lo _ (fun i hi => by have := List.mem_range.1 hi; omega) (fun i hi => by have := List.mem_range.1 hi; omega) s
  · unfold writeField
    repeat' split
    all_goals first | exact .refl a hi' lo' s | exact leavesBits_wrF s hle hlt hapart

/-- What a write of v to register a leaves in field f, by its access code (R8). -/
structure FieldWritten (a : Nat) (v : Word) (f : Field) (s t : State) : Prop where
  kept : f.acc = .ro ∨ f.acc = .wo → rdF t a f.hi f.lo = rdF s a f.hi f.lo
  taken : f.acc = .rw → f.rule = .any → rdF t a f.hi f.lo = getBits v f.hi f.lo
  cleared : f.acc = .w1c → ∀ i, f.lo ≤ i → i ≤ f.hi → rdB t a i = (rdB s a i && !(getBit v i))

theorem fieldWritten_writeOne {f : Field} (hle : f.lo ≤ f.hi) (hlt : f.hi < 64) {s : State} (hs : regsWf s.regs = true) :
    FieldWritten a v f s (writeOne a v s f) where
  kept h := by rcases h with h | h <;> simp [writeOne, writeField, h]
  taken h hany := by
    simp only [writeOne, writeField, h, hany, Machine.taken, reduceCtorEq, if_false]
    rw [rdF_wrF_same _ _ _ _ _ hs hle hlt]
    exact Nat.mod_mod _ _
  cleared h i hlo hhi := by
    rw [writeOne, if_pos h, clearBits, show i = f.lo + (i - f.lo) by omega]
    exact rdB_clear f.lo _ List.nodup_range (fun j hj => by have := List.mem_range.1 hj; omega) (List.mem_range.2 (by omega)) hs

/-- What the later states agree on in the field's bits is as well what a write leaves there. -/
theorem FieldWritten.of_leaves {f : Field} {s s' t t' : State} (h : FieldWritten a v f s' t) (hs : regsWf s.regs = true) (ht : regsWf t.regs = true)
    (before : LeavesBits a f.hi f.lo s s') (after : LeavesBits a f.hi f.lo t t') : FieldWritten a v f s t' where
  kept hacc := by rw [after.bits ht _ _ (Nat.le_refl _) (Nat.le_refl _), h.kept hacc, before.bits hs _ _ (Nat.le_refl _) (Nat.le_refl _)]
  taken hacc hany := by rw [after.bits ht _ _ (Nat.le_refl _) (Nat.le_refl _), h.taken hacc hany]
  cleared hacc i hlo hhi := by
    have hb := before.bits hs i i hlo hhi
    have ha := after.bits ht i i hlo hhi
    have hc := h.cleared hacc i hlo hhi
    simp only [rdB, getBit, rdF] at *
    rw [ha, hc, hb]

/-- A write changes its register alone, and leaves every bit range that no field meets. -/
theorem leavesBits_fields (l : List Field) (hl : fieldsApart l = true) {hi lo : Nat} (hapart : ∀ f ∈ l, f.hi < lo ∨ hi < f.lo) (s : State) :
    LeavesBits a hi lo s (l.foldl (writeOne a v) s) := by
  induction l generalizing s with
  | nil => exact .refl a hi lo s
  | cons f l ih =>
    obtain ⟨hle, hlt, -, hrest⟩ := fieldsApart_cons hl
    exact .trans (leavesBits_writeOne hle hlt (hapart f (by simp)) s) (ih hrest (fun g hg => hapart g (by simp [hg])) _)

/-- A write changes its register alone. -/
theorem leavesRest_fields (l : List Field) (hl : fieldsApart l = true) (s : State) : LeavesBits a 0 64 s (l.foldl (writeOne a v) s) :=
  leavesBits_fields l hl (fun _ hf => .inl (fieldsApart_lt hl hf)) s

/-- Each field takes the write by its access code. -/
theorem fieldWritten_fields (l : List Field) (hl : fieldsApart l = true) {f : Field} (hf : f ∈ l) {s : State} (hs : regsWf s.regs = true) :
    FieldWritten a v f s (l.foldl (writeOne a v) s) := by
  induction l generalizing s with
  | nil => cases hf
  | cons g l ih =>
    obtain ⟨hle, hlt, hapart, hrest⟩ := fieldsApart_cons hl
    have hs' : regsWf (writeOne a v s g).regs = true := (leavesBits_writeOne (hi' := 0) hle hlt (.inl hlt) s).canonical hs
    rcases List.mem_cons.1 hf with rfl | hf
    · exact (fieldWritten_writeOne hle hlt hs).of_leaves hs hs' (.refl a f.hi f.lo s) (leavesBits_fields l hrest (fun g hg => (hapart g hg).symm) _)
    · have ht : regsWf (l.foldl (writeOne a v) (writeOne a v s g)).regs = true := (leavesRest_fields l hrest _).canonical hs'
      exact (ih hrest hf hs').of_leaves hs ht (leavesBits_writeOne hle hlt (hapart f hf) s) (.refl a f.hi f.lo _)

end

/-! What a write of a register does. -/

section
variable {a : Nat} {d : RegDesc} {v : Word} {s : State} (hd : regAt a = some d)
include hd

/-- A write changes its register alone. -/
theorem leavesRest_writeFields : LeavesBits a 0 64 s (writeFields a v s) := by
  rw [writeFields_eq hd]
  exact leavesRest_fields _ (fieldsApart_of_regAt hd) s

theorem leavesBits_writeFields {hi lo : Nat} (hapart : ∀ f ∈ d.fields, f.hi < lo ∨ hi < f.lo) : LeavesBits a hi lo s (writeFields a v s) := by
  rw [writeFields_eq hd]
  exact leavesBits_fields _ (fieldsApart_of_regAt hd) hapart s

theorem fieldWritten_writeFields (hs : regsWf s.regs = true) {f : Field} (hf : f ∈ d.fields) : FieldWritten a v f s (writeFields a v s) := by
  rw [writeFields_eq hd]
  exact fieldWritten_fields _ (fieldsApart_of_regAt hd) hf hs

end

theorem writeFields_reserved {a : Nat} {v : Word} {s : State} (h : regAt a = none) : writeFields a v s = s := by
  rw [writeFields, h]

/-- PLAN_BUDGET (R27, R28). -/
def planBudget : RegDesc := reg1 "PLAN_BUDGET" 0x100018 [fRWr 55 48 15 0 40, fRO 31 0 0]

theorem regAt_planBudget : regAt 0x100018 = some planBudget := by decide +kernel

theorem exec_registerWrite_plain {a : Nat} {v : Word} {s : State} (h : ownCommand a = false) : exec (.registerWrite a v) s = .next (writePlain a v s) := by
  dsimp only [exec, execRegisterWrite]
  simp only [h, Bool.false_eq_true, if_false]

theorem exec_registerWrite_own {a : Nat} {v : Word} {s : State} (h : ownCommand a = true) : exec (.registerWrite a v) s = writeOwn a v s := by
  dsimp only [exec, execRegisterWrite]
  simp only [h, if_true]

/-! PLAN_BUDGET and PWR_FREQ: the two plain writes with an effect beyond their fields. -/

/-- BUDGET_CLK does not enter the budget it shows. -/
theorem budgetOf_wrF_shown {s : State} (hs : regsWf s.regs = true) (x : Nat) (r : Bool) : budgetOf (wrF 0x100018 31 0 x s) r = budgetOf s r := by
  have hpct : rdF (wrF 0x100018 31 0 x s) 0x100018 55 48 = rdF s 0x100018 55 48 := rdF_wrF_other _ _ _ _ _ _ _ hs (by decide) (by decide) (by decide)
  have hperiod : period (wrF 0x100018 31 0 x s) = period s := rdF_wrF_elsewhere (by decide)
  have hmhz : coreMHz (wrF 0x100018 31 0 x s) = coreMHz s := rdF_wrF_elsewhere (by decide)
  unfold budgetOf guardClocks clocks
  rw [hpct, hperiod, hmhz]

/-- BUDGET_CLK shows the budget of the tick (R27). -/
theorem rdF_showBudget {s : State} (hs : regsWf s.regs = true) :
    rdF (showBudget s) 0x100018 31 0 = budgetOf (showBudget s) (rdB s 0x100028 1) % 2 ^ 32 := by
  rw [showBudget, rdF_wrF_same _ _ _ _ _ hs (by decide) (by decide), budgetOf_wrF_shown hs]

/-- A new margin moves the budget shown until the list is frozen, and marks the models to be divided again. -/
theorem leavesBits_marginChanged (s : State) : LeavesBits 0x100018 63 32 (redivideAll s) (marginChanged s) := by
  unfold marginChanged
  dsimp only
  split
  · exact .refl _ _ _ _
  · exact leavesBits_wrF _ (by decide) (by decide) (by decide)

/-- What a plain write does, and what it leaves alone. -/
structure PlainWritten (a : Nat) (v : Word) (d : RegDesc) (s t : State) : Prop where
  frame : t = { s with regs := t.regs, power := t.power, redivide := t.redivide }
  others : ∀ b, b ≠ a → rd t b = rd s b
  redivide : a ≠ 0x100018 → t.redivide = s.redivide
  power : a ≠ 0x800008 → t.power = s.power
  budget : a = 0x100018 → rdF t a 31 0 = if s.frozen then rdF s a 31 0 else budgetOf t (rdB s 0x100028 1) % 2 ^ 32
  fields : a ≠ 0x100018 → ∀ f ∈ d.fields, FieldWritten a v f s t

section
variable {s : State} (hs : regsWf s.regs = true) (v : Word)
include hs

theorem plainWritten_budget : PlainWritten 0x100018 v planBudget s (writePlain 0x100018 v s) := by
  have hfields := leavesRest_writeFields (v := v) (s := s) regAt_planBudget
  have hshown := (fieldWritten_writeFields (v := v) regAt_planBudget hs (List.mem_of_getElem? (i := 1) rfl)).kept (.inl rfl)
  have hmargin := leavesBits_marginChanged (writeFields 0x100018 v s)
  have hfrozen : (writeFields 0x100018 v s).frozen = s.frozen := by rw [hfields.frame]
  have hslot : rdB (redivideAll (writeFields 0x100018 v s)) 0x100028 1 = rdB s 0x100028 1 :=
    congrArg (fun w => getBit w 1) (hfields.others 0x100028 (by decide))
  change PlainWritten 0x100018 v planBudget s (marginChanged (writeFields 0x100018 v s))
  refine ⟨?_, fun b hb => (hmargin.others b hb).trans (hfields.others b hb), fun h => absurd rfl h, fun _ => ?_, fun _ => ?_, fun h => absurd rfl h⟩
  · rw [hmargin.frame, redivideAll, hfields.frame]
  · rw [hmargin.frame, redivideAll, hfields.frame]
  · unfold marginChanged
    simp only [show (redivideAll (writeFields 0x100018 v s)).frozen = s.frozen from hfrozen]
    split
    · exact hshown
    · rw [rdF_showBudget (s := redivideAll _) (hfields.canonical hs), hslot]

theorem plainWritten_other {a : Nat} {d : RegDesc} (hd : regAt a = some d) (ha : a ≠ 0x100018) : PlainWritten a v d s (writePlain a v s) := by
  have hfields := leavesRest_writeFields (v := v) (s := s) hd
  have hwritten := fun f hf => fieldWritten_writeFields (v := v) (s := s) hd hs (f := f) hf
  unfold writePlain
  simp only [ha, if_false]
  split
  next h =>
    refine ⟨?_, hfields.others, fun _ => ?_, fun h' => absurd h h', fun h' => absurd h' ha, fun _ f hf => ⟨(hwritten f hf).kept, (hwritten f hf).taken, (hwritten f hf).cleared⟩⟩
    · rw [hfields.frame]
    · rw [hfields.frame]
  next =>
    refine ⟨?_, hfields.others, fun _ => ?_, fun _ => ?_, fun h' => absurd h' ha, fun _ => hwritten⟩
    · rw [hfields.frame]
    · rw [hfields.frame]
    · rw [hfields.frame]

theorem plainWritten {a : Nat} {d : RegDesc} (hd : regAt a = some d) : PlainWritten a v d s (writePlain a v s) := by
  by_cases ha : a = 0x100018
  · subst ha
    obtain rfl : planBudget = d := Option.some.inj (regAt_planBudget.symm.trans hd)
    exact plainWritten_budget hs v
  · exact plainWritten_other hs v hd ha

end

theorem writePlain_reserved {a : Nat} {v : Word} {s : State} (h : regAt a = none) (ha : a ≠ 0x800008) : writePlain a v s = s := by
  have hb : a ≠ 0x100018 := by
    rintro rfl
    exact Option.some_ne_none _ (regAt_planBudget.symm.trans h)
  simp only [writePlain, hb, ha, if_false, writeFields_reserved h]

/-! Writes that are commands of their own. -/

/-- The lists of registers, block by block. -/
def regLists : List (List RegDesc) := [regsSystem, regsSeam2, regsCensus, regsPages, regsMemory, regsTick, regsTape, regsShuttle, regsCodec, regsSampler, regsGate, regsMonitor,
  regsPower, regsSecurity, regsObush, regsPorts 0xA00000, regsKralyn, regsPorts 0xB00000, regsThimble, regsSlice, regsPanel]

theorem regTable_eq : regTable = regLists.flatten := by
  delta regTable regLists
  simp only [List.flatten_cons, List.flatten_nil, List.append_assoc, List.append_nil]

/-- No register of the list stands from lo up to hi. -/
def outsideOf (lo hi : Nat) (l : List RegDesc) : Bool := l.all (fun d => decide (0 < d.s1 ∧ (d.off + d.s1 * d.n1 ≤ lo ∨ hi ≤ d.off)))

/-- An array that holds an offset reaches past it. -/
theorem lt_of_holds {d : RegDesc} {a : Nat} (hs : 0 < d.s1) (h : d.holds a = true) : d.off ≤ a ∧ a < d.off + d.s1 * d.n1 := by
  simp only [RegDesc.holds, Bool.and_eq_true, decide_eq_true_eq] at h
  obtain ⟨⟨⟨hoff, hcopy⟩, -⟩, -⟩ := h
  rw [Nat.div_lt_iff_lt_mul hs, Nat.mul_comm] at hcopy
  omega

/-- The register at an offset, where the other blocks lie outside a range that holds the offset and its own block holds it once. -/
theorem regAt_of_block {l : List RegDesc} {lo hi a : Nat} {d : RegDesc} (hl : l ∈ regLists) (hout : regLists.all (fun m => decide (m = l) || outsideOf lo hi m) = true)
    (hlo : lo ≤ a) (hhi : a < hi) (hd : l.filter (fun d => d.holds a) = [d]) : regAt a = some d := by
  have hmem : d ∈ l ∧ d.holds a = true := List.mem_filter.1 (hd ▸ List.mem_singleton_self d : d ∈ l.filter (fun d => d.holds a))
  have hsome : (regAt a).isSome = true := by
    rw [regAt, List.find?_isSome, regTable_eq]
    exact ⟨d, List.mem_flatten.2 ⟨l, hl, hmem.1⟩, hmem.2⟩
  obtain ⟨e, he⟩ := Option.isSome_iff_exists.1 hsome
  have hholds : e.holds a = true := List.find?_some (p := fun d : RegDesc => d.holds a) he
  have hin := List.mem_of_find?_eq_some he
  rw [regTable_eq, List.mem_flatten] at hin
  obtain ⟨m, hm, hem⟩ := hin
  have hcase := List.all_eq_true.1 hout m hm
  simp only [Bool.or_eq_true, decide_eq_true_eq, outsideOf, List.all_eq_true] at hcase
  rcases hcase with rfl | hcase
  · have : e ∈ m.filter (fun d => d.holds a) := List.mem_filter.2 ⟨hem, hholds⟩
    rw [hd, List.mem_singleton] at this
    rw [he, this]
  · obtain ⟨hs, hfar⟩ := hcase e hem
    have := lt_of_holds hs hholds
    omega

/-- No region, no counter control and none of the single registers whose write is a command of its own. -/
def arrayPlace (a : Nat) : Bool := !(regionRegs.contains a) && (groupOfCtrl a).isNone && !([0x50018, 0x100008, 0x100020, 0x700010, 0xC00008].contains a)

/-- The arrays whose writes are commands of their own. -/
def ownNames : List String :=
  ["CH_MARGIN_CTRL", "CH_CTRL", "CH_TAIL", "KR_TX_CTRL", "KR_TX_TAIL", "KR_RX_CTRL", "KR_RX_HEAD", "BUCKET_LEVEL", "MON_CFG", "MBOX_CFG"]

/-- A write in such an array goes to the array's command, with the register's places in it. -/
theorem exec_arrayWrite {a : Nat} {d : RegDesc} {v : Word} {s : State} (hplace : arrayPlace a = true) (hd : regAt a = some d) (hname : ownNames.contains d.name = true) :
    exec (.registerWrite a v) s = writeArray d.name ((a - d.off) / d.s1) (((a - d.off) % d.s1) / d.s2) a v s := by
  simp only [arrayPlace, Bool.and_eq_true, Bool.not_eq_true', Option.isNone_iff_eq_none] at hplace
  obtain ⟨⟨hregion, hgroup⟩, hsingle⟩ := hplace
  have hown : ownCommand a = true := by
    unfold ownCommand
    rw [hd]
    simp only [Bool.or_eq_true]
    exact .inr hname
  simp only [List.contains_cons, List.contains_nil, Bool.or_false, Bool.or_eq_false_iff, beq_eq_false_iff_ne] at hsingle
  obtain ⟨h1, h2, h3, h4, h5⟩ := hsingle
  rw [exec_registerWrite_own hown]
  simp only [writeOwn, hregion, hgroup, hd, Bool.false_eq_true, if_false, Option.isSome_none]

/-- CH_MARGIN_CTRL, the rings of the shuttle and of Kralyn, the buckets, the monitors and the mailboxes. -/
def chMarginCtrl : RegDesc := ⟨"CH_MARGIN_CTRL", 0x1001008, blockSize, 24, 0x20, 16, [fWO 63 63, fRO 62 62 0, fRW 61 61 0, fRW 60 54 0, fRW 53 48 0, fRW 47 42 0, fRW 15 0 0]⟩
def chCtrlArray : RegDesc := regN "CH_CTRL" 0x301700 0x20 8 [fRW 63 63 0, fWO 62 62, fRW 50 48 0, fRW 47 6 0]
def chTailArray : RegDesc := regN "CH_TAIL" 0x301708 0x20 8 [fRW 7 0 0]
def krTxCtrlArray : RegDesc := regN "KR_TX_CTRL" 0xB01000 0x20 8 [fRW 63 63 0, fRW 50 48 0, fRW 47 5 0]
def krTxTailArray : RegDesc := regN "KR_TX_TAIL" 0xB01008 0x20 8 [fRW 7 0 0]
def krRxCtrlArray : RegDesc := regN "KR_RX_CTRL" 0xB01800 0x10 64 [fRW 63 63 0, fRW 50 48 0, fRW 47 10 0, fRO 7 0 0]
def krRxHeadArray : RegDesc := regN "KR_RX_HEAD" 0xB01808 0x10 64 [fRW 7 0 0]
def bucketLevelArray : RegDesc := regN "BUCKET_LEVEL" 0x501000 0x10 64 [fRW 39 0 0]
def monCfgArray : RegDesc := regN "MON_CFG" 0x701000 0x100 32 [fRW 63 63 0, fRW 55 48 0, fRW 47 32 0, fRW 31 16 0, fRW 15 8 0, fRW 1 1 0, fRW 0 0 0]
def mboxCfgArray : RegDesc := regN "MBOX_CFG" 0xA01008 0x10 66 [fRW 63 63 0, fWO 62 62, fWO 23 16, fRWr 8 0 192 0 256]

theorem chMarginCtrl_place : ∀ i < 24, ∀ j < 16, arrayPlace (0x1001008 + blockSize * i + 0x20 * j) = true ∧ regsSlice.filter (fun d => d.holds (0x1001008 + blockSize * i + 0x20 * j)) = [chMarginCtrl] := by
  decide +kernel

theorem chCtrl_place : ∀ i < 8, (arrayPlace (0x301700 + 0x20 * i) = true ∧ regsShuttle.filter (fun d => d.holds (0x301700 + 0x20 * i)) = [chCtrlArray]) ∧
    arrayPlace (0x301708 + 0x20 * i) = true ∧ regsShuttle.filter (fun d => d.holds (0x301708 + 0x20 * i)) = [chTailArray] := by
  decide +kernel

theorem krTx_place : ∀ i < 8, (arrayPlace (0xB01000 + 0x20 * i) = true ∧ regsKralyn.filter (fun d => d.holds (0xB01000 + 0x20 * i)) = [krTxCtrlArray]) ∧
    arrayPlace (0xB01008 + 0x20 * i) = true ∧ regsKralyn.filter (fun d => d.holds (0xB01008 + 0x20 * i)) = [krTxTailArray] := by
  decide +kernel

theorem krRx_place : ∀ i < 64, (arrayPlace (0xB01800 + 0x10 * i) = true ∧ regsKralyn.filter (fun d => d.holds (0xB01800 + 0x10 * i)) = [krRxCtrlArray]) ∧
    arrayPlace (0xB01808 + 0x10 * i) = true ∧ regsKralyn.filter (fun d => d.holds (0xB01808 + 0x10 * i)) = [krRxHeadArray] := by
  decide +kernel

theorem bucketLevel_place : ∀ i < 64, arrayPlace (0x501000 + 0x10 * i) = true ∧ regsSampler.filter (fun d => d.holds (0x501000 + 0x10 * i)) = [bucketLevelArray] := by
  decide +kernel

theorem monCfg_place : ∀ i < 32, arrayPlace (0x701000 + 0x100 * i) = true ∧ regsMonitor.filter (fun d => d.holds (0x701000 + 0x100 * i)) = [monCfgArray] := by
  decide +kernel

theorem mboxCfg_place : ∀ i < 66, arrayPlace (mboxCfg i) = true ∧ regsObush.filter (fun d => d.holds (mboxCfg i)) = [mboxCfgArray] := by
  decide +kernel

/-- Where the blocks of these arrays stand. -/
theorem blocks_apart :
    regLists.all (fun m => decide (m = regsSlice) || outsideOf 0x1000000 0x3000000 m) = true ∧ regLists.all (fun m => decide (m = regsShuttle) || outsideOf 0x300000 0x400000 m) = true ∧
    regLists.all (fun m => decide (m = regsKralyn) || outsideOf 0xB01000 0xB02000 m) = true ∧ regLists.all (fun m => decide (m = regsSampler) || outsideOf 0x500000 0x600000 m) = true ∧
    regLists.all (fun m => decide (m = regsMonitor) || outsideOf 0x700000 0x800000 m) = true ∧ regLists.all (fun m => decide (m = regsObush) || outsideOf 0xA01000 0xA02000 m) = true := by
  decide +kernel

end Sys2Proof.Proofs
end

section
/-! The statement on register writes, assembled. -/

namespace Sys2Proof.Proofs

open Sys2Proof.Machine Sys2Proof.Laws

/-- A write of register i, j of an array whose writes are commands, in a block apart from the others. -/
theorem exec_blockWrite {l : List RegDesc} {lo hi a i j : Nat} {d : RegDesc} {v : Word} {s : State} (hl : l ∈ regLists)
    (hout : regLists.all (fun m => decide (m = l) || outsideOf lo hi m) = true) (h : arrayPlace a = true ∧ l.filter (fun d => d.holds a) = [d]) (hlo : lo ≤ a) (hhi : a < hi)
    (hname : ownNames.contains d.name = true) (ha : a = d.off + d.s1 * i + d.s2 * j) (hs : 0 < d.s2) (hj : d.s2 * j < d.s1) :
    exec (.registerWrite a v) s = writeArray d.name i j a v s := by
  rw [exec_arrayWrite h.1 (regAt_of_block hl hout hlo hhi h.2) hname]
  have hoff : a - d.off = d.s2 * j + d.s1 * i := by omega
  rw [hoff, Nat.add_mul_div_left _ _ (by omega), Nat.div_eq_of_lt hj, Nat.zero_add, Nat.add_mul_mod_self_left, Nat.mod_eq_of_lt hj, Nat.mul_div_cancel_left _ hs]

section
variable {i : Nat} {value : Word} {s : State}

theorem write_chMarginCtrl {j : Nat} (hi : i < 24) (hj : j < 16) :
    exec (.registerWrite (0x1001008 + blockSize * i + 0x20 * j) value) s = exec (.chMarginStart i j value) s :=
  exec_blockWrite (by decide) blocks_apart.1 (chMarginCtrl_place i hi j hj) (by unfold blockSize; omega) (by unfold blockSize; omega) rfl rfl (by decide)
    (by simp only [chMarginCtrl, blockSize]; omega)

section
variable (hi : i < 8)
include hi

theorem write_chCtrl : exec (.registerWrite (0x301700 + 0x20 * i) value) s = exec (.chCtrlEnable (56 + i) value) s :=
  exec_blockWrite (j := 0) (by decide) blocks_apart.2.1 (chCtrl_place i hi).1 (by omega) (by omega) rfl rfl (by decide) (by decide)

theorem write_chTail : exec (.registerWrite (0x301708 + 0x20 * i) value) s = exec (.chTailWrite (56 + i) value) s :=
  exec_blockWrite (j := 0) (by decide) blocks_apart.2.1 (chCtrl_place i hi).2 (by omega) (by omega) rfl rfl (by decide) (by decide)

theorem write_krTxCtrl : exec (.registerWrite (0xB01000 + 0x20 * i) value) s = exec (.krTxCtrlEnable i value) s :=
  exec_blockWrite (j := 0) (by decide) blocks_apart.2.2.1 (krTx_place i hi).1 (by omega) (by omega) rfl rfl (by decide) (by decide)

theorem write_krTxTail : exec (.registerWrite (0xB01008 + 0x20 * i) value) s = exec (.krTxTailWrite i value) s :=
  exec_blockWrite (j := 0) (by decide) blocks_apart.2.2.1 (krTx_place i hi).2 (by omega) (by omega) rfl rfl (by decide) (by decide)

end

theorem write_krRxCtrl (hi : i < 64) : exec (.registerWrite (0xB01800 + 0x10 * i) value) s = exec (.krRxCtrlEnable i value) s :=
  exec_blockWrite (j := 0) (by decide) blocks_apart.2.2.1 (krRx_place i hi).1 (by omega) (by omega) rfl rfl (by decide) (by decide)

theorem write_krRxHead (hi : i < 64) : exec (.registerWrite (0xB01808 + 0x10 * i) value) s = exec (.krRxHeadWrite i value) s :=
  exec_blockWrite (j := 0) (by decide) blocks_apart.2.2.1 (krRx_place i hi).2 (by omega) (by omega) rfl rfl (by decide) (by decide)

theorem write_bucketLevel (hi : i < 64) : exec (.registerWrite (0x501000 + 0x10 * i) value) s = exec (.bucketLevelWrite i value) s :=
  exec_blockWrite (j := 0) (by decide) blocks_apart.2.2.2.1 (bucketLevel_place i hi) (by omega) (by omega) rfl rfl (by decide) (by decide)

theorem write_monCfg (hi : i < 32) : exec (.registerWrite (0x701000 + 0x100 * i) value) s = exec (.monCfgWrite i value) s :=
  exec_blockWrite (j := 0) (by decide) blocks_apart.2.2.2.2.1 (monCfg_place i hi) (by omega) (by omega) rfl rfl (by decide) (by decide)

theorem write_mboxCfg (hi : i < 66) : exec (.registerWrite (mboxCfg i) value) s = exec (.mboxRelease i value) s :=
  exec_blockWrite (j := 0) (by decide) blocks_apart.2.2.2.2.2 (mboxCfg_place i hi) (by unfold mboxCfg; omega) (by unfold mboxCfg; omega) rfl rfl (by decide) (by decide)

/-- A write that enables or places a region. -/
theorem write_region {a : Nat} (h : regionRegs.contains a = true) : exec (.registerWrite a value) s = exec (.regionEnableWrite a value) s := by
  rw [exec_registerWrite_own (by simp only [ownCommand, h, Bool.true_or])]
  unfold writeOwn
  rw [if_pos h]
  rfl

/-- A write of a counter control. -/
theorem write_counterCtrl {a : Nat} (h : regionRegs.contains a = false) (hg : (groupOfCtrl a).isSome = true) :
    exec (.registerWrite a value) s = exec (.counterCtrlClear a value) s := by
  rw [exec_registerWrite_own (by simp only [ownCommand, hg, Bool.or_true, Bool.true_or])]
  unfold writeOwn
  rw [if_neg (by simp only [h]; decide), if_pos hg]
  rfl

/-- The single registers whose write is a command of its own. -/
theorem singles_own : ∀ a ∈ [0x50018, 0x100008, 0x100020, 0x700010, 0xC00008], ownCommand a = true := by decide +kernel

theorem write_singles :
    exec (.registerWrite 0x50018 value) s = exec (.memRetrainStart value) s ∧ exec (.registerWrite 0x100008 value) s = exec (.tickPeriodNextWrite value) s ∧
    exec (.registerWrite 0x700010 value) s = exec (.errlogHeadWrite value) s ∧ exec (.registerWrite 0xC00008 value) s = exec (.thWdogPet value) s ∧
    exec (.registerWrite 0x100020 value) s = .next (writePlanCtrl value s) := by
  have own {a : Nat} (ha : a ∈ [0x50018, 0x100008, 0x100020, 0x700010, 0xC00008]) : exec (.registerWrite a value) s = writeOwn a value s :=
    exec_registerWrite_own (singles_own a ha)
  exact ⟨(own (by decide)).trans rfl, (own (by decide)).trans rfl, (own (by decide)).trans rfl, (own (by decide)).trans rfl, (own (by decide)).trans rfl⟩

end

/-- PLAN_BUDGET has no field that takes every value, and none that a 1 clears. -/
theorem planBudget_fields : ∀ f ∈ planBudget.fields, ¬(f.acc = .rw ∧ f.rule = .any) ∧ f.acc ≠ .w1c := by decide

/-- What a plain write of any register does to a field that takes every value, or that a 1 clears. -/
theorem plainWritten_takes {a : Nat} {d : RegDesc} {v : Word} {s : State} (hs : regsWf s.regs = true) (hd : regAt a = some d) {f : Field} (hf : f ∈ d.fields)
    (hacc : f.acc = .rw ∧ f.rule = .any ∨ f.acc = .w1c) : FieldWritten a v f s (writePlain a v s) := by
  refine (plainWritten hs v hd).fields ?_ f hf
  rintro rfl
  obtain rfl : planBudget = d := Option.some.inj (regAt_planBudget.symm.trans hd)
  obtain ⟨hany, hw1c⟩ := planBudget_fields f hf
  exact hacc.elim hany hw1c

/-- Settles O13: the plain writes field by field, and the writes that are commands by where their registers stand in the table. -/
theorem registerWriteObeysAccess : Obligations.RegisterWriteObeysAccess := by
  refine ⟨fun s a value hreserved hplain ha => ?_, fun s a value d hs hd hplain => ?_, fun s a value => ⟨write_region, write_counterCtrl⟩, fun s value => write_singles,
    fun s i value => ⟨fun hi => ⟨write_chCtrl hi, write_chTail hi, write_krTxCtrl hi, write_krTxTail hi⟩, fun hi => ⟨write_krRxCtrl hi, write_krRxHead hi⟩,
      fun j => write_chMarginCtrl, write_bucketLevel, write_monCfg, write_mboxCfg⟩⟩
  · rw [exec_registerWrite_plain hplain, writePlain_reserved hreserved ha]
  · have h := plainWritten hs.regs value hd
    exact ⟨_, exec_registerWrite_plain hplain, h.frame, h.others, h.redivide, h.power, h.budget, fun f hf =>
      ⟨fun hacc ha => (h.fields ha f hf).kept hacc, fun hacc hany => (plainWritten_takes hs.regs hd hf (.inl ⟨hacc, hany⟩)).taken hacc hany,
        fun hacc => (plainWritten_takes hs.regs hd hf (.inr hacc)).cleared hacc⟩⟩

end Sys2Proof.Proofs
end

section
/-! Updates of registers alone, and one field written in every register of a list: the ports' modes and links. -/

namespace Sys2Proof.Proofs

open Sys2Proof.Machine Sys2Proof.Laws

/-- t is s with other registers. -/
def RegsOnly (s t : State) : Prop := t = { s with regs := t.regs }

section
variable {s t u : State}

theorem RegsOnly.refl (s : State) : RegsOnly s s := rfl

theorem RegsOnly.trans (h : RegsOnly s t) (k : RegsOnly t u) : RegsOnly s u := by
  unfold RegsOnly at *
  rw [k, h]

theorem RegsOnly.wr (a : Nat) (v : Word) (h : RegsOnly s t) : RegsOnly s (wr a v t) := h.trans rfl

theorem RegsOnly.wrF (a hi lo v : Nat) (h : RegsOnly s t) : RegsOnly s (wrF a hi lo v t) := h.trans rfl

theorem RegsOnly.wrB (a i : Nat) (b : Bool) (h : RegsOnly s t) : RegsOnly s (wrB a i b t) := h.trans rfl

theorem RegsOnly.bump (a n : Nat) (h : RegsOnly s t) : RegsOnly s (bump a n t) := h.trans bump_frame

end

section
variable {f : Nat → Nat} {hi lo v : Nat} (l : List Nat)

theorem RegsOnly.foldl_wrF {s t : State} (h : RegsOnly s t) : RegsOnly s (l.foldl (fun s p => Machine.wrF (f p) hi lo v s) t) := by
  induction l generalizing t with
  | nil => exact h
  | cons p l ih => exact ih (h.wrF _ _ _ _)

theorem regsWf_foldl_wrF {s : State} (hs : regsWf s.regs = true) : regsWf (l.foldl (fun s p => wrF (f p) hi lo v s) s).regs = true := by
  induction l generalizing s with
  | nil => exact hs
  | cons p l ih => exact ih (regsWf_wrF _ _ _ _ s hs)

theorem rd_foldl_wrF_other {b : Nat} (h : ∀ p ∈ l, b ≠ f p) (s : State) : rd (l.foldl (fun s p => wrF (f p) hi lo v s) s) b = rd s b := by
  induction l generalizing s with
  | nil => rfl
  | cons p l ih => exact (ih (fun q hq => h q (by simp [hq])) _).trans (rd_wrF_other _ _ _ _ _ _ (h p (by simp)))

theorem rdF_foldl_wrF_mem (hle : lo ≤ hi) (hlt : hi < 64) {b : Nat} (hb : ∃ p ∈ l, b = f p) {s : State} (hs : regsWf s.regs = true) :
    rdF (l.foldl (fun s p => wrF (f p) hi lo v s) s) b hi lo = v % 2 ^ (hi + 1 - lo) := by
  induction l generalizing s with
  | nil => simp at hb
  | cons q l ih =>
    by_cases hl : ∃ p ∈ l, b = f p
    · exact ih hl (regsWf_wrF _ _ _ _ s hs)
    · obtain rfl : b = f q := by simpa [hl] using hb
      rw [List.foldl_cons, rdF, rd_foldl_wrF_other l (fun p hp h => hl ⟨p, hp, h⟩)]
      exact rdF_wrF_same _ _ _ _ _ hs hle hlt

end

end Sys2Proof.Proofs
end

section
/-! Resets, straps and the start of the boot. -/

namespace Sys2Proof.Proofs

open Sys2Proof.Machine Sys2Proof.Laws

/-- PORT_STATUS stands 8 past PORT_CFG of its port, and the configurations lie on multiples of 0x100. -/
theorem portCfg_ne_portStatus (p q : Nat) : portCfg p ≠ portStatus q := by
  unfold portStatus portCfg
  split <;> split <;> omega

theorem portCfg_ne {p b : Nat} (h : b < 0xA02000) : b ≠ portCfg p := by
  unfold portCfg
  split <;> omega

theorem portStatus_ne {p b : Nat} (h : b < 0xA02000) : b ≠ portStatus p := by
  unfold portStatus portCfg
  split <;> omega

/-! The straps in force. -/

section
variable (s : State)

/-- The registers of the straps other than the ports' modes. -/
def strapRegs (s : State) : State :=
  wrF 0x8 60 59 (s.straps.profile % 4) (wrF 0x100000 21 0 (strapPeriod (s.straps.tick % 4)) (wrF 0x800000 10 0 (strapCap (s.straps.cap % 8))
    (wr 0x10 (BitVec.ofNat 64 (s.straps.thimble % 2 * 2 ^ 11 + s.straps.portmode % 4 * 2 ^ 9 + s.straps.cap % 8 * 2 ^ 6 + s.straps.profile % 4 * 2 ^ 4 + s.straps.bootport % 4 * 2 ^ 2 + s.straps.tick % 4)) s)))

theorem applyStraps_eq : applyStraps s = (List.range 8).foldl (fun t p => wrF (portCfg p) 57 56 (s.straps.portmode % 4) t) (strapRegs s) := rfl

theorem regsOnly_applyStraps : RegsOnly s (applyStraps s) :=
  RegsOnly.foldl_wrF _ ((((RegsOnly.refl s).wr _ _).wrF _ _ _ _).wrF _ _ _ _ |>.wrF _ _ _ _)

/-- What an applied strap leaves alone. -/
theorem rd_applyStraps_low {b : Nat} (h : b < 0xA02000) : rd (applyStraps s) b = rd (strapRegs s) b := by
  rw [applyStraps_eq]
  exact rd_foldl_wrF_other _ (fun p _ => portCfg_ne h) _

variable {s} (hs : regsWf s.regs = true)
include hs

theorem regsWf_strapRegs : regsWf (strapRegs s).regs = true := regsWf_wrF _ _ _ _ _ (regsWf_wrF _ _ _ _ _ (regsWf_wrF _ _ _ _ _ (regsWf_wr _ _ _ hs)))

theorem regsWf_applyStraps : regsWf (applyStraps s).regs = true := by
  rw [applyStraps_eq]
  exact regsWf_foldl_wrF _ (regsWf_strapRegs hs)

omit hs in
theorem strapPeriod_lt (k : Nat) : strapPeriod k < 2 ^ 22 := by
  unfold strapPeriod
  split <;> decide

theorem applyStraps_period : rdF (applyStraps s) 0x100000 21 0 = strapPeriod (s.straps.tick % 4) := by
  rw [rdF, rd_applyStraps_low s (by decide), strapRegs, rd_wrF_other _ _ _ _ _ _ (by decide)]
  exact (rdF_wrF_same _ _ _ _ _ (regsWf_wrF _ _ _ _ _ (regsWf_wr _ _ _ hs)) (by decide) (by decide)).trans (Nat.mod_eq_of_lt (strapPeriod_lt _))

theorem applyStraps_profile : rdF (applyStraps s) 0x8 60 59 = s.straps.profile % 4 := by
  rw [rdF, rd_applyStraps_low s (by decide)]
  exact (rdF_wrF_same _ _ _ _ _ (regsWf_wrF _ _ _ _ _ (regsWf_wrF _ _ _ _ _ (regsWf_wr _ _ _ hs))) (by decide) (by decide)).trans (Nat.mod_mod _ _)

omit hs in
theorem strapCap_lt : ∀ k < 8, strapCap k < 2 ^ 11 := by decide

theorem applyStraps_cap : rdF (applyStraps s) 0x800000 10 0 = strapCap (s.straps.cap % 8) := by
  rw [rdF, rd_applyStraps_low s (by decide), strapRegs, rd_wrF_other _ _ _ _ _ _ (by decide), rd_wrF_other _ _ _ _ _ _ (by decide)]
  exact (rdF_wrF_same _ _ _ _ _ (regsWf_wr _ _ _ hs) (by decide) (by decide)).trans (Nat.mod_eq_of_lt (strapCap_lt _ (Nat.mod_lt _ (by decide))))

theorem applyStraps_mode {p : Nat} (hp : p < 8) : rdF (applyStraps s) (portCfg p) 57 56 = s.straps.portmode % 4 := by
  rw [applyStraps_eq]
  exact (rdF_foldl_wrF_mem _ (by decide) (by decide) ⟨p, List.mem_range.2 hp, rfl⟩ (regsWf_strapRegs hs)).trans (Nat.mod_mod _ _)

end

/-! The boot from step 2 of R378. -/

/-- The state as the straps are applied at the start of the boot: nothing is kept but what the thimble holds. -/
def bootStart (s : State) : State :=
  let f := fresh s
  let t := f.2
  let th := { Thimble.none with wakeKey := t.thimble.wakeKey, wakeNotice := t.thimble.wakeNotice }
  let last := rd t 0xC00018
  wr 0xC00018 last (freshKeys f.1 { husk t with thimble := th, pins := { t.pins with rails := allRails, retryAt := none, railCause := false }, boot := { Boot.none with started := true, solicitAt := t.tape } })

/-- What the boot does once the straps are in force, but for the links of the boot port. -/
def bootRun (cause : Nat) (s : State) : State :=
  wrF 0x8 63 61 1 (wr 0x18 (BitVec.ofNat 64 (cause * 2 ^ 57)) (wrF 0x40018 24 0 (pageCount s / 100) s))

theorem bootFrom2_eq (cause : Nat) (s : State) : ∃ p, bootFrom2 cause s = raiseLinks p (reloadWdog (bootRun cause (applyStraps (bootStart s)))) := ⟨_, rfl⟩

theorem regsOnly_bootRun (cause : Nat) (s : State) : RegsOnly s (bootRun cause s) := (((RegsOnly.refl s).wrF _ _ _ _).wr _ _).wrF _ _ _ _

theorem regsWf_bootStart (s : State) : regsWf (bootStart s).regs = true := regsWf_wr _ _ _ rfl

theorem rd_reloadWdog (s : State) (b : Nat) : rd (reloadWdog s) b = rd s b := rfl

theorem reloadWdog_frame (s : State) : reloadWdog s = { s with thimble := (reloadWdog s).thimble } := rfl

theorem freshKeys_frame (draw : Word) (s : State) : freshKeys draw s = { s with secure := (freshKeys draw s).secure } := rfl

/-- What the boot's start leaves in the fields that are no registers. -/
theorem bootStart_rest (s : State) : (bootStart s).straps = s.straps ∧ (bootStart s).pins = { s.pins with rails := allRails, retryAt := none, railCause := false } ∧
    (bootStart s).tape = s.tape ∧ (bootStart s).mem = [] ∧ (bootStart s).pending = s.pending ∧ (bootStart s).fuse = s.fuse := by
  rw [bootStart, wr_only, freshKeys_frame]
  exact ⟨rfl, rfl, rfl, rfl, rfl, rfl⟩

theorem bootStart_straps (s : State) : (bootStart s).straps = s.straps := (bootStart_rest s).1

/-- Registers below the ports' read at the end of the boot's start as before the links rise. -/
theorem rd_bootFrom2_low {b : Nat} (h : b < 0xA02000) (cause : Nat) (s : State) : rd (bootFrom2 cause s) b = rd (bootRun cause (applyStraps (bootStart s))) b := by
  obtain ⟨p, hp⟩ := bootFrom2_eq cause s
  rw [hp, raiseLinks, rd_wrF_other _ _ _ _ _ _ (portStatus_ne h), rd_reloadWdog]

theorem rd_bootRun_other {b cause : Nat} {s : State} (h : b ≠ 0x8 ∧ b ≠ 0x18 ∧ b ≠ 0x40018) : rd (bootRun cause s) b = rd s b := by
  obtain ⟨h8, h18, hpages⟩ := h
  rw [bootRun, rd_wrF_other _ _ _ _ _ _ h8, rd_wr_other _ _ _ _ h18, rd_wrF_other _ _ _ _ _ _ hpages]

section
variable {cause : Nat} {s : State} (hs : regsWf s.regs = true)
include hs

theorem bootRun_state : rdF (bootRun cause s) 0x8 63 61 = 1 :=
  rdF_wrF_same _ _ _ _ _ (regsWf_wr _ _ _ (regsWf_wrF _ _ _ _ _ hs)) (by decide) (by decide)

theorem bootRun_profile : rdF (bootRun cause s) 0x8 60 59 = rdF s 0x8 60 59 := by
  rw [bootRun, rdF_wrF_other _ _ _ _ _ _ _ (regsWf_wr _ _ _ (regsWf_wrF _ _ _ _ _ hs)) (by decide) (by decide) (by decide), rdF, rd_wr_other _ _ _ _ (by decide),
    rd_wrF_other _ _ _ _ _ _ (by decide), rdF]

theorem bootRun_cause : rdF (bootRun cause s) 0x18 60 57 = cause % 16 := by
  rw [bootRun, rdF, rd_wrF_other _ _ _ _ _ _ (by decide), rd_wr_same _ _ _ (regsWf_wrF _ _ _ _ _ hs), getBits, natBits, BitVec.toNat_ofNat]
  omega

end

section
variable (cause : Nat) (s : State)

theorem bootFrom2_state : rdF (bootFrom2 cause s) 0x8 63 61 = 1 := by
  rw [rdF, rd_bootFrom2_low (by decide)]
  exact bootRun_state (regsWf_applyStraps (regsWf_bootStart s))

theorem bootFrom2_cause : rdF (bootFrom2 cause s) 0x18 60 57 = cause % 16 := by
  rw [rdF, rd_bootFrom2_low (by decide)]
  exact bootRun_cause (regsWf_applyStraps (regsWf_bootStart s))

theorem bootFrom2_period : period (bootFrom2 cause s) = strapPeriod (s.straps.tick % 4) := by
  rw [period, rdF, rd_bootFrom2_low (by decide), rd_bootRun_other (by decide), ← bootStart_straps]
  exact applyStraps_period (regsWf_bootStart s)

theorem bootFrom2_profile : rdF (bootFrom2 cause s) 0x8 60 59 = s.straps.profile % 4 := by
  rw [rdF, rd_bootFrom2_low (by decide), ← bootStart_straps]
  exact (bootRun_profile (regsWf_applyStraps (regsWf_bootStart s))).trans (applyStraps_profile (regsWf_bootStart s))

theorem bootFrom2_cap : rdF (bootFrom2 cause s) 0x800000 10 0 = strapCap (s.straps.cap % 8) := by
  rw [rdF, rd_bootFrom2_low (by decide), rd_bootRun_other (by decide), ← bootStart_straps]
  exact applyStraps_cap (regsWf_bootStart s)

theorem bootFrom2_mode {p : Nat} (hp : p < 8) : rdF (bootFrom2 cause s) (portCfg p) 57 56 = s.straps.portmode % 4 := by
  have hhigh : portCfg p ≠ 0x8 ∧ portCfg p ≠ 0x18 ∧ portCfg p ≠ 0x40018 := ⟨(portCfg_ne (by decide)).symm, (portCfg_ne (by decide)).symm, (portCfg_ne (by decide)).symm⟩
  obtain ⟨q, hq⟩ := bootFrom2_eq cause s
  rw [hq, raiseLinks, rdF_wrF_elsewhere (portCfg_ne_portStatus p q), ← bootStart_straps, rdF, rd_reloadWdog, rd_bootRun_other hhigh]
  exact applyStraps_mode (regsWf_bootStart s) hp

/-- What the boot's start leaves in the fields that are no registers. -/
theorem bootFrom2_rest : (bootFrom2 cause s).pins = { s.pins with rails := allRails, retryAt := none, railCause := false } ∧ (bootFrom2 cause s).tape = s.tape ∧
    (bootFrom2 cause s).mem = [] ∧ (bootFrom2 cause s).pending = s.pending ∧ (bootFrom2 cause s).fuse = s.fuse := by
  obtain ⟨p, hp⟩ := bootFrom2_eq cause s
  have hstraps : RegsOnly (bootStart s) (bootRun cause (applyStraps (bootStart s))) := (regsOnly_applyStraps _).trans (regsOnly_bootRun _ _)
  have hraise : RegsOnly (reloadWdog (bootRun cause (applyStraps (bootStart s)))) (bootFrom2 cause s) := hp ▸ (RegsOnly.refl _).wrF _ _ _ _
  have hall : ∀ {u v w : State}, RegsOnly u v → RegsOnly (reloadWdog v) w →
      w.pins = u.pins ∧ w.tape = u.tape ∧ w.mem = u.mem ∧ w.pending = u.pending ∧ w.fuse = u.fuse := by
    intro u v w huv hvw
    rw [hvw, reloadWdog_frame, huv]
    exact ⟨rfl, rfl, rfl, rfl, rfl⟩
  obtain ⟨hpins, htape, hmem, hpending, hfuse⟩ := hall hstraps hraise
  obtain ⟨-, hpins', htape', hmem', hpending', hfuse'⟩ := bootStart_rest s
  exact ⟨hpins.trans hpins', htape.trans htape', hmem.trans hmem', hpending.trans hpending', hfuse.trans hfuse'⟩

end

/-- COLD_BOOT with STRAP_THIMBLE 0 is a boot from step 2 at 50,000 ns, with the straps as sampled. -/
theorem exec_coldBoot {x : Straps} {s : State} (hreset : s.pins.resetLow = true) (hclock : s.pins.clockLost = false) (hthimble : x.thimble = 0) :
    exec (.coldBoot x) s = .next (bootFrom2 (if s.pins.railCause then 10 else 0)
      { husk s with straps := x, tape := 50000, frac := 0, pins := { s.pins with resetLow := false } }) := by
  dsimp only [exec, execColdBoot]
  rw [if_neg (by simp [hreset, hclock]), if_neg (by simp [hthimble])]

/-- Settles O15: the registers that the boot writes from the straps, each read past the later writes. -/
theorem coldBootTakesStraps : Obligations.ColdBootTakesStraps := by
  intro x s hreset hclock hthimble htick hprofile hcap hmode hport
  obtain ⟨hpins, htape, hmem, hpending, hfuse⟩ := bootFrom2_rest (if s.pins.railCause then 10 else 0)
    { husk s with straps := x, tape := 50000, frac := 0, pins := { s.pins with resetLow := false } }
  refine ⟨_, exec_coldBoot hreset hclock hthimble, ?_, ?_, htape, bootFrom2_state _ _, ?_, ?_, ?_, fun p hp => ?_, hmem, hpending, hfuse⟩
  · rw [hpins]
  · rw [hpins]
  · rw [bootFrom2_period, Nat.mod_eq_of_lt htick]
    unfold strapPeriod
    interval_cases x.tick <;> rfl
  · rw [bootFrom2_profile, Nat.mod_eq_of_lt hprofile]
  · rw [bootFrom2_cap, Nat.mod_eq_of_lt hcap, strapCap]
    interval_cases x.cap <;> rfl
  · rw [bootFrom2_mode _ _ hp, Nat.mod_eq_of_lt hmode]

end Sys2Proof.Proofs
end

section
/-! Vector registers, and the merge of seam records. -/

namespace Sys2Proof.Proofs

open Sys2Proof.Machine Sys2Proof.Laws

/-! Vector registers (R192, R193): poison is kept in one rising list, element i of register n at 64 n + i. -/

theorem mem_insNat_iff {x n : Nat} {l : List Nat} : x ∈ insNat l n ↔ x = n ∨ x ∈ l := by
  refine ⟨mem_insNat l n x, ?_⟩
  induction l with
  | nil => simp [insNat]
  | cons m l ih =>
    unfold insNat
    split
    · simp
    · split
      · rintro (rfl | h) <;> simp_all
      · rintro (rfl | h)
        · simp [ih (.inl rfl)]
        · rcases List.mem_cons.1 h with rfl | h
          · simp
          · simp [ih (.inr h)]

/-- Entries inserted where a condition holds of their index. -/
theorem mem_foldl_insNat {x : Nat} {f : Nat → Nat} {p : Nat → Bool} (is l : List Nat) :
    x ∈ is.foldl (fun l i => if p i then insNat l (f i) else l) l ↔ x ∈ l ∨ ∃ i ∈ is, p i = true ∧ x = f i := by
  induction is generalizing l with
  | nil => simp
  | cons i is ih =>
    rw [List.foldl_cons, ih]
    split <;> simp_all [mem_insNat_iff, or_assoc, or_left_comm]

section
variable {x : VecEngine} {n : Nat} {es : List (F32 × Bool)} (hlen : es.length = 64)
include hlen

/-- The poison of a register that was written is the poison written. -/
theorem vBad_putV_same (i : Nat) (h : i < es.length) : vBad (putV x n es) n i = es[i].2 := by
  rw [Bool.eq_iff_iff, vBad, putV, List.contains_iff_mem, mem_foldl_insNat]
  constructor
  · rintro (hkept | ⟨j, hj, hbad, heq⟩)
    · have hother := (List.mem_filter.1 hkept).2
      simp only [Bool.not_eq_true', beq_eq_false_iff_ne] at hother
      omega
    · obtain rfl : i = j := by omega
      simpa [h] using hbad
  · intro hbad
    exact .inr ⟨i, List.mem_range.2 h, by simpa [h] using hbad, rfl⟩

/-- A write of a register leaves the poison of the others. -/
theorem vBad_putV_other {m i : Nat} (hm : m ≠ n) (hi : i < 64) : vBad (putV x n es) m i = vBad x m i := by
  rw [Bool.eq_iff_iff, vBad, vBad, putV, List.contains_iff_mem, List.contains_iff_mem, mem_foldl_insNat, List.mem_filter]
  constructor
  · rintro (⟨hold, -⟩ | ⟨j, hj, -, heq⟩)
    · exact hold
    · have := List.mem_range.1 hj
      omega
  · intro hold
    refine .inl ⟨hold, ?_⟩
    simp only [Bool.not_eq_true', beq_eq_false_iff_ne]
    omega

end

/-- Settles O27: elements by the laws of sparse maps, poison by the place of each element in the rising list. -/
theorem vectorRegistersReadBack : Obligations.VectorRegistersReadBack :=
  fun _ _ _ hwf hlen => ⟨sget_sput_same _ _ _ _ hwf, vBad_putV_same hlen,
    fun _ hm => ⟨sget_sput_other _ _ _ _ _ hm, fun _ hi => vBad_putV_other hlen hm hi⟩, swf_sput _ _ _ _ hwf⟩

/-! The merge of seam records (R148, R150, R151). Where no fault stands in the way each part of the entry takes its own share of a record, and each share commutes. -/

/-- An int32 sum wraps. -/
def wrap32 (x : Int) : Int := toSigned 32 (ofSigned 32 x)

theorem wrap32_add_comm (x a b : Int) : wrap32 (wrap32 (x + a) + b) = wrap32 (wrap32 (x + b) + a) := by
  have hbmod : ∀ y, wrap32 y = y.bmod (2 ^ 32) := by
    intro y
    rw [wrap32, toSigned_eq_bmod (by decide), ofSigned, Int.toNat_of_nonneg (Int.emod_nonneg _ (by decide)), Int.emod_bmod]
  rw [hbmod, hbmod, hbmod, hbmod, Int.bmod_add_bmod, Int.bmod_add_bmod, add_right_comm]

/-- Values of different keys go to the same places in either order. -/
theorem insBy_comm {α : Type} {key : α → Nat} {x y : α} (h : key x ≠ key y) (l : List α) :
    insBy key x (insBy key y l) = insBy key y (insBy key x l) := by
  induction l with
  | nil =>
    rcases Nat.lt_or_gt_of_ne h with hlt | hlt <;> simp [insBy, hlt, Nat.not_lt_of_gt hlt]
  | cons z l ih =>
    simp only [insBy]
    split <;> split <;> simp only [insBy] <;> grind

/-- Two updates, each made under a condition of its own, commute where they commute when both are made. -/
theorem update_comm {α : Type} {p q : Prop} [Decidable p] [Decidable q] {f g : α → α} {x : α} (h : p → q → g (f x) = f (g x)) :
    (if q then g (if p then f x else x) else if p then f x else x) = if p then f (if q then g x else x) else if q then g x else x := by
  by_cases hp : p
  · by_cases hq : q
    · simpa only [hp, hq, if_true] using h hp hq
    · simp only [hq, if_false]
  · simp only [hp, if_false]

/-- The entry after a record that meets no fault. -/
def merged (e : MergeEntry) (r : Record) : MergeEntry :=
  { e with
    poison := e.poison || r.poison
    acc := if r.ptag = 2 ∨ e.op ≠ 1 ∧ r.ptag = 4 then e.acc else if e.op = 1 then max e.acc (toSigned 32 r.value) else wrap32 (e.acc + toSigned 32 r.value)
    low := if e.op ≠ 1 ∧ r.ptag = 4 then wrap32 (e.low + toSigned 32 r.value) else e.low
    fmax := if e.op = 1 ∧ r.ptag = 2 then fMax e.fmax (BitVec.ofNat 32 r.value) else e.fmax
    pending := if e.op ≠ 1 ∧ r.ptag = 2 then insBy (fun x => x.1) (r.piece, BitVec.ofNat 32 r.value) e.pending else e.pending }

section
variable {e : MergeEntry} {a b r : Record}

/-- A record of a listed combination, with the entry's operation and tag and room for its piece, merges without a fault. -/
theorem mergeInto_eq (hop : r.op = e.op) (hcomb : combination e.op r.ptag = true) (htag : tagsAgree e.ptag r.ptag = true)
    (hroom : e.op ≠ 1 → r.ptag = 2 → e.pending.length < 8 ∧ ∀ x ∈ e.pending, x.1 ≠ r.piece) : mergeInto e r = (merged e r, none) := by
  have hfits : e.op ≠ 1 → r.ptag = 2 → ¬ 8 ≤ e.pending.length ∧ e.pending.any (fun x => x.1 == r.piece) = false := fun h k => by
    obtain ⟨hlen, hne⟩ := hroom h k
    exact ⟨by omega, List.any_eq_false.2 (by simpa using hne)⟩
  unfold mergeInto merged wrap32
  simp only [htag, hop, hcomb, Bool.not_true, Bool.false_eq_true, if_false, ne_eq, not_true, or_self]
  by_cases h1 : e.op = 1
  · by_cases h2 : r.ptag = 2 <;> simp [h1, h2]
  · by_cases h2 : r.ptag = 2
    · obtain ⟨hlen, hnone⟩ := hfits h1 h2
      simp [h1, h2, hlen, hnone]
    · by_cases h4 : r.ptag = 4 <;> simp [h1, h2, h4]

theorem merged_comm (hpiece : e.op ≠ 1 → a.ptag = 2 → a.piece ≠ b.piece) :
    merged (merged e a) b = merged (merged e b) a := by
  unfold merged
  simp only [MergeEntry.mk.injEq, true_and]
  refine ⟨?_, ?_, ?_, ?_, Bool.or_right_comm _ _ _⟩
  · by_cases h1 : e.op = 1
    · by_cases ha : a.ptag = 2 <;> by_cases hb : b.ptag = 2 <;> simp [h1, ha, hb, max_right_comm]
    · by_cases ha : a.ptag = 2 ∨ a.ptag = 4 <;> by_cases hb : b.ptag = 2 ∨ b.ptag = 4 <;> simp [h1, ha, hb, wrap32_add_comm]
  · exact update_comm (f := fun x => wrap32 (x + toSigned 32 a.value)) (g := fun x => wrap32 (x + toSigned 32 b.value)) fun _ _ => wrap32_add_comm _ _ _
  · exact update_comm (f := fun x => fMax x (BitVec.ofNat 32 a.value)) (g := fun x => fMax x (BitVec.ofNat 32 b.value)) fun _ _ => by
      rw [fMax_assoc, fMax_comm (BitVec.ofNat 32 a.value), fMax_assoc]
  · exact update_comm (f := insBy _ (a.piece, BitVec.ofNat 32 a.value)) (g := insBy _ (b.piece, BitVec.ofNat 32 b.value)) fun ha _ =>
      insBy_comm (key := fun x => x.1) (x := (b.piece, _)) (y := (a.piece, _)) (fun h => hpiece ha.1 ha.2 h.symm) _

theorem mem_insBy {α : Type} {key : α → Nat} {x y : α} {l : List α} : x ∈ insBy key y l → x = y ∨ x ∈ l := by
  induction l with
  | nil => simp [insBy]
  | cons z l ih =>
    unfold insBy
    split
    · simp
    · intro h
      rcases List.mem_cons.1 h with rfl | h
      · simp
      · exact (ih h).imp_right (List.mem_cons_of_mem _)

theorem length_insBy {α : Type} (key : α → Nat) (y : α) (l : List α) : (insBy key y l).length = l.length + 1 := by
  induction l with
  | nil => rfl
  | cons z l ih =>
    unfold insBy
    split <;> simp [ih]

/-- After one record there is still room for the other. -/
theorem room_merged (hpiece : a.piece ≠ b.piece) (hlen : e.pending.length ≤ 6) (hne : ∀ x ∈ e.pending, x.1 ≠ b.piece) :
    (merged e a).pending.length < 8 ∧ ∀ x ∈ (merged e a).pending, x.1 ≠ b.piece := by
  unfold merged
  dsimp only
  split
  · rw [length_insBy]
    refine ⟨by omega, fun x hx => ?_⟩
    rcases mem_insBy hx with rfl | hx
    · exact hpiece
    · exact hne x hx
  · exact ⟨by omega, hne⟩

/-- Tags that agree with one tag are fp32 together. -/
theorem tagsAgree_two (ha : tagsAgree e.ptag a.ptag = true) (hb : tagsAgree e.ptag b.ptag = true) : a.ptag = 2 ↔ b.ptag = 2 := by
  simp only [tagsAgree, Bool.or_eq_true, Bool.and_eq_true, beq_iff_eq] at ha hb
  omega

end

/-- Settles O22: neither record meets a fault in either order, and what each part of the entry takes of them commutes. -/
theorem mergeIgnoresOrder : Obligations.MergeIgnoresOrder := by
  intro e a b haop hbop hac hbc hat hbt hpieces
  have htwo := tagsAgree_two hat hbt
  have hea : mergeInto e a = (merged e a, none) := mergeInto_eq haop hac hat fun h k => by
    obtain ⟨-, hlen, hne⟩ := hpieces h k
    exact ⟨by omega, fun x hx => (hne x hx).1⟩
  have heb : mergeInto e b = (merged e b, none) := mergeInto_eq hbop hbc hbt fun h k => by
    obtain ⟨-, hlen, hne⟩ := hpieces h (htwo.2 k)
    exact ⟨by omega, fun x hx => (hne x hx).2⟩
  have hab : mergeInto (merged e a) b = (merged (merged e a) b, none) := mergeInto_eq hbop hbc hbt fun h k => by
    obtain ⟨hpiece, hlen, hne⟩ := hpieces h (htwo.2 k)
    exact room_merged hpiece hlen fun x hx => (hne x hx).2
  have hba : mergeInto (merged e b) a = (merged (merged e b) a, none) := mergeInto_eq haop hac hat fun h k => by
    obtain ⟨hpiece, hlen, hne⟩ := hpieces h k
    exact room_merged hpiece.symm hlen fun x hx => (hne x hx).1
  rw [hea, heb, hab, hba]
  exact ⟨merged_comm fun h k => (hpieces h k).1, rfl, rfl⟩

end Sys2Proof.Proofs
end

section
/-! Writes of memory in the stacks, and the fill of the shuttle (R302). -/

namespace Sys2Proof.Proofs

open Sys2Proof.Machine Sys2Proof.Laws

section
variable {s : State} {a n : Nat}

theorem le_capacity_of_inStack (h : inStack s a n = true) : a + n ≤ capacity s := of_decide_eq_true h

theorem inStack_of_le (h : a + n ≤ capacity s) : inStack s a n = true := decide_eq_true h

theorem inMap_of_inStack (h : inStack s a n = true) : inMap s a n = true := by simp [inMap, inMemory, h]

theorem regionOf_of_inStack (h : inStack s a n = true) (hn : n ≠ 0) : regionOf s a = .stack :=
  if_pos (by have := le_capacity_of_inStack h; omega)

/-- A write in the stacks is stored. -/
theorem writeMem_inStack {who : Requester} {ctx : Nat} {bytes : List Byte} {poison : Bool} (h : inStack s a bytes.length = true) (hne : bytes ≠ []) :
    writeMem who ctx a bytes poison s = (false, storeBytes (allocates who) ctx a bytes poison s) := by
  have hlen : bytes.length ≠ 0 := by simpa using hne
  simp [writeMem, hlen, inMap_of_inStack h, regionOf_of_inStack h hlen, writeIn]

/-- What the stacks hold is canonical, and has the same bounds, after a write. -/
theorem keeps_storeBytes_inStack (alloc : Bool) (ctx a : Nat) (bytes : List Byte) (poison : Bool) (s : State) : Keeps s (storeBytes alloc ctx a bytes poison s) :=
  keeps_storeBytes alloc ctx a bytes poison s (.refl s)

end

/-! The chunks of a range, one for each 64-byte line that it touches. -/

section
variable {a len : Nat} {k : Nat × Nat}

theorem chunk_inside (h : k ∈ chunksFrom a len) : k.2 ≠ 0 ∧ k.1 + k.2 ≤ len := by
  unfold chunksFrom at h
  split at h
  · simp at h
  · obtain ⟨i, hi, rfl⟩ := List.mem_map.1 h
    have := List.mem_range.1 hi
    dsimp only
    omega

/-- Every byte of the range lies in a chunk, the one of its line. -/
theorem exists_chunk {i : Nat} (h : i < len) : ∃ k ∈ chunksFrom a len, k.1 ≤ i ∧ i < k.1 + k.2 := by
  unfold chunksFrom
  rw [if_neg (by omega)]
  refine ⟨_, List.mem_map_of_mem (a := (a + i) / 64 - a / 64) (List.mem_range.2 (by omega)), ?_⟩
  dsimp only
  omega

/-- The chunks up to a line reach that line's start. -/
theorem sum_chunks (c : Nat) (hc : c ≤ (a + len - 1) / 64 - a / 64 + 1) :
    ((List.range c).map (fun i => min (a + len) ((a / 64 + i + 1) * 64) - max a ((a / 64 + i) * 64))).sum = min (a + len) (max a ((a / 64 + c) * 64)) - a := by
  induction c with
  | zero => simp; omega
  | succ c ih =>
    rw [List.range_succ, List.map_append, List.sum_append, ih (by omega)]
    simp only [List.map_cons, List.map_nil, List.sum_cons, List.sum_nil]
    omega

theorem sum_chunksFrom : ((chunksFrom a len).map (fun k => k.2)).sum = len := by
  unfold chunksFrom
  split
  next h => exact h.symm
  next h =>
    rw [List.map_map]
    exact (sum_chunks _ le_rfl).trans (by omega)

end

/-! The fill. -/

/-- The byte of the pattern that an address takes. -/
def fillByte (pat b : Nat) : Byte := BitVec.ofNat 8 (natBits pat (8 * (b % 8) + 7) (8 * (b % 8)))

/-- A byte lies in a chunk of a range that starts at dst. -/
def InChunk (dst b : Nat) (k : Nat × Nat) : Prop := dst + k.1 ≤ b ∧ b < dst + k.1 + k.2

/-- A fill that has passed the chunks ks: no access failed, and their bytes, no others, stand filled. -/
structure Filled (s : State) (ctx dst pat : Nat) (ks : List (Nat × Nat)) (m : Move) : Prop where
  bad : m.bad = none
  done : m.done = (ks.map (fun k => k.2)).sum
  keeps : Keeps s m.s
  written : ∀ k ∈ ks, ∀ b, InChunk dst b k → byteAs m.s ctx b = fillByte pat b
  others : ∀ b, (∀ k ∈ ks, ¬ InChunk dst b k) → byteAs m.s ctx b = byteAs s ctx b

/-- The step of a fill over one chunk. -/
def fillChunk (who : Requester) (ctx dst pat : Nat) (m : Move) (k : Nat × Nat) : Move :=
  moveWrite who ctx (dst + k.1) ((List.range k.2).map (fun i => fillByte pat (dst + k.1 + i))) false m

theorem moveFill_eq (who : Requester) (ctx dst len pat : Nat) (s : State) :
    moveFill who ctx dst len pat s = (chunksFrom dst len).foldl (fillChunk who ctx dst pat) (Move.start s) := rfl

section
variable {who : Requester} {ctx dst pat : Nat} {s : State} (hs : Canonical s)
include hs

theorem Filled.fillChunk {m : Move} {ks : List (Nat × Nat)} {k : Nat × Nat} (hm : Filled s ctx dst pat ks m) (hk : k.2 ≠ 0) (hin : dst + k.1 + k.2 ≤ capacity s) :
    Filled s ctx dst pat (ks ++ [k]) (fillChunk who ctx dst pat m k) := by
  obtain ⟨hbad, hdone, hkeeps, hwritten, hothers⟩ := hm
  have hcap : capacity m.s = capacity s := by rw [capacity, hkeeps.fuse, capacity]
  set bytes := (List.range k.2).map (fun i => fillByte pat (dst + k.1 + i)) with hbytes
  have hlen : bytes.length = k.2 := by simp [hbytes]
  have hplace : inStack m.s (dst + k.1) bytes.length = true := inStack_of_le (by rw [hlen, hcap]; exact hin)
  have hne : bytes ≠ [] := by rw [← List.length_pos_iff]; omega
  have hcan := hkeeps.inv hs
  obtain ⟨hout, hat⟩ := byteAs_storeBytes (allocates who) ctx (dst + k.1) bytes false m.s ⟨hcan.mem, hcan.keys⟩ (.inl hplace)
  have hstep : Proofs.fillChunk who ctx dst pat m k =
      { m with done := m.done + k.2, dropped := m.dropped || writeDropped who m.s (dst + k.1) k.2, s := storeBytes (allocates who) ctx (dst + k.1) bytes false m.s } := by
    simp [Proofs.fillChunk, moveWrite, hbad, ← hbytes, hne, writeMem_inStack hplace hne, hlen]
  have hnew : ∀ b, InChunk dst b k → byteAs (storeBytes (allocates who) ctx (dst + k.1) bytes false m.s) ctx b = fillByte pat b := by
    rintro b ⟨hlo, hhi⟩
    obtain ⟨i, rfl⟩ := Nat.exists_eq_add_of_le hlo
    rw [hat i (by omega)]
    simp [hbytes]
  have hold : ∀ b, ¬ InChunk dst b k → byteAs (storeBytes (allocates who) ctx (dst + k.1) bytes false m.s) ctx b = byteAs m.s ctx b := fun b hb => hout b (by unfold InChunk at hb; omega)
  rw [hstep]
  refine ⟨hbad, by simp [hdone], hkeeps.trans (keeps_storeBytes_inStack ..), fun k' hk' b hb => ?_, fun b hb => ?_⟩
  · by_cases hbk : InChunk dst b k
    · exact hnew b hbk
    · rcases List.mem_append.1 hk' with hk' | hk'
      · exact (hold b hbk).trans (hwritten k' hk' b hb)
      · exact absurd (List.mem_singleton.1 hk' ▸ hb) hbk
  · exact (hold b (hb k (by simp))).trans (hothers b fun k' hk' => hb k' (by simp [hk']))

theorem Filled.foldl (ks : List (Nat × Nat)) {m : Move} {done : List (Nat × Nat)} (hm : Filled s ctx dst pat done m)
    (hks : ∀ k ∈ ks, k.2 ≠ 0 ∧ dst + k.1 + k.2 ≤ capacity s) : Filled s ctx dst pat (done ++ ks) (ks.foldl (Proofs.fillChunk who ctx dst pat) m) := by
  induction ks generalizing m done with
  | nil => simpa using hm
  | cons k ks ih =>
    obtain ⟨hne, hin⟩ := hks k (by simp)
    simpa using ih (hm.fillChunk hs hne hin) fun k' hk' => hks k' (by simp [hk'])

end

/-- Settles O31: the chunks of the destination cover it, and each writes the pattern by address. -/
theorem fillWritesPattern : Obligations.FillWritesPattern := by
  intro s ch ctx dst len pat hs hplace
  have hcap := le_capacity_of_inStack hplace
  have hstart : Filled s ctx dst pat [] (Move.start s) := ⟨rfl, rfl, .refl s, by simp, fun _ _ => rfl⟩
  obtain ⟨hbad, hdone, -, hwritten, hothers⟩ := hstart.foldl (who := .shuttle ch) hs (chunksFrom dst len) fun k hk => by
    obtain ⟨hne, hin⟩ := chunk_inside hk
    exact ⟨hne, by omega⟩
  rw [List.nil_append] at hdone hwritten hothers
  rw [moveFill_eq]
  refine ⟨hbad, hdone.trans sum_chunksFrom, fun i hi => ?_, fun b hb => hothers b fun k hk hin => ?_⟩
  · obtain ⟨k, hk, hlo, hhi⟩ := exists_chunk (a := dst) hi
    exact hwritten k hk _ ⟨by omega, by omega⟩
  · obtain ⟨-, hend⟩ := chunk_inside hk
    obtain ⟨hlo, hhi⟩ := hin
    omega

end Sys2Proof.Proofs
end

section
/-! Line accesses (R253, R259). The fuse of R3 that gives a stack's size is any number in the model, and a device whose stacks reach into the addresses of the registers answers a read there from the registers. -/

namespace Sys2Proof.Proofs

open Sys2Proof.Machine Sys2Proof.Laws

/-- The state after reset of a device fused for stacks of 2,049 GiB: they end above the first address of the registers. -/
def oversizedStacks : State := { State.reset with fuse := { State.reset.fuse with stackGiB := 2049 } }

theorem canonical_oversizedStacks : Canonical oversizedStacks := by
  obtain ⟨hmem, hregs, hpoison, hkeys⟩ := canonicalAtReset
  exact ⟨hmem, hregs, hpoison, hkeys⟩

/-- The byte at offset i of what a read returned. -/
def readByte (o : Host.Outcome State Fault Refusal) (i : Nat) : Byte :=
  match o with
  | .next t => t.lastResp.bytes.getD i 0
  | _ => 0

/-- A read at the first address of the registers answers SYS_ID, whose byte 4 is 2. -/
theorem readByte_oversizedStacks : readByte (exec (.memoryAccess .controller regBase 0 .read [] none) oversizedStacks) 4 = 2 := by decide +kernel

/-- Refutes O34: of the oversized stacks the line at the first address of the registers lies in the stacks, whose memory holds 0 there, but the read answers the register SYS_ID. -/
theorem not_lineAccesses : ¬ Obligations.LineAccesses := by
  rintro ⟨hread, -⟩
  obtain ⟨t, hexec, hresp, -⟩ := hread oversizedStacks .controller regBase 0 none canonical_oversizedStacks (by decide +kernel) (by decide +kernel)
  have hbyte := readByte_oversizedStacks
  rw [hexec, readByte, hresp] at hbyte
  exact absurd hbyte (by decide +kernel)

end Sys2Proof.Proofs
end

section
/-! Atomics (R266, R267): what the access to the word leaves, and the commands. -/

namespace Sys2Proof.Proofs

open Sys2Proof.Machine Sys2Proof.Laws

/-! What an access leaves of the caches and counters of its slice, and a write of clean units of its memory. -/

/-- t is s but for free values, caches and registers. -/
def CachesOnly (s t : State) : Prop := t = { s with free := t.free, cache := t.cache, regs := t.regs }

/-- t is s but for what a store of clean units writes. -/
def StoresOnly (s t : State) : Prop := t = { s with free := t.free, mem := t.mem, lineKey := t.lineKey, cache := t.cache, regs := t.regs }

section
variable {s t u : State}

theorem CachesOnly.trans (h : CachesOnly s t) (k : CachesOnly t u) : CachesOnly s u := by
  unfold CachesOnly at *
  rw [k, h]

theorem StoresOnly.trans (h : StoresOnly s t) (k : StoresOnly t u) : StoresOnly s u := by
  unfold StoresOnly at *
  rw [k, h]

theorem RegsOnly.caches (h : RegsOnly s t) : CachesOnly s t := by
  unfold CachesOnly
  rw [h]

theorem CachesOnly.stores (h : CachesOnly s t) : StoresOnly s t := by
  unfold StoresOnly
  rw [h]

theorem CachesOnly.byteAs (h : CachesOnly s t) (ctx b : Nat) : Machine.byteAs t ctx b = Machine.byteAs s ctx b := by
  rw [h]
  exact byteAs_congr _ _ _ _ rfl rfl rfl

theorem CachesOnly.inStack (h : CachesOnly s t) (a n : Nat) : Machine.inStack t a n = Machine.inStack s a n := by
  rw [h]
  rfl

theorem CachesOnly.anyPoison (h : CachesOnly s t) (a n : Nat) : Machine.anyPoison t a n = Machine.anyPoison s a n := by
  rw [h]
  rfl

theorem CachesOnly.canonical (h : CachesOnly s t) (hs : Canonical s) (hregs : regsWf t.regs = true) : Canonical t := by
  obtain ⟨hmem, -, hpoison, hkeys⟩ := hs
  rw [h]
  exact ⟨hmem, hregs, hpoison, hkeys⟩

end

theorem cachesOnly_makeRoom (n : Nat) (s : State) : CachesOnly s (makeRoom n s) ∧ (makeRoom n s).regs = s.regs := by
  unfold makeRoom
  dsimp only
  split <;> exact ⟨rfl, rfl⟩

/-- The count of an access that finds its line under another context (R406). -/
def countMismatch (ctx l : Nat) (s : State) : State :=
  let c := sget (fun _ => CacheLine.none) s.cache l
  if c.held && decide (c.ctx ≠ ctx) then bump 0x900020 1 s else s

/-- An access before its line's entry is written: counted, with room made for the line. -/
def touchRoom (alloc : Bool) (ctx l : Nat) (s : State) : State :=
  if alloc && !(sget (fun _ => CacheLine.none) s.cache l).held then makeRoom (sliceOf l) (countMismatch ctx l s) else countMismatch ctx l s

theorem touchLine_eq (alloc : Bool) (ctx : Nat) (w : Bool) (l : Nat) (s : State) : ∃ c, touchLine alloc ctx w l s = { touchRoom alloc ctx l s with cache := c } := ⟨_, rfl⟩

theorem countMismatch_eq (ctx l : Nat) (s : State) : ∃ k, countMismatch ctx l s = bump 0x900020 k s := by
  unfold countMismatch
  dsimp only
  split
  · exact ⟨1, rfl⟩
  · exact ⟨0, rfl⟩

/-- An access to a line's cache entry changes no register but the counter of mismatched contexts. -/
theorem touchLine_frame (alloc : Bool) (ctx : Nat) (w : Bool) (l : Nat) (s : State) :
    CachesOnly s (touchLine alloc ctx w l s) ∧ ∃ k, (touchLine alloc ctx w l s).regs = (bump 0x900020 k s).regs := by
  obtain ⟨k, hk⟩ := countMismatch_eq ctx l s
  obtain ⟨c, hc⟩ := touchLine_eq alloc ctx w l s
  have hroom : CachesOnly s (touchRoom alloc ctx l s) ∧ (touchRoom alloc ctx l s).regs = (bump 0x900020 k s).regs := by
    have hcounted : CachesOnly s (bump 0x900020 k s) := ((RegsOnly.refl s).bump _ _).caches
    unfold touchRoom
    rw [hk]
    split
    · obtain ⟨hmade, hregs⟩ := cachesOnly_makeRoom (sliceOf l) (bump 0x900020 k s)
      exact ⟨hcounted.trans hmade, hregs⟩
    · exact ⟨hcounted, rfl⟩
  rw [hc]
  exact ⟨hroom.1.trans rfl, k, hroom.2⟩

theorem rd_of_regs {s t : State} (h : t.regs = s.regs) (b : Nat) : rd t b = rd s b := by
  unfold rd
  rw [h]

theorem ctrlOf_mismatches : ctrlOf 0x900020 = some (0x900038, 0) := by decide

theorem rd_touchLine_other {b : Nat} (h : b ≠ 0x900020 ∧ b ≠ 0x900038) (alloc : Bool) (ctx : Nat) (w : Bool) (l : Nat) (s : State) :
    rd (touchLine alloc ctx w l s) b = rd s b := by
  obtain ⟨-, k, hregs⟩ := touchLine_frame alloc ctx w l s
  rw [rd_of_regs hregs]
  refine rd_bump_other h.1 fun c i hc => ?_
  rw [ctrlOf_mismatches] at hc
  obtain ⟨rfl, -⟩ := Prod.mk.inj (Option.some.inj hc)
  exact h.2

/-- The units of a range are each where the unit of its address starts. -/
theorem poisonUnit_of_mem {a n u : Nat} (h : u ∈ unitsOf a n) : poisonUnit u = u := by
  unfold unitsOf at h
  split at h
  · simp at h
  · obtain ⟨i, -, rfl⟩ := List.mem_map.1 h
    unfold poisonUnit poisonSize scratchBase
    split <;> split <;> omega

/-- A clean write over clean units leaves the poison as it is. -/
theorem settlePoison_clean {a n : Nat} {s : State} (h : anyPoison s a n = false) : settlePoison a n false s = s := by
  have hclean : ∀ u ∈ unitsOf a n, u ∉ s.poison := by simpa [anyPoison] using h
  have hunits : ∀ us : List Nat, (∀ u ∈ us, u ∈ unitsOf a n) →
      us.foldl (fun s u => if (false : Bool) then poisonAt u s else if a ≤ u ∧ u + poisonSize u ≤ a + n then unpoisonAt u s else s) s = s := by
    intro us hus
    induction us with
    | nil => rfl
    | cons u us ih =>
      have hu : unpoisonAt u s = s := by
        unfold unpoisonAt
        rw [poisonUnit_of_mem (hus u (by simp)), List.erase_of_not_mem (hclean u (hus u (by simp)))]
      rw [List.foldl_cons, hu, ite_self, if_neg (by simp)]
      exact ih fun v hv => hus v (by simp [hv])
  exact hunits _ fun _ hu => hu

theorem storesOnly_putBytes (a : Nat) (bytes : List Byte) (s : State) : StoresOnly s (putBytes a bytes s) := by
  unfold StoresOnly
  rw [putBytes_only]

theorem storesOnly_rekeyLine (ctx l : Nat) (s : State) : StoresOnly s (rekeyLine ctx l s) := by
  unfold rekeyLine
  split
  · rfl
  · exact (storesOnly_putBytes _ _ s).trans rfl

theorem storesOnly_takeLines (alloc : Bool) (ctx : Nat) (ls : List Nat) (s : State) :
    StoresOnly s (ls.foldl (fun s l => rekeyLine ctx l (touchLine alloc ctx true l s)) s) := by
  induction ls generalizing s with
  | nil => rfl
  | cons l ls ih => exact ((touchLine_frame alloc ctx true l s).1.stores.trans (storesOnly_rekeyLine ctx l _)).trans (ih _)

/-- A clean write over clean units changes memory, key contexts, caches and counters alone. -/
theorem storesOnly_storeBytes {alloc : Bool} {ctx a : Nat} {bytes : List Byte} {s : State} (h : anyPoison s a bytes.length = false) :
    StoresOnly s (storeBytes alloc ctx a bytes false s) := by
  unfold storeBytes
  dsimp only
  have hlines : StoresOnly s (if inStack s a bytes.length = true then (linesOf a bytes.length).foldl (fun s l => rekeyLine ctx l (touchLine alloc ctx true l s)) s else s) := by
    split
    · exact storesOnly_takeLines alloc ctx _ s
    · rfl
  have hput := hlines.trans (storesOnly_putBytes a bytes _)
  rw [settlePoison_clean (by rw [hput]; exact h)]
  exact hput

/-! One atomic. -/

/-- The access of an atomic to its word, counted in its slice. -/
def accessed (ctx a n : Nat) (s : State) : State :=
  bump (sliceReg (sliceOf a) 0x18) 1 (if inStack s a n then touchLine true ctx false (a / 64 * 64) s else s)

/-- What an atomic leaves in its word. -/
def leaveWord (who : Requester) (ctx a n old : Nat) (x : AtomicNew) (s : State) : State :=
  let s := if x.underflow then sliceError (sliceOf a) 2 a (bump (sliceReg (sliceOf a) 0x20) 1 s) else s
  if x.value = old then s else storeBytes (allocates who || inStack s a n) ctx a (leBytes n x.value) false s

theorem sliceOf_lt (a : Nat) : sliceOf a < 24 := by
  unfold sliceOf channelOf
  dsimp only
  split <;> omega

theorem ctrlOf_atomics : ∀ n < 24, ctrlOf (sliceReg n 0x18) = some (sliceReg n 0x38, 2) ∧ ctrlOf (sliceReg n 0x20) = some (sliceReg n 0x38, 3) := by decide +kernel

section
variable {who : Requester} {ctx a n : Nat} {f : Nat → AtomicNew} {s : State}

theorem cachesOnly_accessed : CachesOnly s (accessed ctx a n s) := by
  have hline : CachesOnly s (if inStack s a n then touchLine true ctx false (a / 64 * 64) s else s) := by
    split
    · exact (touchLine_frame ..).1
    · rfl
  exact hline.trans ((RegsOnly.refl _).bump _ _).caches

theorem regsWf_accessed (hs : Canonical s) : regsWf (accessed ctx a n s).regs = true := by
  refine regsWf_bump ?_
  split
  · obtain ⟨-, k, hk⟩ := touchLine_frame true ctx false (a / 64 * 64) s
    rw [hk]
    exact regsWf_bump hs.regs
  · exact hs.regs

/-- The access changes no register but two counters with their overflow bits. -/
theorem rd_accessed_other {b : Nat} (h : b ≠ 0x900020 ∧ b ≠ 0x900038) (hb : b ≠ sliceReg (sliceOf a) 0x18 ∧ b ≠ sliceReg (sliceOf a) 0x38) :
    rd (accessed ctx a n s) b = rd s b := by
  have hline : rd (if inStack s a n then touchLine true ctx false (a / 64 * 64) s else s) b = rd s b := by
    split
    · exact rd_touchLine_other h ..
    · rfl
  rw [accessed, rd_bump_other hb.1 fun c k hc => ?_, hline]
  rw [(ctrlOf_atomics _ (sliceOf_lt a)).1] at hc
  obtain ⟨rfl, -⟩ := Prod.mk.inj (Option.some.inj hc)
  exact hb.2

theorem low_ne_sliceReg {b m off : Nat} (h : b < 0x1000000) : b ≠ sliceReg m off := by
  unfold sliceReg
  omega

theorem inScratch_accessed : inScratch (accessed ctx a n s) a n = inScratch s a n := by
  have hsplit : rd (accessed ctx a n s) (sliceReg 0 0) = rd s (sliceReg 0 0) := rd_accessed_other (by decide) (by unfold sliceReg blockSize; omega)
  rw [inScratch, scratchMiB, rdF, hsplit, inScratch, scratchMiB, rdF]

theorem inHemPool_accessed : inHemPool (accessed ctx a n s) a n = inHemPool s a n := by
  have hpool : rd (accessed ctx a n s) 0x40020 = rd s 0x40020 := rd_accessed_other (by decide) ⟨low_ne_sliceReg (by decide), low_ne_sliceReg (by decide)⟩
  unfold inHemPool rdF rdB
  rw [hpool]

theorem atomicAt_misaligned (h : a % n ≠ 0) : atomicAt who ctx a n f s = (⟨0, false, false, true, true⟩, bump 0x50028 1 s) := if_pos (.inl h)

section
variable (haligned : a % n = 0) (hplace : inStack s a n = true ∨ inScratch s a n = true)
include haligned hplace

theorem placed : ¬ (a % n ≠ 0 ∨ (!(inStack s a n || inScratch s a n)) = true) := by
  rcases hplace with hin | hin <;> simp [haligned, hin]

theorem atomicAt_poisoned (h : anyPoison s a n = true) : atomicAt who ctx a n f s = (⟨wordAs s ctx a n, false, false, true, false⟩, accessed ctx a n s) := by
  unfold atomicAt
  rw [if_neg (placed haligned hplace)]
  have hpoison : anyPoison (accessed ctx a n s) a n = true := (cachesOnly_accessed.anyPoison a n).trans h
  exact if_pos hpoison

end

theorem atomicAt_of_acts (h : AtomicActs who a n s) : atomicAt who ctx a n f s =
    (⟨wordAs s ctx a n, (f (wordAs s ctx a n)).zero, (f (wordAs s ctx a n)).underflow, false, false⟩,
      leaveWord who ctx a n (wordAs s ctx a n) (f (wordAs s ctx a n)) (accessed ctx a n s)) := by
  obtain ⟨haligned, hplace, hclean, -, hopen⟩ := h
  unfold atomicAt
  rw [if_neg (placed haligned hplace)]
  have hwhole : ¬ anyPoison (accessed ctx a n s) a n = true := by rw [cachesOnly_accessed.anyPoison, hclean]; decide
  have hheld : ¬ (outsideHem who && inScratch (accessed ctx a n s) a n && inHemPool (accessed ctx a n s) a n) = true := by
    rw [inScratch_accessed, inHemPool_accessed, hopen]
    decide
  exact (if_neg hwhole).trans (if_neg hheld)

end

/-- A word in the scratchpad starts past the stacks when it is not wholly inside them: their capacity is a whole number of its size. -/
theorem word_place {s : State} {a n : Nat} (hn : n = 4 ∨ n = 8) (haligned : a % n = 0) : inStack s a n = true ∨ capacity s ≤ a := by
  by_cases hin : a + n ≤ capacity s
  · exact .inl (inStack_of_le hin)
  · refine .inr ?_
    have hcap : capacity s % n = 0 := by
      unfold capacity
      rcases hn with rfl | rfl <;> omega
    rcases hn with rfl | rfl <;> omega

section
variable {who : Requester} {ctx a n : Nat} {s : State} (hs : Canonical s) (hn : n = 4 ∨ n = 8) (haligned : a % n = 0) (hclean : anyPoison s a n = false)
include hs hn haligned hclean

/-- What is left in the word is read back, every other byte is as it was, and nothing but memory, caches and counters changes. -/
theorem leaveWord_leaves {x : AtomicNew} (hx : x.value < 2 ^ (8 * n)) (hsame : x.underflow = true → x.value = wordAs s ctx a n) :
    let t := leaveWord who ctx a n (wordAs s ctx a n) x (accessed ctx a n s)
    wordAs t ctx a n = x.value ∧ (∀ b, (b < a ∨ a + n ≤ b) → byteAs t ctx b = byteAs s ctx b) ∧ StoresOnly s t := by
  have hacc : CachesOnly s (accessed ctx a n s) := cachesOnly_accessed
  have hregs : regsWf (accessed ctx a n s).regs = true := regsWf_accessed hs
  dsimp only
  unfold leaveWord
  dsimp only
  by_cases heq : x.value = wordAs s ctx a n
  · rw [if_pos heq, heq]
    have hall : CachesOnly s (if x.underflow then sliceError (sliceOf a) 2 a (bump (sliceReg (sliceOf a) 0x20) 1 (accessed ctx a n s)) else accessed ctx a n s) := by
      split
      · exact hacc.trans (((RegsOnly.refl _).bump _ _).wr _ _).caches
      · exact hacc
    refine ⟨?_, fun b _ => hall.byteAs ctx b, hall.stores⟩
    simp only [wordAs, hall.byteAs]
  · have hcan := hacc.canonical hs hregs
    rw [if_neg heq, if_neg fun h => heq (hsame h)]
    obtain ⟨hout, hat⟩ := byteAs_storeBytes (allocates who || inStack (accessed ctx a n s) a n) ctx a (leBytes n x.value) false (accessed ctx a n s) ⟨hcan.mem, hcan.keys⟩ (by
      rw [leBytes_length]
      exact word_place hn haligned)
    rw [leBytes_length] at hout
    refine ⟨?_, fun b hb => (hout b hb).trans (hacc.byteAs ctx b), hacc.stores.trans (storesOnly_storeBytes ?_)⟩
    · rw [wordAs, show (List.range n).map (fun i => byteAs _ ctx (a + i)) = leBytes n x.value from
        List.ext_getElem (by simp) fun i hi hi' => by simpa using hat i hi', ofLe_leBytes, Nat.mod_eq_of_lt hx]
    · rw [leBytes_length, hacc.anyPoison]
      exact hclean

end

/-- A step whose atomic met no bus error keeps its result. -/
theorem atomicStep_eq {who : Requester} {a n : Nat} {f : Nat → AtomicNew} {s t : State} {r : AtomicResult} (h : atomicAt who (atomicCtx s who) a n f s = (r, t))
    (hr : r.busError = false) : atomicStep who a n f s = { t with lastAtomic := r } := by
  unfold atomicStep
  simp only [h, hr]
  cases who <;> rfl

/-- An atomic that can act gives what its operation makes of the old value. -/
theorem atomicStep_gives {who : Requester} {a n new : Nat} {zero under : Bool} {f : Nat → AtomicNew} {s : State} (hs : Canonical s) (hn : n = 4 ∨ n = 8) (h : AtomicActs who a n s)
    (hf : f (wordAs s (atomicCtx s who) a n) = ⟨new, zero, under⟩) (hnew : new < 2 ^ (8 * n)) (hsame : under = true → new = wordAs s (atomicCtx s who) a n) :
    AtomicGives who a n new zero under s (atomicStep who a n f s) := by
  obtain ⟨hword, hothers, hframe⟩ := leaveWord_leaves (who := who) (ctx := atomicCtx s who) hs hn h.aligned h.clean (x := ⟨new, zero, under⟩) hnew hsame
  have hstep := atomicStep_eq (atomicAt_of_acts (f := f) h) rfl
  rw [hf] at hstep
  rw [hstep]
  generalize leaveWord who (atomicCtx s who) a n (wordAs s (atomicCtx s who) a n) ⟨new, zero, under⟩ (accessed (atomicCtx s who) a n s) = t at *
  refine ⟨rfl, hword, hothers, ?_⟩
  rw [hframe]

end Sys2Proof.Proofs
end

section
/-! The atomic commands (R266, R267, R271, R228). -/

namespace Sys2Proof.Proofs

open Sys2Proof.Machine Sys2Proof.Laws

section
variable {who : Requester} {a n : Nat} {f : Nat → AtomicNew} {s : State}

theorem takeAccess_served {c : Instr} {g : State → State} (h : stallsAt s a = false) : takeAccess c a g s = g s := if_neg (by simp [h])

theorem takeAccess_stalled {c : Instr} {g : State → State} (h : stallsAt s a = true) : takeAccess c a g s = { s with stalled := s.stalled ++ [c] } := if_pos h

theorem ofLe_lt (l : List Byte) : ofLe l < 2 ^ (8 * l.length) := by
  induction l with
  | nil => simp [ofLe]
  | cons b l ih =>
    have hb := b.isLt
    rw [ofLe, List.length_cons, show 8 * (l.length + 1) = 8 + 8 * l.length by omega, pow_add]
    omega

theorem wordAs_lt (ctx : Nat) : wordAs s ctx a n < 2 ^ (8 * n) := by
  have h := ofLe_lt ((List.range n).map (fun i => byteAs s ctx (a + i)))
  simpa [wordAs] using h

/-- A command that is an atomic step gives what its operation makes of the old value. -/
theorem exec_gives {c : Instr} {new : Nat} (hc : exec c s = .next (takeAccess c a (atomicStep who a n f) s)) (hs : Canonical s) (hn : n = 4 ∨ n = 8) (h : AtomicActs who a n s)
    (hf : f (wordAs s (atomicCtx s who) a n) = plainAtomic new) (hnew : new < 2 ^ (8 * n)) : ∃ t, exec c s = .next t ∧ AtomicGives who a n new false false s t :=
  ⟨_, hc.trans (congrArg Host.Outcome.next (takeAccess_served h.served)), atomicStep_gives hs hn h hf hnew nofun⟩

theorem wordBytes_eq (wide : Bool) : wordBytes wide = 4 ∨ wordBytes wide = 8 := by cases wide <;> decide

/-- The atomics of 32 bits whose result is the new value alone. -/
theorem gives32 {v : Nat} (hs : Canonical s) (hv : v < 2 ^ 32) (h : AtomicActs who a 4 s) :
    (∃ t, exec (.addI32 who a v) s = .next t ∧ AtomicGives who a 4 ((wordAs s (atomicCtx s who) a 4 + v) % 2 ^ 32) false false s t) ∧
    (∃ t, exec (.addF32 who a v) s = .next t ∧ AtomicGives who a 4 (fAdd (BitVec.ofNat 32 (wordAs s (atomicCtx s who) a 4)) (BitVec.ofNat 32 v)).toNat false false s t) ∧
    (∃ t, exec (.minI32 who a v) s = .next t ∧
      AtomicGives who a 4 (if toSigned 32 v < toSigned 32 (wordAs s (atomicCtx s who) a 4) then v else wordAs s (atomicCtx s who) a 4) false false s t) ∧
    (∃ t, exec (.maxI32 who a v) s = .next t ∧
      AtomicGives who a 4 (if toSigned 32 (wordAs s (atomicCtx s who) a 4) < toSigned 32 v then v else wordAs s (atomicCtx s who) a 4) false false s t) ∧
    (∃ t, exec (.minF32 who a v) s = .next t ∧ AtomicGives who a 4 (fMin (BitVec.ofNat 32 (wordAs s (atomicCtx s who) a 4)) (BitVec.ofNat 32 v)).toNat false false s t) ∧
    (∃ t, exec (.maxF32 who a v) s = .next t ∧ AtomicGives who a 4 (fMax (BitVec.ofNat 32 (wordAs s (atomicCtx s who) a 4)) (BitVec.ofNat 32 v)).toNat false false s t) := by
  have hw : wordAs s (atomicCtx s who) a 4 < 2 ^ 32 := wordAs_lt _
  have hpick : ∀ (p : Prop) [Decidable p], (if p then v else wordAs s (atomicCtx s who) a 4) < 2 ^ 32 := fun p _ => by split <;> assumption
  refine ⟨exec_gives rfl hs (.inl rfl) h rfl (Nat.mod_lt _ (by decide)), exec_gives rfl hs (.inl rfl) h rfl (BitVec.isLt _),
    exec_gives rfl hs (.inl rfl) h ?_ (hpick _), exec_gives rfl hs (.inl rfl) h ?_ (hpick _), exec_gives rfl hs (.inl rfl) h rfl (BitVec.isLt _),
    exec_gives rfl hs (.inl rfl) h rfl (BitVec.isLt _)⟩
  · rw [newMinI32, i32, i32, Nat.mod_eq_of_lt hv]
  · rw [newMaxI32, i32, i32, Nat.mod_eq_of_lt hv]

/-- The atomics of 32 or 64 bits. -/
theorem givesWide {wide : Bool} {v : Nat} (hs : Canonical s) (hv : v < 2 ^ (8 * wordBytes wide)) (h : AtomicActs who a (wordBytes wide) s) :
    (∃ t, exec (.andOp who wide a v) s = .next t ∧ AtomicGives who a (wordBytes wide) (wordAs s (atomicCtx s who) a (wordBytes wide) &&& v) false false s t) ∧
    (∃ t, exec (.orOp who wide a v) s = .next t ∧ AtomicGives who a (wordBytes wide) (wordAs s (atomicCtx s who) a (wordBytes wide) ||| v) false false s t) ∧
    ∀ compare, compare < 2 ^ (8 * wordBytes wide) → ∃ t, exec (.cas who wide a compare v) s = .next t ∧
      AtomicGives who a (wordBytes wide) (if wordAs s (atomicCtx s who) a (wordBytes wide) = compare then v else wordAs s (atomicCtx s who) a (wordBytes wide)) false false s t := by
  have hw : wordAs s (atomicCtx s who) a (wordBytes wide) < 2 ^ (8 * wordBytes wide) := wordAs_lt _
  refine ⟨exec_gives rfl hs (wordBytes_eq wide) h rfl (Nat.and_lt_two_pow _ hv), exec_gives rfl hs (wordBytes_eq wide) h ?_ (Nat.or_lt_two_pow hw hv),
    fun compare hcompare => exec_gives rfl hs (wordBytes_eq wide) h ?_ ?_⟩
  · rw [newOr, Nat.mod_eq_of_lt hv]
  · rw [newCas, Nat.mod_eq_of_lt hv, Nat.mod_eq_of_lt hcompare]
  · split <;> assumption

/-! Reference counts. -/

theorem refIncStep_clean (h : (atomicStep who a 4 incWord s).lastAtomic.poisoned = false) : refIncStep who a s = atomicStep who a 4 incWord s := by
  unfold refIncStep
  dsimp only
  split
  · rw [if_neg (by simp [h])]
  · rfl

theorem refDecStep_clean (h : (atomicStep who a 4 decWord s).lastAtomic.poisoned = false) :
    ∃ d, refDecStep who a s = { atomicStep who a 4 decWord s with deferred := d } ∧
      ((atomicStep who a 4 decWord s).lastAtomic.zero = false → d = (atomicStep who a 4 decWord s).deferred) := by
  unfold refDecStep pageDropped
  split
  · rw [if_neg (by simp [h])]
    split
    next hzero => exact ⟨_, rfl, fun hz => absurd hzero (by simp [hz])⟩
    next => exact ⟨_, rfl, fun _ => rfl⟩
  · exact ⟨_, rfl, fun _ => rfl⟩

/-- A misaligned address holds no page's count. -/
theorem pageAtRef_misaligned (h : a % 4 ≠ 0) : pageAtRef s a = none := by
  unfold pageAtRef
  refine if_neg fun hall => ?_
  simp only [Bool.and_eq_true, decide_eq_true_eq] at hall
  omega

theorem refIncStep_of_other (h : who ≠ .planEngine ∨ pageAtRef s a = none) : refIncStep who a s = atomicStep who a 4 incWord s := by
  unfold refIncStep
  dsimp only
  split
  next hp => exact absurd hp (by rcases h with h | h <;> simp_all)
  · rfl

theorem refDecStep_of_misaligned (h : a % 4 ≠ 0) : refDecStep who a s = atomicStep who a 4 decWord s := by
  unfold refDecStep
  rw [pageAtRef_misaligned h]
  cases who <;> rfl

/-- REF_INC saturates. -/
theorem refInc_gives (hs : Canonical s) (h : AtomicActs who a 4 s) :
    ∃ t, exec (.refInc who a) s = .next t ∧ AtomicGives who a 4 (min (wordAs s (atomicCtx s who) a 4 + 1) (2 ^ 32 - 1)) false false s t := by
  have hgives : AtomicGives who a 4 (min (wordAs s (atomicCtx s who) a 4 + 1) (2 ^ 32 - 1)) false false s (atomicStep who a 4 incWord s) := by
    refine atomicStep_gives hs (.inl rfl) h ?_ (by omega) nofun
    rw [incWord]
    congr 1
    split <;> omega
  refine ⟨_, congrArg Host.Outcome.next ((takeAccess_served h.served).trans (refIncStep_clean ?_)), hgives⟩
  rw [hgives.result]

theorem decWord_eq (m : Nat) : decWord m = ⟨m - 1, decide (m = 1), decide (m = 0)⟩ := by
  unfold decWord
  split <;> simp_all

/-- REF_DEC of 0 is counted and recorded in the slice. -/
theorem refDec_underflow (hs : Canonical s) (h : AtomicActs who a 4 s) (hzero : wordAs s (atomicCtx s who) a 4 = 0) :
    (rd (atomicStep who a 4 decWord s) (sliceReg (sliceOf a) 0x20)).toNat = min ((rd s (sliceReg (sliceOf a) 0x20)).toNat + 1) (2 ^ 64 - 1) ∧
      rd (atomicStep who a 4 decWord s) (sliceReg (sliceOf a) 0x40) = BitVec.ofNat 64 (2 ^ 63 + 2 * 2 ^ 60 + a / 64 % 2 ^ 42) := by
  have hstep := atomicStep_eq (atomicAt_of_acts (f := decWord) h) rfl
  have hleft : leaveWord who (atomicCtx s who) a 4 (wordAs s (atomicCtx s who) a 4) (decWord (wordAs s (atomicCtx s who) a 4)) (accessed (atomicCtx s who) a 4 s) =
      sliceError (sliceOf a) 2 a (bump (sliceReg (sliceOf a) 0x20) 1 (accessed (atomicCtx s who) a 4 s)) := by
    rw [hzero]
    rfl
  have hregs : (atomicStep who a 4 decWord s).regs = (sliceError (sliceOf a) 2 a (bump (sliceReg (sliceOf a) 0x20) 1 (accessed (atomicCtx s who) a 4 s))).regs := by rw [hstep, hleft]
  rw [rd_of_regs hregs, rd_of_regs hregs, sliceError]
  have hacc : regsWf (accessed (atomicCtx s who) a 4 s).regs = true := regsWf_accessed hs
  have hother : rd (accessed (atomicCtx s who) a 4 s) (sliceReg (sliceOf a) 0x20) = rd s (sliceReg (sliceOf a) 0x20) :=
    rd_accessed_other ⟨(low_ne_sliceReg (by decide)).symm, (low_ne_sliceReg (by decide)).symm⟩ (by unfold sliceReg; omega)
  constructor
  · rw [rd_wr_other _ _ _ _ (by unfold sliceReg; omega), rd_bump_same hacc, hother]
  · exact rd_wr_same _ _ _ (regsWf_bump hacc)

/-- REF_DEC: ZERO alone can put a page in the deferred list. -/
theorem refDec_gives (hs : Canonical s) (h : AtomicActs who a 4 s) :
    ∃ t, exec (.refDec who a) s = .next t ∧
      AtomicGives who a 4 (wordAs s (atomicCtx s who) a 4 - 1) (decide (wordAs s (atomicCtx s who) a 4 = 1)) (decide (wordAs s (atomicCtx s who) a 4 = 0)) s { t with deferred := s.deferred } ∧
      (wordAs s (atomicCtx s who) a 4 ≠ 1 → t.deferred = s.deferred) ∧
      (wordAs s (atomicCtx s who) a 4 = 0 →
        (rd t (sliceReg (sliceOf a) 0x20)).toNat = min ((rd s (sliceReg (sliceOf a) 0x20)).toNat + 1) (2 ^ 64 - 1) ∧
        rd t (sliceReg (sliceOf a) 0x40) = BitVec.ofNat 64 (2 ^ 63 + 2 * 2 ^ 60 + a / 64 % 2 ^ 42)) := by
  have hw : wordAs s (atomicCtx s who) a 4 < 2 ^ 32 := wordAs_lt _
  have hgives := atomicStep_gives hs (.inl rfl) h (decWord_eq _) (by omega) (fun hu => by have := of_decide_eq_true hu; omega)
  have hunder := refDec_underflow hs h
  have hexec : exec (.refDec who a) s = .next (takeAccess (.refDec who a) a (refDecStep who a) s) := rfl
  rw [takeAccess_served h.served] at hexec
  generalize hu : atomicStep who a 4 decWord s = u at *
  have hresult := hgives.result
  have hdeferred : u.deferred = s.deferred := by rw [hgives.frame]
  obtain ⟨d, hd, hkept⟩ := refDecStep_clean (who := who) (a := a) (s := s) (by rw [hu, hresult])
  rw [hu] at hd hkept
  refine ⟨_, hexec, ?_, fun hne => ?_, fun hzero => ?_⟩ <;> rw [hd]
  · rw [← hdeferred]
    exact hgives
  · exact (hkept (by rw [hresult]; exact decide_eq_false hne)).trans hdeferred
  · exact hunder hzero

end

/-! The lists of the commands. -/

/-- The atomics of 32 bits. -/
def atomics32 (who : Requester) (a v compare : Nat) : List Instr :=
  [.addI32 who a v, .addF32 who a v, .minI32 who a v, .maxI32 who a v, .minF32 who a v, .maxF32 who a v, .andOp who false a v, .orOp who false a v, .cas who false a compare v]

/-- The atomics of 64 bits. -/
def atomics64 (who : Requester) (a v compare : Nat) : List Instr := [.andOp who true a v, .orOp who true a v, .cas who true a compare v]

section
variable {who : Requester} {a v compare : Nat} {s : State} {c : Instr}

/-- Each of them is an atomic step of a word. -/
theorem exec_atomics32 (h : c ∈ atomics32 who a v compare) : ∃ f, exec c s = .next (takeAccess c a (atomicStep who a 4 f) s) := by
  simp only [atomics32, List.mem_cons, List.not_mem_nil, or_false] at h
  rcases h with rfl | rfl | rfl | rfl | rfl | rfl | rfl | rfl | rfl <;> exact ⟨_, rfl⟩

theorem exec_atomics64 (h : c ∈ atomics64 who a v compare) : ∃ f, exec c s = .next (takeAccess c a (atomicStep who a 8 f) s) := by
  simp only [atomics64, List.mem_cons, List.not_mem_nil, or_false] at h
  rcases h with rfl | rfl | rfl <;> exact ⟨_, rfl⟩

/-- A misaligned atomic is an out-of-range access. -/
theorem atomicStep_misaligned {n : Nat} {f : Nat → AtomicNew} (hwho : ∀ ch, who ≠ .shuttle ch) (h : a % n ≠ 0) :
    atomicStep who a n f s = { bump 0x50028 1 s with lastAtomic := ⟨0, false, false, true, true⟩ } := by
  unfold atomicStep
  simp only [atomicAt_misaligned h]

theorem exec_misaligned (hwho : ∀ ch, who ≠ .shuttle ch) (hserved : stallsAt s a = false)
    (hc : a % 4 ≠ 0 ∧ c ∈ atomics32 who a v compare ++ [.refInc who a, .refDec who a] ∨ a % 8 ≠ 0 ∧ c ∈ atomics64 who a v compare) :
    exec c s = .next { bump 0x50028 1 s with lastAtomic := ⟨0, false, false, true, true⟩ } := by
  have hstep : ∀ {n f}, a % n ≠ 0 → exec c s = .next (takeAccess c a (atomicStep who a n f) s) →
      exec c s = .next { bump 0x50028 1 s with lastAtomic := ⟨0, false, false, true, true⟩ } := fun hn he => by
    rw [he, takeAccess_served hserved, atomicStep_misaligned hwho hn]
  rcases hc with ⟨hn, hc⟩ | ⟨hn, hc⟩
  · rcases List.mem_append.1 hc with hc | hc
    · obtain ⟨f, hf⟩ := exec_atomics32 (s := s) hc
      exact hstep hn hf
    · simp only [List.mem_cons, List.not_mem_nil, or_false] at hc
      rcases hc with rfl | rfl
      · exact congrArg Host.Outcome.next ((takeAccess_served hserved).trans ((refIncStep_of_other (.inr (pageAtRef_misaligned hn))).trans (atomicStep_misaligned hwho hn)))
      · exact congrArg Host.Outcome.next ((takeAccess_served hserved).trans ((refDecStep_of_misaligned hn).trans (atomicStep_misaligned hwho hn)))
  · obtain ⟨f, hf⟩ := exec_atomics64 (s := s) hc
    exact hstep hn hf

/-- Of a channel in retrain every atomic is held. -/
theorem exec_stalled {wide : Bool} (h : stallsAt s a = true)
    (hc : c ∈ [Instr.addI32 who a v, .addF32 who a v, .minI32 who a v, .maxI32 who a v, .minF32 who a v, .maxF32 who a v, .andOp who wide a v, .orOp who wide a v,
      .cas who wide a compare v, .refInc who a, .refDec who a]) : exec c s = .next { s with stalled := s.stalled ++ [c] } := by
  obtain ⟨g, hg⟩ : ∃ g, exec c s = .next (takeAccess c a g s) := by
    simp only [List.mem_cons, List.not_mem_nil, or_false] at hc
    rcases hc with rfl | rfl | rfl | rfl | rfl | rfl | rfl | rfl | rfl | rfl | rfl <;> exact ⟨_, rfl⟩
  rw [hg, takeAccess_stalled h]

/-- A poisoned word answers its value, poisoned, and memory stays. -/
theorem atomicStep_poisoned {n : Nat} {f : Nat → AtomicNew} (haligned : a % n = 0) (hplace : inStack s a n = true ∨ inScratch s a n = true) (h : anyPoison s a n = true) :
    (atomicStep who a n f s).lastAtomic = ⟨wordAs s (atomicCtx s who) a n, false, false, true, false⟩ ∧
      atomicStep who a n f s = { s with free := (atomicStep who a n f s).free, cache := (atomicStep who a n f s).cache, regs := (atomicStep who a n f s).regs, lastAtomic := (atomicStep who a n f s).lastAtomic } := by
  have hacc : CachesOnly s (accessed (atomicCtx s who) a n s) := cachesOnly_accessed
  rw [atomicStep_eq (atomicAt_poisoned (f := f) haligned hplace h) rfl]
  generalize accessed (atomicCtx s who) a n s = t at *
  refine ⟨rfl, ?_⟩
  rw [hacc]

theorem exec_poisoned {n : Nat} (hserved : stallsAt s a = false)
    (hc : n = 4 ∧ c ∈ atomics32 who a v compare ∨ n = 4 ∧ who ≠ .planEngine ∧ c = .refInc who a ∨ n = 8 ∧ c ∈ atomics64 who a v compare) :
    ∃ f, exec c s = .next (atomicStep who a n f s) := by
  rcases hc with ⟨rfl, hc⟩ | ⟨rfl, hwho, rfl⟩ | ⟨rfl, hc⟩
  · obtain ⟨f, hf⟩ := exec_atomics32 (s := s) hc
    exact ⟨f, by rw [hf, takeAccess_served hserved]⟩
  · exact ⟨incWord, congrArg Host.Outcome.next ((takeAccess_served hserved).trans (refIncStep_of_other (.inl hwho)))⟩
  · obtain ⟨f, hf⟩ := exec_atomics64 (s := s) hc
    exact ⟨f, by rw [hf, takeAccess_served hserved]⟩

end

/-- Settles O33: each command is an atomic step of its operation, once its channel serves it. -/
theorem atomicsActInSlices : Obligations.AtomicsActInSlices := by
  refine ⟨fun s who a v hs hv h => gives32 hs hv h, fun s who wide a v hs hv h => givesWide hs hv h, fun s who a hs h => ⟨refInc_gives hs h, refDec_gives hs h⟩, ?_,
    fun s who wide a v compare c => exec_stalled, fun s a p hp hserved hpoisoned => ?_, ?_⟩
  · intro s who a v compare c hs hwho hserved hc
    refine ⟨_, exec_misaligned hwho hserved hc, rfl, ?_, rd_bump_same hs.regs⟩
    rw [bump_frame]
  · refine congrArg Host.Outcome.next ((takeAccess_served hserved).trans ?_)
    unfold refIncStep
    rw [hp]
    exact if_pos hpoisoned
  · intro s who a n v compare c haligned hplace hpoison hserved hc
    obtain ⟨f, hf⟩ := exec_poisoned hserved hc
    obtain ⟨hlast, hframe⟩ := atomicStep_poisoned (f := f) haligned hplace hpoison
    exact ⟨_, hf, hlast, hframe⟩

end Sys2Proof.Proofs
end

section
/-! Sum tables (R45 to R54, R73 to R76): a weight byte reads the entry of its group that holds its sum or its negated sum. -/

namespace Sys2Proof.Proofs

open Sys2Proof.Machine Sys2Proof.Laws

/-! The weights of a byte and of its negation. -/

/-- Of format 0 the codes from 122 to 242 are the negations of those from 0 to 120. -/
theorem patternWeight_zero_neg : ∀ v < 243, ∀ i < 5, patternWeight 0 v i = -patternWeight 0 (242 - v) i := by decide +kernel

/-- Of format 1 the codes from 128 on are the complements of those below. -/
theorem patternWeight_one_neg : ∀ v < 256, ∀ i < 8, patternWeight 1 v i = -patternWeight 1 (255 - v) i := by decide +kernel

theorem patternSum_neg {fmt v v' : Nat} (h : ∀ i < byteInputs fmt, patternWeight fmt v i = -patternWeight fmt v' i) (xs : List Int) :
    patternSum fmt v xs = -patternSum fmt v' xs := by
  have hterm : ∀ i ∈ List.range (byteInputs fmt), patternWeight fmt v i * xs.getD i 0 = -1 * (patternWeight fmt v' i * xs.getD i 0) := fun i hi => by
    rw [h i (List.mem_range.1 hi), Int.neg_mul, neg_one_mul]
  rw [patternSum, List.map_congr_left hterm, List.sum_map_mul_left, neg_one_mul, patternSum]

/-- What a weight byte reads: the entry of its group and of a value whose sum, negated or not, is its own. -/
structure Reads (fmt j v e : Nat) (neg : Bool) (v' : Nat) : Prop where
  lt : e < 512
  pattern : entryPattern fmt e = some (j, v')
  sum : ∀ xs, patternSum fmt v xs = if neg then -patternSum fmt v' xs else patternSum fmt v' xs

/-- Every byte but a void code of format 0 reads an entry. -/
theorem byteEntry_reads {fmt j v : Nat} (hf : fmt < 3) (hv : v < 256) (hj : j < chunkBytes fmt) (hvoid : ¬ (fmt = 0 ∧ 243 ≤ v)) :
    ∃ e neg v', byteEntry fmt j v = some (e, neg) ∧ Reads fmt j v e neg v' := by
  obtain rfl | rfl | rfl : fmt = 0 ∨ fmt = 1 ∨ fmt = 2 := by omega
  · have hj4 : j < 4 := hj
    by_cases hlow : v ≤ 121
    · refine ⟨128 * j + v, false, v, if_pos hlow, by omega, ?_, fun _ => rfl⟩
      rw [entryPattern, if_pos (by omega)]
      congr 2 <;> omega
    · refine ⟨128 * j + (242 - v), true, 242 - v, ?_, by omega, ?_, patternSum_neg (patternWeight_zero_neg v (by omega))⟩
      · exact (if_neg hlow).trans (if_pos (by omega))
      · rw [entryPattern, if_pos (by omega)]
        congr 2 <;> omega
  · have hj4 : j < 4 := hj
    by_cases hlow : v ≤ 127
    · refine ⟨128 * j + v, false, v, if_pos hlow, by omega, ?_, fun _ => rfl⟩
      rw [entryPattern]
      congr 2 <;> omega
    · refine ⟨128 * j + (255 - v), true, 255 - v, if_neg hlow, by omega, ?_, patternSum_neg (patternWeight_one_neg v hv)⟩
      rw [entryPattern]
      congr 2 <;> omega
  · have hj2 : j < 2 := hj
    refine ⟨256 * j + v, false, v, rfl, by omega, ?_, fun _ => rfl⟩
    rw [entryPattern]
    · congr 2 <;> omega
    · decide
    · decide

theorem byteEntry_void {fmt j v : Nat} (h : fmt = 0 ∧ 243 ≤ v) : byteEntry fmt j v = none := by
  obtain ⟨rfl, hv⟩ := h
  exact (if_neg (by omega)).trans (if_neg (by omega))

/-! The entries of a half. -/

/-- The sum that an entry of a group and a value holds for a lane. -/
def entrySum (fmt g v : Nat) (lanes : List (List Int)) (lane : Nat) : Int := patternSum fmt v ((lanes.getD lane []).drop (g * byteInputs fmt))

section
variable {fmt e g v lane : Nat} {lanes old : List (List Int)} (he : e < 512) (hpat : entryPattern fmt e = some (g, v))
include he hpat

theorem buildEntries_row : (buildEntries fmt lanes old)[e]? = some (lanes.map (fun xs => patternSum fmt v (xs.drop (g * byteInputs fmt)))) := by
  simp [buildEntries, he, hpat]

/-- An entry holds the sums of its pattern, whatever the half held. -/
theorem buildEntries_getD (hlane : lane < lanes.length) : ((buildEntries fmt lanes old).getD e []).getD lane 0 = entrySum fmt g v lanes lane := by
  rw [List.getD_eq_getElem?_getD (l := buildEntries fmt lanes old), buildEntries_row he hpat]
  simp [entrySum, hlane]

end

/-! The words of a half: the lanes' entries side by side. -/

section
variable {B : Nat} {x : Nat → Nat} (hx : ∀ i, x i < B)
include hx

/-- Digits of base B side by side are less than B to their number. -/
theorem sum_digits_lt (n : Nat) : ((List.range n).map (fun l => x l * B ^ l)).sum < B ^ n := by
  induction n with
  | zero => simp
  | succ n ih =>
    rw [List.range_succ, List.map_append, List.sum_append, pow_succ]
    simp only [List.map_cons, List.map_nil, List.sum_cons, List.sum_nil, Nat.add_zero]
    have hdigit : (x n + 1) * B ^ n ≤ B * B ^ n := Nat.mul_le_mul_right _ (hx n)
    rw [Nat.add_mul, Nat.one_mul] at hdigit
    rw [Nat.mul_comm (B ^ n)]
    omega

/-- Each digit is read back at its place. -/
theorem digit_sum_digits {n lane : Nat} (h : lane < n) : ((List.range n).map (fun l => x l * B ^ l)).sum / B ^ lane % B = x lane := by
  induction n with
  | zero => omega
  | succ n ih =>
    have hB : 0 < B := Nat.zero_lt_of_lt (hx 0)
    have hpow : 0 < B ^ lane := pow_pos hB _
    rw [List.range_succ, List.map_append, List.sum_append]
    simp only [List.map_cons, List.map_nil, List.sum_cons, List.sum_nil, Nat.add_zero]
    rcases Nat.lt_succ_iff_lt_or_eq.1 h with hlt | rfl
    · obtain ⟨k, rfl⟩ := Nat.exists_eq_add_of_lt hlt
      rw [show x (lane + k + 1) * B ^ (lane + k + 1) = B ^ lane * (B * (x (lane + k + 1) * B ^ k)) by ring, Nat.add_mul_div_left _ _ hpow, Nat.add_mul_mod_self_left]
      exact ih (by omega)
    · rw [Nat.mul_comm, Nat.add_mul_div_left _ _ hpow, Nat.div_eq_of_lt (sum_digits_lt hx lane), Nat.zero_add, Nat.mod_eq_of_lt (hx lane)]

end

theorem ofSigned_lt (w : Nat) (i : Int) : ofSigned w i < 2 ^ w := by
  have hpos : (0 : Int) < ((2 ^ w : Nat) : Int) := by positivity
  have hlt := Int.emod_lt_of_pos i hpos
  have hnn := Int.emod_nonneg i hpos.ne'
  unfold ofSigned
  omega

/-- A lane's entry of a word is the value packed there, when its bits hold it. -/
theorem tableEntry_packLanes {n lane : Nat} {vs : List Int} (hn : n = 8 ∨ n = 16) (hlane : lane < n)
    (hlo : -2 ^ (tableBits n - 1) ≤ vs.getD lane 0) (hhi : vs.getD lane 0 < 2 ^ (tableBits n - 1)) : tableEntry n (packLanes n vs) lane = vs.getD lane 0 := by
  have hbits : tableBits n * n = 128 ∧ 0 < tableBits n := by rcases hn with rfl | rfl <;> decide
  have hdigits : ∀ i, ofSigned (tableBits n) (vs.getD i 0) < 2 ^ tableBits n := fun i => ofSigned_lt _ _
  have hlt := sum_digits_lt hdigits n
  have hdigit := digit_sum_digits hdigits hlane
  simp only [← pow_mul] at hlt hdigit
  rw [hbits.1] at hlt
  rw [tableEntry, packLanes, BitVec.toNat_ofNat, Nat.mod_eq_of_lt hlt, hdigit, toSigned_ofSigned hbits.2 hlo hhi]

/-- A word of a half packs the sums of its entry. -/
theorem buildWords_bits {fmt n e g v : Nat} {lanes : List (List Int)} {old : List TableWord} (he : e < 512) (hpat : entryPattern fmt e = some (g, v)) :
    ((buildWords fmt n lanes old).getD e TableWord.zero).bits = packLanes n (lanes.map (fun xs => patternSum fmt v (xs.drop (g * byteInputs fmt)))) := by
  rw [List.getD_eq_getElem?_getD, buildWords, List.getElem?_zipWith, buildEntries_row he hpat]
  simp [he, hpat]

/-! The bounds of a sum: at most eight weights of magnitude 1, or four of magnitude 2. -/

theorem abs_patternWeight_le (fmt v i : Nat) (hf : fmt < 3) : (byteInputs fmt : Int) * |patternWeight fmt v i| ≤ 8 := by
  obtain rfl | rfl | rfl : fmt = 0 ∨ fmt = 1 ∨ fmt = 2 := by omega
  · have hw : |patternWeight 0 v i| ≤ 1 := by
      rw [patternWeight, abs_le]
      omega
    have hin : byteInputs 0 = 5 := rfl
    rw [hin]
    push_cast
    omega
  · have hw : |patternWeight 1 v i| ≤ 1 := by
      rw [patternWeight]
      split <;> decide
    have hin : byteInputs 1 = 8 := rfl
    rw [hin]
    push_cast
    omega
  · have hw : |patternWeight 2 v i| ≤ 2 := by
      have hbounds := toSigned_bounds (w := 2) (by decide) (v / 4 ^ i % 4)
      rw [show patternWeight 2 v i = toSigned 2 (v / 4 ^ i % 4) from rfl, abs_le]
      omega
    have hin : byteInputs 2 = 4 := rfl
    rw [hin]
    push_cast
    omega

/-- A sum of activations of magnitude A at most is at most 8 A. -/
theorem abs_patternSum_le {fmt v : Nat} {xs : List Int} {A : Int} (hf : fmt < 3) (hA : ∀ i, |xs.getD i 0| ≤ A) : |patternSum fmt v xs| ≤ 8 * A := by
  have hA0 : 0 ≤ A := (abs_nonneg _).trans (hA 0)
  have hpos : (0 : Int) < byteInputs fmt := by
    unfold byteInputs
    split
    · decide
    · split <;> decide
  have hterm : ∀ y ∈ (List.range (byteInputs fmt)).map (fun i => |patternWeight fmt v i * xs.getD i 0|), (byteInputs fmt : Int) * y ≤ 8 * A := by
    intro y hy
    obtain ⟨i, -, rfl⟩ := List.mem_map.1 hy
    rw [abs_mul, ← mul_assoc]
    exact mul_le_mul (abs_patternWeight_le fmt v i hf) (hA i) (abs_nonneg _) (by decide)
  have habs : |patternSum fmt v xs| ≤ ((List.range (byteInputs fmt)).map (fun i => |patternWeight fmt v i * xs.getD i 0|)).sum := by
    unfold patternSum
    generalize List.range (byteInputs fmt) = l
    induction l with
    | nil => simp
    | cons i l ih =>
      simp only [List.map_cons, List.sum_cons]
      exact (abs_add_le _ _).trans (add_le_add_right ih _)
  have hsum := List.sum_le_card_nsmul (((List.range (byteInputs fmt)).map (fun i => |patternWeight fmt v i * xs.getD i 0|)).map (fun y => (byteInputs fmt : Int) * y)) (8 * A) (by
    intro y hy
    obtain ⟨z, hz, rfl⟩ := List.mem_map.1 hy
    exact hterm z hz)
  rw [List.sum_map_mul_left, List.map_id', List.length_map, List.length_map, List.length_range, nsmul_eq_mul] at hsum
  exact habs.trans (le_of_mul_le_mul_left hsum hpos)

/-- The sums of a half's lanes fit the bits of its words. -/
theorem entrySum_fits {fmt n g v : Nat} {lanes : List (List Int)} (hf : fmt < 3)
    (hrange : n = 8 ∧ (∀ l ∈ lanes, ∀ a ∈ l, -128 ≤ a ∧ a ≤ 127) ∨ n = 16 ∧ ∀ l ∈ lanes, ∀ a ∈ l, -8 ≤ a ∧ a ≤ 7) (lane : Nat) :
    -2 ^ (tableBits n - 1) ≤ entrySum fmt g v lanes lane ∧ entrySum fmt g v lanes lane < 2 ^ (tableBits n - 1) := by
  have hbound : ∀ A : Int, 0 ≤ A → (∀ l ∈ lanes, ∀ a ∈ l, |a| ≤ A) → |entrySum fmt g v lanes lane| ≤ 8 * A := by
    intro A hA0 hA
    refine abs_patternSum_le hf fun i => ?_
    by_cases hi : i < ((lanes.getD lane []).drop (g * byteInputs fmt)).length
    · rw [List.getD_eq_getElem _ _ hi]
      have hmem := List.mem_of_mem_drop (List.getElem_mem hi)
      generalize ((lanes.getD lane []).drop (g * byteInputs fmt))[i] = a at hmem ⊢
      by_cases hl : lane < lanes.length
      · rw [List.getD_eq_getElem _ _ hl] at hmem
        exact hA _ (List.getElem_mem hl) _ hmem
      · rw [List.getD_eq_default _ _ (by omega)] at hmem
        simp at hmem
    · rw [List.getD_eq_default _ _ (by omega)]
      simpa using hA0
  rcases hrange with ⟨rfl, hrange⟩ | ⟨rfl, hrange⟩
  · have hle := abs_le.1 (hbound 128 (by decide) fun l hl a ha => abs_le.2 (by have := hrange l hl a ha; omega))
    rw [show tableBits 8 - 1 = 15 from rfl]
    omega
  · have hle := abs_le.1 (hbound 8 (by decide) fun l hl a ha => abs_le.2 (by have := hrange l hl a ha; omega))
    rw [show tableBits 16 - 1 = 7 from rfl]
    omega

/-- Settles O20: a byte that is no void code reads the entry of its sum or of its negation, in the table's entries and in its packed words. -/
theorem tableLookupIsDotProduct : Obligations.TableLookupIsDotProduct := by
  constructor
  · intro fmt n v j lane lanes old hf hv hj hlane hlen hrange
    by_cases hvoid : fmt = 0 ∧ 243 ≤ v
    · rw [if_pos hvoid, byteReads, byteEntry_void hvoid]
    · obtain ⟨e, neg, v', hentry, hlt, hpat, hsum⟩ := byteEntry_reads hf hv hj hvoid
      obtain ⟨hlo, hhi⟩ := entrySum_fits (g := j) (v := v') hf hrange lane
      have hrow : (lanes.map (fun xs => patternSum fmt v' (xs.drop (j * byteInputs fmt)))).getD lane 0 = entrySum fmt j v' lanes lane := by
        simp [entrySum, show lane < lanes.length by omega]
      have hread : tableEntry n ((buildWords fmt n lanes old).getD e TableWord.zero).bits lane = entrySum fmt j v' lanes lane := by
        rw [buildWords_bits hlt hpat, tableEntry_packLanes (hrange.imp And.left And.left) hlane (by rwa [hrow]) (by rwa [hrow]), hrow]
      rw [if_neg hvoid, byteReads, hentry, hsum]
      simp only [hread, entrySum]
  · intro fmt v j lane lanes old hf hv hj hlane
    by_cases hvoid : fmt = 0 ∧ 243 ≤ v
    · rw [if_pos hvoid, byteAdds, byteEntry_void hvoid]
    · obtain ⟨e, neg, v', hentry, hlt, hpat, hsum⟩ := byteEntry_reads hf hv hj hvoid
      rw [if_neg hvoid, byteAdds, hentry, hsum]
      simp only [buildEntries_getD hlt hpat hlane, entrySum]

end Sys2Proof.Proofs
end

section
/-! Reset, clocks and links (R314, R361, R382, R431, R466). -/

namespace Sys2Proof.Proofs

open Sys2Proof.Machine Sys2Proof.Laws

/-- A state without a written register reads the reset values. -/
theorem rd_of_no_regs {t : State} (h : t.regs = []) (a : Nat) : rd t a = regReset a := by
  rw [rd, h]
  rfl

theorem exec_resetNAssert (s : State) : ∃ t, exec .resetNAssert s = .next t ∧ t.pins.resetLow = true ∧ t.pins.faultLow = false ∧ t.pins.rails = [] ∧ t.tape = 0 ∧
    (∀ a, rd t a = regReset a) ∧ t.mem = [] ∧ t.sessions = [] ∧ t.models = [] ∧ t.seqs = [] ∧ t.steps = [] ∧ t.pending = s.pending ∧ t.fuse = s.fuse :=
  ⟨_, rfl, rfl, rfl, rfl, rfl, rd_of_no_regs rfl, rfl, rfl, rfl, rfl, rfl, rfl, rfl⟩

theorem exec_clk100Loss (s : State) : ∃ t, exec .clk100Loss s = .next t ∧ t.pins.clockLost = true ∧ t.pins.faultLow = true ∧ t.pins.rails = [] ∧ t.tape = 0 ∧
    (∀ a, rd t a = regReset a) ∧ t.mem = [] ∧ t.sessions = [] ∧ t.models = [] ∧ t.seqs = [] ∧ t.pending = s.pending ∧ t.fuse = s.fuse :=
  ⟨_, rfl, rfl, rfl, rfl, rfl, rd_of_no_regs rfl, rfl, rfl, rfl, rfl, rfl, rfl⟩

theorem moveConns_frame (s : State) : moveConns s = { s with conns := (moveConns s).conns } := rfl

theorem length_moveConns (s : State) : (moveConns s).conns.length = s.conns.length := List.length_map _

/-- A loss of a reference clock before the connections move: the links of the die's ports go down. -/
def downLinks (back : Bool) (s : State) : State :=
  (diePorts back).foldl (fun s p => wrF (portStatus p) 7 0 0 s) { s with pins := if back then { s.pins with refBack := false } else { s.pins with refFront := false } }

theorem exec_refclkLoss (back : Bool) (s : State) : exec (.refclkLoss back) s = .next (if back then moveConns (downLinks back s) else downLinks back s) := rfl

theorem refclkLoss_leaves {back : Bool} {s : State} (hs : Canonical s) : ∃ t, exec (.refclkLoss back) s = .next t ∧ t = { s with pins := t.pins, regs := t.regs, conns := t.conns } ∧
    t.conns.length = s.conns.length ∧ (back = false → t.conns = s.conns) ∧ (if back then t.pins.refBack else t.pins.refFront) = false ∧ (∀ p ∈ diePorts back, rdF t (portStatus p) 7 0 = 0) ∧
    ∀ a, (∀ p ∈ diePorts back, a ≠ portStatus p) → rd t a = rd s a := by
  have honly : RegsOnly { s with pins := if back then { s.pins with refBack := false } else { s.pins with refFront := false } } (downLinks back s) := RegsOnly.foldl_wrF _ (.refl _)
  have hdown : ∀ p ∈ diePorts back, rdF (downLinks back s) (portStatus p) 7 0 = 0 := fun p hp =>
    rdF_foldl_wrF_mem _ (by decide) (by decide) ⟨p, hp, rfl⟩ hs.regs
  have hother : ∀ a, (∀ p ∈ diePorts back, a ≠ portStatus p) → rd (downLinks back s) a = rd s a := fun a ha =>
    (rd_foldl_wrF_other _ ha _).trans rfl
  generalize hu : downLinks back s = u at honly hdown hother
  have hpins : (if back then u.pins.refBack else u.pins.refFront) = false := by
    rw [honly]
    cases back <;> rfl
  rw [exec_refclkLoss, hu]
  cases back
  · refine ⟨u, rfl, ?_, ?_, fun _ => ?_, hpins, hdown, hother⟩ <;> rw [honly]
  · refine ⟨moveConns u, rfl, ?_, ?_, nofun, hpins, fun p hp => hdown p hp, fun a ha => hother a ha⟩
    · rw [moveConns_frame, honly]
    · rw [length_moveConns, honly]

/-- A change of a link that the mode, the port and the sleep allow sets the interface's bit. -/
theorem linkStateChange_sets {back : Bool} {port iface : Nat} {up : Bool} {s : State} (hs : Canonical s) (hport : port < 4)
    (hiface : iface < ifaces (rdF s (portCfg ((if back then 4 else 0) + port)) 57 56)) (hon : up = true → rdB s (portCfg ((if back then 4 else 0) + port)) 63 = false)
    (hawake : asleep s = false ∨ back = false ∧ port = 0 ∧ iface = 0) :
    ∃ t, exec (.linkStateChange back port iface up) s = .next (if back then moveConns t else t) ∧ t = { s with pins := t.pins, regs := t.regs } ∧
      rdB t (portStatus ((if back then 4 else 0) + port)) iface = up ∧ ∀ a, a ≠ portStatus ((if back then 4 else 0) + port) → rd t a = rd s a := by
  have hlt : rdF s (portCfg ((if back then 4 else 0) + port)) 57 56 < 4 := natBits_lt _ 57 56
  have hmode : ifaces (rdF s (portCfg ((if back then 4 else 0) + port)) 57 56) ≤ 2 ^ 3 := Nat.pow_le_pow_right (by decide) (Nat.le_of_lt_succ hlt)
  have hok : ¬ (4 ≤ port ∨ ifaces (rdF s (portCfg ((if back then 4 else 0) + port)) 57 56) ≤ iface ∨ (up = true ∧ rdB s (portCfg ((if back then 4 else 0) + port)) 63 = true) ∨
      (asleep s = true ∧ ((if back then 4 else 0) + port ≠ 0 ∨ iface ≠ 0))) := by
    rintro (h | h | ⟨hu, h⟩ | ⟨ha, h⟩)
    · omega
    · omega
    · simp [hon hu] at h
    · rcases hawake with hw | ⟨rfl, rfl, rfl⟩
      · simp [hw] at ha
      · simp at h
  refine ⟨wrB (portStatus ((if back then 4 else 0) + port)) iface up { s with pins := if back then { s.pins with refBack := s.pins.refBack || up } else { s.pins with refFront := s.pins.refFront || up } },
    if_neg hok, rfl, rdB_wrB_same _ _ _ _ hs.regs (by omega), fun a ha => (rd_wrB_other _ _ _ _ _ ha).trans rfl⟩

/-- Asleep, no interface but interface 0 of F0 is there. -/
theorem linkStateChange_asleep {back : Bool} {port iface : Nat} {up : Bool} {s : State} (h : asleep s = true) (hplace : back = true ∨ port ≠ 0 ∨ iface ≠ 0) :
    exec (.linkStateChange back port iface up) s = .next s := by
  refine if_pos (.inr (.inr (.inr ⟨h, ?_⟩)))
  rcases hplace with rfl | hp | hi
  · exact .inl (by simp)
  · exact .inl (by omega)
  · exact .inr hi

/-- Settles O14, one event after the other. -/
theorem resetAndClockEvents : Obligations.ResetAndClockEvents :=
  ⟨exec_resetNAssert, exec_clk100Loss, fun _ _ hs => refclkLoss_leaves hs, fun _ _ _ _ _ hs hport hiface hon hawake => linkStateChange_sets hs hport hiface hon hawake,
    fun _ _ _ _ _ h hplace => linkStateChange_asleep h hplace⟩

end Sys2Proof.Proofs
end

section
/-! Rails, training and the zero fill (R269, R270, R461 to R463), and the boot fetch (R333, R379). -/

namespace Sys2Proof.Proofs

open Sys2Proof.Machine Sys2Proof.Laws

/-! What the rails, the training and the zero fill leave. -/

theorem sentOnly_railNotice (s : State) : sentOnly s (railNotice s) := by
  unfold railNotice
  split
  · exact sentOnly_trans (sent_fresh s) (sent_notifyAt _ _ _ _ _ _ _ _)
  · exact sentOnly_refl s

/-- A rail failure turns the rails off, and is retried after a second unless it is the third in a row. -/
theorem exec_railFailure {s : State} {rail : Nat} (hreset : s.pins.resetLow = false) (hrail : rail ∈ s.pins.rails) :
    ∃ t, exec (.railFailure rail) s = .next t ∧ t.pins.rails = [] ∧ t.pins.faultLow = true ∧ t.pins.railCause = true ∧ t.pins.failures = s.pins.failures + 1 ∧
      t.pins.retryAt = (if s.pins.failures + 1 < 3 then some (s.tape + 1000000000) else none) ∧ t.mem = [] ∧ t.models = [] ∧ t.seqs = [] := by
  have hsent := sentOnly_railNotice s
  have hpins : (railNotice s).pins = s.pins := by rw [hsent]
  have htape : (railNotice s).tape = s.tape := by rw [hsent]
  have hexec : exec (.railFailure rail) s = .next (railsFail (railNotice s)) := if_neg (by simp [hreset, hrail])
  rw [hexec, ← hpins, ← htape]
  exact ⟨_, rfl, rfl, rfl, rfl, rfl, rfl, rfl, rfl, rfl⟩

section
variable {s : State} {at_ : Nat} (h : s.pins.retryAt = some at_)
include h

/-- A retry that a rail fails counts, and is itself retried. -/
theorem exec_railRetry_fails (rail : Nat) : ∃ t, exec (.railRetry (some rail)) s = .next t ∧ t.pins.failures = s.pins.failures + 1 ∧ t.tape = tapeTo at_ s ∧
    t.pins.retryAt = (if s.pins.failures + 1 < 3 then some (tapeTo at_ s + 1000000000) else none) := by
  dsimp only [exec, execRailRetry]
  rw [h]
  exact ⟨_, rfl, rfl, rfl, rfl⟩

/-- A retry that brings the rails up boots with cause 10. -/
theorem exec_railRetry_boots : ∃ t, exec (.railRetry none) s = .next t ∧ t.pins.rails = allRails ∧ t.pins.failures = 0 ∧ t.pins.faultLow = false ∧ t.tape = tapeTo at_ s ∧
    rdF t 0x18 60 57 = 10 := by
  have hboots : ∀ u : State, u.pins.failures = 0 → u.pins.faultLow = false → (bootFrom2 10 u).pins.rails = allRails ∧ (bootFrom2 10 u).pins.failures = 0 ∧
      (bootFrom2 10 u).pins.faultLow = false ∧ (bootFrom2 10 u).tape = u.tape ∧ rdF (bootFrom2 10 u) 0x18 60 57 = 10 := by
    intro u hfailures hfault
    obtain ⟨hpins, htape, -⟩ := bootFrom2_rest 10 u
    rw [hpins]
    exact ⟨rfl, hfailures, hfault, htape, bootFrom2_cause 10 u⟩
  dsimp only [exec, execRailRetry]
  rw [h]
  exact ⟨_, rfl, hboots _ rfl rfl⟩

end

/-- A key that stands in no entry reads as an absent one. -/
theorem sget_of_forall_ne {α : Type} {d : Nat → α} {m : Sparse α} {k : Nat} (h : ∀ e ∈ m, e.1 ≠ k) : sget d m k = d k := by
  induction m with
  | nil => rfl
  | cons e m ih =>
    rw [sget, if_neg fun hk => h e (by simp) hk.symm]
    exact ih fun x hx => h x (by simp [hx])

/-- After the zero fill every byte of the stacks is zero, also as the device's context reads it. -/
theorem zeroFilled_reads (regions : Regions) (s : State) {ctx a : Nat} (ha : a < scratchBase) :
    getByte (zeroFilled regions s) a = 0 ∧ (ctx = 0 → byteAs (zeroFilled regions s) ctx a = 0) := by
  have hbyte : getByte (zeroFilled regions s) a = 0 := sget_of_forall_ne (m := s.mem.filter (fun c => decide (scratchBase ≤ c.1))) fun e he => by
    have hlo := of_decide_eq_true (List.mem_filter.1 he).2
    omega
  refine ⟨hbyte, fun hctx => ?_⟩
  rw [byteAs, if_neg, hbyte]
  rintro ⟨-, hne⟩
  exact hne hctx.symm

/-- Settles O16, one event after the other. -/
theorem powerAndTrainingEvents : Obligations.PowerAndTrainingEvents := by
  refine ⟨fun s rail => exec_railFailure, fun s at_ rail h => exec_railRetry_fails h rail, fun s at_ h => exec_railRetry_boots h, fun s results hstarted htrained => ?_,
    fun s regions htrained hzero hentered => ?_, fun s regions htrained hzero hentered hs => ?_⟩
  · exact if_neg (by simp [hstarted, htrained])
  · exact (if_neg (by simp [htrained, hzero])).trans (if_pos hentered)
  · have hexec : exec (.zeroFillComplete regions) s = .next (zeroFilled regions s) := (if_neg (by simp [htrained, hzero])).trans (if_neg (by rw [hentered]; decide))
    exact ⟨_, hexec, rdB_wrB_same _ _ _ _ hs.regs (by decide), fun ctx a _ ha => zeroFilled_reads regions s ha⟩

/-! The boot fetch. -/

/-- A boot message that is sent changes the number of the next one, counters and what left the device. -/
theorem sendBoot_frame (command : Nat) (payload : List Byte) (s : State) :
    sendBoot command payload s = { s with boot := { s.boot with txMsn := (s.boot.txMsn + 1) % 2 ^ 32 }, regs := (sendBoot command payload s).regs, out := (sendBoot command payload s).out } := by
  have hcounted : ∀ a n t, bump a n t = { t with regs := (bump a n t).regs } := fun _ _ _ => bump_frame
  unfold sendBoot emitOut
  dsimp only
  rw [hcounted (0xA02018 + _), hcounted 0xA00020]

/-- Where a boot message goes: to the service taken, or to all nodes. -/
def bootPeer (s : State) : Peer := s.boot.service.getD ⟨rdF s 0x10 3 2, 0, allNodes, obushPort s⟩

/-- The next SOLICIT is due a second after a tape value. -/
def solicitAfter (n : Nat) (t : State) : State := { t with boot := { t.boot with solicitAt := n + 1000000000 } }

/-- What leaves is one boot message, to the service taken or to all nodes, by interface 0 of the boot port. -/
theorem sendBoot_out (command : Nat) (payload : List Byte) (s : State) : ∃ d dest frame, (sendBoot command payload s).out = .boot d dest frame :: s.out ∧ d = bootMessage command payload s ∧
    d.mailbox = 0xFFFF ∧ d.command = command ∧ d.payload = payload ∧ flagClear d.flags = true ∧ dest.udp = (s.boot.service.map (fun p => p.udp)).getD (obushPort s) ∧
    dest.addr = (s.boot.service.map (fun p => p.addr)).getD allNodes ∧ dest.port = rdF s 0x10 3 2 ∧ dest.iface = 0 ∧
    frame.udpFrom = obushPort s ∧ frame.udpTo = dest.udp ∧ frame.ipv6 = true := by
  have hcounted : ∀ a n t, (bump a n t).out = t.out := fun a n t => by rw [bump_frame]
  refine ⟨bootMessage command payload s, { bootPeer s with port := rdF s 0x10 3 2, iface := 0 }, wireOf s (rdF s 0x10 3 2) 0 true (obushPort s) (bootPeer s).udp,
    ?_, rfl, rfl, rfl, rfl, show flagClear 256 = true by decide, ?_, ?_, rfl, rfl, rfl, rfl, rfl⟩
  · unfold sendBoot emitOut
    dsimp only
    rw [hcounted, hcounted]
    rfl
  · unfold bootPeer
    cases s.boot.service <;> rfl
  · unfold bootPeer
    cases s.boot.service <;> rfl

/-- Settles O17, one event after the other. -/
theorem bootFetchEvents : Obligations.BootFetchEvents := by
  refine ⟨fun s hfetch hservice => ?_, sendBoot_out, fun d a s hok hoffer => ?_, fun d a sig rec_ s hok hblock => ?_, fun d a s hok hoffer => ?_, fun s off q hq hmany => ?_, fun s off q hq hfew => ?_⟩
  · obtain ⟨u, hu⟩ : ∃ u, u = sendBoot 1 (idBytes s ++ orderingCode s ++ leBytes 4 s.fuse.romVersion) { s with tape := tapeTo s.boot.solicitAt s } := ⟨_, rfl⟩
    have htape : u.tape = tapeTo s.boot.solicitAt s := by rw [hu, sendBoot_frame]
    have hexec : exec .bootSolicit s = .next (solicitAfter u.tape u) := by
      rw [hu]
      exact if_neg (by simp [hfetch, hservice])
    rw [htape] at hexec
    exact ⟨u, hexec, hu⟩
  · exact if_pos (by simp [hok, hoffer])
  · exact if_pos (by simp [hok, hblock])
  · exact (if_neg (by simp [hok])).trans (if_pos hoffer)
  · dsimp only [exec, execBootRequestTimeout]
    rw [hq]
    exact ⟨_, if_pos hmany, rfl, rfl, rfl, rfl, rfl⟩
  · dsimp only [exec, execBootRequestTimeout]
    rw [hq]
    exact ⟨_, _, if_neg (by omega), rfl, rfl⟩

end Sys2Proof.Proofs
end

section
/-! Warm resets and restarts of the controller (R342, R380 to R386), and the tick (R10 to R25). -/

namespace Sys2Proof.Proofs

open Sys2Proof.Machine Sys2Proof.Laws

/-! What settling the journal leaves. -/

theorem sent_settle (w : Waiter) (status : Nat) (s : State) : sentOnly s (settle w status s) := by
  unfold settle respondTo
  split
  · exact sent_respond _ _ _ _ _ _ _
  · exact sent_refuseAt _ _ _ _ _ _ _ _

theorem sent_settleAll (ws : List Waiter) (status : Nat) (s : State) : sentOnly s (settleAll ws status s) := by
  unfold settleAll
  induction ws generalizing s with
  | nil => exact sentOnly_refl s
  | cons w ws ih => exact sentOnly_trans (sent_settle w status s) (ih _)

/-- t is s but for what sending changes, the sequences and the models. -/
def JournalOnly (s t : State) : Prop :=
  t = { s with seqs := t.seqs, models := t.models, sessions := t.sessions, regs := t.regs, out := t.out, nsn := t.nsn, free := t.free, caused := t.caused }

section
variable {s t u : State}

theorem JournalOnly.trans (h : JournalOnly s t) (k : JournalOnly t u) : JournalOnly s u := by
  unfold JournalOnly at *
  rw [k, h]

theorem journal_of_sent (h : sentOnly s t) : JournalOnly s t := by
  unfold sentOnly at h
  unfold JournalOnly
  rw [h]

theorem JournalOnly.foldl {α : Type} {f : State → α → State} (hf : ∀ t a, JournalOnly t (f t a)) (l : List α) (s : State) : JournalOnly s (l.foldl f s) := by
  induction l generalizing s with
  | nil => rfl
  | cons a l ih => exact (hf s a).trans (ih _)

end

/-- Settling the journal answers those that wait; it changes sequences and models, and what sending changes. -/
theorem journalOnly_settleJournal (s : State) : JournalOnly s (settleJournal s) := by
  unfold settleJournal
  refine (JournalOnly.foldl (fun t e => ?_) _ s).trans (JournalOnly.foldl (fun t e => ?_) _ _)
  · exact JournalOnly.trans (t := setSeq _ _ t) rfl (journal_of_sent (sent_settleAll _ _ _))
  · exact JournalOnly.trans (t := setModel _ _ t) rfl (journal_of_sent (sent_settleAll _ _ _))

/-! Acknowledgements owed. -/

/-- Where nobody is owed an acknowledgement the tape alone runs on. -/
theorem runTo_of_none_due {t : Nat} {s : State} (hs : ∀ e ∈ s.sessions, e.2.ackDue = false) (hc : ∀ e ∈ s.conns, e.2.ackDue = false) : runTo t s = { s with tape := tapeTo t s } := by
  have hacks : flushAcks t s = s := by
    rw [flushAcks, List.filter_eq_nil_iff.2 fun e he => by simp [hs e he]]
    rfl
  have hkr : flushKrAcks t s = s := by
    rw [flushKrAcks, List.filter_eq_nil_iff.2 fun e he => by simp [hc e he]]
    rfl
  unfold runTo
  rw [hacks, hkr]

/-- A reset that is due is noted as acknowledged by an acknowledgement of its response, and stays noted. -/
theorem noteWarm_acked {s : State} {k : Nat} {acked : List Datagram} {w : WarmDue} (h : s.warmDue = some w) :
    ((noteWarm k acked s).warmDue.map (fun x => x.acked) = some true ↔ w.acked = true ∨ (w.session = k ∧ acked.any (fun m => m.msn == w.msn) = true)) := by
  unfold noteWarm
  rw [h]
  rw [Option.map_some, Option.map_some]
  split
  next hit => exact iff_of_true rfl (.inr hit)
  next hit => rw [or_iff_left hit, Option.some.injEq]

/-! The restart. -/

theorem keeps_secure (s : State) (x : Secure) : Keeps s { s with secure := x } := ⟨rfl, rfl, fun h => ⟨h.mem, h.regs, h.poison, h.keys⟩⟩

theorem keeps_thimble (s : State) (x : Thimble) : Keeps s { s with thimble := x } := ⟨rfl, rfl, fun h => ⟨h.mem, h.regs, h.poison, h.keys⟩⟩

/-- The new image runs with STATE 4. -/
theorem takeUpdate_state {u : Update} {s : State} (hs : Canonical s) : rdF (takeUpdate u s) 8 63 61 = 4 := by
  have hread := keeps_readStage u.bytes s (.refl s)
  exact rdF_wrF_same _ _ _ _ _ ((keeps_notify _ _ _ _ _ _ _ (keeps_freeStage _ _ (keeps_bump _ _ _ (keeps_showVersion _ _ (hread.trans (keeps_secure _ _)))))).inv hs).regs
    (by decide) (by decide)

theorem wrF_only (a hi lo v : Nat) (s : State) : wrF a hi lo v s = { s with regs := (wrF a hi lo v s).regs } := rfl

/-- The firmware that runs again after a restart, with its journal settled. -/
def restarted (s : State) : State := reloadWdog (wrF 8 63 61 4 { settleJournal s with thimble := { (settleJournal s).thimble with sealDue := true } })

theorem restarted_rest (s : State) : (restarted s).missedRun = s.missedRun ∧ (restarted s).update = s.update := by
  have hjournal : (settleJournal s).missedRun = s.missedRun ∧ (settleJournal s).update = s.update := by
    rw [journalOnly_settleJournal s]
    exact ⟨rfl, rfl⟩
  rw [restarted, reloadWdog_frame, wrF_only]
  exact hjournal

theorem keeps_restarted (s : State) : Keeps s (restarted s) :=
  keeps_reloadWdog _ (keeps_wrF _ _ _ _ _ ((keeps_settleJournal s (.refl s)).trans (keeps_thimble _ _)))

theorem restarted_state {s : State} (hs : Canonical s) : rdF (restarted s) 8 63 61 = 4 := by
  rw [rdF, restarted, rd_reloadWdog]
  exact rdF_wrF_same _ _ _ _ _ ((keeps_settleJournal s (.refl s)).inv hs).regs (by decide) (by decide)

/-- A restart of sound private memory goes on, in an update pause with the new image. -/
theorem exec_controllerRestart {s : State} (hstate : rdF s 8 63 61 = 6) (hth : rdF s 0xC00000 63 61 ≠ 4) (hdue : s.warmDue = none) (hsound : s.secure.damaged = false) :
    (s.update = none → exec .controllerRestart s = .next (restarted s)) ∧ ∀ u, s.update = some u → u.paused = true → exec .controllerRestart s = .next (takeUpdate u (restarted s)) := by
  have hgo : ¬ (rdF s 8 63 61 ≠ 6 ∨ rdF s 0xC00000 63 61 = 4 ∨ (s.warmDue.any (fun w => decide (w.cause = 6))) = true) := by simp [hstate, hth, hdue]
  have hwhole : ¬ s.secure.damaged = true := by simp [hsound]
  have hexec : ∀ o, (restarted s).update = o →
      exec .controllerRestart s = (match o with | some u => .next (if u.paused then takeUpdate u (restarted s) else restarted s) | none => .next (restarted s)) := by
    rintro _ rfl
    exact (if_neg hgo).trans (if_neg hwhole)
  rw [(restarted_rest s).2] at hexec
  refine ⟨fun hnone => hexec _ hnone, fun u hu hpaused => (hexec _ hu).trans ?_⟩
  dsimp only
  rw [if_pos hpaused]

/-- A reset that is due starts, once it is acknowledged or its time is up; it is a cold reset where the image is not the one measured. -/
theorem exec_warmReset {s : State} {w : WarmDue} (h : s.warmDue = some w) :
    exec (.warmReset true) s = .next (warmReset w.cause (if w.acked then s else runTo w.by_ s)) ∧
      exec (.warmReset false) s = .next (coldReset 5 (if w.acked then s else runTo w.by_ s)) := by
  dsimp only [exec, execWarmReset]
  simp only [h, if_true, Bool.false_eq_true, if_false, and_self]

/-- Settles O18, one event after the other. -/
theorem restartEvents : Obligations.RestartEvents := by
  refine ⟨fun s w hw hacked => ?_, fun s w hw hacked => ⟨?_, runTo_of_none_due⟩, fun s k acked w hw => noteWarm_acked hw, ?_, fun s at_ hat hrestart => ?_, fun s hrestart => ?_, fun s hmissed hserving hseal => ?_⟩
  · obtain ⟨hwarm, hcold⟩ := exec_warmReset hw
    rw [if_pos hacked] at hwarm hcold
    exact ⟨hwarm, hcold⟩
  · obtain ⟨hwarm, -⟩ := exec_warmReset hw
    rw [if_neg (by simp [hacked])] at hwarm
    exact hwarm
  · rintro s t hs hstate hth hdue hsound rfl
    obtain ⟨hplain, hupdate⟩ := exec_controllerRestart hstate hth hdue hsound
    exact ⟨fun hnone => ⟨hplain hnone, restarted_state hs, (restarted_rest s).1⟩,
      fun u hu hpaused => ⟨hupdate u hu hpaused, takeUpdate_state ((keeps_restarted s).inv hs), rfl⟩⟩
  · dsimp only [exec, execWatchdogExpiry]
    rw [hat]
    exact if_pos hrestart
  · exact if_neg (by simp [hrestart])
  · exact if_pos ⟨hmissed, hserving, by simp [hseal]⟩

/-! The tick. -/

theorem wrapEdge_mod (k p : Nat) : wrapEdge (k * p) % p = 0 := by
  unfold wrapEdge
  split
  · exact Nat.mul_mod_left _ _
  · exact Nat.zero_mod _

/-- Buckets fill in registers that hold no period. -/
theorem regsOnly_refillBuckets (s : State) : RegsOnly s (refillBuckets s) := by
  unfold refillBuckets
  generalize List.range 64 = l
  induction l generalizing s with
  | nil => exact .refl s
  | cons t l ih => exact ((RegsOnly.refl s).wrF _ _ _ _).trans (ih _)

/-- An edge that passes unserved moves the tape to a multiple of the period and fills the buckets. -/
theorem exec_tickEdge_unserved {s : State} (hticks : tickless s = false) (h : asleep s = true ∨ thState s = 5) :
    ∃ t, exec .tickEdge s = .next t ∧ t = refillBuckets { s with tape := nextEdge s, frac := 0, fabric := { s.fabric with skipTo := 0 }, edge := nextEdge s, skipped := true, frozen := true, admits := false, core2 := false } ∧
      t.tape = nextEdge s ∧ t.tape % period s = 0 := by
  have hpasses : (asleep s || decide (thState s = 5)) = true := by rcases h with h | h <;> simp [h]
  have htape : ∀ u : State, (refillBuckets u).tape = u.tape := fun u => by rw [regsOnly_refillBuckets u]
  refine ⟨_, (if_neg (by simp [hticks])).trans (if_pos hpasses), rfl, htape _, ?_⟩
  rw [htape]
  exact wrapEdge_mod _ _

theorem commitEntries_frame (entries : List PlanEntry) (s : State) : commitEntries entries s = { s with plan := entries, regs := (commitEntries entries s).regs } := rfl

/-- Settles O19, one event after the other. -/
theorem tickEvents : Obligations.TickEvents := by
  refine ⟨fun s hticks hawake hth => ?_, fun s => exec_tickEdge_unserved, fun s entries hs hfixed => ?_, fun s entries hopen hearly => ?_, fun s hopen => ?_, fun s hopen => ?_, fun s hs hfrozen hidle => ?_,
    fun s u hu hstate hadmits hplan hready => ?_, fun s hguard hskip => ?_, fun s u hu hpaused hstate hdone => ?_⟩
  · exact (if_neg (by simp [hticks])).trans (if_neg (by simp [hawake, hth]))
  · have hdue : freezeDue s = s := if_pos hfixed
    have hexec : exec (.planCommitWrite entries) s = .next (commitEntries (entries.takeWhile (entryValid s)) s) := by
      dsimp only [exec, execPlanCommitWrite]
      rw [hdue]
    exact ⟨_, hexec, rfl, rdF_wrF_same _ _ _ _ _ hs.regs (by decide) (by decide), commitEntries_frame _ _, fun a ha => rd_wrF_other _ _ _ _ _ _ ha⟩
  · have hdue : freezeDue s = freezePlan false s := if_neg (by simp [hopen, hearly])
    refine ⟨commitEntries (entries.takeWhile (entryValid (freezePlan false s))) (freezePlan false s), ?_, rfl, rfl⟩
    dsimp only [exec, execPlanCommitWrite]
    rw [hdue]
  · exact congrArg Host.Outcome.next (if_neg (by simp [hopen]))
  · exact if_neg (by simp [hopen])
  · refine ⟨_, if_neg (by simp [hfrozen, hidle]), ?_, rfl, rfl, fun a ha => ?_⟩
    · exact (congrArg (fun w => getBit w 0) (rd_of_regs (s := wrB 0x100028 0 true s) rfl 0x100028)).trans (rdB_wrB_same _ _ _ _ hs.regs (by decide))
    · exact (rd_of_regs (s := wrB 0x100028 0 true s) rfl a).trans (rd_wrB_other _ _ _ _ _ ha)
  · dsimp only [exec, execCore2PlannerHelp]
    rw [← hu]
    exact if_pos (by simp [hstate, hadmits, hplan, hready])
  · exact congrArg Host.Outcome.next (if_neg (by simp [hguard, hskip]))
  · dsimp only [exec, execFirmwareUpdatePauseEnd]
    rw [hu]
    exact if_neg (by simp [hpaused, hstate, hdone])

end Sys2Proof.Proofs
end

section
/-! Stitchers (R72 to R93), the seam tree (R143 to R157), steps (R134 to R140, R233 to R245) and engines (R181 to R203): each command under the conditions in which it acts. -/

namespace Sys2Proof.Proofs

open Sys2Proof.Machine Sys2Proof.Laws

/-- Work that touches no channel in retrain is done at once. -/
theorem takeWork_free {c : Instr} {ranges : List (Nat × Nat)} {f : State → State} {s : State} (h : heldUp s ranges = false) : takeWork c ranges f s = f s := if_neg (by simp [h])

theorem takeWork_held {c : Instr} {ranges : List (Nat × Nat)} {f : State → State} {s : State} (h : heldUp s ranges = true) :
    takeWork c ranges f s = { s with stalled := s.stalled ++ [c] } := if_pos h

/-! Stitchers. -/

section
variable {s : State} {p i : Nat} (hp : p < 48) (hpanel : isolated s p = false)
include hp hpanel

theorem panelUsed : ¬ (p ≥ 48 ∨ isolated s p = true) := by simp [hp, hpanel]

variable (hi : i < 128) (hst : stitcherFailed s p i = false)
include hi hst

/-- The gate of a stitcher's commands. -/
theorem stitcherUsed : ¬ (p ≥ 48 ∨ i ≥ 128 ∨ isolated s p = true ∨ stitcherFailed s p i = true) := by simp [hp, hi, hpanel, hst]

theorem exec_stitcherTakePiece {q how k : Nat} {table : CodecErrors} {e : QEntry} (htakes : takesNow (stitcherOf s p i) = true) (hfind : findPiece s p = some (q, how, k))
    (hk : (panelOf s q).queue[k]? = some e) (hfree : heldUp s [(e.piece.tlist, 4 * e.piece.tcount)] = false) :
    exec (.stitcherTakePiece p i table) s = .next (acceptPiece p i q how e.piece table (dealWaiting (setPanel q { panelOf s q with queue := (panelOf s q).queue.eraseIdx k } s))) := by
  have hgo : ¬ (p ≥ 48 ∨ i ≥ 128 ∨ isolated s p = true ∨ stitcherFailed s p i = true ∨ (!(takesNow (stitcherOf s p i))) = true) := by simp [hp, hi, hpanel, hst, htakes]
  dsimp only [exec, execStitcherTakePiece]
  rw [if_neg hgo, hfind]
  dsimp only
  rw [hk]
  exact congrArg Host.Outcome.next (takeWork_free hfree)

theorem exec_tableBuild {r : StRun} {c : Nat × Nat} {staged : SramError} (hnext : (upcoming (stitcherOf s p i)).head? = some (r, c))
    (hempty : (halfOf (stitcherOf s p i) (stitcherOf s p i).half).valid = false) (hfree : heldUp s (feedRanges s r c) = false) :
    exec (.tableBuild p i staged) s = .next (buildNext p i (stitcherOf s p i).half r c staged s) := by
  have hgo : ¬ (p ≥ 48 ∨ i ≥ 128 ∨ isolated s p = true ∨ stitcherFailed s p i = true ∨ (halfOf (stitcherOf s p i) (stitcherOf s p i).half).valid = true) := by simp [hp, hi, hpanel, hst, hempty]
  dsimp only [exec, execTableBuild]
  rw [if_neg hgo, hnext]
  exact congrArg Host.Outcome.next (takeWork_free hfree)

section
variable {r : StRun} (hcur : (stitcherOf s p i).cur = some r)
include hcur

theorem exec_accBankSwap {bad fixed : List Nat} (hdone : runStreamed r = true) :
    exec (.accBankSwap p i bad fixed) s = if (stitcherOf s p i).port ≠ [] then .next (stitchWaits p i .drain s) else .next (swapBanks p i r bad fixed s) := by
  dsimp only [exec, execAccBankSwap]
  rw [if_neg (stitcherUsed hp hpanel hi hst), hcur]
  exact if_neg (by simp [hdone])

end

end

theorem streamFails_some {e : StreamErrors} (h : e.parity = true ∨ e.uncorrectable = true) : streamFails e = some (if e.parity then 1 else 3) := by
  unfold streamFails
  by_cases hpar : e.parity = true
  · rw [if_pos hpar, if_pos hpar]
  · rw [if_neg hpar, if_neg hpar, if_pos (h.resolve_left hpar)]

/-- Settles O23: each command under its own conditions. -/
theorem stitcherEvents : Obligations.StitcherEvents := by
  refine ⟨fun s p i table q how k e hp hi hpanel hst => exec_stitcherTakePiece hp hpanel hi hst, fun s p i r c staged hp hi hpanel hst hnext => ⟨exec_tableBuild hp hpanel hi hst hnext, fun hvalid => ?_⟩,
    fun s p i r c e hp hi hpanel hst hcur hc => ?_, fun s p i r e hp hi hpanel hst hcur hc hdone hfails => ?_, fun s p i r bad fixed hp hi hpanel hst hcur hdone => ?_, fun s p hp hpanel => ?_⟩
  · exact if_pos (.inr (.inr (.inr (.inr hvalid))))
  · refine ⟨fun hvalid hzip hfed hpar hunc => ?_, fun hzip => ?_, fun hvalid hzip hempty => ?_, fun hvalid hzip => ?_, fun hvalid hzip hfed hfails => ?_⟩ <;>
      dsimp only [exec, execChunkStreamStart] <;> rw [if_neg (stitcherUsed hp hpanel hi hst), hcur] <;> dsimp only <;> rw [hc]
    · simp [hvalid, hzip, hfed, streamFails, hpar, hunc]
    · simp [hzip]
    · simp [hvalid, hzip, hempty]
    · simp [hvalid, hzip]
    · simp [hvalid, hzip, hfed, streamFails_some hfails]
  · dsimp only [exec, execChunkStreamStart]
    rw [if_neg (stitcherUsed hp hpanel hi hst), hcur]
    dsimp only
    rw [hc, streamFails_some hfails]
    exact if_neg hdone
  · rw [exec_accBankSwap hp hpanel hi hst hcur hdone]
    exact ⟨fun hempty => if_neg (by simp [hempty]), fun hfull => if_pos hfull⟩
  · exact if_neg (panelUsed hp hpanel)

/-! The seam tree and its plan engine. -/

section
variable {s : State} {n : Nat} {t : Step}

theorem closes_of_running (hphase : t.phase = .running) (hmodel : (modelOf s t.model).faulted = false) : closes s t = true := by simp [closes, hphase, hmodel]

/-- The close of the operation that stands first, once its step may close one. -/
theorem exec_seamOperationClose {i : Nat} {c : Option Nat} {bad : List (Nat × Nat × Nat)} (ht : stepOf (atCompletion s) n = some t) (hphase : t.phase = .running)
    (hmodel : (modelOf (atCompletion s) t.model).faulted = false) (hi : closable (atCompletion s) t = some i) :
    exec (.seamOperationClose n c bad) s = .next (closeOperation t i c bad (atCompletion s)) := by
  dsimp only [exec, execSeamOperationClose]
  rw [ht]
  dsimp only
  rw [if_neg (by simp [closes_of_running hphase hmodel]), hi]

/-- What may close is an operation of the step. -/
theorem op_of_closable {i : Nat} (h : closable s t = some i) : ∃ o, t.ops[i]? = some o := by
  have hfound := List.find?_some h
  cases hop : t.ops[i]? with
  | none => simp [hop] at hfound
  | some o => exact ⟨o, rfl⟩

end

/-- Settles O24: each command under its own conditions. -/
theorem seamEvents : Obligations.SeamEvents := by
  refine ⟨fun s p port r s' hp hpanel hpop hkept hroom => ?_, fun s p port r s' hp hpanel hpop hdrop => ?_, fun s p r rs t bad hp hpanel hwin ht hatt => ?_, fun s p r rs t bad hp hpanel hwin ht hatt => ?_,
    fun s n t k i o ht hk hmay hready hi ho hspace => ?_, fun s n t k ht hk hmay hready hgates => ?_, ?_, ?_, fun s n t bad c ht hfault => ?_⟩
  · dsimp only [exec, execSeamRecordL1]
    rw [if_neg (panelUsed hp hpanel), hpop]
    simp [hkept, Nat.not_le.2 hroom]
  · dsimp only [exec, execSeamRecordL1]
    rw [if_neg (panelUsed hp hpanel), hpop]
    simp [hdrop]
  · dsimp only [exec, execSeamRecordL2]
    rw [if_neg (panelUsed hp hpanel), hwin]
    dsimp only
    rw [ht]
    exact if_neg (not_not.2 hatt)
  · dsimp only [exec, execSeamRecordL2]
    rw [if_neg (panelUsed hp hpanel), hwin]
    dsimp only
    rw [ht]
    exact if_pos hatt
  · have hlacking : (List.range 8).filter (fun m => decide (524288 < reservedIn s m + reserveWords s t i o m)) = [] :=
      List.filter_eq_nil_iff.2 fun m hm => by simpa using hspace m (List.mem_range.1 hm)
    dsimp only [exec, execSeamReserve]
    rw [ht]
    dsimp only
    rw [hk]
    dsimp only
    rw [if_neg (by simp [hmay, hready]), hi]
    dsimp only
    rw [ho]
    dsimp only
    rw [hlacking]
    rfl
  · dsimp only [exec, execBarrierRelease]
    rw [ht]
    dsimp only
    rw [hk]
    exact if_neg (by simp only [hmay, hready]; simp; omega)
  · rintro s n t i o bad u rfl ht hphase hmodel hi ho
    rw [exec_seamOperationClose ht hphase hmodel hi, closeOperation, ho]
    rfl
  · rintro s n t i p bad u rfl ht hphase hmodel hi hp hpanel
    obtain ⟨o, ho⟩ := op_of_closable hi
    have hfault : Option.filter (fun p => decide (p < 48) && !(isolated (atCompletion s) p)) (some p) = some p := by simp [hp, hpanel]
    rw [exec_seamOperationClose ht hphase hmodel hi, closeOperation, ho]
    dsimp only
    rw [hfault]
  · dsimp only [exec, execSeamOperationClose]
    rw [ht]
    exact if_pos (by simp [closes, hfault])

end Sys2Proof.Proofs
end

section
/-! Steps (R134 to R140, R233 to R245), engines and vector instructions (R181 to R203), pages (R215 to R227) and the moves of the shuttle (R302 to R304): each command under the conditions in which it acts. -/

namespace Sys2Proof.Proofs

open Sys2Proof.Machine Sys2Proof.Laws

/-- Settles O25: each command under its own conditions, a draw by what its row and its grammar hold. -/
theorem stepEvents : Obligations.StepEvents := by
  refine ⟨fun s => ⟨fun hpast => if_pos hpast, fun hearly => if_neg (by simp [hearly])⟩, ?_, ?_, ?_, fun s n t i o ht hmodel hi ho => ?_⟩
  · rintro s n t u rfl ht hphase hdrawn hmodel
    dsimp only [exec, execStepCommit]
    rw [ht]
    exact if_neg (by simp [hphase, hdrawn, hmodel])
  · rintro s n x t q bad u ht hq hphase hdraws hmodel hfree rfl
    have hgo : ¬ (t.phase ≠ .sampling ∨ (!(stillDraws q)) = true ∨ (modelOf s t.model).faulted = true) := by simp [hphase, hdraws, hmodel]
    refine ⟨fun hclean hgrammar => ?_, fun hpoisoned => ?_⟩ <;> dsimp only [exec, execSamplerDraw] <;> rw [ht] <;> dsimp only <;> rw [hq] <;> dsimp only <;>
      rw [if_neg hgo, takeWork_free hfree]
    · rw [if_neg (by simp [hclean, hgrammar])]
    · rw [if_pos (by simpa using hpoisoned)]
  · rintro s n i rest t o u rfl hqueue ht hmodel ho
    dsimp only [exec, execGateRouting]
    rw [hqueue, ht]
    dsimp only
    rw [if_neg (by simp [hmodel]), ho]
  · dsimp only [exec, execExpertPieceExpansion]
    rw [ht]
    dsimp only
    rw [hi]
    dsimp only
    rw [ho]
    exact if_neg (by simp [hmodel])

/-- Settles O26: each engine runs the command at its queue's head. -/
theorem engineCommands : Obligations.EngineCommands := by
  refine ⟨fun s p c err hp hpanel hc hopc hfree => ?_, fun s p c t o err e hp hpanel hstop hc hopc ht ho hfree => ?_, fun s p err e hstop => ?_, fun s p c t o err hp hpanel hc hopc ht ho hfree => ?_,
    fun c s ranges f => takeWork_held, fun s p c t o err hp hpanel hc hopc ht ho => ?_⟩
  · dsimp only [exec, execDenseCommand]
    rw [hc]
    dsimp only
    rw [if_neg (by simp [hp, hpanel, hopc]), takeWork_free hfree]
  · have hrun : rdB s 0x300000 63 = false := hstop
    dsimp only [exec, execAttentionCommand]
    rw [hc]
    dsimp only
    rw [if_neg (by simp [hp, hpanel, hopc, hrun]), ht]
    dsimp only
    rw [ho]
    exact congrArg Host.Outcome.next (takeWork_free hfree)
  · have hhalt : rdB s 0x300000 63 = true := hstop
    dsimp only [exec, execAttentionCommand]
    cases hc : headCommand s p with
    | none => rfl
    | some c => exact if_pos (.inr (.inl hhalt))
  · dsimp only [exec, execEmbeddingGather]
    rw [hc]
    dsimp only
    rw [if_neg (by simp [hp, hpanel, hopc]), ht]
    dsimp only
    rw [ho]
    exact congrArg Host.Outcome.next (takeWork_free hfree)
  · dsimp only [exec, execVectorProgram]
    rw [hc]
    dsimp only
    rw [if_neg (by simp [hp, hpanel, hopc]), ht]
    dsimp only
    rw [ho]

theorem vecInstr_nop (p : Nat) (o : Option (Step × OpRun)) (d a b c : Nat) (s : State) {op : Nat} (h : op = 0) : vecInstr p o op d a b c s = countVec p 1 s := by
  unfold vecInstr
  dsimp only
  split
  · rfl
  all_goals simp_all

/-- Settles O28: on a panel in use an instruction is the word of its opcode, and register numbers below 32 stand as they are. -/
theorem vectorInstructions : Obligations.VectorInstructions := by
  intro s p hp hpanel
  have hready : vecReady s p = true := by simp [vecReady, hp, hpanel]
  refine ⟨(if_pos hready).trans (congrArg _ (vecInstr_nop _ _ _ _ _ _ _ rfl)), fun d a b hd ha hb => ?_, fun d a c hd ha hcmd => ⟨?_, fun t o ht ho => ?_⟩, if_pos hready⟩
  · refine ⟨?_, ?_, ?_, fun c hc => ?_, ?_, ?_, ?_, ?_, ?_, ?_, ?_, ?_⟩ <;> refine (if_pos hready).trans ?_
    case refine_4 => rw [Nat.mod_eq_of_lt hd, Nat.mod_eq_of_lt ha, Nat.mod_eq_of_lt hb, Nat.mod_eq_of_lt hc]; rfl
    all_goals
      rw [Nat.mod_eq_of_lt hd, Nat.mod_eq_of_lt ha]
    case refine_1 | refine_2 | refine_3 | refine_5 | refine_6 | refine_7 => rw [Nat.mod_eq_of_lt hb]; rfl
    all_goals rfl
  · refine (if_pos hready).trans ?_
    rw [Nat.mod_eq_of_lt hd, Nat.mod_eq_of_lt ha]
    unfold vecInstr
    dsimp only
    rw [hcmd]
    rfl
  · have hop : vecOp s p = some (t, o) := by simp [vecOp, hcmd, ht, ho]
    refine (if_pos hready).trans ?_
    rw [Nat.mod_eq_of_lt hd, Nat.mod_eq_of_lt ha, hop]
    unfold vecInstr
    dsimp only
    rw [hcmd]
    rfl

/-- Settles O29: each command under its own conditions. -/
theorem cacheEvents : Obligations.CacheEvents := by
  refine ⟨fun s j e hj hrun hfree => ?_, fun s j hj hgen => ?_, fun s seq layer j e hj hrun hbegun hfree => ?_, fun s seq hwait hstate => ?_⟩
  · dsimp only [exec, execPageWrite]
    rw [hj]
    dsimp only
    rw [if_neg (by simp [hrun]), takeWork_free hfree]
  · dsimp only [exec, execHemWriteComplete]
    rw [hj]
    exact congrArg Host.Outcome.next (if_pos hgen)
  · dsimp only [exec, execCowCopyComplete]
    rw [hj]
    dsimp only
    rw [if_neg (by simp [hrun, hbegun]), takeWork_free hfree]
  · exact if_pos ⟨hwait, hstate⟩

/-- A firmware channel runs the operation that its moving descriptor names. -/
theorem runs_of_moving {s : State} {ch op : Nat} (hlo : 56 ≤ ch) (hhi : ch < 64) (hstop : stopped s = false) (hpaused : (chanOf s ch).paused = false)
    (hmoving : (chanOf s ch).phase = .moving) (hop : dOp (chanOf s ch).bits = op) : runs s ch op = true := by simp [runs, firmwareCh, hlo, hhi, hstop, hpaused, hmoving, hop]

/-- Settles O30: what a channel runs is what its descriptor names, and it touches no channel in retrain. -/
theorem shuttleMoves : Obligations.ShuttleMoves := by
  intro s ch e hlo hhi hstop hpaused hmoving hfree
  have hruns : ∀ {op}, dOp (chanOf s ch).bits = op → runs s ch op = true := fun hop => runs_of_moving hlo hhi hstop hpaused hmoving hop
  refine ⟨fun hop => ?_, fun hop => ?_, fun hop => ?_, fun hop => ?_, fun hop => ?_, fun hop => ?_, fun hop => ?_⟩ <;>
    exact (if_pos (hruns hop)).trans (congrArg Host.Outcome.next (takeWork_free hfree))

end Sys2Proof.Proofs
end

section
/-! The descriptors and registers of a firmware channel (R300 to R312). -/

namespace Sys2Proof.Proofs

open Sys2Proof.Machine Sys2Proof.Laws

section
variable {ch : Nat} (hlo : 56 ≤ ch) (hhi : ch < 64)
include hlo hhi

theorem firmwareCh_of_bounds : firmwareCh ch = true := by simp [firmwareCh, hlo, hhi]

theorem exec_shuttleTriggerFire {s : State} (hrun : stopped s = false) (hgoes : (chanOf s ch).paused = false) (hwaits : (chanOf s ch).phase = .waiting) :
    (trigNow s (chanOf s ch) = .fires → exec (.shuttleTriggerFire ch) s = .next (setChan ch { chanOf s ch with phase := .moving } s)) ∧
    (trigNow s (chanOf s ch) = .fails → exec (.shuttleTriggerFire ch) s = .next (chComplete ch 0x0203 s)) ∧
    (trigNow s (chanOf s ch) = .waits → exec (.shuttleTriggerFire ch) s = .next s) := by
  have hexec : exec (.shuttleTriggerFire ch) s = .next (trigAct ch s) := if_neg (by simp [firmwareCh_of_bounds hlo hhi, hrun, hgoes])
  rw [hexec, trigAct, if_neg (by simp [hwaits])]
  refine ⟨fun h => ?_, fun h => ?_, fun h => ?_⟩ <;> rw [h]

end

/-- A descriptor without a trigger, or with a tape value that has come, moves at once. -/
theorem trigNow_fires {s : State} {x : Channel} (h : dTrig x.bits = 0 ∨ dTrig x.bits = 1 ∧ serialAtLeast 64 s.tape (dTime x.bits) = true) : trigNow s x = .fires := by
  unfold trigNow
  rcases h with h | ⟨h, hpast⟩ <;> split <;> simp_all

/-- Where no carry slot's move waited, the end of a stop resumes nothing more. -/
theorem movesResumed_of_none_wait {s : State} (h : ∀ t ∈ s.steps, ∀ c, t.carry = some c → c.waits = false) : movesResumed s = s := by
  have hnone : s.steps.filter (fun t => (t.carry.map (fun c => c.waits)).getD false) = [] := List.filter_eq_nil_iff.2 fun t ht => by
    cases hc : t.carry with
    | none => simp
    | some c => simp [h t ht c hc]
  rw [movesResumed, hnone]
  rfl

/-! A write of CH_CTRL. -/

theorem RegsOnly.channels {s t : State} (h : RegsOnly s t) : t.channels = s.channels := by rw [h]

theorem getBits_mod (w : Word) (hi lo : Nat) : getBits w hi lo % 2 ^ (hi + 1 - lo) = getBits w hi lo := Nat.mod_eq_of_lt (natBits_lt _ _ _)

theorem ringPlaced_congr {s t : State} (hfuse : t.fuse = s.fuse) (hsplit : rd t (sliceReg 0 0) = rd s (sliceReg 0 0)) (a n : Nat) : ringPlaced t a n = ringPlaced s a n := by
  unfold ringPlaced inScratch inStack capacity scratchMiB rdF
  rw [hfuse, hsplit]

/-- The rings of CH_CTRL as a write of it places them. -/
def ringsWritten (ch : Nat) (value : Word) (s : State) : State := wrF (chCtrl ch) 47 6 (getBits value 47 6) (wrF (chCtrl ch) 50 48 (getBits value 50 48) s)

/-- What becomes of a channel that is enabled: it starts at head 0, and a descriptor that still moves keeps its slot. -/
def restartedChannel (x : Channel) : Channel := { x with head := 0, slot := if x.phase = .moving ∨ x.phase = .moved then some (x.slot.getD x.head) else none }

section
variable {s : State} {ch : Nat} {value : Word} (hs : regsWf s.regs = true)

theorem regsOnly_ringsWritten : RegsOnly s (ringsWritten ch value s) := ((RegsOnly.refl s).wrF _ _ _ _).wrF _ _ _ _

theorem rd_ringsWritten_other {a : Nat} (h : a ≠ chCtrl ch) : rd (ringsWritten ch value s) a = rd s a := (rd_wrF_other _ _ _ _ _ _ h).trans (rd_wrF_other _ _ _ _ _ _ h)

include hs

theorem regsWf_ringsWritten : regsWf (ringsWritten ch value s).regs = true := regsWf_wrF _ _ _ _ _ (regsWf_wrF _ _ _ _ _ hs)

theorem ringsWritten_base : rdF (ringsWritten ch value s) (chCtrl ch) 47 6 = getBits value 47 6 :=
  (rdF_wrF_same _ _ _ _ _ (regsWf_wrF _ _ _ _ _ hs) (by decide) (by decide)).trans (getBits_mod _ _ _)

theorem ringsWritten_size : rdF (ringsWritten ch value s) (chCtrl ch) 50 48 = getBits value 50 48 :=
  (rdF_wrF_other _ _ _ _ _ _ _ (regsWf_wrF _ _ _ _ _ hs) (by decide) (by decide) (by decide)).trans
    ((rdF_wrF_same _ _ _ _ _ hs (by decide) (by decide)).trans (getBits_mod _ _ _))

variable (hoff : chEnabled s ch = false) (hon : getBit value 63 = true) (hgoes : getBit value 62 = false)
  (hring : ringPlaced s (getBits value 47 6 * 64) (64 * 2 ^ (getBits value 50 48 + 1)) = true)
  (hrecords : ringPlaced s (rdF s (chCtrl ch + 0x10) 47 5 * 32) (32 * 2 ^ (getBits value 50 48 + 1)) = true)
include hoff hon hgoes hring hrecords

/-- A write that enables a channel whose rings lie in memory. -/
theorem writeChannel_enables (hch : ch < 64) : writeChannel ch value s =
    wrF (chCtrl ch + 8) 7 0 0 (setChan ch (restartedChannel (chanOf s ch)) (wrB (chCtrl ch) 63 true (ringsWritten ch value s))) := by
  have hplaced : ∀ a n, ringPlaced (ringsWritten ch value s) a n = ringPlaced s a n := ringPlaced_congr (by rw [regsOnly_ringsWritten])
    (rd_ringsWritten_other (by unfold chCtrl sliceReg blockSize; omega))
  have hentries : chEntries (ringsWritten ch value s) ch = 2 ^ (getBits value 50 48 + 1) := by rw [chEntries, ringsWritten_size hs]
  have hgood : (ringPlaced (ringsWritten ch value s) (rdF (ringsWritten ch value s) (chCtrl ch) 47 6 * 64) (64 * chEntries (ringsWritten ch value s) ch) &&
      ringPlaced (ringsWritten ch value s) (rdF (ringsWritten ch value s) (chCtrl ch + 0x10) 47 5 * 32) (32 * chEntries (ringsWritten ch value s) ch)) = true := by
    rw [hplaced, hplaced, hentries, ringsWritten_base hs, hring, rdF, rd_ringsWritten_other (by omega), ← rdF, hrecords]
    rfl
  have hchan : chanOf (wrB (chCtrl ch) 63 true (ringsWritten ch value s)) ch = chanOf s ch := by
    have hchannels : (wrB (chCtrl ch) 63 true (ringsWritten ch value s)).channels = s.channels := (regsOnly_ringsWritten.wrB _ _ _).channels
    rw [chanOf, hchannels, chanOf]
  have hwrite : writeChCtrl ch value s = wrF (chCtrl ch + 8) 7 0 0 (setChan ch (restartedChannel (chanOf s ch)) (wrB (chCtrl ch) 63 true (ringsWritten ch value s))) := by
    rw [← hchan]
    unfold writeChCtrl
    dsimp only
    rw [← ringsWritten, hgood, hon, hoff]
    rfl
  rw [writeChannel, hwrite]
  exact if_neg (by simp [hgoes])

end

/-- A channel enabled with its rings in memory stands at head 0 with TAIL 0. -/
theorem chCtrlEnable_restarts {s : State} {ch : Nat} {value : Word} {x : Channel} (hs : Canonical s) (hx : x = chanOf s ch) (hlo : 56 ≤ ch) (hhi : ch < 64) (hoff : chEnabled s ch = false)
    (hon : getBit value 63 = true) (hgoes : getBit value 62 = false) (hring : ringPlaced s (getBits value 47 6 * 64) (64 * 2 ^ (getBits value 50 48 + 1)) = true)
    (hrecords : ringPlaced s (rdF s (chCtrl ch + 0x10) 47 5 * 32) (32 * 2 ^ (getBits value 50 48 + 1)) = true) : ∃ t, exec (.chCtrlEnable ch value) s = .next t ∧
      chEnabled t ch = true ∧ t.channels = (setChan ch (restartedChannel x) s).channels ∧ chTail t ch = 0 ∧ rdF t (chCtrl ch) 47 6 = getBits value 47 6 ∧ rdF t (chCtrl ch) 50 48 = getBits value 50 48 ∧
      t = { s with regs := t.regs, channels := t.channels } ∧ ∀ a, a ≠ chCtrl ch → a ≠ chCtrl ch + 8 → rd t a = rd s a := by
  subst hx
  have hwf := regsWf_ringsWritten (ch := ch) (value := value) hs.regs
  have hexec : exec (.chCtrlEnable ch value) s = .next (writeChannel ch value s) := if_neg (by simp [firmwareCh_of_bounds hlo hhi])
  rw [writeChannel_enables hs.regs hoff hon hgoes hring hrecords hhi] at hexec
  obtain ⟨u, hu⟩ : ∃ u, u = wrB (chCtrl ch) 63 true (ringsWritten ch value s) := ⟨_, rfl⟩
  have honly : RegsOnly s u := hu ▸ regsOnly_ringsWritten.wrB _ _ _
  have henabled : rdB u (chCtrl ch) 63 = true := hu ▸ rdB_wrB_same _ _ _ _ hwf (by decide)
  have hbase : rdF u (chCtrl ch) 47 6 = getBits value 47 6 := hu ▸ (rdF_wrB_other hwf (by decide) (by decide)).trans (ringsWritten_base hs.regs)
  have hsize : rdF u (chCtrl ch) 50 48 = getBits value 50 48 := hu ▸ (rdF_wrB_other hwf (by decide) (by decide)).trans (ringsWritten_size hs.regs)
  have hother : ∀ a, a ≠ chCtrl ch → rd u a = rd s a := fun a ha => hu ▸ (rd_wrB_other _ _ _ _ _ ha).trans (rd_ringsWritten_other ha)
  have hregs : regsWf u.regs = true := hu ▸ regsWf_wrB _ _ _ _ hwf
  rw [← hu] at hexec
  have hctrl : rd (wrF (chCtrl ch + 8) 7 0 0 (setChan ch (restartedChannel (chanOf s ch)) u)) (chCtrl ch) = rd u (chCtrl ch) := rd_wrF_other _ _ _ _ _ _ (by omega)
  have htail : rdF (wrF (chCtrl ch + 8) 7 0 0 (setChan ch (restartedChannel (chanOf s ch)) u)) (chCtrl ch + 8) 7 0 = 0 :=
    rdF_wrF_same _ _ _ _ (setChan ch (restartedChannel (chanOf s ch)) u) hregs (by decide) (by decide)
  refine ⟨_, hexec, ?_, ?_, ?_, ?_, ?_, ?_, fun a ha ha' => (rd_wrF_other _ _ _ _ _ _ ha').trans (hother a ha)⟩
  · rw [chEnabled, rdB, hctrl]
    exact henabled
  · rw [honly]
    rfl
  · rw [chTail, htail, Nat.zero_mod]
  · rw [rdF, hctrl]
    exact hbase
  · rw [rdF, hctrl]
    exact hsize
  · rw [honly]
    rfl

/-- Settles O32: each command and register write under its own conditions. -/
theorem shuttleControl : Obligations.ShuttleControl := by
  refine ⟨fun s ch hlo hhi hon hidle hhead hrun hgoes hfree => ?_, fun s ch hlo hhi hrun hgoes hwaits => ?_, fun s ch hlo hhi hmoved hfree => ?_, fun s ch addr hch haddr hmap => ?_, fun s ch addr hmap => ?_,
    fun s => rfl, fun s hs hsteps => ?_, fun s ch value hlo hhi => ?_, fun s ch value x hs hx hlo hhi hoff hon hgoes hring hrecords => chCtrlEnable_restarts hs hx hlo hhi hoff hon hgoes hring hrecords,
    fun s ch value hlo hhi hresume => ?_, fun s ch value hs hlo hhi => ?_⟩
  · dsimp only [exec, execShuttleDescHead]
    rw [if_neg (by simp [firmwareCh_of_bounds hlo hhi, hon, hidle, hhead, hrun, hgoes]), takeWork_free hfree]
  · obtain ⟨hfires, hfails, hstays⟩ := exec_shuttleTriggerFire hlo hhi hrun hgoes hwaits
    exact ⟨hfires, hfails, hstays, trigNow_fires⟩
  · dsimp only [exec, execShuttleDescComplete]
    rw [if_pos ⟨firmwareCh_of_bounds hlo hhi, hmoved⟩, takeWork_free hfree]
  · refine if_neg fun h => ?_
    rcases h with h | h | h
    · omega
    · omega
    · simp [hmap] at h
  · exact if_pos (.inr (.inr hmap))
  · have hends : rdB (wrB 0x300000 63 false s) 0x300000 63 = false := rdB_wrB_same _ _ _ _ hs.regs (by decide)
    refine ⟨wrB 0x300000 63 false s, ?_, hends, rfl, fun a ha => rd_wrB_other _ _ _ _ _ ha⟩
    have hkept : (wrB 0x300000 63 false s).steps = s.steps := by rw [(RegsOnly.refl s).wrB 0x300000 63 false]
    exact congrArg Host.Outcome.next (movesResumed_of_none_wait (by rwa [hkept]))
  · exact if_neg (by simp [firmwareCh_of_bounds hlo hhi])
  · refine (if_neg (by simp [firmwareCh_of_bounds hlo hhi])).trans (congrArg Host.Outcome.next ?_)
    exact if_pos hresume
  · exact ⟨_, if_pos (firmwareCh_of_bounds hlo hhi), (rdF_wrF_same _ _ _ _ _ hs.regs (by decide) (by decide)).trans (getBits_mod _ _ _), rfl, fun a ha => rd_wrF_other _ _ _ _ _ _ ha⟩

end Sys2Proof.Proofs
end

section
/-! Lanes, retrains and margin runs of a channel (R40, R271 to R277). -/

namespace Sys2Proof.Proofs

open Sys2Proof.Machine Sys2Proof.Laws

/-! A retrain ordered through MEM_RETRAIN. -/

/-- t is s but for registers and the retrains that are due. -/
def RetrainOnly (s t : State) : Prop := t = { s with regs := t.regs, retrainDue := t.retrainDue }

theorem RetrainOnly.trans {s t u : State} (h : RetrainOnly s t) (k : RetrainOnly t u) : RetrainOnly s u := by
  unfold RetrainOnly at *
  rw [k, h]

theorem RegsOnly.retrains {s t : State} (h : RegsOnly s t) : RetrainOnly s t := by
  unfold RetrainOnly
  rw [h]

/-- A channel joins those that are due. -/
def dueNow (c : Nat) (s : State) : State := { s with retrainDue := insNat s.retrainDue c }

theorem rd_dueNow (c : Nat) (s : State) (a : Nat) : rd (dueNow c s) a = rd s a := rfl

/-- A write of MEM_RETRAIN before its slot is marked: the channel, BUSY, and the channel among those due. -/
def retrainOrdered (c : Nat) (s : State) : State := wrB 0x50018 62 true (dueNow c (wrF 0x50018 8 0 c s))

/-- The slot of the tick is marked and the budget follows it. -/
def slotMarked (s : State) : State := showBudget (wrB 0x100028 1 true s)

section
variable {c : Nat} {s : State}

theorem retrainOnly_ordered : RetrainOnly s (retrainOrdered c s) ∧ (retrainOrdered c s).retrainDue = insNat s.retrainDue c := by
  have hfield := (RegsOnly.refl s).wrF 0x50018 8 0 c
  have hdue : RetrainOnly (wrF 0x50018 8 0 c s) (dueNow c (wrF 0x50018 8 0 c s)) := rfl
  have hbusy := (RegsOnly.refl (dueNow c (wrF 0x50018 8 0 c s))).wrB 0x50018 62 true
  refine ⟨(hfield.retrains.trans hdue).trans hbusy.retrains, ?_⟩
  rw [retrainOrdered, hbusy, dueNow, hfield]

theorem regsOnly_slotMarked : RegsOnly s (slotMarked s) := ((RegsOnly.refl s).wrB _ _ _).wrF _ _ _ _

variable (hs : regsWf s.regs = true)
include hs

theorem regsWf_ordered : regsWf (retrainOrdered c s).regs = true := regsWf_wrB _ _ _ (dueNow c (wrF 0x50018 8 0 c s)) (regsWf_wrF _ _ _ _ _ hs)

theorem ordered_channel : rdF (retrainOrdered c s) 0x50018 8 0 = c % 2 ^ 9 := by
  rw [retrainOrdered, rdF_wrB_other (s := dueNow c (wrF 0x50018 8 0 c s)) (regsWf_wrF _ _ _ _ _ hs) (by decide) (by decide), rdF, rd_dueNow]
  exact rdF_wrF_same _ _ _ _ _ hs (by decide) (by decide)

theorem ordered_busy : rdB (retrainOrdered c s) 0x50018 62 = true :=
  rdB_wrB_same _ _ _ (dueNow c (wrF 0x50018 8 0 c s)) (regsWf_wrF _ _ _ _ _ hs) (by decide)

omit hs in
theorem rd_ordered_other {a : Nat} (h : a ≠ 0x50018) : rd (retrainOrdered c s) a = rd s a := by
  rw [retrainOrdered, rd_wrB_other _ _ _ _ _ h, rd_dueNow, rd_wrF_other _ _ _ _ _ _ h]

omit hs in
theorem rd_slotMarked_other {a : Nat} (h : a ≠ 0x100018) (h' : a ≠ 0x100028) : rd (slotMarked s) a = rd s a := by
  rw [slotMarked, showBudget, rd_wrF_other _ _ _ _ _ _ h, rd_wrB_other _ _ _ _ _ h']

/-- The marked slot counts in the budget shown. -/
theorem slotMarked_budget : rdB (slotMarked s) 0x100028 1 = true ∧ rdF (slotMarked s) 0x100018 31 0 = budgetOf (slotMarked s) true % 2 ^ 32 := by
  have hslot : rdB (wrB 0x100028 1 true s) 0x100028 1 = true := rdB_wrB_same _ _ _ _ hs (by decide)
  have hshown := rdF_showBudget (regsWf_wrB 0x100028 1 true _ hs)
  rw [hslot] at hshown
  exact ⟨by rw [slotMarked, showBudget, rdB_wrF_elsewhere (by decide), hslot], hshown⟩

end

/-- What START in a write of MEM_RETRAIN orders, while no retrain started so runs. -/
theorem exec_memRetrainStart {s : State} {value : Word} (hs : Canonical s) (hstart : getBit value 63 = true) (hch : getBits value 8 0 ≤ 383) (hidle : rdB s 0x50018 62 = false) :
    exec (.memRetrainStart value) s = .next (if s.frozen || s.retrained || rdB s 0x100028 4 then retrainOrdered (getBits value 8 0) s else slotMarked (retrainOrdered (getBits value 8 0) s)) := by
  have hread : rdF (wrF 0x50018 8 0 (getBits value 8 0) s) 0x50018 8 0 = getBits value 8 0 := (rdF_wrF_same _ _ _ _ _ hs.regs (by decide) (by decide)).trans (getBits_mod _ _ _)
  obtain ⟨honly, -⟩ := retrainOnly_ordered (c := getBits value 8 0) (s := s)
  have hfrozen : (retrainOrdered (getBits value 8 0) s).frozen = s.frozen ∧ (retrainOrdered (getBits value 8 0) s).retrained = s.retrained := by
    rw [honly]
    exact ⟨rfl, rfl⟩
  have horder : orderRetrain (getBits value 8 0) (wrF 0x50018 8 0 (getBits value 8 0) s) =
      if (retrainOrdered (getBits value 8 0) s).frozen || (retrainOrdered (getBits value 8 0) s).retrained || rdB (retrainOrdered (getBits value 8 0) s) 0x100028 4
      then retrainOrdered (getBits value 8 0) s else slotMarked (retrainOrdered (getBits value 8 0) s) := rfl
  rw [hfrozen.1, hfrozen.2, rdB, rd_ordered_other (by decide), ← rdB] at horder
  dsimp only [exec, execMemRetrainStart]
  have hwrites : getBits value 8 0 ≤ 383 ∧ (!false) = true := ⟨hch, by decide⟩
  rw [hidle, hstart, if_pos hwrites, hread, horder]
  exact congrArg Host.Outcome.next (if_pos (by decide))

theorem memRetrainStart_orders {s : State} {value : Word} (hs : Canonical s) (hstart : getBit value 63 = true) (hch : getBits value 8 0 ≤ 383) (hidle : rdB s 0x50018 62 = false) :
    ∃ t, exec (.memRetrainStart value) s = .next t ∧ rdF t 0x50018 8 0 = getBits value 8 0 ∧ rdB t 0x50018 62 = true ∧
      t.retrainDue = insNat s.retrainDue (getBits value 8 0) ∧ t = { s with regs := t.regs, retrainDue := t.retrainDue } ∧
      (s.frozen = false → s.retrained = false → rdB s 0x100028 4 = false → rdB t 0x100028 1 = true ∧ rdF t 0x100018 31 0 = budgetOf t true % 2 ^ 32) := by
  have hexec := exec_memRetrainStart hs hstart hch hidle
  obtain ⟨honly, hdue⟩ := retrainOnly_ordered (c := getBits value 8 0) (s := s)
  have hwf := regsWf_ordered (c := getBits value 8 0) hs.regs
  have hchannel := (ordered_channel (c := getBits value 8 0) hs.regs).trans (getBits_mod _ _ _)
  have hbusy := ordered_busy (c := getBits value 8 0) hs.regs
  by_cases hfixed : (s.frozen || s.retrained || rdB s 0x100028 4) = true
  · rw [if_pos hfixed] at hexec
    refine ⟨_, hexec, hchannel, hbusy, hdue, honly, fun hf hr h4 => ?_⟩
    simp [hf, hr, h4] at hfixed
  · rw [if_neg hfixed] at hexec
    have hmark := regsOnly_slotMarked (s := retrainOrdered (getBits value 8 0) s)
    have hsame : rd (slotMarked (retrainOrdered (getBits value 8 0) s)) 0x50018 = rd (retrainOrdered (getBits value 8 0) s) 0x50018 := rd_slotMarked_other (by decide) (by decide)
    refine ⟨_, hexec, ?_, ?_, ?_, honly.trans hmark.retrains, fun _ _ _ => slotMarked_budget hwf⟩
    · rw [rdF, hsame]
      exact hchannel
    · rw [rdB, hsame]
      exact hbusy
    · rw [hmark]
      exact hdue

/-! Margin runs. -/

theorem RegsOnly.failing {s t : State} (h : RegsOnly s t) : t.failing = s.failing := by rw [h]

theorem chMargin_ne_chStatus (c : Nat) : chStatus c ≠ chMargin c := by
  unfold chMargin
  omega

/-- The fields of CH_MARGIN_CTRL as a write gives them. -/
def marginWritten (c : Nat) (value : Word) (s : State) : State := wrF (chMargin c) 61 42 (getBits value 61 42) (wrF (chMargin c) 15 0 (getBits value 15 0) s)

/-- They leave the channel's status, and so its spares. -/
theorem rd_marginWritten_status (c : Nat) (value : Word) (s : State) : rd (marginWritten c value s) (chStatus c) = rd s (chStatus c) :=
  (rd_wrF_other _ _ _ _ _ _ (chMargin_ne_chStatus c)).trans (rd_wrF_other _ _ _ _ _ _ (chMargin_ne_chStatus c))

theorem sparesFree_marginWritten (c : Nat) (value : Word) (s : State) : sparesFree (marginWritten c value s) c = sparesFree s c := by
  have hfailing : (marginWritten c value s).failing = s.failing := (((RegsOnly.refl s).wrF (chMargin c) 15 0 (getBits value 15 0)).wrF (chMargin c) 61 42 (getBits value 61 42)).failing
  unfold sparesFree sparesUsed failingOf rdF
  rw [rd_marginWritten_status, hfailing]

/-- Settles O35: each event under its own conditions. -/
theorem channelEvents : Obligations.ChannelEvents := by
  refine ⟨fun s ch lane lost hch hserves hfailing hspared htrained hfails => ?_, fun s ch hch hdue hserves hgoes => ?_, fun s ch hch hstall => ?_, fun s value hs hstart hch hidle => memRetrainStart_orders hs hstart hch hidle,
    fun s ch beats bad m hm hnone => ?_, fun s ch beats bad m w hm hw => ?_, fun s slice ch value hslice hch hnone hstart => ?_, fun s slice ch value hs hslice hch hnone hstart hlane hdwell hspare hserves => ?_,
    fun s dir toff voff dwell c hserving hprofile hlo hhi hnext => ?_⟩
  · have hfail : laneFails s ch lane lost = true := by
      rw [laneFails, decide_eq_true hch, htrained, hserves, hfailing, hspared]
      simpa using hfails
    refine ⟨fun hspare => ?_, fun hnone => ?_⟩ <;> refine (if_neg (by simp [hfail])).trans ?_
    · exact if_pos hspare
    · exact if_neg (by omega)
  · refine if_neg ?_
    rw [hdue, hserves, hgoes]
    simp [hch]
  · exact if_neg (by simp [hch, hstall])
  · dsimp only [exec, execMarginRunEnd]
    rw [hm]
    dsimp only
    rw [hnone]
  · dsimp only [exec, execMarginRunEnd]
    rw [hm]
    dsimp only
    rw [hw]
  · dsimp only [exec, execChMarginStart]
    rw [if_neg (by omega), if_neg (by simp [hnone])]
    exact if_neg (by simp [hstart])
  · dsimp only [exec, execChMarginStart]
    rw [if_neg (by omega), if_neg (by simp [hnone])]
    refine if_pos ?_
    have hfree := sparesFree_marginWritten (16 * slice + ch) value s
    have hstatus := rd_marginWritten_status (16 * slice + ch) value s
    rw [marginWritten] at hfree hstatus
    rw [hfree, rdB, hstatus, ← rdB]
    simp [hstart, hlane, hdwell, hspare, hserves]
  · have hgo : ¬ (!(serving s) || decide (rdF s 8 60 59 < 2) || decide (dwell = 0) || decide (65535 < dwell)) = true := by
      simp [hserving]
      omega
    dsimp only [exec, execMarginRotation]
    rw [if_neg hgo, hnext]

end Sys2Proof.Proofs
end


section
/-! Received frames and datagrams, retransmission timeouts, released slots, the end of a port-mode change (R315 to R334). -/

namespace Sys2Proof.Proofs

open Sys2Proof.Machine Sys2Proof.Laws

theorem RegsOnly.out {s t : State} (h : RegsOnly s t) : t.out = s.out := by rw [h]

theorem ctrlOf_frameCounters : ∀ p < 8, (ctrlOf (portCfg p + 0x10)).map Prod.fst = some (portCfg p + 0x40) ∧ (ctrlOf (portCfg p + 0x28)).map Prod.fst = some (portCfg p + 0x40) := by
  decide +kernel

/-- A received frame is counted, with the codewords that were corrected in it. -/
def frameCounted (p n : Nat) (s : State) : State := bump (portCfg p + 0x28) n (bump (portCfg p + 0x10) 1 s)

theorem frameCounted_only (p n : Nat) (s : State) : RegsOnly s (frameCounted p n s) := ((RegsOnly.refl s).bump _ _).bump _ _

/-- Counting a frame writes its counters and their control register only. -/
theorem rd_frameCounted {p b : Nat} (hp : p < 8) (h : b ≠ portCfg p + 0x10 ∧ b ≠ portCfg p + 0x28 ∧ b ≠ portCfg p + 0x40) (n : Nat) (s : State) :
    rd (frameCounted p n s) b = rd s b := by
  obtain ⟨hframes, hwords, hctrl⟩ := h
  obtain ⟨hcf, hcw⟩ := ctrlOf_frameCounters p hp
  unfold frameCounted
  rw [rd_bump_other hwords, rd_bump_other hframes]
  · intro c k hc
    rw [hc] at hcf
    exact fun e => hctrl (e.trans (Option.some.inj hcf))
  · intro c k hc
    rw [hc] at hcw
    exact fun e => hctrl (e.trans (Option.some.inj hcw))

theorem rd_frameCounted_portCfg {p : Nat} (hp : p < 8) (n : Nat) (s : State) : rd (frameCounted p n s) (portCfg p) = rd s (portCfg p) :=
  rd_frameCounted hp (by omega) n s

/-- The control register of the Obush MAC of a side is no counter of a port. -/
theorem rd_frameCounted_obCtrl {p : Nat} (hp : p < 8) (n : Nat) (s : State) :
    rd (frameCounted p n s) 0xA00000 = rd s 0xA00000 ∧ rd (frameCounted p n s) 0xB00000 = rd s 0xB00000 := by
  constructor <;> refine rd_frameCounted hp ?_ n s <;> unfold portCfg <;> split <;> omega

theorem rd_frameCounted_side {p : Nat} (hp : p < 8) (back : Bool) (n : Nat) (s : State) :
    rd (frameCounted p n s) (if back then 0xB00000 else 0xA00000) = rd s (if back then 0xB00000 else 0xA00000) := by
  cases back
  · exact (rd_frameCounted_obCtrl hp n s).1
  · exact (rd_frameCounted_obCtrl hp n s).2

theorem vlanOk_frameCounted {p : Nat} (hp : p < 8) (n : Nat) (vid : Option Nat) (s : State) : vlanOk (frameCounted p n s) p vid = vlanOk s p vid := by
  unfold vlanOk rdF
  rw [rd_frameCounted_portCfg hp]

/-- The port of a frame, front 0 to 3 and back 4 to 7. -/
def framePort (f : Frame) : Nat := (if f.back then 4 else 0) + f.port

theorem framePort_lt {f : Frame} (hport : f.port < 4) : framePort f < 8 := by
  unfold framePort
  split <;> omega

/-! What of the traffic that reaches an interface is served, in terms of the state before the frame is counted. -/

section
variable {s : State} {f : Frame} (hport : f.port < 4)

theorem frameServed_solicitation (hk : f.kind = 1) (ht : (ifaceAddrs (frameCounted (framePort f) f.fecCorrected s) (framePort f) f.iface 6).contains f.target = true) :
    frameServed (frameCounted (framePort f) f.fecCorrected s) f = true := by
  unfold frameServed
  rw [hk]
  exact ht

include hport

theorem frameServed_arp (hk : f.kind = 2) (ht : (ifaceAddrs (frameCounted (framePort f) f.fecCorrected s) (framePort f) f.iface 4).contains f.target = true)
    (hv4 : rdB s (if f.back then 0xB00000 else 0xA00000) (if f.back then 62 else 63) = true) :
    frameServed (frameCounted (framePort f) f.fecCorrected s) f = true := by
  unfold frameServed
  rw [hk]
  refine Bool.and_eq_true_iff.mpr ⟨?_, ht⟩
  rw [rdB, rd_frameCounted_side (framePort_lt hport)]
  exact hv4

theorem frameServed_echo6 (hk : f.kind = 3) (hecho : rdB s 0xA00000 62 = true) : frameServed (frameCounted (framePort f) f.fecCorrected s) f = true := by
  unfold frameServed
  rw [hk]
  change getBit (rd (frameCounted _ _ s) 0xA00000) 62 = true
  rw [(rd_frameCounted_obCtrl (framePort_lt hport) _ s).1]
  exact hecho

theorem frameServed_echo4 (hk : f.kind = 7) (hv4 : rdB s (if f.back then 0xB00000 else 0xA00000) (if f.back then 62 else 63) = true) (hecho : rdB s 0xA00000 62 = true) :
    frameServed (frameCounted (framePort f) f.fecCorrected s) f = true := by
  unfold frameServed
  rw [hk]
  refine Bool.and_eq_true_iff.mpr ⟨?_, ?_⟩
  · rw [rdB, rd_frameCounted_side (framePort_lt hport)]
    exact hv4
  · rw [rdB, (rd_frameCounted_obCtrl (framePort_lt hport) _ s).1]
    exact hecho

theorem udpPort_frameCounted (hudp : f.udpPort = rdF s (if f.back then 0xB00000 else 0xA00000) 15 0) :
    f.udpPort = rdF (frameCounted (framePort f) f.fecCorrected s) (if f.back then 0xB00000 else 0xA00000) 15 0 := by
  rw [rdF, rd_frameCounted_side (framePort_lt hport)]
  exact hudp

theorem frameServed_udp6 (hk : f.kind = 5) (hudp : f.udpPort = rdF s (if f.back then 0xB00000 else 0xA00000) 15 0) (hsum : f.checksumOk = true) :
    frameServed (frameCounted (framePort f) f.fecCorrected s) f = true := by
  unfold frameServed
  rw [hk, hsum]
  dsimp only
  rw [decide_eq_true (udpPort_frameCounted hport hudp)]
  rfl

theorem frameServed_udp4 (hk : f.kind = 6) (hv4 : rdB s (if f.back then 0xB00000 else 0xA00000) (if f.back then 62 else 63) = true)
    (hudp : f.udpPort = rdF s (if f.back then 0xB00000 else 0xA00000) 15 0) (hsum : f.checksumOk = true) :
    frameServed (frameCounted (framePort f) f.fecCorrected s) f = true := by
  unfold frameServed
  rw [hk, hsum]
  dsimp only
  rw [decide_eq_true (udpPort_frameCounted hport hudp), rdB, rd_frameCounted_side (framePort_lt hport)]
  exact Bool.and_eq_true_iff.mpr ⟨Bool.and_eq_true_iff.mpr ⟨hv4, rfl⟩, rfl⟩

end

section
variable {s : State} {f : Frame} (hport : f.port < 4) (hiface : f.iface < 8) (hlink : rdB s (portStatus (framePort f)) f.iface = true) (hprof : rdF s 8 63 61 ≠ 7)
include hport hiface hlink hprof

/-- The checks of a frame, in order, at an interface with link. -/
theorem exec_frame {u : State} (hu : u = frameCounted (framePort f) f.fecCorrected s) : exec (.ethernetFrameReceive f) s =
    (if !f.fecOk then .next (bump (portCfg (framePort f) + 0x38) 1 (bump (portCfg (framePort f) + 0x30) 1 u))
     else if !f.fcsOk then .next (bump (portCfg (framePort f) + 0x38) 1 (bump (portCfg (framePort f) + 0x20) 1 u))
     else if 9216 < f.size ∨ !(vlanOk u (framePort f) f.vid) ∨ f.fragment ∨ !(frameServed u f) then .next (bump (portCfg (framePort f) + 0x38) 1 u)
     else if f.kind = 1 ∨ f.kind = 2 ∨ f.kind = 3 ∨ f.kind = 7 then
       .next (emitOut (.link f.kind f.target (wireOf u (framePort f) f.iface (decide (f.kind = 1 ∨ f.kind = 3)) 0 0)) (bump (portCfg (framePort f) + 0x18) 1 u))
     else .next u) := by
  have hcond : ¬ (4 ≤ f.port ∨ 8 ≤ f.iface ∨ (!(rdB s (portStatus (framePort f)) f.iface)) = true ∨ rdF s 8 63 61 = 7) := by
    rw [hlink]
    simp [hprof]
    omega
  subst hu
  exact if_neg hcond

variable (hfec : f.fecOk = true) (hfcs : f.fcsOk = true)
include hfec hfcs

theorem exec_frame_dropped
    (h : 9216 < f.size ∨ vlanOk s (framePort f) f.vid = false ∨ f.fragment = true ∨ frameServed (frameCounted (framePort f) f.fecCorrected s) f = false) :
    exec (.ethernetFrameReceive f) s = .next (bump (portCfg (framePort f) + 0x38) 1 (frameCounted (framePort f) f.fecCorrected s)) := by
  refine (exec_frame hport hiface hlink hprof rfl).trans ((if_neg (by simp [hfec])).trans ((if_neg (by simp [hfcs])).trans (if_pos ?_)))
  rw [vlanOk_frameCounted (framePort_lt hport)]
  simpa using h

variable (hsize : f.size ≤ 9216) (hvlan : vlanOk s (framePort f) f.vid = true) (hfrag : f.fragment = false)
  (hserved : frameServed (frameCounted (framePort f) f.fecCorrected s) f = true)
include hsize hvlan hfrag hserved

theorem exec_frame_answered (hk : f.kind = 1 ∨ f.kind = 2 ∨ f.kind = 3 ∨ f.kind = 7) :
    exec (.ethernetFrameReceive f) s =
      .next (emitOut (.link f.kind f.target (wireOf (frameCounted (framePort f) f.fecCorrected s) (framePort f) f.iface (decide (f.kind = 1 ∨ f.kind = 3)) 0 0))
        (bump (portCfg (framePort f) + 0x18) 1 (frameCounted (framePort f) f.fecCorrected s))) := by
  refine (exec_frame hport hiface hlink hprof rfl).trans ((if_neg (by simp [hfec])).trans ((if_neg (by simp [hfcs])).trans ((if_neg ?_).trans (if_pos hk))))
  rw [vlanOk_frameCounted (framePort_lt hport), hvlan, hfrag, hserved]
  simpa using hsize

theorem exec_frame_passed (hk : f.kind = 5 ∨ f.kind = 6) :
    exec (.ethernetFrameReceive f) s = .next (frameCounted (framePort f) f.fecCorrected s) := by
  refine (exec_frame hport hiface hlink hprof rfl).trans ((if_neg (by simp [hfec])).trans ((if_neg (by simp [hfcs])).trans ((if_neg ?_).trans (if_neg (by omega)))))
  rw [vlanOk_frameCounted (framePort_lt hport), hvlan, hfrag, hserved]
  simpa using hsize

end

/-- Settles O36: the checks of a frame in order; counting a frame changes no register that the checks read. -/
theorem framesReceived : Obligations.FramesReceived := by
  unfold Obligations.FramesReceived
  intro s u f p hport hiface hp hlink hprof hu
  change p = framePort f at hp
  subst hp
  change u = frameCounted (framePort f) f.fecCorrected s at hu
  subst hu
  refine ⟨?_, ?_, ?_, ?_⟩
  · intro hfec
    exact (exec_frame hport hiface hlink hprof rfl).trans (if_pos (by simp [hfec]))
  · intro hfec hfcs
    exact (exec_frame hport hiface hlink hprof rfl).trans ((if_neg (by simp [hfec])).trans (if_pos (by simp [hfcs])))
  · intro hfec hfcs h
    exact exec_frame_dropped hport hiface hlink hprof hfec hfcs h
  · intro hfec hfcs hsize hvlan hfrag
    refine ⟨?_, ?_, ?_⟩
    · intro h
      have hserved : frameServed (frameCounted (framePort f) f.fecCorrected s) f = true := by
        rcases h with ⟨hk, ht⟩ | ⟨hk, ht, hv4⟩ | ⟨hk, hecho⟩ | ⟨hk, hv4, hecho⟩
        · exact frameServed_solicitation hk ht
        · exact frameServed_arp hport hk ht hv4
        · exact frameServed_echo6 hport hk hecho
        · exact frameServed_echo4 hport hk hv4 hecho
      have hk : f.kind = 1 ∨ f.kind = 2 ∨ f.kind = 3 ∨ f.kind = 7 := by
        rcases h with ⟨hk, -⟩ | ⟨hk, -⟩ | ⟨hk, -⟩ | ⟨hk, -⟩ <;> simp [hk]
      refine ⟨_, exec_frame_answered hport hiface hlink hprof hfec hfcs hsize hvlan hfrag hserved hk, ?_, rfl⟩
      exact congrArg (_ :: ·) ((frameCounted_only _ _ s).bump _ _).out
    · intro hk hudp hsum
      exact exec_frame_passed hport hiface hlink hprof hfec hfcs hsize hvlan hfrag (frameServed_udp6 hport hk hudp hsum) (.inl hk)
    · intro hk hv4 hudp hsum
      exact exec_frame_passed hport hiface hlink hprof hfec hfcs hsize hvlan hfrag (frameServed_udp4 hport hk hv4 hudp hsum) (.inr hk)

/-! A datagram, once it is charged and counted. -/

section
variable {s u : State} {d : Datagram} {a : Arrival} {e : SramError} (hawake : asleep s = false)
  (hu : u = bump 0xA00018 1 (charge d.mailbox 0 (frameBits (!(mappedV4 a.peer.addr)) (decide (rdF s (portCfg a.peer.port) 43 32 ≠ 0)) a.udpLength) s))
include hawake hu

theorem exec_datagram_badHeader (hbad : obHeaderBad d a u = true) : exec (.obushDatagramReceive d a e) s = .next (bump 0xA00028 1 u) := by
  subst hu
  exact (if_neg (by simp [hawake])).trans (if_pos hbad)

variable {x : Session} (hgood : obHeaderBad d a u = false) (hx : x = sessionOf u (sessionKey d.mailbox (d.flags % 16)))
include hgood hx

theorem exec_datagram_badTag (htag : d.tag ≠ Config.gcmTag x.key
      (obushNonce x.salt (if flagAck d.flags then 2 else 0) (d.flags % 16) d.mailbox (if flagAck d.flags then d.correlation else d.msn)) (headerBytes d) d.payload) :
    exec (.obushDatagramReceive d a e) s = .next (bump 0xA00030 1 u) := by
  subst hx hu
  exact (if_neg (by simp [hawake])).trans ((if_neg (by rw [hgood]; exact Bool.false_ne_true)).trans (if_pos htag))

/-- A datagram of good header and tag is an acknowledgement, the next message, an old one or one beyond the next. -/
theorem exec_datagram_authentic (htag : d.tag = Config.gcmTag x.key
      (obushNonce x.salt (if flagAck d.flags then 2 else 0) (d.flags % 16) d.mailbox (if flagAck d.flags then d.correlation else d.msn)) (headerBytes d) d.payload) :
    exec (.obushDatagramReceive d a e) s =
      (if flagAck d.flags then .next (takeAck d u)
       else if d.msn = x.rxNext then .next (admitMessage d a e u)
       else if serialLater 32 x.rxNext d.msn then .next (oweAck d.mailbox (d.flags % 16) (bump 0xA00038 1 u))
       else .next (oweAck d.mailbox (d.flags % 16) (bump 0xA00040 1 u))) := by
  subst hx hu
  exact (if_neg (by simp [hawake])).trans ((if_neg (by rw [hgood]; exact Bool.false_ne_true)).trans (if_neg (not_not.mpr htag)))

end

/-- Settles O37: the checks of a datagram in order. -/
theorem datagramsReceived : Obligations.DatagramsReceived := by
  unfold Obligations.DatagramsReceived
  refine ⟨?_, ?_, ?_⟩
  · intro s d a e hasleep
    exact if_pos hasleep
  · intro s d a e u hawake hu hbad
    exact exec_datagram_badHeader hawake hu hbad
  · intro s d a e x u hawake hu hgood hx
    refine ⟨exec_datagram_badTag hawake hu hgood hx, fun htag => ?_⟩
    rw [exec_datagram_authentic hawake hu hgood hx htag]
    refine ⟨?_, ?_, ?_, ?_⟩
    · intro hack
      exact if_pos hack
    · intro hack hnext
      exact (if_neg (by simp [hack])).trans (if_pos hnext)
    · intro hack hne hold
      exact (if_neg (by simp [hack])).trans ((if_neg hne).trans (if_pos hold))
    · intro hack hne hlate
      exact (if_neg (by simp [hack])).trans ((if_neg hne).trans (if_neg (by simp [hlate])))

theorem writeFields_only (a : Nat) (w : Word) (s : State) : RegsOnly s (writeFields a w s) := by
  cases h : regAt a with
  | none =>
    rw [writeFields_reserved h]
    exact .refl s
  | some d => exact (leavesRest_writeFields h).frame

theorem slotKind_writeFields (a : Nat) (w : Word) (s : State) (m i : Nat) : slotKind (writeFields a w s) m i = slotKind s m i := by
  unfold slotKind
  rw [writeFields_only a w s]

theorem boxTurn_writeFields (a : Nat) (w : Word) (s : State) : (writeFields a w s).boxTurn = s.boxTurn := by rw [writeFields_only a w s]

/-- Settles O38: each event of the transport in the case that its conditions name. -/
theorem transportEvents : Obligations.TransportEvents := by
  unfold Obligations.TransportEvents
  refine ⟨?_, ?_, ?_, ?_⟩
  · intro s m k u x hlive hunacked hu hx
    subst hu hx
    have hopen : ¬ ((!(sessionOf s (sessionKey m k)).live || (sessionOf s (sessionKey m k)).unacked.isEmpty) = true) := by
      simp [hlive, List.isEmpty_iff, hunacked]
    exact ⟨fun hbelow => (if_neg hopen).trans (if_neg (by omega)), fun hlast => (if_neg hopen).trans (if_pos hlast)⟩
  · intro s m value hm hrelease hheld
    dsimp only [exec, execMboxRelease]
    rw [if_neg (by omega), hrelease, slotKind_writeFields, decide_eq_true hheld, boxTurn_writeFields]
    rfl
  · intro s m value hm hkeep
    dsimp only [exec, execMboxRelease]
    rw [if_neg (by omega), hkeep]
    rfl
  · intro s back port hport hpending
    refine if_neg ?_
    rw [hpending]
    simpa using hport

end Sys2Proof.Proofs
end


section
/-! Sleep, thermal samples, the trip, gating, droop, and the watchdog (R414, R416, R421 to R432). -/

namespace Sys2Proof.Proofs

open Sys2Proof.Machine Sys2Proof.Laws

/-! Wake frames. -/

section
variable {s : State} (f : MacFrame) (hasleep : asleep s = true)
include hasleep

theorem thState_of_asleep : thState s = 2 ∨ thState s = 3 := by
  simpa [asleep] using hasleep

theorem exec_wakeFrame_asleep (hhold : acting s 4 = []) :
    exec (.wakeFrame f) s = .next (if wakes f s then bump 0xC00028 1 (wake (wr 0xC00018 (BitVec.ofNat 64 (wakeCounter f)) s)) else bump 0xC00030 1 s) := by
  have hstate := thState_of_asleep hasleep
  refine (if_neg (by omega)).trans ((if_pos hasleep).trans (congrArg Host.Outcome.next ?_))
  refine (if_neg (by simp [hhold])).trans ?_
  rw [hasleep, Bool.true_and]

end

theorem wakes_of_authentic {f : MacFrame} {s : State} (htype : f.etherType = 0x88B5) (hdest : f.dest = s.fuse.macBase ∨ f.dest = 2 ^ 48 - 1) (hlen : 48 ≤ f.data.length)
    (hmagic : leAt f.data 0 4 = 0x454B4157) (hid : leAt f.data 4 8 = s.fuse.deviceId.toNat) (hlast : (rd s 0xC00018).toNat < leAt f.data 12 8)
    (hkey : (∃ key, s.thimble.wakeKey = some key ∧ leAt f.data 20 1 = 1 ∧ slice f.data 32 16 = kdf "TUITH-WAKE" (key ++ slice f.data 0 32) 16) ∨
      s.thimble.wakeKey = none ∧ leAt f.data 20 1 = 0) : wakes f s = true := by
  unfold wakes isWakeFrame wakeCounter
  rcases hkey with ⟨key, hk, hkind, htag⟩ | ⟨hk, hkind⟩
  · rw [hk]
    simp only [htype, hlen, hmagic, hid, hlast, hkind, htag, wakeTag, decide_true, Bool.and_true, Bool.true_and]
    simpa using hdest
  · rw [hk]
    simp only [htype, hlen, hmagic, hid, hlast, hkind, decide_true, Bool.and_true, Bool.true_and]
    simpa using hdest

theorem wakes_false {f : MacFrame} {s : State}
    (h : f.etherType ≠ 0x88B5 ∨ leAt f.data 4 8 ≠ s.fuse.deviceId.toNat ∨ leAt f.data 12 8 ≤ (rd s 0xC00018).toNat ∨ leAt f.data 20 1 = 0 ∧ s.thimble.wakeKey ≠ none ∨
      leAt f.data 20 1 ≠ 0 ∧ s.thimble.wakeKey = none) : wakes f s = false := by
  unfold wakes isWakeFrame wakeCounter
  rcases h with h | h | h | ⟨hkind, hk⟩ | ⟨hkind, hk⟩
  · simp [h]
  · simp [h]
  · simp [Nat.not_lt.mpr h]
  · obtain ⟨key, hsome⟩ := Option.ne_none_iff_exists'.mp hk
    rw [hsome]
    simp [hkind]
  · rw [hk]
    simp [hkind]

/-! Power and droop move registers and the power state only. -/

/-- t is s but for registers and the state of the power monitor. -/
def PowerOnly (s t : State) : Prop := t = { s with regs := t.regs, power := t.power }

theorem PowerOnly.trans {s t u : State} (h : PowerOnly s t) (k : PowerOnly t u) : PowerOnly s u := by
  unfold PowerOnly at *
  rw [k, h]

theorem RegsOnly.powers {s t : State} (h : RegsOnly s t) : PowerOnly s t := by
  unfold PowerOnly
  rw [h]

theorem RegsOnly.power {s t : State} (h : RegsOnly s t) : t.power = s.power := by rw [h]

/-- The power monitor's state, nothing else. -/
def withPower (s : State) (p : Power) : State := { s with power := p }

theorem withPower_only (s : State) (p : Power) : PowerOnly s (withPower s p) := rfl

theorem rd_withPower (s : State) (p : Power) (a : Nat) : rd (withPower s p) a = rd s a := rfl

theorem regs_withPower (s : State) (p : Power) : (withPower s p).regs = s.regs := rfl

theorem ctrlOf_power : ctrlOf 0x800030 = some (0x800058, 0) ∧ ctrlOf 0x800038 = some (0x800058, 1) ∧ ctrlOf 0x800040 = some (0x800058, 2) ∧ ctrlOf 0x800048 = some (0x800058, 3) := by
  decide +kernel

/-- A counter of the power manager leaves every register but itself and their control register. -/
theorem rd_bump_power {a b : Nat} (n : Nat) (s : State) (ha : a = 0x800030 ∨ a = 0x800038 ∨ a = 0x800040 ∨ a = 0x800048) (hne : b ≠ a) (hctrl : b ≠ 0x800058) :
    rd (bump a n s) b = rd s b := by
  obtain ⟨h30, h38, h40, h48⟩ := ctrlOf_power
  refine rd_bump_other hne fun c k hc => ?_
  have hc' : c = 0x800058 := by
    rcases ha with rfl | rfl | rfl | rfl
    · exact (congrArg Prod.fst (Option.some.inj (h30.symm.trans hc))).symm
    · exact (congrArg Prod.fst (Option.some.inj (h38.symm.trans hc))).symm
    · exact (congrArg Prod.fst (Option.some.inj (h40.symm.trans hc))).symm
    · exact (congrArg Prod.fst (Option.some.inj (h48.symm.trans hc))).symm
  exact hc' ▸ hctrl

/-- The gated clocks of a span are counted, and the span starts anew. -/
def settleGated (s : State) : State :=
  if rdB s 0x800018 63 then bump 0x800048 (gatedClocks s (s.tape - s.power.gateSince)) (withPower s { s.power with gateSince := s.tape }) else s

/-- The lengthened clocks of a span are counted, and the span starts anew. -/
def settleDroop (s : State) : State :=
  if s.power.droop then
    bump 0x800038 (clocksRun s (s.tape - s.power.droopSince))
      (withPower s { s.power with droopSince := s.tape, droopClk := s.power.droopClk + clocksRun s (s.tape - s.power.droopSince) })
  else s

theorem settleClocks_eq (s : State) : settleClocks s = settleDroop (settleGated s) := rfl

theorem settleGated_only (s : State) : PowerOnly s (settleGated s) := by
  unfold settleGated
  split
  · exact (withPower_only s _).trans ((RegsOnly.refl _).bump _ _).powers
  · rfl

theorem settleDroop_only (s : State) : PowerOnly s (settleDroop s) := by
  unfold settleDroop
  split
  · exact (withPower_only s _).trans ((RegsOnly.refl _).bump _ _).powers
  · rfl

theorem settleClocks_only (s : State) : PowerOnly s (settleClocks s) := (settleGated_only s).trans (settleDroop_only _)

/-- What is counted up to now leaves the number of droops. -/
theorem rd_settleClocks_droops (s : State) : rd (settleClocks s) 0x800030 = rd s 0x800030 := by
  have hgated : rd (settleGated s) 0x800030 = rd s 0x800030 := by
    unfold settleGated
    split
    · rw [rd_bump_power _ _ (.inr (.inr (.inr rfl))) (by decide) (by decide), rd_withPower]
    · rfl
  have hdroop (u : State) : rd (settleDroop u) 0x800030 = rd u 0x800030 := by
    unfold settleDroop
    split
    · rw [rd_bump_power _ _ (.inr (.inl rfl)) (by decide) (by decide), rd_withPower]
    · rfl
  exact (hdroop _).trans hgated

theorem regsWf_settleClocks {s : State} (hs : regsWf s.regs = true) : regsWf (settleClocks s).regs = true := by
  have hgated : regsWf (settleGated s).regs = true := by
    unfold settleGated
    split
    · exact regsWf_bump hs
    · exact hs
  have hdroop (u : State) (hu : regsWf u.regs = true) : regsWf (settleDroop u).regs = true := by
    unfold settleDroop
    split
    · exact regsWf_bump hu
    · exact hu
  exact hdroop _ hgated

/-- The droop begins, unless it lasts. -/
def droopBegun (s : State) : State := if s.power.droop then s else withPower s { s.power with droop := true, droopSince := s.tape, droopClk := 0 }

theorem droopBegun_droop (s : State) : (droopBegun s).power.droop = true := by
  unfold droopBegun
  split
  · assumption
  · rfl

theorem droopBegun_only (s : State) : PowerOnly s (droopBegun s) := by
  unfold droopBegun
  split <;> rfl

theorem regs_droopBegun (s : State) : (droopBegun s).regs = s.regs := by
  unfold droopBegun
  split <;> rfl

theorem exec_droopTrip (s : State) : exec .droopTrip s = .next (bump 0x800030 1 (droopBegun (settleClocks s))) := rfl

theorem exec_droopEnd {s : State} (h : s.power.droop = true) : exec .droopEnd s =
    .next (bump 0x800038 (64 - (settleClocks s).power.droopClk) (withPower (settleClocks s) { (settleClocks s).power with droop := false })) :=
  if_neg (by rw [h]; decide)

/-- The power state after a sample: how many in a row lay above P. -/
def sampled (watts : Nat) (s : State) : State := withPower s { s.power with above := if rdF s 0x800000 10 0 < watts then s.power.above + 1 else 0 }

theorem rd_sampled (watts : Nat) (s : State) (a : Nat) : rd (sampled watts s) a = rd s a := rfl

/-- Issue is gated from now on. -/
def gated (s : State) : State := bump 0x800040 1 (wrB 0x800018 63 true (withPower s { s.power with gateSince := s.tape }))

theorem exec_powerMonitorSample (watts : Nat) (s : State) : exec (.powerMonitorSample watts) s =
    (if (1400 < watts ∨ 5000 ≤ (sampled watts s).power.above) ∧ !(rdB s 0x800018 63) then .next (gated (sampled watts s)) else .next (sampled watts s)) := rfl

theorem gated_only (s : State) : PowerOnly s (gated s) := (withPower_only s _).trans (((RegsOnly.refl _).wrB _ _ _).bump _ _).powers

theorem rdB_gated {s : State} (hs : regsWf s.regs = true) : rdB (gated s) 0x800018 63 = true := by
  unfold gated rdB
  rw [rd_bump_power _ _ (.inr (.inr (.inl rfl))) (by decide) (by decide)]
  exact rdB_wrB_same _ _ _ _ hs (by decide)

/-- A gating is counted. -/
theorem rd_gated {s : State} (hs : regsWf s.regs = true) : (rd (gated s) 0x800040).toNat = min ((rd s 0x800040).toNat + 1) (2 ^ 64 - 1) := by
  have hwf : regsWf (wrB 0x800018 63 true (withPower s { s.power with gateSince := s.tape })).regs = true := regsWf_wrB _ _ _ _ hs
  unfold gated
  rw [rd_bump_same hwf, rd_wrB_other _ _ _ _ _ (by decide), rd_withPower]

/-- The timeout that a write of TH_WDOG leaves. -/
def wdogWritten (value : Word) (s : State) : State := if 10 ≤ getBits value 15 0 ∧ getBits value 15 0 ≤ 1000 then wrF 0xC00008 15 0 (getBits value 15 0) s else s

theorem wdogWritten_only (value : Word) (s : State) : RegsOnly s (wdogWritten value s) := by
  unfold wdogWritten
  split
  · exact (RegsOnly.refl s).wrF _ _ _ _
  · exact .refl s

theorem exec_thWdogPet (value : Word) (s : State) : exec (.thWdogPet value) s =
    .next (if getBit value 63 && (wdogWritten value s).thimble.wdogAt.isSome then reloadWdog (wdogWritten value s) else wdogWritten value s) := rfl

/-- A watchdog that is reloaded runs for its timeout from now on. -/
theorem reloadWdog_at (s : State) : (reloadWdog s).thimble.wdogAt = some (s.tape + wdogNs (reloadWdog s)) := rfl

theorem RegsOnly.tape_thimble {s t : State} (h : RegsOnly s t) : t.tape = s.tape ∧ t.thimble = s.thimble := by
  rw [h]
  exact ⟨rfl, rfl⟩

/-- Settles O39: each event in the case that its conditions name; the monitor and the droop move registers and the power state alone. -/
theorem powerEvents : Obligations.PowerEvents := by
  unfold Obligations.PowerEvents
  refine ⟨?_, ?_, ?_, ?_, ?_, ?_, ?_, ?_, ?_, ?_, ?_⟩
  · intro s f hentering
    exact if_pos hentering
  · intro s f hasleep hhold htype hdest hlen hmagic hid hlast hkey
    rw [exec_wakeFrame_asleep f hasleep hhold, wakes_of_authentic htype hdest hlen hmagic hid hlast hkey]
    rfl
  · intro s f hasleep hhold hbad
    rw [exec_wakeFrame_asleep f hasleep hhold, wakes_false hbad]
    rfl
  · intro s hentering hdone
    refine if_neg ?_
    rintro (h | h)
    · exact h hentering
    · obtain ⟨t, ht, hphase⟩ := List.any_eq_true.mp h
      have := List.all_eq_true.mp hdone t ht
      simp_all
  · intro s readings hreset hclock
    exact if_neg (by simp [hreset, hclock])
  · intro s die hreset hdie
    exact ⟨trip s, if_neg (by simp [hreset]; omega), rfl, rfl, rfl⟩
  · intro s watts hcanon hopen hover
    obtain ⟨-, hregs, -⟩ := hcanon
    have hcond : (1400 < watts ∨ 5000 ≤ (sampled watts s).power.above) ∧ (!(rdB s 0x800018 63)) = true := by
      refine ⟨hover.imp_right fun ⟨habove, hrow⟩ => ?_, by rw [hopen]; rfl⟩
      change 5000 ≤ ite _ _ _
      rw [if_pos habove]
      omega
    refine ⟨gated (sampled watts s), (exec_powerMonitorSample watts s).trans (if_pos hcond), rdB_gated hregs, ?_, (withPower_only s _).trans (gated_only _)⟩
    rw [rd_gated (s := sampled watts s) hregs, rd_sampled]
  · intro s watts hlow hP
    have habove : sampled watts s = withPower s { s.power with above := 0 } := by
      unfold sampled
      rw [if_neg (by omega)]
    rw [exec_powerMonitorSample, habove]
    exact if_neg fun h => h.1.elim (by omega) (fun h' => absurd (show 5000 ≤ 0 from h') (by decide))
  · intro s hcanon
    obtain ⟨-, hregs, -⟩ := hcanon
    have honly : RegsOnly (droopBegun (settleClocks s)) (bump 0x800030 1 (droopBegun (settleClocks s))) := (RegsOnly.refl _).bump _ _
    refine ⟨_, exec_droopTrip s, ?_, ?_, ?_⟩
    · rw [honly.power, droopBegun_droop]
    · rw [rd_bump_same (by rw [regs_droopBegun]; exact regsWf_settleClocks hregs), rd_of_regs (regs_droopBegun _), rd_settleClocks_droops]
    · exact (settleClocks_only s).trans ((droopBegun_only _).trans honly.powers)
  · intro s hdroop
    have honly : RegsOnly (withPower (settleClocks s) { (settleClocks s).power with droop := false }) _ := (RegsOnly.refl _).bump 0x800038 (64 - (settleClocks s).power.droopClk)
    refine ⟨_, exec_droopEnd hdroop, ?_, ?_⟩
    · rw [honly.power]
      rfl
    · exact (settleClocks_only s).trans ((withPower_only _ _).trans honly.powers)
  · intro s value hcanon hruns hpet
    obtain ⟨-, hregs, -⟩ := hcanon
    obtain ⟨htape, hthimble⟩ := (wdogWritten_only value s).tape_thimble
    refine ⟨reloadWdog (wdogWritten value s), ?_, ?_, ?_, ?_⟩
    · rw [exec_thWdogPet, hpet, hthimble, Option.isSome_iff_ne_none.mpr hruns]
      rfl
    · rw [reloadWdog_at, htape]
    · rw [reloadWdog_frame, wdogWritten_only value s]
    · intro hlow hhigh
      rw [rdF, rd_reloadWdog, wdogWritten, if_pos ⟨hlow, hhigh⟩]
      exact (rdF_wrF_same _ _ _ _ _ hregs (by decide) (by decide)).trans (getBits_mod value 15 0)

end Sys2Proof.Proofs
end


section
/-! Monitor samples, writes of MON_CFG and the end of a quarantine pause (R440 to R447). -/

namespace Sys2Proof.Proofs

open Sys2Proof.Machine Sys2Proof.Laws

/-! A field that takes every value takes what is written. -/

theorem rdF_writeFields_taken {a : Nat} {d : RegDesc} {v : Word} {s : State} (hd : regAt a = some d) (hs : regsWf s.regs = true) {f : Field} (hf : f ∈ d.fields)
    (hacc : f.acc = .rw) (hany : f.rule = .any) : rdF (writeFields a v s) a f.hi f.lo = getBits v f.hi f.lo :=
  (fieldWritten_writeFields hd hs hf).taken hacc hany

theorem rdB_writeFields_taken {a : Nat} {d : RegDesc} {v : Word} {s : State} (hd : regAt a = some d) (hs : regsWf s.regs = true) {f : Field} (hf : f ∈ d.fields)
    (hacc : f.acc = .rw) (hany : f.rule = .any) (hbit : f.hi = f.lo) : rdB (writeFields a v s) a f.lo = getBit v f.lo := by
  have h := rdF_writeFields_taken (v := v) hd hs hf hacc hany
  rw [hbit] at h
  exact congrArg (· == 1) h

/-! Registers set back to their reset values. -/

section
variable (f : Nat → Nat) (l : List Nat)

/-- The registers f names take their reset values. -/
def resetAll (s : State) : State := l.foldl (fun s k => wr (f k) (regReset (f k)) s) s

theorem resetAll_only (s : State) : RegsOnly s (resetAll f l s) := by
  have go (t : State) (h : RegsOnly s t) : RegsOnly s (resetAll f l t) := by
    induction l generalizing t with
    | nil => exact h
    | cons k l ih => exact ih _ (h.wr _ _)
  exact go s (.refl s)

theorem rd_resetAll_other {b : Nat} (hb : ∀ k ∈ l, b ≠ f k) (s : State) : rd (resetAll f l s) b = rd s b := by
  induction l generalizing s with
  | nil => rfl
  | cons k l ih => exact (ih (fun j hj => hb j (by simp [hj])) _).trans (rd_wr_other _ _ _ _ (hb k (by simp)))

theorem rd_resetAll {k : Nat} (hk : k ∈ l) {s : State} (hs : regsWf s.regs = true) : rd (resetAll f l s) (f k) = regReset (f k) := by
  induction l generalizing s k with
  | nil => cases hk
  | cons j l ih =>
    by_cases hagain : ∃ i ∈ l, f i = f k
    · obtain ⟨i, hi, hik⟩ := hagain
      rw [← hik]
      exact ih hi (regsWf_wr _ _ _ hs)
    · have hlast : ∀ i ∈ l, f k ≠ f i := fun i hi h => hagain ⟨i, hi, h.symm⟩
      obtain rfl : k = j := (List.mem_cons.mp hk).resolve_right fun h => hlast k h rfl
      exact (rd_resetAll_other f l hlast _).trans (rd_wr_same _ _ _ hs)

end

/-! A write of MON_CFG. -/

theorem regAt_monCfg : ∀ m < 32, regAt (monCfg m) = some monCfgArray := by decide +kernel

theorem regReset_monitor : ∀ m < 32, regReset (monCfg m + 0x18) = 0 ∧ regReset (monCfg m + 0x30) = 0 ∧ regReset (monCfg m + 0x38) = 0 := by decide +kernel

/-- The registers of a monitor's capture. -/
def captureReg (m k : Nat) : Nat := monCfg m + 0x18 + 8 * k

theorem clearCapture_eq (m : Nat) (s : State) : clearCapture m s = setMon m MonExtra.none (resetAll (captureReg m) (List.range 21) s) := rfl

theorem rd_setMon (m : Nat) (x : MonExtra) (s : State) (a : Nat) : rd (setMon m x s) a = rd s a := rfl

theorem regs_setMon (m : Nat) (x : MonExtra) (s : State) : (setMon m x s).regs = s.regs := rfl

theorem rd_clearCapture_monCfg (m : Nat) (s : State) : rd (clearCapture m s) (monCfg m) = rd s (monCfg m) := by
  rw [clearCapture_eq, rd_setMon]
  refine rd_resetAll_other _ _ (fun k _ => ?_) s
  unfold captureReg
  omega

theorem rd_clearCapture {m k : Nat} (hk : k < 21) {s : State} (hs : regsWf s.regs = true) : rd (clearCapture m s) (captureReg m k) = regReset (captureReg m k) := by
  rw [clearCapture_eq, rd_setMon]
  exact rd_resetAll _ _ (List.mem_range.mpr hk) hs

/-- t is s but for registers, the captures of the monitors and the free values drawn. -/
def MonitorOnly (s t : State) : Prop := t = { s with regs := t.regs, monitors := t.monitors, free := t.free }

section
variable {s t u : State}

theorem MonitorOnly.refl (s : State) : MonitorOnly s s := rfl

theorem MonitorOnly.trans (h : MonitorOnly s t) (k : MonitorOnly t u) : MonitorOnly s u := by
  unfold MonitorOnly at *
  rw [k, h]

theorem RegsOnly.monitors (h : RegsOnly s t) : MonitorOnly s t := by
  unfold MonitorOnly
  rw [h]

end

theorem clearCapture_frame (m : Nat) (s : State) : clearCapture m s = { s with regs := (clearCapture m s).regs, monitors := (clearCapture m s).monitors } := by
  rw [clearCapture_eq, resetAll_only (captureReg m) (List.range 21) s]
  rfl

theorem monCfgWritten_frame (m : Nat) (w : Word) (s : State) : clearCapture m (writeFields (monCfg m) w s) =
    { s with regs := (clearCapture m (writeFields (monCfg m) w s)).regs, monitors := (clearCapture m (writeFields (monCfg m) w s)).monitors } := by
  rw [clearCapture_frame, writeFields_only (monCfg m) w s]

/-! A sample that enters the capture. -/

theorem RegsOnly.wrB_if {s t : State} {c : Prop} [Decidable c] (a i : Nat) (b : Bool) (h : RegsOnly s t) : RegsOnly s (if c then Machine.wrB a i b t else t) := by
  split
  · exact h.wrB _ _ _
  · exact h

theorem rd_wrB_if {c : Prop} [Decidable c] {a b : Nat} (h : b ≠ a) (i : Nat) (x : Bool) (s : State) : rd (if c then wrB a i x s else s) b = rd s b := by
  split
  · exact rd_wrB_other _ _ _ _ _ h
  · rfl

theorem regsWf_wrB_if {c : Prop} [Decidable c] (a i : Nat) (x : Bool) {s : State} (hs : regsWf s.regs = true) : regsWf (if c then wrB a i x s else s).regs = true := by
  split
  · exact regsWf_wrB _ _ _ _ hs
  · exact hs

/-- The samples of a capture and their flag. -/
def samplesCounted (m : Nat) (s : State) : State :=
  let n := min max64 ((rd s (monCfg m + 0x30)).toNat + 1)
  if n = max64 then wrB (monCfg m + 0x18) 1 true (wr (monCfg m + 0x30) (BitVec.ofNat 64 n) s) else wr (monCfg m + 0x30) (BitVec.ofNat 64 n) s

/-- The sum of a capture after a sample v. -/
def sumWith (m : Nat) (v : Int) (s : State) : Int := max (-(2 ^ 63 - 1)) (min (2 ^ 63 - 1) (toSigned 64 (rd s (monCfg m + 0x38)).toNat + v))

/-- The sum of a capture and its flag. -/
def sumAdded (m : Nat) (v : Int) (s : State) : State :=
  if sumWith m v s = 2 ^ 63 - 1 ∨ sumWith m v s = -(2 ^ 63 - 1) then wrB (monCfg m + 0x18) 2 true (wr (monCfg m + 0x38) (BitVec.ofInt 64 (sumWith m v s)) s)
  else wr (monCfg m + 0x38) (BitVec.ofInt 64 (sumWith m v s)) s

theorem addSample_eq (m : Nat) (v : Int) (s : State) : addSample m v s = sumAdded m v (samplesCounted m s) := rfl

section
variable (m : Nat) (v : Int) (s : State)

theorem addSample_only : RegsOnly s (addSample m v s) :=
  .trans (.wrB_if _ _ _ ((RegsOnly.refl s).wr _ _)) (.wrB_if _ _ _ ((RegsOnly.refl _).wr _ _))

theorem rd_samplesCounted_other {b : Nat} (h : b ≠ monCfg m + 0x30 ∧ b ≠ monCfg m + 0x18) : rd (samplesCounted m s) b = rd s b :=
  (rd_wrB_if h.2 _ _ _).trans (rd_wr_other _ _ _ _ h.1)

theorem rd_sumAdded_other {b : Nat} (h : b ≠ monCfg m + 0x38 ∧ b ≠ monCfg m + 0x18) : rd (sumAdded m v s) b = rd s b :=
  (rd_wrB_if h.2 _ _ _).trans (rd_wr_other _ _ _ _ h.1)

theorem rd_addSample_other {b : Nat} (h : b ≠ monCfg m + 0x30 ∧ b ≠ monCfg m + 0x38 ∧ b ≠ monCfg m + 0x18) : rd (addSample m v s) b = rd s b :=
  (rd_sumAdded_other m v _ h.2).trans (rd_samplesCounted_other m s ⟨h.1, h.2.2⟩)

variable {s} (hs : regsWf s.regs = true)
include hs

theorem rd_addSample_samples : (rd (addSample m v s) (monCfg m + 0x30)).toNat = min (2 ^ 64 - 1) ((rd s (monCfg m + 0x30)).toNat + 1) := by
  rw [addSample_eq, rd_sumAdded_other m v _ (by omega), samplesCounted]
  rw [rd_wrB_if (by omega), rd_wr_same _ _ _ hs, BitVec.toNat_ofNat]
  exact Nat.mod_eq_of_lt (by unfold max64; omega)

theorem rd_addSample_sum : rd (addSample m v s) (monCfg m + 0x38) = BitVec.ofInt 64 (sumWith m v s) := by
  have hs' : regsWf (samplesCounted m s).regs = true := regsWf_wrB_if _ _ _ (regsWf_wr _ _ _ hs)
  have hsum : sumWith m v (samplesCounted m s) = sumWith m v s := by
    unfold sumWith
    rw [rd_samplesCounted_other m s (by omega)]
  rw [addSample_eq, sumAdded, rd_wrB_if (by omega), rd_wr_same _ _ _ hs', hsum]

end

theorem countBin_only (m b : Nat) (s : State) : RegsOnly s (countBin m b s) := .wrB_if _ _ _ ((RegsOnly.refl s).wrF _ _ _ _)

/-- Counting in a bin leaves what lies before the bins, but for the flags. -/
theorem rd_countBin_other {m a : Nat} (h : a < monCfg m + 0x40 ∧ a ≠ monCfg m + 0x18) (b : Nat) (s : State) : rd (countBin m b s) a = rd s a :=
  (rd_wrB_if h.2 _ _ _).trans (rd_wrF_other _ _ _ _ _ _ (by omega))

/-- Finding the bin of a sample draws a free value, or leaves the state. -/
theorem binOf_state (s : State) (m : Nat) (v : Int) : (binOf s m v).2 = s ∨ (binOf s m v).2 = (fresh s).2 := by
  unfold binOf
  split
  · dsimp only
    split
    · exact .inr rfl
    · exact .inl rfl
  · split <;> exact .inl rfl

theorem regs_binOf (s : State) (m : Nat) (v : Int) : (binOf s m v).2.regs = s.regs := by
  rcases binOf_state s m v with h | h <;> rw [h]
  rfl

theorem binOf_only (s : State) (m : Nat) (v : Int) : MonitorOnly s (binOf s m v).2 := by
  rcases binOf_state s m v with h | h <;> rw [h]
  · exact .refl s
  · rfl

/-- Least and greatest, as a sample v leaves them. -/
def extremesTaken (m : Nat) (v : Int) (s t : State) : State :=
  wr (monCfg m + 0x28) (BitVec.ofInt 64 (max (toSigned 64 (rd s (monCfg m + 0x28)).toNat) v))
    (wr (monCfg m + 0x20) (BitVec.ofInt 64 (min (toSigned 64 (rd s (monCfg m + 0x20)).toNat) v)) t)

/-- The times of a capture after a sample. -/
def timesTaken (m : Nat) (v : Int) (s : State) : MonExtra :=
  { monOf s m with
    first := if decide ((rd s (monCfg m + 0x30)).toNat = 0) then s.tape else (monOf s m).first
    last := s.tape
    maxTape := if decide ((rd s (monCfg m + 0x30)).toNat = 0) || decide (toSigned 64 (rd s (monCfg m + 0x28)).toNat < v) then s.tape else (monOf s m).maxTape }

/-- The state of a capture before the sample is counted. -/
def sampleSeen (m : Nat) (v : Int) (s : State) : State := extremesTaken m v s (setMon m (timesTaken m v s) s)

theorem capture_eq (m : Nat) (v : Int) (s : State) : capture m v s =
    countBin m (binOf (sampleSeen m v s) m v).1 (addSample m v (binOf (sampleSeen m v s) m v).2) := rfl

theorem sampleSeen_only (m : Nat) (v : Int) (s : State) : MonitorOnly s (sampleSeen m v s) :=
  .trans (u := sampleSeen m v s) (t := setMon m (timesTaken m v s) s) rfl (((RegsOnly.refl _).wr _ _).wr _ _).monitors

theorem capture_only (m : Nat) (v : Int) (s : State) : MonitorOnly s (capture m v s) :=
  (sampleSeen_only m v s).trans ((binOf_only _ m v).trans ((addSample_only m v _).trans (countBin_only m _ _)).monitors)

section
variable (m : Nat) (v : Int) {s : State} (hs : regsWf s.regs = true)

theorem rd_sampleSeen_other {b : Nat} (h : b ≠ monCfg m + 0x20 ∧ b ≠ monCfg m + 0x28) : rd (sampleSeen m v s) b = rd s b := by
  rw [sampleSeen, extremesTaken, rd_wr_other _ _ _ _ h.2, rd_wr_other _ _ _ _ h.1, rd_setMon]

include hs

theorem regsWf_sampleSeen : regsWf (binOf (sampleSeen m v s) m v).2.regs = true := by
  rw [regs_binOf]
  exact regsWf_wr _ _ _ (regsWf_wr _ _ _ hs)

/-- A sample enters the capture: the count, least, greatest and sum. -/
theorem rd_capture :
    (rd (capture m v s) (monCfg m + 0x30)).toNat = min (2 ^ 64 - 1) ((rd s (monCfg m + 0x30)).toNat + 1) ∧
    rd (capture m v s) (monCfg m + 0x20) = BitVec.ofInt 64 (min (toSigned 64 (rd s (monCfg m + 0x20)).toNat) v) ∧
    rd (capture m v s) (monCfg m + 0x28) = BitVec.ofInt 64 (max (toSigned 64 (rd s (monCfg m + 0x28)).toNat) v) ∧
    rd (capture m v s) (monCfg m + 0x38) = BitVec.ofInt 64 (sumWith m v s) := by
  have hbin (b : Nat) : rd (binOf (sampleSeen m v s) m v).2 b = rd (sampleSeen m v s) b := rd_of_regs (regs_binOf _ _ _) b
  have hwf := regsWf_sampleSeen m v hs
  have hlow : regsWf (wr (monCfg m + 0x20) (BitVec.ofInt 64 (min (toSigned 64 (rd s (monCfg m + 0x20)).toNat) v)) (setMon m (timesTaken m v s) s)).regs = true :=
    regsWf_wr _ _ _ hs
  rw [capture_eq]
  refine ⟨?_, ?_, ?_, ?_⟩
  · rw [rd_countBin_other (by omega), rd_addSample_samples m v hwf, hbin, rd_sampleSeen_other m v (by omega)]
  · rw [rd_countBin_other (by omega), rd_addSample_other m v _ (by omega), hbin, sampleSeen, extremesTaken, rd_wr_other _ _ _ _ (by omega)]
    exact rd_wr_same _ _ _ hs
  · rw [rd_countBin_other (by omega), rd_addSample_other m v _ (by omega), hbin]
    exact rd_wr_same _ _ _ hlow
  · rw [rd_countBin_other (by omega), rd_addSample_sum m v hwf, sumWith, hbin, rd_sampleSeen_other m v (by omega)]
    rfl

end

/-! The monitor's command, by DELTA and the base. -/

section
variable {s : State} {m event : Nat} {v : Int} (hm : m < 32) (hon : rdB s (monCfg m) 63 = true) (hv : sourceValue s m event = some v)
include hm hon hv

theorem exec_monitorSample_plain (hdelta : rdB s (monCfg m) 0 = false) : exec (.monitorSample m event) s = .next (capture m v s) := by
  dsimp only [exec, execMonitorSample]
  rw [if_neg (by rw [hon]; simpa using hm), hv]
  exact if_neg (by rw [hdelta]; exact Bool.false_ne_true)

theorem exec_monitorSample_delta (hdelta : rdB s (monCfg m) 0 = true) : exec (.monitorSample m event) s =
    (match (monOf s m).prev with
      | none => .next (setMon m { monOf s m with prev := some v } s)
      | some p => .next (capture m (toSigned 64 (ofSigned 64 (v - p))) (setMon m { monOf s m with prev := some v } s))) := by
  dsimp only [exec, execMonitorSample]
  rw [if_neg (by rw [hon]; simpa using hm), hv]
  exact if_pos hdelta

end

theorem failPause_running {model : Nat} {s : State} (h : pauseOn (modelOf s model) = true) : failPause model s =
    notify 18 54 (tenantsOnModel s model) (if (modelOf s model).owner < 64 then (modelOf s model).owner else 0xFFFF) model (leBytes 1 1)
      ((seqsOfModel s model).foldl (fun z n => endSeq n 7 0x0401 0 z) (setModel model { modelOf s model with pause := none } s)) :=
  if_neg (by rw [h]; decide)

/-- Settles O41: the cases of DELTA, the capture step by step, the clearing write, and the two ends of a pause. -/
theorem monitorEvents : Obligations.MonitorEvents := by
  unfold Obligations.MonitorEvents
  refine ⟨?_, ?_, ?_, ?_, ?_, ?_⟩
  · intro s m event v hm hon hv hdelta
    exact exec_monitorSample_plain hm hon hv hdelta
  · intro s m event v hm hon hv hdelta hbase
    rw [exec_monitorSample_delta hm hon hv hdelta, hbase]
  · intro s m event v p hm hon hv hdelta hbase
    rw [exec_monitorSample_delta hm hon hv hdelta, hbase]
  · intro s m value hcanon hm
    obtain ⟨-, hregs, -⟩ := hcanon
    have hd := regAt_monCfg m hm
    have hwf : regsWf (writeFields (monCfg m) value s).regs = true := (leavesRest_writeFields hd).canonical hregs
    obtain ⟨hflags, hsamples, hsum⟩ := regReset_monitor m hm
    refine ⟨_, if_neg (by omega), ?_, ?_, ?_, ?_, ?_, monCfgWritten_frame m value s⟩
    · rw [rdB, rd_clearCapture_monCfg]
      exact rdB_writeFields_taken (f := fRW 63 63 0) hd hregs (by decide) rfl rfl rfl
    · rw [rdF, rd_clearCapture_monCfg]
      exact rdF_writeFields_taken (f := fRW 55 48 0) hd hregs (by decide) rfl rfl
    · exact (rd_clearCapture (k := 3) (by decide) hwf).trans hsamples
    · exact (rd_clearCapture (k := 4) (by decide) hwf).trans hsum
    · exact (rd_clearCapture (k := 0) (by decide) hwf).trans hflags
  · intro s m event v hcanon hm hon hsrc hdelta hv
    obtain ⟨-, hregs, -⟩ := hcanon
    have hvalue : sourceValue s m event = some v := by
      unfold sourceValue
      rw [hv]
      refine (if_neg (by omega)).trans (if_pos hsrc)
    obtain ⟨hcount, hleast, hgreatest, hsum⟩ := rd_capture m v hregs
    exact ⟨_, exec_monitorSample_plain hm hon hvalue hdelta, hcount, hleast, hgreatest, hsum, capture_only m v s⟩
  · intro s u model t hpause hu hon
    subst hu
    refine ⟨fun hlift => ?_, fun hlift => ?_⟩
    · dsimp only [exec, execQuarantinePauseExpire]
      rw [hpause]
      exact congrArg Host.Outcome.next (if_pos hlift)
    · dsimp only [exec, execQuarantinePauseExpire]
      rw [hpause]
      refine congrArg Host.Outcome.next ((if_neg ?_).trans (failPause_running hon))
      rw [hlift]
      exact Bool.false_ne_true

end Sys2Proof.Proofs
end


section
/-! Kralyn: messages, rings and their registers (R361 to R373, R404). -/

namespace Sys2Proof.Proofs

open Sys2Proof.Machine Sys2Proof.Laws

/-! Messages. -/

section
variable {s u : State} {k : KrMsg} (harrives : krArrives s k = true) (hu : u = bump 0xB00020 1 s)
include harrives

theorem not_arrives_false : ¬ (!(krArrives s k)) = true := by
  rw [harrives]
  exact Bool.false_ne_true

include hu

/-- A CONNECT of a member of the partition, of a level in common, from a peer with no connection yet. -/
theorem exec_connect_accepted (htag : k.tag = setupTag (partitionKey u (leAt k.payload 8 8)) (krHeaderOf 1 k) k.payload) (hmember : isMember u = true)
    (hpart : leAt k.payload 8 8 = u.fabric.id) (hpeer : u.fabric.members.contains (leAt k.payload 0 8) = true) (hlow : max 1 (ownLevel u - 1) ≤ leAt k.payload 17 1)
    (hhigh : leAt k.payload 16 1 ≤ ownLevel u) (hnone : connOfPeer u (leAt k.payload 0 8) = none) :
    exec (.kralynConnectReceive k) s = .next (acceptConnect k (leAt k.payload 0 8) (min (leAt k.payload 17 1) (ownLevel u)) [] u) := by
  dsimp only [exec, execKralynConnectReceive]
  rw [if_neg (not_arrives_false harrives), ← hu, if_neg (not_not.mpr htag), if_neg (by rw [hmember, hpeer, hpart]; simp), if_neg (by omega), hnone]

theorem exec_connect_badTag (htag : k.tag ≠ setupTag (partitionKey u (leAt k.payload 8 8)) (krHeaderOf 1 k) k.payload) :
    exec (.kralynConnectReceive k) s = .next (bump 0xB00028 1 u) := by
  subst hu
  exact (if_neg (not_arrives_false harrives)).trans (if_pos htag)

variable {i : Nat}

theorem exec_accept_opens (htag : k.tag = setupTag (partitionKey u (leAt k.payload 8 8)) (krHeaderOf 2 k) k.payload) (hconn : krLookup u k.conn = some i)
    (hphase : (connOf u i).phase = .connecting) (hpeer : (connOf u i).peer = leAt k.payload 0 8) (hpart : (connOf u i).part = leAt k.payload 8 8) :
    exec (.kralynAcceptReceive k) s = .next (openConn i k.aux k.level (connKey u (connOf u i).part (connOf u i).random (slice k.payload 20 32) (connId i (connOf u i)) k.aux)
      (setConn i { connOf u i with peerLevel := leAt k.payload 17 1 } u)) := by
  dsimp only [exec, execKralynAcceptReceive]
  rw [if_neg (not_arrives_false harrives), ← hu, if_neg (not_not.mpr htag), hconn]
  exact if_pos ⟨hphase, hpeer, hpart⟩

theorem exec_refuse_frees (htag : k.tag = setupTag (partitionKey u (connOf u i).part) (krHeaderOf 3 k) k.payload) (hpeer : connOfPeer u (leAt k.payload 4 8) = some i)
    (hphase : (connOf u i).phase = .connecting) (hstatus : leAt k.payload 0 2 ≠ 0x0301) (hconn : krLookup u k.conn = some i) :
    exec (.kralynRefuseReceive k) s = .next (fillEntry i (failQueued (fun p => p == leAt k.payload 4 8) (leAt k.payload 0 2) (setConn i (connOf u i).freed u))) := by
  dsimp only [exec, execKralynRefuseReceive]
  rw [if_neg (not_arrives_false harrives), ← hu, hpeer]
  refine (if_neg (not_not.mpr htag)).trans ((if_pos hphase).trans (if_neg ?_))
  rintro (h | h)
  · exact hstatus h
  · exact h hconn

section
variable (hconn : krLookup u k.conn = some i) (hphase : (connOf u i).phase ≠ .connecting)
include hconn hphase

theorem exec_ack_advances (htag : k.tag = Config.gcmTag (connOf u i).key (krNonce (connOf u i).salt (if (connOf u i).initiator then 3 else 2) k.aux) (krHeaderOf 5 k) k.payload)
    (hfirst : (connOf u i).ackSeen = none) : exec (.kralynAckReceive k) s = .next (krAdvance i k u) := by
  dsimp only [exec, execKralynAckReceive]
  rw [if_neg (not_arrives_false harrives), ← hu, hconn]
  dsimp only
  rw [if_neg (fun h => h.elim hphase (fun h => h htag)), hfirst]
  rfl

variable (hturn : k.csn = (connOf u i).rxNext % 2 ^ 32)
include hturn

theorem exec_close_inTurn (htag : k.tag = Config.gcmTag (connOf u i).key (krNonce (connOf u i).salt (if (connOf u i).initiator then 1 else 0) k.csn) (krHeaderOf 6 k) k.payload) :
    exec (.kralynCloseReceive k) s = .next (settleClose i (setConn i { connOf u i with closeDue := true } u)) := by
  dsimp only [exec, execKralynCloseReceive]
  rw [if_neg (not_arrives_false harrives), ← hu, hconn]
  exact (if_neg (fun h => h.elim hphase (fun h => h htag))).trans (if_pos hturn)

omit harrives

/-- A sequenced message in its turn: what takes it delivers it and the connection advances, or it is counted. -/
theorem krSequenced_inTurn {mtype : Nat} (deliver : Nat → State → Option State)
    (htag : k.tag = Config.gcmTag (connOf u i).key (krNonce (connOf u i).salt (if (connOf u i).initiator then 1 else 0) k.csn) (krHeaderOf mtype k) k.payload) :
    krSequenced mtype k deliver s = (match deliver i u with
      | none => bump 0xB00040 1 u
      | some t => closeFreely i (krOweAck i (setConn i { connOf t i with
          rxNext := (connOf t i).rxNext + 1, used := t.tape, phase := if (connOf t i).rxNext + 1 = 2 ^ 32 - 1 ∧ (connOf t i).phase = .open_ then .closing else (connOf t i).phase } t))) := by
  unfold krSequenced
  dsimp only
  rw [← hu, hconn]
  exact (if_neg (fun h => h.elim hphase (fun h => h htag))).trans (if_pos hturn)

theorem krSequenced_taken {mtype : Nat} {deliver : Nat → State → Option State} {t : State}
    (htag : k.tag = Config.gcmTag (connOf u i).key (krNonce (connOf u i).salt (if (connOf u i).initiator then 1 else 0) k.csn) (krHeaderOf mtype k) k.payload)
    (ht : deliver i u = some t) : krSequenced mtype k deliver s = closeFreely i (krOweAck i (setConn i { connOf t i with
      rxNext := (connOf t i).rxNext + 1, used := t.tape, phase := if (connOf t i).rxNext + 1 = 2 ^ 32 - 1 ∧ (connOf t i).phase = .open_ then .closing else (connOf t i).phase } t)) := by
  rw [krSequenced_inTurn hu hconn hphase hturn deliver htag, ht]

theorem krSequenced_untaken {mtype : Nat} {deliver : Nat → State → Option State}
    (htag : k.tag = Config.gcmTag (connOf u i).key (krNonce (connOf u i).salt (if (connOf u i).initiator then 1 else 0) k.csn) (krHeaderOf mtype k) k.payload)
    (ht : deliver i u = none) : krSequenced mtype k deliver s = bump 0xB00040 1 u := by
  rw [krSequenced_inTurn hu hconn hphase hturn deliver htag, ht]

end

end

/-- Settles O42: each message that arrives whole, in the case that its conditions name. -/
theorem kralynMessages : Obligations.KralynMessages := by
  unfold Obligations.KralynMessages
  refine ⟨?_, ?_, ?_, ?_, ?_, ?_, ?_, ?_, ?_⟩
  · intro s k u harrives hu htag hmember hpart hpeer hlow hhigh hnone
    exact exec_connect_accepted harrives hu htag hmember hpart hpeer hlow hhigh hnone
  · intro s k u harrives hu htag
    exact exec_connect_badTag harrives hu htag
  · intro s k u i harrives hu htag hconn hphase hpeer hpart
    exact exec_accept_opens harrives hu htag hconn hphase hpeer hpart
  · intro s k u i harrives hu htag hpeer hphase hstatus hconn
    exact exec_refuse_frees harrives hu htag hpeer hphase hstatus hconn
  · intro s k e u i v t harrives hu hconn hphase hturn
    have hin := not_arrives_false harrives
    refine ⟨fun htag hv ht => ?_, fun htag hv => ?_, fun htag ht => ?_⟩
    · refine (if_neg hin).trans (congrArg Host.Outcome.next (krSequenced_taken hu hconn hphase hturn htag ?_))
      rw [hv, ht]
      rfl
    · refine (if_neg hin).trans (congrArg Host.Outcome.next (krSequenced_untaken hu hconn hphase hturn htag ?_))
      rw [hv]
      rfl
    · exact (if_neg hin).trans (congrArg Host.Outcome.next (krSequenced_taken hu hconn hphase hturn htag (congrArg some ht.symm)))
  · intro s k u i harrives hu hconn hphase htag hfirst
    exact exec_ack_advances harrives hu hconn hphase htag hfirst
  · intro s k u i harrives hu hconn hphase htag hturn
    exact exec_close_inTurn harrives hu hconn hphase hturn htag
  · intro s ring hring hon hawake hqueued
    refine if_neg ?_
    rw [hon, hawake]
    simp [hqueued]
    omega
  · intro s i u hphase hunacked hu
    subst hu
    have hwaits : ¬ ((connOf s i).phase = .free ∨ (connOf s i).unacked.isEmpty = true) := by
      simp [hphase, hunacked]
    exact ⟨if_neg hwaits, if_neg hwaits⟩

/-! A ring's control register: its base, its size, and whether it is enabled. -/

/-- A ring's control register with the base and the size as a write gives them. -/
def ringAt (a lo : Nat) (value : Word) (s : State) : State := wrF a 47 lo (getBits value 47 lo) (wrF a 50 48 (getBits value 50 48) s)

section
variable {s : State} {a lo : Nat} {value : Word}

theorem ringAt_only : RegsOnly s (ringAt a lo value s) := ((RegsOnly.refl s).wrF _ _ _ _).wrF _ _ _ _

theorem rd_ringAt_other {b : Nat} (h : b ≠ a) : rd (ringAt a lo value s) b = rd s b := (rd_wrF_other _ _ _ _ _ _ h).trans (rd_wrF_other _ _ _ _ _ _ h)

theorem ringPlaced_ringAt (h : sliceReg 0 0 ≠ a) (b n : Nat) : ringPlaced (ringAt a lo value s) b n = ringPlaced s b n :=
  ringPlaced_congr (by rw [ringAt_only]) (rd_ringAt_other h) b n

variable (hs : regsWf s.regs = true) (hlo : lo ≤ 47)
include hs

theorem regsWf_ringAt : regsWf (ringAt a lo value s).regs = true := regsWf_wrF _ _ _ _ _ (regsWf_wrF _ _ _ _ _ hs)

include hlo

theorem rdF_ringAt_base : rdF (ringAt a lo value s) a 47 lo = getBits value 47 lo :=
  (rdF_wrF_same _ _ _ _ _ (regsWf_wrF _ _ _ _ _ hs) hlo (by decide)).trans (getBits_mod _ _ _)

theorem rdF_ringAt_size : rdF (ringAt a lo value s) a 50 48 = getBits value 50 48 :=
  (rdF_wrF_other _ _ _ _ _ _ _ (regsWf_wrF _ _ _ _ _ hs) hlo (by decide) (.inl (by decide))).trans
    ((rdF_wrF_same _ _ _ _ _ hs (by decide) (by decide)).trans (getBits_mod _ _ _))

/-- The control register of a ring that is enabled. -/
theorem ringEnabled : rdB (wrB a 63 true (ringAt a lo value s)) a 63 = true ∧ rdF (wrB a 63 true (ringAt a lo value s)) a 47 lo = getBits value 47 lo ∧
    rdF (wrB a 63 true (ringAt a lo value s)) a 50 48 = getBits value 50 48 :=
  ⟨rdB_wrB_same _ _ _ _ (regsWf_ringAt hs) (by decide), (rdF_wrB_other (regsWf_ringAt hs) (by decide) (.inr (by decide))).trans (rdF_ringAt_base hs hlo),
    (rdF_wrB_other (regsWf_ringAt hs) (by decide) (by decide)).trans (rdF_ringAt_size hs hlo)⟩

end

/-! Transmit rings. -/

section
variable {s : State} {ring : Nat} {value : Word} (hs : regsWf s.regs = true)
include hs

/-- A transmit ring whose rings lie in memory is enabled, and stands empty. -/
theorem writeTxCtrl_enables (hring : ring < 8) (hoff : rdB s (txCtrl ring) 63 = false) (hon : getBit value 63 = true)
    (hdescs : ringPlaced s (getBits value 47 5 * 32) (32 * 2 ^ (getBits value 50 48 + 1)) = true)
    (hrecords : ringPlaced s (rdF s (txCtrl ring + 0x10) 47 4 * 16) (16 * 2 ^ (getBits value 50 48 + 1)) = true) :
    writeTxCtrl ring value s = wrF (txCtrl ring + 8) 7 0 0 (setRing ring TxRing.none (wrB (txCtrl ring) 63 true (ringAt (txCtrl ring) 5 value s))) := by
  have hplaced : ∀ b n, ringPlaced (ringAt (txCtrl ring) 5 value s) b n = ringPlaced s b n := ringPlaced_ringAt (by unfold txCtrl sliceReg; omega)
  have hentries : txEntries (ringAt (txCtrl ring) 5 value s) ring = 2 ^ (getBits value 50 48 + 1) := by rw [txEntries, rdF_ringAt_size hs (by decide)]
  have hgood : (ringPlaced (ringAt (txCtrl ring) 5 value s) (rdF (ringAt (txCtrl ring) 5 value s) (txCtrl ring) 47 5 * 32) (32 * txEntries (ringAt (txCtrl ring) 5 value s) ring) &&
      ringPlaced (ringAt (txCtrl ring) 5 value s) (rdF (ringAt (txCtrl ring) 5 value s) (txCtrl ring + 0x10) 47 4 * 16) (16 * txEntries (ringAt (txCtrl ring) 5 value s) ring)) = true := by
    rw [hplaced, hplaced, hentries, rdF_ringAt_base hs (by decide), hdescs, rdF, rd_ringAt_other (by omega), ← rdF, hrecords]
    rfl
  unfold writeTxCtrl
  dsimp only
  rw [← ringAt, hgood, hon, hoff]
  rfl

theorem writeTxCtrl_disables (hclear : getBit value 63 = false) : rdB (writeTxCtrl ring value s) (txCtrl ring) 63 = false := by
  unfold writeTxCtrl
  dsimp only
  rw [← ringAt, hclear]
  exact rdB_wrB_same _ _ _ _ (regsWf_ringAt hs) (by decide)

end

/-! Receive channels. -/

/-- Every slot of a channel is free. -/
def slotsFreed (channel : Nat) (s : State) : State := { s with rxHeld := sput (fun _ => 0) s.rxHeld channel 0 }

theorem rd_slotsFreed (channel : Nat) (s : State) (a : Nat) : rd (slotsFreed channel s) a = rd s a := rfl

section
variable {s : State} {channel : Nat} {value : Word} (hs : regsWf s.regs = true)
include hs

/-- A receive channel whose slots lie in memory is enabled, and stands empty. -/
theorem writeRxCtrl_enables (hchannel : channel < 64) (hoff : rdB s (rxCtrl channel) 63 = false) (hon : getBit value 63 = true)
    (hslots : ringPlaced s (getBits value 47 10 * 1024) (9216 * 2 ^ (getBits value 50 48 + 1)) = true) :
    writeRxCtrl channel value s = wrF (rxCtrl channel + 8) 7 0 0 (wrF (rxCtrl channel) 7 0 0 (slotsFreed channel (wrB (rxCtrl channel) 63 true (ringAt (rxCtrl channel) 10 value s)))) := by
  have hplaced : ∀ b n, ringPlaced (ringAt (rxCtrl channel) 10 value s) b n = ringPlaced s b n := ringPlaced_ringAt (by unfold rxCtrl sliceReg; omega)
  have hentries : rxEntries (ringAt (rxCtrl channel) 10 value s) channel = 2 ^ (getBits value 50 48 + 1) := by rw [rxEntries, rdF_ringAt_size hs (by decide)]
  have hgood : ringPlaced (ringAt (rxCtrl channel) 10 value s) (rdF (ringAt (rxCtrl channel) 10 value s) (rxCtrl channel) 47 10 * 1024)
      (9216 * rxEntries (ringAt (rxCtrl channel) 10 value s) channel) = true := by
    rw [hplaced, hentries, rdF_ringAt_base hs (by decide), hslots]
  unfold writeRxCtrl
  dsimp only
  rw [← ringAt, hgood, hon, hoff]
  rfl

theorem writeRxCtrl_disables (hclear : getBit value 63 = false) : rdB (writeRxCtrl channel value s) (rxCtrl channel) 63 = false := by
  unfold writeRxCtrl
  dsimp only
  rw [← ringAt, hclear]
  exact rdB_wrB_same _ _ _ _ (regsWf_ringAt hs) (by decide)

end

/-- The slots that a write of HEAD passes are free. -/
def slotsReleased (channel : Nat) (value : Word) (s : State) : State :=
  { s with rxHeld := sput (fun _ => 0) s.rxHeld channel (rxHeldOf s channel - (getBits value 7 0 % rxEntries s channel + rxEntries s channel -
      rdF s (rxCtrl channel + 8) 7 0 % rxEntries s channel) % rxEntries s channel) }

theorem rd_slotsReleased (channel : Nat) (value : Word) (s : State) (a : Nat) : rd (slotsReleased channel value s) a = rd s a := rfl

theorem exec_krRxHeadWrite {channel : Nat} (h : channel < 64) (value : Word) (s : State) : exec (.krRxHeadWrite channel value) s =
    .next (wrF (rxCtrl channel + 8) 7 0 (getBits value 7 0) (slotsReleased channel value s)) := if_neg (by omega)

/-- A transmit ring that is enabled with its rings in memory stands empty. -/
theorem krTxCtrlEnable_empties {s : State} {ring : Nat} {value : Word} (hs : regsWf s.regs = true) (hring : ring < 8) (hoff : rdB s (txCtrl ring) 63 = false) (hon : getBit value 63 = true)
    (hdescs : ringPlaced s (getBits value 47 5 * 32) (32 * 2 ^ (getBits value 50 48 + 1)) = true)
    (hrecords : ringPlaced s (rdF s (txCtrl ring + 0x10) 47 4 * 16) (16 * 2 ^ (getBits value 50 48 + 1)) = true) : ∃ t, exec (.krTxCtrlEnable ring value) s = .next t ∧
      rdB t (txCtrl ring) 63 = true ∧ rdF t (txCtrl ring) 47 5 = getBits value 47 5 ∧ rdF t (txCtrl ring) 50 48 = getBits value 50 48 ∧ txTail t ring = 0 ∧
      t = { s with regs := t.regs, txRings := t.txRings } ∧ ∀ a, a ≠ txCtrl ring → a ≠ txCtrl ring + 8 → rd t a = rd s a := by
  obtain ⟨henabled, hbase, hsize⟩ := ringEnabled (a := txCtrl ring) (lo := 5) (value := value) hs (by decide)
  have hexec : exec (.krTxCtrlEnable ring value) s = .next (writeTxCtrl ring value s) := if_neg (by omega)
  rw [writeTxCtrl_enables hs hring hoff hon hdescs hrecords] at hexec
  have hregs : regsWf (wrB (txCtrl ring) 63 true (ringAt (txCtrl ring) 5 value s)).regs = true := regsWf_wrB _ _ _ _ (regsWf_ringAt hs)
  have honly : RegsOnly s (wrB (txCtrl ring) 63 true (ringAt (txCtrl ring) 5 value s)) := ringAt_only.wrB _ _ _
  have hother : ∀ a, a ≠ txCtrl ring → rd (wrB (txCtrl ring) 63 true (ringAt (txCtrl ring) 5 value s)) a = rd s a :=
    fun a ha => (rd_wrB_other _ _ _ _ _ ha).trans (rd_ringAt_other ha)
  obtain ⟨u, hu⟩ : ∃ u, u = wrB (txCtrl ring) 63 true (ringAt (txCtrl ring) 5 value s) := ⟨_, rfl⟩
  rw [← hu] at hexec henabled hbase hsize hregs honly
  simp only [← hu] at hother
  have hctrl : rd (wrF (txCtrl ring + 8) 7 0 0 (setRing ring TxRing.none u)) (txCtrl ring) = rd u (txCtrl ring) := rd_wrF_other _ _ _ _ _ _ (by omega)
  have htail : rdF (wrF (txCtrl ring + 8) 7 0 0 (setRing ring TxRing.none u)) (txCtrl ring + 8) 7 0 = 0 :=
    rdF_wrF_same _ _ _ _ (setRing ring TxRing.none u) hregs (by decide) (by decide)
  refine ⟨_, hexec, ?_, ?_, ?_, ?_, ?_, fun a ha ha' => (rd_wrF_other _ _ _ _ _ _ ha').trans (hother a ha)⟩
  · rw [rdB, hctrl]
    exact henabled
  · rw [rdF, hctrl]
    exact hbase
  · rw [rdF, hctrl]
    exact hsize
  · rw [txTail, htail, Nat.zero_mod]
  · rw [honly]
    rfl

/-- A receive channel that is enabled with its slots in memory stands empty. -/
theorem krRxCtrlEnable_empties {s : State} {channel : Nat} {value : Word} (hs : regsWf s.regs = true) (hchannel : channel < 64) (hoff : rdB s (rxCtrl channel) 63 = false)
    (hon : getBit value 63 = true) (hslots : ringPlaced s (getBits value 47 10 * 1024) (9216 * 2 ^ (getBits value 50 48 + 1)) = true) :
    ∃ t, exec (.krRxCtrlEnable channel value) s = .next t ∧
      rdB t (rxCtrl channel) 63 = true ∧ rdF t (rxCtrl channel) 47 10 = getBits value 47 10 ∧ rdF t (rxCtrl channel) 50 48 = getBits value 50 48 ∧ rdF t (rxCtrl channel) 7 0 = 0 ∧
      rdF t (rxCtrl channel + 8) 7 0 = 0 ∧ t = { s with regs := t.regs, rxHeld := t.rxHeld } ∧ ∀ a, a ≠ rxCtrl channel → a ≠ rxCtrl channel + 8 → rd t a = rd s a := by
  obtain ⟨henabled, hbase, hsize⟩ := ringEnabled (a := rxCtrl channel) (lo := 10) (value := value) hs (by decide)
  have hexec : exec (.krRxCtrlEnable channel value) s = .next (writeRxCtrl channel value s) := if_neg (by omega)
  rw [writeRxCtrl_enables hs hchannel hoff hon hslots] at hexec
  have hregs : regsWf (wrB (rxCtrl channel) 63 true (ringAt (rxCtrl channel) 10 value s)).regs = true := regsWf_wrB _ _ _ _ (regsWf_ringAt hs)
  have honly : RegsOnly s (wrB (rxCtrl channel) 63 true (ringAt (rxCtrl channel) 10 value s)) := ringAt_only.wrB _ _ _
  have hother : ∀ a, a ≠ rxCtrl channel → rd (wrB (rxCtrl channel) 63 true (ringAt (rxCtrl channel) 10 value s)) a = rd s a :=
    fun a ha => (rd_wrB_other _ _ _ _ _ ha).trans (rd_ringAt_other ha)
  obtain ⟨u, hu⟩ : ∃ u, u = wrB (rxCtrl channel) 63 true (ringAt (rxCtrl channel) 10 value s) := ⟨_, rfl⟩
  rw [← hu] at hexec henabled hbase hsize hregs honly
  simp only [← hu] at hother
  have hregs' : regsWf (wrF (rxCtrl channel) 7 0 0 (slotsFreed channel u)).regs = true := regsWf_wrF _ _ _ _ (slotsFreed channel u) hregs
  have hctrl : rd (wrF (rxCtrl channel + 8) 7 0 0 (wrF (rxCtrl channel) 7 0 0 (slotsFreed channel u))) (rxCtrl channel) = rd (wrF (rxCtrl channel) 7 0 0 (slotsFreed channel u)) (rxCtrl channel) :=
    rd_wrF_other _ _ _ _ _ _ (by omega)
  have hkept : ∀ hi lo, 7 < lo → rdF (wrF (rxCtrl channel) 7 0 0 (slotsFreed channel u)) (rxCtrl channel) hi lo = rdF u (rxCtrl channel) hi lo :=
    fun hi lo hlo => rdF_wrF_other _ _ _ _ _ _ (slotsFreed channel u) hregs (by decide) (by decide) (.inl hlo)
  refine ⟨_, hexec, ?_, ?_, ?_, ?_, ?_, ?_, fun a ha ha' => ?_⟩
  · rw [rdB, hctrl]
    exact (congrArg (· == 1) (hkept 63 63 (by decide))).trans henabled
  · rw [rdF, hctrl]
    exact (hkept 47 10 (by decide)).trans hbase
  · rw [rdF, hctrl]
    exact (hkept 50 48 (by decide)).trans hsize
  · rw [rdF, hctrl]
    exact rdF_wrF_same _ _ _ _ (slotsFreed channel u) hregs (by decide) (by decide)
  · exact rdF_wrF_same _ _ _ _ _ hregs' (by decide) (by decide)
  · rw [honly]
    rfl
  · rw [rd_wrF_other _ _ _ _ _ _ ha', rd_wrF_other _ _ _ _ _ _ ha, rd_slotsFreed, hother a ha]

/-- Settles O43: TAIL and HEAD take what is written, a ring in memory is enabled empty, and clearing ENABLE disables. -/
theorem kralynRegisters : Obligations.KralynRegisters := by
  unfold Obligations.KralynRegisters
  refine ⟨?_, ?_, ?_, ?_, ?_, ?_, ?_, ?_⟩
  · intro s ring value hring
    exact if_neg (by omega)
  · intro s channel value hchannel
    exact if_neg (by omega)
  · intro s ring value hcanon hring
    refine ⟨_, if_neg (by omega), ?_, rfl, fun a ha => rd_wrF_other _ _ _ _ _ _ ha⟩
    exact (rdF_wrF_same _ _ _ _ _ hcanon.regs (by decide) (by decide)).trans (getBits_mod _ _ _)
  · intro s channel value hcanon hchannel
    refine ⟨_, exec_krRxHeadWrite hchannel value s, ?_, rfl, fun a ha => ?_, fun b hb => sget_sput_other _ _ _ _ _ hb⟩
    · exact (rdF_wrF_same _ _ _ _ (slotsReleased channel value s) hcanon.regs (by decide) (by decide)).trans (getBits_mod _ _ _)
    · rw [rd_wrF_other _ _ _ _ _ _ ha, rd_slotsReleased]
  · intro s ring value hcanon hring hoff hon hdescs hrecords
    exact krTxCtrlEnable_empties hcanon.regs hring hoff hon hdescs hrecords
  · intro s channel value hcanon hchannel hoff hon hslots
    exact krRxCtrlEnable_empties hcanon.regs hchannel hoff hon hslots
  · intro s ring value hcanon hring hclear
    exact ⟨_, if_neg (by omega), writeTxCtrl_disables hcanon.regs hclear⟩
  · intro s channel value hcanon hchannel hclear
    exact ⟨_, if_neg (by omega), writeRxCtrl_disables hcanon.regs hclear⟩

end Sys2Proof.Proofs
end


section
/-! Time in a partition, and registers whose write is a command of its own (R351 to R360, R436, R450, R469). -/

namespace Sys2Proof.Proofs

open Sys2Proof.Machine Sys2Proof.Laws

/-! What a message of the tape exchange leaves. -/

/-- t is s but for registers and what left the device. -/
def TapeOnly (s t : State) : Prop := t = { s with out := t.out, regs := t.regs }

theorem TapeOnly.trans {s t u : State} (h : TapeOnly s t) (k : TapeOnly t u) : TapeOnly s u := by
  unfold TapeOnly at *
  rw [k, h]

theorem ctrlOf_backSent : ∀ j < 4, (ctrlOf (0xB02018 + 0x100 * j)).map Prod.fst = some (0xB02040 + 0x100 * j) := by decide +kernel

theorem portStatus_back {p : Nat} (hp : p < 4) : portStatus (4 + p) = 0xB02008 + 0x100 * p := by
  unfold portStatus portCfg
  rw [if_neg (by omega)]
  omega

/-- Counting a frame sent leaves which back interfaces are up. -/
theorem rd_backSent {j p : Nat} (hj : j < 4) (hp : p < 4) (n : Nat) (s : State) : rd (bump (0xB02018 + 0x100 * j) n s) (portStatus (4 + p)) = rd s (portStatus (4 + p)) := by
  rw [portStatus_back hp]
  refine rd_bump_other (by omega) fun c i hc => ?_
  have hctrl := ctrlOf_backSent j hj
  rw [hc] at hctrl
  have : c = 0xB02040 + 0x100 * j := Option.some.inj hctrl
  omega

theorem backUp_congr {s t : State} (h : ∀ p < 4, rd t (portStatus (4 + p)) = rd s (portStatus (4 + p))) (p i : Nat) : backUp t p i = backUp s p i := by
  unfold backUp rdB
  by_cases hp : p < 4
  · rw [h p hp]
  · rw [decide_eq_false hp]
    rfl

theorem nextBack_congr {s t : State} (h : ∀ p < 4, rd t (portStatus (4 + p)) = rd s (portStatus (4 + p))) (first : Nat) : nextBack t first = nextBack s first := by
  unfold nextBack
  congr 1
  exact funext fun k => backUp_congr h _ _

theorem nextBack_lt {s : State} {first k : Nat} (h : nextBack s first = some k) : k < 32 := by
  obtain ⟨i, -, rfl⟩ := List.mem_map.mp (List.mem_of_find?_eq_some h)
  exact Nat.mod_lt _ (by decide)

section
variable {s : State} {k : Nat} (hk : nextBack s 0 = some k) (dest m seq stamp : Nat)
include hk

theorem tapeSend_up : tapeSend dest m seq stamp s = bump (0xB02018 + 0x100 * (k / 8)) 1 (emitOut (.tape dest m seq stamp 0 (tapeIcv dest m seq stamp s)
    (wireOf s (4 + k / 8) (k % 8) true (if m < 8 then 319 else 320) (if m < 8 then 319 else 320))) s) := by
  unfold tapeSend
  rw [hk]

theorem out_tapeSend : (tapeSend dest m seq stamp s).out = .tape dest m seq stamp 0 (tapeIcv dest m seq stamp s)
    (wireOf s (4 + k / 8) (k % 8) true (if m < 8 then 319 else 320) (if m < 8 then 319 else 320)) :: s.out := by
  rw [tapeSend_up hk]
  exact ((RegsOnly.refl _).bump _ _).out

theorem tapeSend_only : TapeOnly s (tapeSend dest m seq stamp s) := by
  rw [tapeSend_up hk]
  unfold TapeOnly
  rw [(RegsOnly.refl _).bump _ _]
  rfl

theorem nextBack_tapeSend : nextBack (tapeSend dest m seq stamp s) 0 = some k := by
  rw [← hk, tapeSend_up hk]
  have hlt := nextBack_lt hk
  exact nextBack_congr (fun p hp => rd_backSent (by omega) hp _ _) 0

end

theorem tapeSend_down {s : State} (h : nextBack s 0 = none) (dest m seq stamp : Nat) : tapeSend dest m seq stamp s = s := by
  unfold tapeSend
  rw [h]

/-- A Sync and its Follow_Up to a member. -/
def syncPair (n : Nat) (s : State) (m : Nat) : State := tapeSend m ptFollowUp n (fineTape s) (tapeSend m ptSync n 0 s)

theorem syncPairs_sent {k : Nat} (n : Nat) (l : List Nat) {s : State} (hk : nextBack s 0 = some k) :
    TapeOnly s (l.foldl (syncPair n) s) ∧ (l.foldl (syncPair n) s).out.length = s.out.length + 2 * l.length := by
  induction l generalizing s with
  | nil => exact ⟨rfl, rfl⟩
  | cons m l ih =>
    have hsync := nextBack_tapeSend hk m ptSync n 0
    obtain ⟨honly, hlen⟩ := ih (s := syncPair n s m) (nextBack_tapeSend hsync _ _ _ _)
    refine ⟨((tapeSend_only hk _ _ _ _).trans (tapeSend_only hsync _ _ _ _)).trans honly, ?_⟩
    rw [List.foldl_cons, hlen, syncPair, out_tapeSend hsync, List.length_cons, out_tapeSend hk, List.length_cons, List.length_cons]
    omega

/-- The number of the next Sync. -/
def seqAdvanced (n : Nat) (s : State) : State := { s with fabric := { s.fabric with syncSeq := (n + 1) % 65536 } }

theorem exec_tapeSyncSend {s : State} (hmember : isMember s = true) (hkeeper : isKeeper s = true) : exec .tapeSyncSend s =
    .next (seqAdvanced s.fabric.syncSeq ((s.fabric.members.filter (fun m => decide (m ≠ ownId s))).foldl (syncPair s.fabric.syncSeq) s)) :=
  if_neg (by rw [hmember, hkeeper]; decide)

theorem TapeOnly.fabric {s t : State} (h : TapeOnly s t) : t.fabric = s.fabric := by rw [h]

theorem seqAdvanced_fabric {s t : State} (h : TapeOnly s t) : (seqAdvanced s.fabric.syncSeq t).fabric = { s.fabric with syncSeq := (s.fabric.syncSeq + 1) % 65536 } := by
  rw [← h.fabric]
  rfl

theorem seqAdvanced_frame {s t : State} (n : Nat) (h : TapeOnly s t) : seqAdvanced n t =
    { s with fabric := (seqAdvanced n t).fabric, out := (seqAdvanced n t).out, regs := (seqAdvanced n t).regs } := by
  rw [h]
  rfl

/-! An exchange. -/

/-- Is an exchange valid (R357)? -/
def exchangeGood (x : Exchange) : Bool :=
  x.icvOk && x.syncId == x.followId && x.reqId == x.respId && decide (0 ≤ exchangeDelay x) && decide (exchangeDelay x ≤ wideLimit)

theorem exchangeGood_true {x : Exchange} (hicv : x.icvOk = true) (hsync : x.syncId = x.followId) (hreq : x.reqId = x.respId) (hlow : 0 ≤ exchangeDelay x)
    (hhigh : exchangeDelay x ≤ wideLimit) : exchangeGood x = true := by
  simp [exchangeGood, hicv, hsync, hreq, hlow, hhigh]

theorem exchangeGood_false {x : Exchange} (h : x.icvOk = false ∨ x.syncId ≠ x.followId ∨ x.reqId ≠ x.respId ∨ exchangeDelay x < 0 ∨ wideLimit < exchangeDelay x) :
    exchangeGood x = false := by
  unfold exchangeGood
  rcases h with h | h | h | h | h
  · simp [h]
  · simp [h]
  · simp [h]
  · simp [Int.not_le.mpr h]
  · simp [Int.not_le.mpr h]

theorem exec_tapeExchangeComplete {s : State} {x : Exchange} (hmember : isMember s = true) (hprimary : isPrimary s = false) : exec (.tapeExchangeComplete x) s =
    (if !(exchangeGood x) then .next (bump 0x200030 1 s)
     else if onStandby s && !x.standby then .next (countBack s)
     else if x.standby ≠ onStandby s || isKeeper s then .next (bump 0x200030 1 s)
     else .next (takeExchange x s)) := if_neg (by rw [hmember, hprimary]; decide)

/-! The join step. -/

/-- The fabric after the tape has stepped. -/
def steppedFabric (s : State) : Fabric :=
  { s.fabric with
    stepDue := false, stepping := false, wide := 0
    last := s.fabric.last.map (fun e => (e.1 - filteredOf s.fabric.last, e.2))
    skipTo := if decide (0 < filteredOf s.fabric.last) && !(repeats s s.tape) then s.tape else s.fabric.skipTo }

/-- The tape in 2^-16 ns, after the step. -/
def steppedTape (s : State) : Nat := (((fineTape s : Int) - filteredOf s.fabric.last) % ((2 ^ 80 : Nat) : Int)).toNat

/-- The stepped tape and the fabric, nothing else. -/
def tapeStepped (s : State) : State := { s with fabric := steppedFabric s, tape := steppedTape s / 65536, frac := steppedTape s % 65536 }

/-- t has the tape and the fabric of s. -/
def SameTape (s t : State) : Prop := t.tape = s.tape ∧ t.frac = s.frac ∧ t.fabric = s.fabric

theorem SameTape.trans {s t u : State} (h : SameTape s t) (k : SameTape t u) : SameTape s u := ⟨k.1.trans h.1, k.2.1.trans h.2.1, k.2.2.trans h.2.2⟩

theorem RegsOnly.sameTape {s t : State} (h : RegsOnly s t) : SameTape s t := by
  rw [h]
  exact ⟨rfl, rfl, rfl⟩

theorem sameTape_redivideAll (s : State) : SameTape s (redivideAll s) := ⟨rfl, rfl, rfl⟩

theorem sameTape_edge (s : State) (e : Nat) (b : Bool) : SameTape s { s with edge := e, skipped := b } := ⟨rfl, rfl, rfl⟩

/-- The registers of a step: the partition's period, the tick count, and SYNCED in place of JOINING. -/
def stepRegs (s : State) : State :=
  let u := wrF 0x100000 21 0 (steppedFabric s).period (tapeStepped s)
  wrB 0x200010 63 true (wrB 0x200010 61 false (wr 0x100010 (BitVec.ofNat 64 ((if decide (0 < filteredOf s.fabric.last) then (steppedFabric s).skipTo else steppedTape s / 65536) / period u)) u))

theorem stepRegs_only (s : State) : RegsOnly (tapeStepped s) (stepRegs s) := ((((RegsOnly.refl _).wrF _ _ _ _).wr _ _).wrB _ _ _).wrB _ _ _

theorem stepTape_eq (s : State) : ∃ e b, stepTape s = { showBudget (redivideAll (stepRegs s)) with edge := e, skipped := b } := ⟨_, _, rfl⟩

/-- What follows the step of the tape leaves the tape and the fabric. -/
theorem sameTape_stepTape (s : State) : SameTape (tapeStepped s) (stepTape s) := by
  obtain ⟨e, b, h⟩ := stepTape_eq s
  rw [h]
  exact (stepRegs_only s).sameTape.trans ((sameTape_redivideAll _).trans (((RegsOnly.refl _).wrF _ _ _ _).sameTape.trans (sameTape_edge _ _ _)))

theorem isStandby_seen (s : State) (n m k : Nat) : isStandby { s with fabric := { s.fabric with back := n, seenAt := m, anyAt := k } } = isStandby s := rfl

/-- Settles O44: the messages one by one, and each exchange, step and switch in the case that its conditions name. -/
theorem timeExchanges : Obligations.TimeExchanges := by
  unfold Obligations.TimeExchanges
  refine ⟨?_, ?_, ?_, ?_, ?_, ?_, ?_, ?_, ?_⟩
  · intro s k hmember hkeeper hk
    obtain ⟨honly, hlen⟩ := syncPairs_sent s.fabric.syncSeq (s.fabric.members.filter (fun m => decide (m ≠ ownId s))) hk
    exact ⟨_, exec_tapeSyncSend hmember hkeeper, seqAdvanced_fabric honly, seqAdvanced_frame _ honly, hlen⟩
  · intro s dest m seq stamp k hk
    exact out_tapeSend hk dest m seq stamp
  · intro s dest m seq stamp hnone
    exact tapeSend_down hnone dest m seq stamp
  · intro s x hmember hprimary hicv
    exact if_neg (by rw [hmember, hprimary, hicv]; decide)
  · intro s m n hmember hkeeper hlisted
    exact if_neg (by rw [hmember, hkeeper, hlisted]; decide)
  · intro s x hmember hprimary hbad
    rw [exec_tapeExchangeComplete hmember hprimary, exchangeGood_false hbad]
    rfl
  · intro s x hmember hprimary hicv hsync hreq hlow hhigh
    have hvalid : ¬ (!(exchangeGood x)) = true := by
      rw [exchangeGood_true hicv hsync hreq hlow hhigh]
      decide
    refine ⟨fun hkeeper hfollows => ?_, fun hside hback => ?_⟩
    · refine (exec_tapeExchangeComplete hmember hprimary).trans ((if_neg hvalid).trans ((if_neg ?_).trans (if_neg ?_)))
      · rw [hkeeper]
        cases onStandby s <;> decide
      · rw [hkeeper, hfollows]
        simp
    · refine (exec_tapeExchangeComplete hmember hprimary).trans ((if_neg hvalid).trans (if_pos ?_))
      rw [hside, hback]
      rfl
  · intro s hstepping
    obtain ⟨htape, hfrac, hfabric⟩ := sameTape_stepTape s
    refine ⟨stepTape s, if_neg (by rw [hstepping]; decide), rfl, ?_, ?_⟩
    · rw [hfabric]
      rfl
    · rw [htape, hfrac, Nat.mul_comm 65536 s.tape]
      exact Nat.div_add_mod (steppedTape s) 65536
  · intro s u hmember hprimary hkeeps hfollows hstandby hu
    subst hu
    refine (if_neg (by rw [hmember, hprimary, hkeeps]; decide)).trans ((if_neg ?_).trans (congrArg Host.Outcome.next ?_))
    · rw [hfollows]
      simpa [Option.isSome_iff_ne_none] using hstandby
    · rw [isStandby_seen]
      cases isStandby (runTo (s.fabric.seenAt + switchNs s) s) <;> rfl

end Sys2Proof.Proofs
end


section
/-! Registers whose write is a command of its own (R14, R42, R235, R250, R436, R450, R469). -/

namespace Sys2Proof.Proofs

open Sys2Proof.Machine Sys2Proof.Laws

/-- A field inside a wider field. -/
theorem natBits_natBits (n : Nat) {hi lo hi' lo' : Nat} (hlo : lo ≤ lo') (hle : lo' ≤ hi') (hhi : hi' ≤ hi) : natBits (natBits n hi lo) (hi' - lo) (lo' - lo) = natBits n hi' lo' := by
  unfold natBits
  refine Nat.eq_of_testBit_eq fun i => ?_
  simp only [Nat.testBit_mod_two_pow, Nat.testBit_div_two_pow, ← Bool.and_assoc, ← Bool.decide_and]
  have hsum : i + (lo' - lo) + lo = i + lo' := by omega
  rw [hsum]
  congr 1
  exact decide_eq_decide.mpr (by omega)

/-- A field reads as the value does where a wider field that holds it does. -/
theorem getBits_within {w v : Word} {hi lo hi' lo' : Nat} (hlo : lo ≤ lo') (hle : lo' ≤ hi') (hhi : hi' ≤ hi) (h : getBits w hi lo = getBits v hi lo) : getBits w hi' lo' = getBits v hi' lo' :=
  (natBits_natBits w.toNat hlo hle hhi).symm.trans ((congrArg (natBits · (hi' - lo) (lo' - lo)) h).trans (natBits_natBits v.toNat hlo hle hhi))

/-! Region registers. -/

/-- The lowest bit of a region register's place. -/
def regionLow (a : Nat) : Nat :=
  match a with
  | 0x40020 => 20
  | 0x700008 => 17
  | 0x800028 => 20
  | 0xA00008 => 20
  | 0x500008 => 13
  | _ => 12

theorem regionLow_le (a : Nat) : regionLow a ≤ 20 := by
  unfold regionLow
  split <;> decide

/-- A region register with its place, and the size of the hem where it is one, as a write gives them. -/
def regionPlaced (a : Nat) (v : Word) (s : State) : State :=
  if a = 0x40020 ∧ 16 ≤ getBits v 56 48 ∧ getBits v 56 48 ≤ 256 then wrF a 56 48 (getBits v 56 48) (wrF a 47 (regionLow a) (getBits v 47 (regionLow a)) s)
  else wrF a 47 (regionLow a) (getBits v 47 (regionLow a)) s

theorem writeRegion_eq (a : Nat) (v : Word) (s : State) : writeRegion a v s =
    wrB a 63 (getBit v 63 && regionFits (regionPlaced a v s) a (rd (regionPlaced a v s) a)) (regionPlaced a v s) := rfl

section
variable {a : Nat} {v : Word} {s : State}

theorem regionPlaced_only : RegsOnly s (regionPlaced a v s) := by
  unfold regionPlaced
  split
  · exact ((RegsOnly.refl s).wrF _ _ _ _).wrF _ _ _ _
  · exact (RegsOnly.refl s).wrF _ _ _ _

theorem rd_regionPlaced_other {b : Nat} (h : b ≠ a) : rd (regionPlaced a v s) b = rd s b := by
  unfold regionPlaced
  split
  · rw [rd_wrF_other _ _ _ _ _ _ h, rd_wrF_other _ _ _ _ _ _ h]
  · rw [rd_wrF_other _ _ _ _ _ _ h]

variable (hs : regsWf s.regs = true)
include hs

theorem regsWf_regionPlaced : regsWf (regionPlaced a v s).regs = true := by
  unfold regionPlaced
  split
  · exact regsWf_wrF _ _ _ _ _ (regsWf_wrF _ _ _ _ _ hs)
  · exact regsWf_wrF _ _ _ _ _ hs

theorem regionPlaced_place : getBits (rd (regionPlaced a v s) a) 47 (regionLow a) = getBits v 47 (regionLow a) := by
  have hlow := regionLow_le a
  have hplace : rdF (wrF a 47 (regionLow a) (getBits v 47 (regionLow a)) s) a 47 (regionLow a) = getBits v 47 (regionLow a) :=
    (rdF_wrF_same _ _ _ _ _ hs (by omega) (by decide)).trans (getBits_mod _ _ _)
  unfold regionPlaced
  split
  · exact (rdF_wrF_other _ _ _ _ _ _ _ (regsWf_wrF _ _ _ _ _ hs) (by decide) (by decide) (.inr (by decide))).trans hplace
  · exact hplace

theorem regionPlaced_size (ha : a = 0x40020) (hsize : 16 ≤ getBits v 56 48 ∧ getBits v 56 48 ≤ 256) : getBits (rd (regionPlaced a v s) a) 56 48 = getBits v 56 48 := by
  unfold regionPlaced
  rw [if_pos ⟨ha, hsize⟩]
  exact (rdF_wrF_same _ _ _ _ _ (regsWf_wrF _ _ _ _ _ hs) (by decide) (by decide)).trans (getBits_mod _ _ _)

end

/-- Whether a region fits depends on the place and the size that its value names, and on what memory is there. -/
theorem regionFits_congr {s t : State} {a : Nat} {v w : Word} (hplaces : ∀ b n, inScratch t b n = inScratch s b n) (hstacks : ∀ b n, inStack t b n = inStack s b n)
    (hplace : getBits w 47 (regionLow a) = getBits v 47 (regionLow a)) (hsize : a = 0x40020 → getBits w 56 48 = getBits v 56 48) : regionFits t a w = regionFits s a v := by
  unfold regionFits
  split
  · rw [hplaces, show getBits w 47 12 = getBits v 47 12 from hplace]
  · rw [hplaces, show getBits w 47 20 = getBits v 47 20 from hplace, hsize rfl]
  · rw [hplaces, show getBits w 47 17 = getBits v 47 17 from hplace]
  · rw [hstacks, show getBits w 47 20 = getBits v 47 20 from hplace]
  · rfl

theorem inScratch_congr {s t : State} (hsplit : rd t (sliceReg 0 0) = rd s (sliceReg 0 0)) (a n : Nat) : inScratch t a n = inScratch s a n := by
  unfold inScratch scratchMiB rdF
  rw [hsplit]

theorem inStack_congr {s t : State} (hfuse : t.fuse = s.fuse) (a n : Nat) : inStack t a n = inStack s a n := by
  unfold inStack capacity
  rw [hfuse]

theorem regionFits_regionPlaced {a : Nat} {v : Word} {s : State} (hs : regsWf s.regs = true) (ha : sliceReg 0 0 ≠ a)
    (hsize : a = 0x40020 → 16 ≤ getBits v 56 48 ∧ getBits v 56 48 ≤ 256) : regionFits (regionPlaced a v s) a (rd (regionPlaced a v s) a) = regionFits s a v :=
  regionFits_congr (inScratch_congr (rd_regionPlaced_other ha)) (inStack_congr (by rw [regionPlaced_only])) (regionPlaced_place hs) fun h => regionPlaced_size hs h (hsize h)

theorem regionRegs_low {a : Nat} (h : regionRegs.contains a = true) : a < 0x1000000 := by
  have hall : ∀ a ∈ regionRegs, a < 0x1000000 := by decide
  exact hall a (List.contains_iff_mem.mp h)

/-- A write of a region register: its place is taken, and ENABLE where the region fits. -/
theorem regionWritten {a : Nat} {v : Word} {s : State} (hs : regsWf s.regs = true) (ha : regionRegs.contains a = true) :
    (getBit v 63 = false → rdB (writeRegion a v s) a 63 = false) ∧ rdF (writeRegion a v s) a 47 20 = getBits v 47 20 ∧
    (getBit v 63 = true → (a = 0x40020 → 16 ≤ getBits v 56 48 ∧ getBits v 56 48 ≤ 256) → regionFits s a v = true → rdB (writeRegion a v s) a 63 = true) ∧
    RegsOnly s (writeRegion a v s) ∧ ∀ b, b ≠ a → rd (writeRegion a v s) b = rd s b := by
  have henable (x : Bool) : rdB (wrB a 63 x (regionPlaced a v s)) a 63 = x := rdB_wrB_same _ _ _ _ (regsWf_regionPlaced hs) (by decide)
  have hlow := regionRegs_low ha
  rw [writeRegion_eq]
  refine ⟨fun hclear => ?_, ?_, fun hset hsize hfits => ?_, regionPlaced_only.wrB _ _ _, fun b hb => (rd_wrB_other _ _ _ _ _ hb).trans (rd_regionPlaced_other hb)⟩
  · rw [henable, hclear]
    rfl
  · rw [rdF_wrB_other (regsWf_regionPlaced hs) (by decide) (.inr (by decide))]
    exact getBits_within (regionLow_le a) (by decide) (Nat.le_refl _) (regionPlaced_place hs)
  · rw [henable, hset, regionFits_regionPlaced hs (by unfold sliceReg; omega) hsize, hfits]
    rfl

/-- Settles O45: each register takes what is written, a period or a region only where it is legal or fits, and nothing else changes. -/
theorem registerCommands : Obligations.RegisterCommands := by
  unfold Obligations.RegisterCommands
  refine ⟨?_, ?_, ?_, ?_, ?_, ?_⟩
  · intro s value hcanon
    have hs := hcanon.regs
    have hwf : regsWf (wrF 0x100008 21 0 (getBits value 21 0) s).regs = true := regsWf_wrF _ _ _ _ _ hs
    refine ⟨_, rfl, ?_, ?_, rfl, fun a ha => (rd_wrB_other _ _ _ _ _ ha).trans (rd_wrF_other _ _ _ _ _ _ ha)⟩
    · rw [rdF_wrB_other hwf (by decide) (.inr (by decide)), rdF_wrF_same _ _ _ _ _ hs (by decide) (by decide)]
      exact getBits_mod _ _ _
    · rw [rdB_wrB_same _ _ _ _ hwf (by decide), Bool.decide_and, Bool.decide_and, Bool.and_assoc]
  · intro s value hcanon
    have hs := hcanon.regs
    refine ⟨_, rfl, ?_, rdF_wrF_other _ _ _ _ _ _ _ hs (by decide) (by decide) (.inl (by decide)), rfl, fun a ha => rd_wrF_other _ _ _ _ _ _ ha⟩
    exact (rdF_wrF_same _ _ _ _ _ hs (by decide) (by decide)).trans (getBits_mod _ _ _)
  · intro s n value hcanon hn
    refine ⟨_, if_neg (by omega), ?_, rfl, fun a ha => rd_wrF_other _ _ _ _ _ _ ha⟩
    exact (rdF_wrF_same _ _ _ _ _ hcanon.regs (by decide) (by decide)).trans (getBits_mod _ _ _)
  · intro s a value hcanon ha
    obtain ⟨hclear, hplace, hfits, honly, hother⟩ := regionWritten (v := value) hcanon.regs ha
    exact ⟨writeRegion a value s, if_pos ha, rfl, hclear, hplace, hfits, honly, hother⟩
  · intro s c value g i hcanon hc hset
    exact ⟨_, exec_counterCtrlClear hc hset, clearGroup_frame hc, fun a ha hne => rd_clearGroup_counter hc hcanon.regs hne ha, rd_clearGroup_ctrl hc hcanon.regs,
      fun a hne ha => rd_clearGroup_other hc hne ha⟩
  · intro s op
    rfl

end Sys2Proof.Proofs
end


section
/-! The device, tenant, budget and notice families when they succeed (R13 to R16, R341 to R350). -/

namespace Sys2Proof.Proofs

open Sys2Proof.Machine Sys2Proof.Laws

/-! A request that the controller takes, whose length is right. -/

section
variable {c : CmdSpec} {len : Bool} {b : State → Reply} {r : Req} {s t : State} (h : Takes c r s) (hlen : len = true)
include h hlen

theorem taken_answers {p : List Byte} (hb : b s = .done p t) : Machine.control c len b r s = answered r c.code p t := control_done c len b r s t p h hlen hb

theorem taken_waits (hb : b s = .later t) : Machine.control c len b r s = .next t := control_later c len b r s t h hlen hb

theorem taken_refuses {st f v : Nat} (hb : b s = .refuse st f v) : Machine.control c len b r s = .next (respond r.mailbox r.session r.correlation c.code st (detail f v) s) :=
  control_refused c len b r s st f v h hlen hb

end

theorem exactly_of {r : Req} {n : Nat} (h : r.payload.length = n) : exactly r n = true := decide_eq_true h

theorem exactly_empty {r : Req} (h : r.payload = []) : exactly r 0 = true := exactly_of (congrArg List.length h)

/-- Settles O48: each command of the family passes its checks one by one. -/
theorem deviceCommands : Obligations.DeviceCommands := by
  unfold Obligations.DeviceCommands
  refine ⟨?_, ?_, ?_, ?_, ?_, ?_⟩
  · intro s r h hlen
    dsimp only [exec, execDeviceInfo]
    exact taken_answers h (exactly_empty hlen) rfl
  · intro s r h hlen
    dsimp only [exec, execDeviceStatus]
    exact taken_answers h (exactly_empty hlen) rfl
  · intro s r u h hlen hmargin hlow hhigh hu
    subst hu
    dsimp only [exec, execDevicePlan]
    exact taken_answers h (exactly_of hlen) ((if_neg (by omega)).trans ((if_neg (by omega)).trans (if_neg (by omega))))
  · intro s r h hlen hport hmode hmember hpending
    dsimp only [exec, execDevicePort]
    refine taken_answers h (exactly_of hlen) ((if_neg (by omega)).trans ((if_neg (by omega)).trans ((if_neg ?_).trans (if_neg ?_))))
    · rintro ⟨hback, hin⟩
      exact Bool.false_ne_true ((hmember hback).symm.trans hin)
    · rw [hpending]
      exact Bool.false_ne_true
  · intro s r h hlen hport hiface hfamily
    dsimp only [exec, execDeviceAddr]
    exact taken_answers h (exactly_of hlen) ((if_neg (by omega)).trans ((if_neg (by omega)).trans ((if_neg (by omega)).trans (if_neg (by omega)))))
  · intro s r h hlen hkind
    dsimp only [exec, execDeviceReset]
    exact taken_answers h (exactly_of hlen) (if_neg (not_not.mpr hkind))

theorem armPeriod_only (ns : Nat) (s : State) : RegsOnly s (armPeriod ns s) := ((RegsOnly.refl s).wrF _ _ _ _).wrB _ _ _

theorem rd_armPeriod_other {a : Nat} (h : a ≠ 0x100008) (ns : Nat) (s : State) : rd (armPeriod ns s) a = rd s a := by
  rw [armPeriod, rd_wrB_other _ _ _ _ _ h, rd_wrF_other _ _ _ _ _ _ h]

/-- Settles O49: a period from 50 to 4,000 µs is armed in TICK_PERIOD_NEXT alone, any other refused by one of the two limits. -/
theorem tickPeriodCommand : Obligations.TickPeriodCommand := by
  unfold Obligations.TickPeriodCommand
  intro s r h hlen
  refine ⟨fun hlow hhigh hmember hcanon => ?_, fun hbad => ?_⟩
  · obtain ⟨-, hs, -⟩ := hcanon
    have hwf : regsWf (wrF 0x100008 21 0 (1000 * pay r 0 4) s).regs = true := regsWf_wrF _ _ _ _ _ hs
    refine ⟨armPeriod (1000 * pay r 0 4) s, ?_, ?_, rdB_wrB_same _ _ _ _ hwf (by decide), ?_, armPeriod_only _ s, fun a ha => rd_armPeriod_other ha _ s⟩
    · dsimp only [exec, execDeviceTick]
      refine taken_answers h (exactly_of hlen) ((if_neg (by omega)).trans ((if_neg (by omega)).trans (if_neg ?_)))
      exact fun hin => Bool.false_ne_true (hmember.symm.trans hin)
    · rw [armPeriod, rdF_wrB_other hwf (by decide) (.inr (by decide)), rdF_wrF_same _ _ _ _ _ hs (by decide) (by decide)]
      exact Nat.mod_eq_of_lt (by omega)
    · exact congrArg (fun w => getBits w 21 0) (rd_armPeriod_other (a := 0x100000) (by decide) _ s)
  · dsimp only [exec, execDeviceTick]
    rcases Nat.lt_or_ge (pay r 0 4) 50 with hlow | hlow
    · exact ⟨50, taken_refuses h (exactly_of hlen) (if_pos hlow)⟩
    · exact ⟨4000, taken_refuses h (exactly_of hlen) ((if_neg (by omega)).trans (if_pos (by omega)))⟩

/-! The tenant family. -/

section
variable {s : State} {r : Req}

theorem tenantFields_good (hid : pay r 0 1 ≤ 63) (hsession : pay r 1 1 ≤ 15) (hweight : pay r 2 2 ≠ 0) : tenantFields r = none := by
  unfold tenantFields
  rw [if_neg (by omega), if_neg (by omega), if_neg hweight]

theorem named_live (hid : pay r 0 1 ≤ 63) (hlive : (tenantOf s (pay r 0 1)).live = true) : ¬ (63 < pay r 0 1 ∨ (!(tenantOf s (pay r 0 1)).live) = true) := by
  rw [hlive]
  simpa using hid

theorem not_foreign {n : Nat} (h : foreign r n = false) : ¬ foreign r n = true := by
  rw [h]
  exact Bool.false_ne_true

end

/-- The weight and the quota of a tenant, and the session of its route. -/
def tenantSetting (r : Req) (s : State) : State :=
  let u := setTenant (pay r 0 1) { tenantOf s (pay r 0 1) with qos := pay r 2 2, quota := pay r 4 4 } s
  { u with routes := sput (fun _ => Route.all) u.routes (pay r 0 1) { sget (fun _ => Route.all) s.routes (pay r 0 1) with session := pay r 1 1 } }

theorem tenantSetting_frame (r : Req) (s : State) : tenantSetting r s = { s with tenants := (tenantSetting r s).tenants, routes := (tenantSetting r s).routes } := rfl

/-- BUCKET_CFG of a tenant as budget.set gives it. -/
def bucketSet (r : Req) (s : State) : State :=
  wrF (bucketCfg (pay r 0 1)) 63 55 (pay r 2 2) (wrF (bucketCfg (pay r 0 1)) 54 24 (pay r 8 4) (wrF (bucketCfg (pay r 0 1)) 23 0 (pay r 4 4) s))

theorem bucketSet_only (r : Req) (s : State) : RegsOnly s (bucketSet r s) := (((RegsOnly.refl s).wrF _ _ _ _).wrF _ _ _ _).wrF _ _ _ _

theorem rd_bucketSet_other {r : Req} {a : Nat} (h : a ≠ bucketCfg (pay r 0 1)) (s : State) : rd (bucketSet r s) a = rd s a := by
  rw [bucketSet, rd_wrF_other _ _ _ _ _ _ h, rd_wrF_other _ _ _ _ _ _ h, rd_wrF_other _ _ _ _ _ _ h]

theorem rdF_bucketSet {r : Req} {s : State} (hs : regsWf s.regs = true) (hburst : pay r 2 2 ≤ 256) (hrate : pay r 4 4 < 2 ^ 24) (hcap : pay r 8 4 < 2 ^ 31) :
    rdF (bucketSet r s) (bucketCfg (pay r 0 1)) 23 0 = pay r 4 4 ∧ rdF (bucketSet r s) (bucketCfg (pay r 0 1)) 54 24 = pay r 8 4 ∧
    rdF (bucketSet r s) (bucketCfg (pay r 0 1)) 63 55 = pay r 2 2 := by
  have hs1 := regsWf_wrF (bucketCfg (pay r 0 1)) 23 0 (pay r 4 4) s hs
  have hs2 := regsWf_wrF (bucketCfg (pay r 0 1)) 54 24 (pay r 8 4) _ hs1
  unfold bucketSet
  refine ⟨?_, ?_, ?_⟩
  · rw [rdF_wrF_other _ _ _ _ _ _ _ hs2 (by decide) (by decide) (.inr (by decide)), rdF_wrF_other _ _ _ _ _ _ _ hs1 (by decide) (by decide) (.inr (by decide)),
      rdF_wrF_same _ _ _ _ _ hs (by decide) (by decide)]
    exact Nat.mod_eq_of_lt hrate
  · rw [rdF_wrF_other _ _ _ _ _ _ _ hs2 (by decide) (by decide) (.inr (by decide)), rdF_wrF_same _ _ _ _ _ hs1 (by decide) (by decide)]
    exact Nat.mod_eq_of_lt hcap
  · rw [rdF_wrF_same _ _ _ _ _ hs2 (by decide) (by decide)]
    exact Nat.mod_eq_of_lt (by omega)

/-- Settles O50: each command of the families passes its checks one by one. -/
theorem tenantCommands : Obligations.TenantCommands := by
  unfold Obligations.TenantCommands
  refine ⟨?_, ?_, ?_, ?_, ?_, ?_, ?_, ?_, ?_⟩
  · intro s r h hlen hid hsession hweight hprofile hfree
    dsimp only [exec, execTenantCreate]
    refine taken_answers h (exactly_of hlen) ?_
    rw [tenantFields_good hid hsession hweight]
    exact if_neg (by rw [hprofile, hfree]; decide)
  · intro s r h hlen hprofile hid hlive hmodels hseqs
    dsimp only [exec, execTenantDestroy]
    refine taken_answers h (exactly_of hlen) ((if_neg ?_).trans ((if_neg (named_live hid hlive)).trans (if_neg (by omega))))
    rw [hprofile]
    exact Bool.false_ne_true
  · intro s r h hlen hid hlive
    dsimp only [exec, execTenantReset]
    exact taken_waits h (exactly_of hlen) (if_neg (named_live hid hlive))
  · intro s r h hlen hid hsession hweight hlive
    refine ⟨tenantSetting r s, ?_, rfl, rfl, fun n hn => sget_sput_other _ _ _ _ _ hn⟩
    dsimp only [exec, execTenantSet]
    refine taken_answers h (exactly_of hlen) ?_
    rw [tenantFields_good hid hsession hweight]
    exact if_neg (by rw [hlive]; decide)
  · intro s r h hlen hid hown hlive
    dsimp only [exec, execTenantQuery]
    exact taken_answers h (exactly_of hlen) ((if_neg (not_foreign hown)).trans (if_neg (named_live hid hlive)))
  · intro s r h hlen hid hlive hburst hrate hcap hcanon
    obtain ⟨h23, h54, h63⟩ := rdF_bucketSet hcanon.regs hburst hrate hcap
    refine ⟨bucketSet r s, ?_, h23, h54, h63, bucketSet_only r s, fun a ha => rd_bucketSet_other ha s⟩
    dsimp only [exec, execBudgetSet]
    exact taken_answers h (exactly_of hlen) ((if_neg (by omega)).trans ((if_neg (by omega)).trans ((if_neg (by omega)).trans (if_neg (named_live hid hlive)))))
  · intro s r h hlen hid hown hlive
    dsimp only [exec, execBudgetQuery]
    exact taken_answers h (exactly_of hlen) ((if_neg (not_foreign hown)).trans (if_neg (named_live hid hlive)))
  · intro s r h hlen hnamed hsession
    dsimp only [exec, execNoticeRoute]
    refine taken_answers h (exactly_of hlen) ?_
    rw [hnamed]
    exact if_neg (by omega)
  · intro s r h hlen hnamed
    dsimp only [exec, execNoticeQuery]
    refine taken_answers h (exactly_of hlen) ?_
    rw [hnamed]

end Sys2Proof.Proofs
end


section
/-! The model and grammar families when they succeed (R32, R160, R240, R341, R346, R347, R399, R401, R440, R441). -/

namespace Sys2Proof.Proofs

open Sys2Proof.Machine Sys2Proof.Laws

theorem not_not_eq_true {b : Bool} (h : b = true) : ¬ (!b) = true := by
  rw [h]
  exact Bool.false_ne_true

/-- The number an image gets: the lowest that is free, or the one that is named and free. -/
theorem chosenModel {u : State} {want m : Nat} (h : want = 0xFFFF ∧ freeModelNo u = some m ∨ want ≤ 2047 ∧ m = want ∧ (modelOf u m).live = false) :
    (if want = 0xFFFF then freeModelNo u else if (modelOf u want).live then none else some want) = some m := by
  rcases h with ⟨hany, hfree⟩ | ⟨hle, rfl, hdead⟩
  · exact (if_pos hany).trans hfree
  · exact (if_neg (by omega)).trans (if_neg (by rw [hdead]; exact Bool.false_ne_true))

theorem chosenGrammar {u : State} {want g : Nat} (h : want = 0xFF ∧ freeGrammarNo u = some g ∨ want ≠ 0xFF ∧ g = want ∧ (grammarOf u g).live = false) :
    (if want = 0xFF then freeGrammarNo u else if (grammarOf u want).live then none else some want) = some g := by
  rcases h with ⟨hany, hfree⟩ | ⟨hne, rfl, hdead⟩
  · exact (if_pos hany).trans hfree
  · exact (if_neg hne).trans (if_neg (by rw [hdead]; exact Bool.false_ne_true))

section
variable {s : State} {r : Req}

theorem exec_modelStage {owner i a : Nat} {t : State} (h : Takes ⟨0x0301, [0, 1], true⟩ r s) (hlen : r.payload.length = 16)
    (howner : owner = (if roleOf r.mailbox = 0 then r.mailbox else pay r 8 1)) (hle : owner ≤ 64) (hlive : owner < 64 → (tenantOf s owner).live = true)
    (hfree : freeStageNo s = some i) (hblock : allotBlock (pay r 0 8) s = some (a, t)) :
    exec (.modelStage r) s = answered r 0x0301 (leBytes 2 i ++ zeros 6) (setStage i ⟨true, owner, a, pay r 0 8⟩ t) := by
  dsimp only [exec, execModelStage]
  refine taken_answers h (exactly_of hlen) ?_
  rw [roleIn, ← howner, if_neg (by omega), if_neg, hfree]
  · dsimp only
    rw [hblock]
  · rintro ⟨hlt, hdead⟩
    exact not_not_eq_true (hlive hlt) hdead

theorem exec_modelPut {x : Stage} (h : Takes ⟨0x0302, [0, 1], true⟩ r s) (hlow : 13 ≤ r.payload.length) (hhigh : r.payload.length ≤ 9120) (hx : x = stageOf s (pay r 0 2))
    (hlive : x.live = true) (hown : ownsObject r x.owner = true) (hfits : pay r 4 8 + (r.payload.drop 12).length ≤ x.size) :
    exec (.modelPut r) s = answered r 0x0302 [] (storeBytes true (tenantCtx s x.owner) (x.base + pay r 4 8) (r.payload.drop 12) false s) := by
  subst hx
  dsimp only [exec, execModelPut]
  refine taken_answers h ?_ ((if_neg (not_not_eq_true hlive)).trans ((if_neg (not_not_eq_true hown)).trans (if_neg (Nat.not_lt.mpr hfits))))
  exact Bool.and_eq_true_iff.mpr ⟨decide_eq_true hlow, decide_eq_true hhigh⟩

theorem exec_modelLoad {ok : Verified} {x : Stage} {u v w : State} {m base : Nat} {d : List Byte} (h : Takes ⟨0x0303, [0, 1], true⟩ r s) (hlen : r.payload.length = 8)
    (hx : x = stageOf s (pay r 0 2)) (hlive : x.live = true) (hown : ownsObject r x.owner = true) (hu : u = adoptBlock (tenantCtx s x.owner) x.base x.size s)
    (himage : imageFault (stagedReader u x) x.size = none) (hsig : signatureFault u (stagedReader u x) x.size 128 ok = none)
    (hm : pay r 2 2 = 0xFFFF ∧ freeModelNo u = some m ∨ pay r 2 2 ≤ 2047 ∧ m = pay r 2 2 ∧ (modelOf u m).live = false) (hd : d = digest (stagedBytes u x))
    (hplace : placeImage (pay r 4 1 % 2 == 1) x u = some (base, v)) (hw : w = takeModel (pay r 0 2) m base (pay r 4 1 % 2 == 1) x d v) (hstages : (divideModel w m).length ≤ 32) :
    exec (.modelLoad r ok) s = answered r 0x0303 (leBytes 2 m ++ leBytes 1 (divideModel w m).length ++ zeros 5) (enterModel m x.owner d w) := by
  subst hx
  dsimp only [exec, execModelLoad]
  refine taken_answers h (exactly_of hlen) ((if_neg (not_not_eq_true hlive)).trans ((if_neg (not_not_eq_true hown)).trans ((if_neg (by omega)).trans ?_)))
  rw [← hu, himage]
  dsimp only
  rw [hsig]
  dsimp only
  rw [chosenModel hm]
  dsimp only
  rw [hplace]
  dsimp only
  rw [← hd, ← hw, if_neg (by omega)]

/-- An unload without open sequences is done at once, one with FORCE waits for the next edge. -/
theorem exec_modelUnload (h : Takes ⟨0x0304, [0, 1], false⟩ r s) (hlen : r.payload.length = 3) (hnamed : modelNamed r s false = none) :
    (seqsOfModel s (pay r 0 2) = [] → exec (.modelUnload r) s = answered r 0x0304 [] (freeModel (pay r 0 2) s)) ∧
    (seqsOfModel s (pay r 0 2) ≠ [] → pay r 2 1 % 2 = 1 → exec (.modelUnload r) s =
      .next (setModel (pay r 0 2) { modelOf s (pay r 0 2) with unload := (modelOf s (pay r 0 2)).unload ++ [waiterOf r 0x0304] } s)) := by
  dsimp only [exec, execModelUnload]
  refine ⟨fun hempty => taken_answers h (exactly_of hlen) ?_, fun hopen hforce => taken_waits h (exactly_of hlen) ?_⟩
  · rw [hnamed]
    exact if_pos (by rw [hempty]; rfl)
  · rw [hnamed]
    exact (if_neg (by rw [List.isEmpty_iff]; exact hopen)).trans (if_neg (by omega))

theorem exec_modelRestore {x : Model} (h : Takes ⟨0x0307, [1], true⟩ r s) (hlen : r.payload.length = 4112) (hnamed : modelNamed r s true = none) (hx : x = modelOf s (pay r 0 2))
    (haligned : pay r 8 8 % 4096 = 0) (hlow : x.base < pay r 8 8 + 4096) (hhigh : pay r 8 8 < x.base + x.size) (hquar : x.quarantined = true) :
    exec (.modelRestore r) s = answered r 0x0307 [] (restoreBlock (pay r 0 2) (pay r 8 8) (r.payload.drop 16) s) := by
  subst hx
  dsimp only [exec, execModelRestore]
  refine taken_answers h (exactly_of hlen) ?_
  rw [hnamed]
  exact (if_neg (by omega)).trans (if_neg (not_not_eq_true hquar))

theorem exec_grammarLoad {ok : Verified} {x : Stage} {u t : State} {g a : Nat} (h : Takes ⟨0x0601, [0, 1], true⟩ r s) (hlen : r.payload.length = 8)
    (hx : x = stageOf s (pay r 0 2)) (hlive : x.live = true) (hown : ownsObject r x.owner = true) (hu : u = adoptBlock (tenantCtx s x.owner) x.base x.size s)
    (hgrammar : grammarFault (stagedReader u x) x.size = none) (hsig : signatureFault u (stagedReader u x) x.size (grammarRef (stagedReader u x) x.size) ok = none)
    (hg : pay r 2 1 = 0xFF ∧ freeGrammarNo u = some g ∨ pay r 2 1 ≠ 0xFF ∧ g = pay r 2 1 ∧ (grammarOf u g).live = false)
    (hblock : allotBlock (8 * stagedReader u x 12 4 + 8 * stagedReader u x 28 4) u = some (a, t)) :
    exec (.grammarLoad r ok) s = answered r 0x0601 (leBytes 1 g) (enterGrammar g a (pay r 0 2) x r u t) := by
  subst hx
  dsimp only [exec, execGrammarLoad]
  refine taken_answers h (exactly_of hlen) ((if_neg (not_not_eq_true hlive)).trans ((if_neg (not_not_eq_true hown)).trans ?_))
  rw [← hu, hgrammar]
  dsimp only
  rw [hsig]
  dsimp only
  rw [chosenGrammar hg]
  dsimp only
  rw [hblock]

theorem exec_grammarUnload {x : Grammar} (h : Takes ⟨0x0602, [0, 1], false⟩ r s) (hlen : r.payload.length = 1) (hx : x = grammarOf s (pay r 0 1)) (hlive : x.live = true)
    (hown : ownsObject r x.owner = true) (hunused : s.seqs.any (fun e => isOpen e.2 && decide (e.2.par.grammar = some (pay r 0 1))) = false) :
    exec (.grammarUnload r) s = answered r 0x0602 [] (freeBlock x.base (setGrammar (pay r 0 1) Grammar.none
      (storeBytes true (deviceCtx s) (grammarDesc s (pay r 0 1)) (zeros 32) false s))) := by
  subst hx
  dsimp only [exec, execGrammarUnload]
  refine taken_answers h (exactly_of hlen) ((if_neg (not_not_eq_true hlive)).trans ((if_neg (not_not_eq_true hown)).trans (if_neg ?_)))
  rw [hunused]
  exact Bool.false_ne_true

end

/-- Settles O51: each command of the family passes its checks one by one. -/
theorem modelCommands : Obligations.ModelCommands := by
  unfold Obligations.ModelCommands
  refine ⟨?_, ?_, ?_, ?_, ?_, ?_, ?_, ?_⟩
  · intro s r owner i a t h hlen howner hle hlive hfree hblock
    exact exec_modelStage h hlen howner hle hlive hfree hblock
  · intro s r x h hlow hhigh hx hlive hown hfits
    exact exec_modelPut h hlow hhigh hx hlive hown hfits
  · intro s r ok x u m base v w d h hlen hx hlive hown hu himage hsig hm hd hplace hw hstages
    exact exec_modelLoad h hlen hx hlive hown hu himage hsig hm hd hplace hw hstages
  · intro s r h hlen hnamed
    exact exec_modelUnload h hlen hnamed
  · intro s r z h hlen hz hnamed hmode hclip hclip' hhead hhead'
    subst hz
    dsimp only [exec, execModelScale]
    refine taken_answers h (exactly_of hlen) ?_
    rw [hnamed]
    exact (if_neg (by omega)).trans ((if_neg (by omega)).trans (if_neg (by omega)))
  · intro s r x h hlen hnamed hx
    subst hx
    dsimp only [exec, execModelQuery]
    refine taken_answers h (exactly_of hlen) ?_
    rw [hnamed]
  · intro s r x h hlen hnamed hx haligned hlow hhigh hquar
    exact exec_modelRestore h hlen hnamed hx haligned hlow hhigh hquar
  · intro s r x h hlen hnamed hx
    subst hx
    dsimp only [exec, execModelReplica]
    refine taken_answers h (exactly_of hlen) ?_
    rw [hnamed]

/-- Settles O52: both commands of the family pass their checks one by one. -/
theorem grammarCommands : Obligations.GrammarCommands := by
  unfold Obligations.GrammarCommands
  refine ⟨?_, ?_⟩
  · intro s r ok x u g a t h hlen hx hlive hown hu hgrammar hsig hg hblock
    exact exec_grammarLoad h hlen hx hlive hown hu hgrammar hsig hg hblock
  · intro s r x h hlen hx hlive hown hunused
    exact exec_grammarUnload h hlen hx hlive hown hunused

end Sys2Proof.Proofs
end


section
/-! The sequence and prefix families when they succeed (R220 to R223, R230 to R233, R249, R250, R329, R341, R348). -/

namespace Sys2Proof.Proofs

open Sys2Proof.Machine Sys2Proof.Laws

/-- The prefix that a sequence starts from. -/
def startPrefix (p : SeqParams) (s : State) : Prefix :=
  match p.prefixRec with
  | none => Prefix.none
  | some h => prefixOf s (h % 4096)

section
variable {s : State} {r : Req}

/-! The sequence family. -/

theorem exec_seqOpen {n list ring : Nat} {p : SeqParams} {img : Reader} {pre : Prefix} {t u : State} {x : Seq} (h : Takes ⟨0x0401, [0], true⟩ r s) (hlen : openLength r = true)
    (hgood : openFault r s = none) (hn : freeContext s = some n) (hp : p = openParams r) (himg : img = imageOf s (modelOf s p.model))
    (hpre : pre = startPrefix p s) (hring : allotBlock 65536 s = some (ring, t))
    (hlist : allotBlock (4 * imgLayers img * maxPages img) t = some (list, u))
    (hx : x = { Seq.none with
      gen := (seqOf s n).gen, state := .idle, tenant := r.mailbox, par := p, ringAddr := ring, listAddr := list, gstate := grammarStart s p.grammar, lastServed := s.edge, flushed := pre.length, committed := pre.length }) :
    exec (.seqOpen r) s = answered r 0x0401 (leBytes 2 n ++ leBytes 2 x.gen ++ leBytes 4 pre.length ++ leBytes 4 16384)
      (setSeq n x (startList n x (imgLayers img) (maxPages img) pre.pages u)) := by
  subst hp himg hpre hx
  dsimp only [exec, execSeqOpen]
  refine taken_answers h hlen ?_
  rw [hgood]
  dsimp only
  rw [hn]
  dsimp only [openInto, openIn]
  rw [hring]
  dsimp only
  rw [hlist]
  rfl

/-- The slot of a feed is released, if it still holds one. -/
def feedSlotFreed (r : Req) (s : State) : State := if slotKind s r.mailbox r.slot = .data ∨ slotKind s r.mailbox r.slot = .late then setSlotKind r.mailbox r.slot .free s else s

/-- A feed that succeeds releases its slot, and is answered unless it has NORESP. -/
theorem exec_seqFeed {flags : Nat} {p : List Byte} {t : State} (hclean : slotPoisoned s r = false) (hmemory : rdB s 0x50008 61 = false) (hfeed : feed r flags s = .done p t) :
    exec (.seqFeed r flags) s = (if flagNoresp flags then .next (feedSlotFreed r t) else answered r 0x0402 p (feedSlotFreed r t)) := by
  dsimp only [exec, execSeqFeed]
  rw [if_neg (by rw [hclean]; exact Bool.false_ne_true), if_neg (by rw [hmemory]; exact Bool.false_ne_true), hfeed]
  dsimp only
  split
  · rfl
  · rfl

/-- A feed of an open sequence whose ids all lie in the vocabulary. -/
theorem feed_accepted {flags : Nat} {x : Seq} (hx : x = seqOf s (pay r 0 2)) (hfaulted : (modelOf s (seqOf s (pay r 0 2)).par.model).faulted = false) (hbox : r.mailbox < 64)
    (hn : pay r 0 2 < 4096) (hopen : x.state ≠ .free) (hrunning : x.state ≠ .ending) (hgen : x.gen = pay r 2 2) (hown : x.tenant = r.mailbox) (hlate : fedLate r x s = false)
    (hlen : r.payload.length = 8 + 4 * pay r 4 4) (hsome : 1 ≤ pay r 4 4) (hmany : pay r 4 4 ≤ 2278) (hdraft : flagDraft flags = true → x.par.draftSource = 1)
    (hids : firstBeyond (imgVocab (imageOf s (modelOf s x.par.model))) (idsAt r.payload 8 (pay r 4 4)) = none) :
    feed r flags s = (if flagDraft flags then .done (leBytes 4 (16384 - x.ringCount)) (setSeq (pay r 0 2) { x with drafts := x.drafts ++ idsAt r.payload 8 (pay r 4 4) } s)
      else if 16384 - x.ringCount < pay r 4 4 then .refuse 0x0302 4 (16384 - x.ringCount)
      else .done (leBytes 4 (16384 - x.ringCount - pay r 4 4)) (ringAppend (pay r 0 2) (idsAt r.payload 8 (pay r 4 4)) s)) := by
  subst hx
  unfold feed
  dsimp only
  rw [if_neg (by omega), if_neg (by omega), if_neg (by omega), if_neg, if_neg (not_not.mpr hown), if_neg, if_neg, if_neg, hids]
  · exact fun ⟨hd, hne⟩ => hne (hdraft hd)
  · rw [hfaulted]
    exact Bool.false_ne_true
  · rintro (h | h)
    · exact hrunning h
    · exact Bool.false_ne_true (hlate.symm.trans h)
  · rintro (h | h | h)
    · omega
    · exact hopen h
    · exact h hgen

theorem exec_seqAllow {x : Seq} (h : Takes ⟨0x0405, [0], false⟩ r s) (hlen : r.payload.length = 8 + 4 * pay r 6 2) (hseq : seqFault r 0 s = none) (hx : x = seqOf s (pay r 0 2))
    (hsome : 1 ≤ pay r 6 2) (hmany : pay r 6 2 ≤ 2278) (hplace : pay r 4 2 = x.allowed.length) (hfits : x.allowed.length + pay r 6 2 ≤ x.par.nlist)
    (hrising : firstNotRising (imgVocab (imageOf s (modelOf s x.par.model))) x.allowed.getLast? 0 (idsAt r.payload 8 (pay r 6 2)) = none) :
    exec (.seqAllow r) s = answered r 0x0405 [] (setSeq (pay r 0 2) (afterIntake { x with allowed := x.allowed ++ idsAt r.payload 8 (pay r 6 2) }) s) := by
  subst hx
  dsimp only [exec, execSeqAllow]
  refine taken_answers h (Bool.and_eq_true_iff.mpr ⟨decide_eq_true (by omega), decide_eq_true hlen⟩) ?_
  rw [hseq]
  dsimp only
  rw [if_neg (by omega), if_neg (by omega), if_neg (by omega), hrising]

/-! The prefix family. -/

theorem exec_prefixPin {x : Seq} (h : Takes ⟨0x0501, [0], true⟩ r s) (hlen : r.payload.length = 8) (hseq : seqFault r 0 s = none) (hx : x = seqOf s (pay r 0 2))
    (hrunning : x.state ≠ .ending) (hkept : x.cancelPending = false) (hsome : 1 ≤ pay r 4 4) (hcommitted : pay r 4 4 ≤ x.committed)
    (hroom : (s.prefixes.filter (fun e => e.2.live)).length < 4096) :
    exec (.prefixPin r) s = .next (setSeq (pay r 0 2) { x with pin := x.pin ++ [(waiterOf r 0x0501, pay r 4 4, none)] } s) := by
  subst hx
  dsimp only [exec, execPrefixPin]
  refine taken_waits h (exactly_of hlen) ?_
  rw [hseq]
  refine (if_neg ?_).trans ((if_neg (by omega)).trans (if_neg (by omega)))
  rintro (h | h)
  · exact hrunning h
  · exact Bool.false_ne_true (hkept.symm.trans h)

end

/-- Settles O53: each command of the family passes its checks one by one; a feed releases its slot. -/
theorem sequenceCommands : Obligations.SequenceCommands := by
  unfold Obligations.SequenceCommands
  refine ⟨?_, ?_, ?_, ?_, ?_, ?_⟩
  · intro s r n p img pre ring list t u x h hlen hgood hn hp himg hpre hring hlist hx
    exact exec_seqOpen h hlen hgood hn hp himg hpre hring hlist hx
  · intro s r flags x u hfaulted hclean hmemory hbox hx hn hopen hrunning hgen hown hlate hlen hsome hmany hdraft hids hroom hu
    subst hu
    refine exec_seqFeed hclean hmemory ((feed_accepted hx hfaulted hbox hn hopen hrunning hgen hown hlate hlen hsome hmany ?_ hids).trans ((if_neg ?_).trans (if_neg (by omega))))
    · exact fun hd => absurd (hdraft.symm.trans hd) Bool.false_ne_true
    · rw [hdraft]
      exact Bool.false_ne_true
  · intro s r flags x u hfaulted hclean hmemory hbox hx hn hopen hrunning hgen hown hlate hlen hsome hmany hdraft hsource hids hu
    subst hu
    exact exec_seqFeed hclean hmemory ((feed_accepted hx hfaulted hbox hn hopen hrunning hgen hown hlate hlen hsome hmany (fun _ => hsource) hids).trans (if_pos hdraft))
  · intro s r x h hlen hseq hx
    subst hx
    dsimp only [exec, execSeqCancel]
    refine taken_waits h (exactly_of hlen) ?_
    rw [hseq]
  · intro s r x h hlen hseq hx
    subst hx
    dsimp only [exec, execSeqQuery]
    refine taken_answers h (exactly_of hlen) ?_
    rw [hseq]
  · intro s r x h hlen hseq hx hsome hmany hplace hfits hrising
    exact exec_seqAllow h hlen hseq hx hsome hmany hplace hfits hrising

/-- Settles O54: each command of the family passes its checks one by one. -/
theorem prefixCommands : Obligations.PrefixCommands := by
  unfold Obligations.PrefixCommands
  refine ⟨?_, ?_, ?_⟩
  · intro s r x h hlen hseq hx hrunning hkept hsome hcommitted hroom
    exact exec_prefixPin h hlen hseq hx hrunning hkept hsome hcommitted hroom
  · intro s r h hlen hhandle
    dsimp only [exec, execPrefixUnpin]
    refine taken_answers h (exactly_of hlen) ?_
    rw [hhandle]
  · intro s r x h hlen hhandle hx
    subst hx
    dsimp only [exec, execPrefixQuery]
    refine taken_answers h (exactly_of hlen) ?_
    rw [hhandle]

end Sys2Proof.Proofs
end


section
/-! The power, memory and fabric families when they succeed (R211, R212, R263, R274 to R277, R352 to R355, R370, R372, R410 to R412, R420, R428). -/

namespace Sys2Proof.Proofs

open Sys2Proof.Machine Sys2Proof.Laws

/-! The power family. -/

section
variable {s : State} {r : Req}

/-- power.coord turns coordination on, or off: what the others announced goes, and with it an announcement of this device that stands. -/
theorem exec_powerCoord (h : Takes ⟨0x0902, [1], false⟩ r s) (hlen : r.payload.length = 1) : exec (.powerCoord r) s =
    answered r 0x0902 [] (if pay r 0 1 % 2 = 1 then wrB 0xB00010 62 true s
      else wrB 0xB00010 62 false { (if rdB s 0xB00010 62 then withdraw s else s) with fabric := { (if rdB s 0xB00010 62 then withdraw s else s).fabric with notes := [] } }) := by
  dsimp only [exec, execPowerCoord]
  refine taken_answers h (exactly_of hlen) ?_
  split <;> rfl

/-- The kind of sleep that the device enters. -/
def sleepKind (kind : Nat) (s : State) : State := { s with sleepTo := kind }

/-- Sleep entry of a kind begins. -/
def sleepBegun (kind : Nat) (s : State) : State := wrF 0xC00000 63 61 1 (sleepKind kind s)

theorem sleepKind_frame {kind : Nat} {t : State} (h : RegsOnly (sleepKind kind s) t) : t.sleepTo = kind ∧ t = { s with regs := t.regs, sleepTo := kind } := by
  refine ⟨?_, h⟩
  rw [h]
  rfl

theorem sleepBegun_only (kind : Nat) : RegsOnly (sleepKind kind s) (sleepBegun kind s) := (RegsOnly.refl _).wrF _ _ _ _

theorem exec_powerSleep {kind : Nat} (h : Takes ⟨0x0903, [1], false⟩ r s) (hlen : r.payload.length = 1) (hmember : isMember s = false) (hpause : inPause s = false)
    (hkind : pay r 0 1 = kind) (hok : kind = 1 ∧ rdB s 0x800028 63 = true ∨ kind = 2 ∧ s.models.any (fun e => e.2.live) = false ∧ s.seqs.any (fun e => isOpen e.2) = false) :
    exec (.powerSleep r) s = answered r 0x0903 [] (sleepBegun kind s) := by
  subst hkind
  dsimp only [exec, execPowerSleep]
  refine taken_answers h (exactly_of hlen) ((if_neg (by omega)).trans ((if_neg ?_).trans ((if_neg ?_).trans ((if_neg ?_).trans (if_neg ?_)))))
  · rw [hmember]
    exact Bool.false_ne_true
  · rw [hpause]
    exact Bool.false_ne_true
  · rintro ⟨htwo, hused⟩
    rcases hok with ⟨hone, -⟩ | ⟨-, hmodels, hseqs⟩
    · omega
    · rw [hmodels, hseqs] at hused
      exact hused.elim Bool.false_ne_true Bool.false_ne_true
  · rintro ⟨hone, harea⟩
    rcases hok with ⟨-, hset⟩ | ⟨htwo, -⟩
    · exact not_not_eq_true hset harea
    · omega

theorem thState_sleepBegun (kind : Nat) (hs : regsWf s.regs = true) : thState (sleepBegun kind s) = 1 :=
  rdF_wrF_same 0xC00000 63 61 1 (sleepKind kind s) hs (by decide) (by decide)

theorem sleepBegun_frame (kind : Nat) : (sleepBegun kind s).sleepTo = kind ∧ sleepBegun kind s = { s with regs := (sleepBegun kind s).regs, sleepTo := kind } :=
  sleepKind_frame (sleepBegun_only kind)

end

/-- Settles O55: each command of the family passes its checks one by one. -/
theorem powerCommands : Obligations.PowerCommands := by
  unfold Obligations.PowerCommands
  refine ⟨?_, ?_, ?_, ?_, ?_, ?_, ?_⟩
  · intro s
    rfl
  · intro s r h hlen
    dsimp only [exec, execPowerQuery]
    exact taken_answers h (exactly_empty hlen) rfl
  · intro s r h hlen hlow hhigh hshort hlong
    dsimp only [exec, execPowerCap]
    exact taken_answers h (exactly_of hlen) ((if_neg (by omega)).trans (if_neg (by omega)))
  · intro cap w s
    rfl
  · intro s r h hlen
    rw [exec_powerCoord h hlen]
    refine ⟨fun hon => ?_, fun hoff hclear => ?_, fun hoff hset => ?_⟩
    · rw [if_pos hon]
    · rw [if_neg (by omega), hclear]
      rfl
    · rw [if_neg (by omega), hset]
      rfl
  · intro s r h hlen hmember hpause
    refine ⟨fun hkind harea hcanon => ?_, fun hkind hmodels hseqs hcanon => ?_⟩
    · obtain ⟨hto, hframe⟩ := sleepBegun_frame (s := s) 1
      exact ⟨sleepBegun 1 s, exec_powerSleep h hlen hmember hpause hkind (.inl ⟨rfl, harea⟩), thState_sleepBegun 1 hcanon.regs, hto, hframe⟩
    · obtain ⟨hto, hframe⟩ := sleepBegun_frame (s := s) 2
      exact ⟨sleepBegun 2 s, exec_powerSleep h hlen hmember hpause hkind (.inr ⟨rfl, hmodels, hseqs⟩), thState_sleepBegun 2 hcanon.regs, hto, hframe⟩
  · intro s r h hlen hown hid hlive
    dsimp only [exec, execPowerEnergy]
    exact taken_answers h (exactly_of hlen) ((if_neg (not_foreign hown)).trans (if_neg (named_live hid hlive)))

/-! The memory family. -/

section
variable {s : State} {r : Req}

theorem exec_memoryHem (h : Takes ⟨0x0A02, [1], false⟩ r s) (hlen : r.payload.length = 2) (hlow : 16 ≤ pay r 0 2) (hhigh : pay r 0 2 ≤ 256)
    (hempty : s.seqs.any (fun e => !e.2.segs.isEmpty) = false)
    (hfits : rdB s 0x40020 63 = true → inScratch s (rdF s 0x40020 47 20 * 2 ^ 20) (pay r 0 2 * 2 ^ 20) = true ∧
      ((scratchUsed s).filter (fun b => decide (b.1 ≠ rdF s 0x40020 47 20 * 2 ^ 20))).any (fun b => overlaps (rdF s 0x40020 47 20 * 2 ^ 20, pay r 0 2 * 2 ^ 20) b) = false) :
    exec (.memoryHem r) s = answered r 0x0A02 [] (wrF 0x40020 56 48 (pay r 0 2) s) := by
  dsimp only [exec, execMemoryHem]
  refine taken_answers h (exactly_of hlen) ((if_neg (by omega)).trans ((if_neg ?_).trans (if_neg ?_)))
  · rw [hempty]
    exact Bool.false_ne_true
  · cases hon : rdB s 0x40020 63 with
    | false => exact Bool.false_ne_true
    | true =>
      obtain ⟨hin, hapart⟩ := hfits hon
      rw [hin, hapart]
      decide

/-- The margin run that memory.margin names. -/
def marginOrdered (r : Req) (s : State) : State :=
  startMargin (pay r 0 2) (pay r 2 1) (pay r 6 2) false (some (waiterOf r 0x0A03)) (wrF (chMargin (pay r 0 2)) 61 61 (pay r 3 1) (wrF (chMargin (pay r 0 2)) 60 54 (pay r 2 1)
    (wrF (chMargin (pay r 0 2)) 53 48 (pay r 4 1 % 64) (wrF (chMargin (pay r 0 2)) 47 42 (pay r 5 1 % 64) (wrF (chMargin (pay r 0 2)) 15 0 (pay r 6 2) s)))))

theorem exec_memoryMargin (h : Takes ⟨0x0A03, [1], false⟩ r s) (hlen : r.payload.length = 8) (hc : pay r 0 2 ≤ 383) (hlane : pay r 2 1 ≤ 79) (hdir : pay r 3 1 ≤ 1)
    (htime : offsetByte (pay r 4 1) = true) (hvolt : offsetByte (pay r 5 1) = true) (hdwell : pay r 6 2 ≠ 0) (hready : rdB s (chStatus (pay r 0 2)) 61 = false)
    (hspare : 0 < sparesFree s (pay r 0 2)) :
    (marginOf s (pay r 0 2) = none → exec (.memoryMargin r) s = .next (marginOrdered r s)) ∧
    (∀ m, marginOf s (pay r 0 2) = some m → m.rotation = true → exec (.memoryMargin r) s = .next (marginOrdered r (abortMargin (pay r 0 2) s))) := by
  dsimp only [exec, execMemoryMargin]
  have hready' : ¬ rdB s (chStatus (pay r 0 2)) 61 = true := by
    rw [hready]
    exact Bool.false_ne_true
  refine ⟨fun hnone => taken_waits h (exactly_of hlen) ?_, fun m hsome hrot => taken_waits h (exactly_of hlen) ?_⟩
  · rw [if_neg (by omega), if_neg (by omega), if_neg (by omega), if_neg (not_not_eq_true htime), if_neg (not_not_eq_true hvolt), if_neg hdwell, if_neg hready',
      if_neg (by omega), hnone]
    rfl
  · rw [if_neg (by omega), if_neg (by omega), if_neg (by omega), if_neg (not_not_eq_true htime), if_neg (not_not_eq_true hvolt), if_neg hdwell, if_neg hready',
      if_neg (by omega), hsome]
    exact if_pos hrot

end

/-! The fabric family. -/

section
variable {s : State} {r : Req}

theorem joinIds_some (hlen : 20 ≤ r.payload.length) : ¬ (joinIds r).isEmpty = true := by
  unfold joinIds
  rw [List.isEmpty_iff, ← List.length_eq_zero_iff, List.length_map, List.length_range]
  omega

theorem exec_fabricJoin (h : Takes ⟨0x0B01, [1], false⟩ r s) (hlow : 20 ≤ r.payload.length) (hhigh : r.payload.length ≤ 9120) (hwhole : (r.payload.length - 12) % 8 = 0)
    (hid : pay r 0 8 ≠ 0) (hshort : 50 ≤ pay r 8 2) (hlong : pay r 8 2 ≤ 4000) :
    (isMember s = false → (addIds [] (joinIds r)).length ≤ 16384 →
      exec (.fabricJoin r) s = answered r 0x0B01 [] (formMembership (pay r 0 8) (1000 * pay r 8 2) (addIds [] (joinIds r)) s)) ∧
    (isMember s = true → s.fabric.id = pay r 0 8 → s.fabric.period = 1000 * pay r 8 2 → (addIds s.fabric.members (joinIds r)).length ≤ 16384 →
      exec (.fabricJoin r) s = answered r 0x0B01 [] { s with fabric := { s.fabric with members := addIds s.fabric.members (joinIds r) } }) := by
  have hlen : (decide (12 ≤ r.payload.length) && decide (r.payload.length ≤ 9120) && decide ((r.payload.length - 12) % 8 = 0)) = true := by
    simp [hhigh, hwhole]
    omega
  dsimp only [exec, execFabricJoin]
  refine ⟨fun hout hroom => taken_answers h hlen ?_, fun hin hsame hperiod hroom => taken_answers h hlen ?_⟩
  · rw [hout]
    exact (if_neg hid).trans ((if_neg (by omega)).trans ((if_neg (joinIds_some hlow)).trans ((if_neg (by simp)).trans ((if_neg (by simp)).trans
      ((if_neg (Nat.not_lt.mpr hroom)).trans (if_neg Bool.false_ne_true))))))
  · rw [hin]
    exact (if_neg hid).trans ((if_neg (by omega)).trans ((if_neg (joinIds_some hlow)).trans ((if_neg (by simp [hsame, hperiod])).trans ((if_neg (by simp [hsame])).trans
      ((if_neg (Nat.not_lt.mpr hroom)).trans (if_pos rfl))))))

/-- What a device that leaves its partition does before it forgets it: everything of Kralyn ends, and an announcement is withdrawn. -/
def partingDone (s : State) : State :=
  if rdB (failEverything 0x0207 (closeAll s)) 0xB00010 62 then
    announce 0 (rdF (failEverything 0x0207 (closeAll s)) 0x800000 10 0)
      (tickIndex (failEverything 0x0207 (closeAll s)) + rdF (failEverything 0x0207 (closeAll s)) 0xB00008 63 56) (failEverything 0x0207 (closeAll s))
  else failEverything 0x0207 (closeAll s)

/-- No partition; what the tape runs at stays. -/
def outside (u : State) : State :=
  { u with fabric := { Fabric.none with rho := u.fabric.rho, rest := u.fabric.rest, nextIf := u.fabric.nextIf, skipTo := u.fabric.skipTo, wants := u.fabric.wants } }

theorem exec_fabricLeave_member (h : Takes ⟨0x0B02, [1], false⟩ r s) (hlen : r.payload = []) (hin : isMember s = true) : exec (.fabricLeave r) s =
    answered r 0x0B02 [] (wrF 0x200010 63 59 0 (wrB 0xB00010 63 false (outside (partingDone s)))) := by
  dsimp only [exec, execFabricLeave]
  exact taken_answers h (exactly_empty hlen) (if_neg (not_not_eq_true hin))

theorem keeps_partingDone (s : State) : Keeps s (partingDone s) := by
  have hfailed : Keeps s (failEverything 0x0207 (closeAll s)) := keeps_failEverything _ _ (keeps_closeAll _ (.refl s))
  unfold partingDone
  split
  · exact keeps_announce _ _ _ _ hfailed
  · exact hfailed

/-- The state of a device that has left its partition. -/
theorem leftPartition {u : State} (hu : regsWf u.regs = true) :
    isMember (wrF 0x200010 63 59 0 (wrB 0xB00010 63 false (outside u))) = false ∧ rdF (wrF 0x200010 63 59 0 (wrB 0xB00010 63 false (outside u))) 0x200010 63 59 = 0 := by
  have hwf : regsWf (wrB 0xB00010 63 false (outside u)).regs = true := regsWf_wrB _ _ _ _ hu
  refine ⟨?_, rdF_wrF_same _ _ _ _ _ hwf (by decide) (by decide)⟩
  rw [isMember, rdB, rd_wrF_other _ _ _ _ _ _ (by decide)]
  exact rdB_wrB_same _ _ _ (outside u) hu (by decide)

theorem RegsOnly.fabric {s t : State} (h : RegsOnly s t) : t.fabric = s.fabric := by rw [h]

theorem leftPartition_fabric (u : State) : (wrF 0x200010 63 59 0 (wrB 0xB00010 63 false (outside u))).fabric.id = 0 ∧
    (wrF 0x200010 63 59 0 (wrB 0xB00010 63 false (outside u))).fabric.members = [] := by
  rw [(((RegsOnly.refl (outside u)).wrB 0xB00010 63 false).wrF 0x200010 63 59 0).fabric]
  exact ⟨rfl, rfl⟩

end

/-- Settles O56: each command of the families passes its checks one by one. -/
theorem memoryAndFabricCommands : Obligations.MemoryAndFabricCommands := by
  unfold Obligations.MemoryAndFabricCommands
  refine ⟨?_, ?_, ?_, ?_, ?_, ?_, ?_, ?_⟩
  · intro s r h hlen hk hused
    dsimp only [exec, execMemorySlice]
    refine taken_answers h (exactly_of hlen) ((if_neg (by omega)).trans (if_neg ?_))
    rw [hused]
    exact Bool.false_ne_true
  · intro s r h hlen hlow hhigh hempty hfits
    exact exec_memoryHem h hlen hlow hhigh hempty hfits
  · intro s r c h hlen hc hle hlane hdir htime hvolt hdwell hready hspare hnone
    subst hc
    exact (exec_memoryMargin h hlen hle hlane hdir htime hvolt hdwell hready hspare).1 hnone
  · intro s r c m u h hlen hc hle hlane hdir htime hvolt hdwell hready hspare hsome hrot hu
    subst hc hu
    exact (exec_memoryMargin h hlen hle hlane hdir htime hvolt hdwell hready hspare).2 m hsome hrot
  · intro s r h hlen hc
    dsimp only [exec, execMemoryQuery]
    exact taken_answers h (exactly_of hlen) (if_neg (by omega))
  · intro s r h hlow hhigh hwhole hid hshort hlong
    exact exec_fabricJoin h hlow hhigh hwhole hid hshort hlong
  · intro s r h hlen
    refine ⟨fun hout => ?_, fun hin hcanon => ?_⟩
    · dsimp only [exec, execFabricLeave]
      exact taken_answers h (exactly_empty hlen) (if_pos (by rw [hout]; rfl))
    · obtain ⟨hmember, hstate⟩ := leftPartition ((keeps_partingDone s).inv hcanon).regs
      obtain ⟨hid, hmembers⟩ := leftPartition_fabric (partingDone s)
      exact ⟨_, exec_fabricLeave_member h hlen hin, hmember, hid, hmembers, hstate⟩
  · intro s r h hlen
    dsimp only [exec, execFabricQuery]
    exact taken_answers h (exactly_empty hlen) rfl

end Sys2Proof.Proofs
end


section
/-! The monitor, firmware, attestation and maintenance families when they succeed, and an unlisted code (R278, R279, R335, R385, R390, R396, R400, R402, R403, R408, R444, R446, R447). -/

namespace Sys2Proof.Proofs

open Sys2Proof.Machine Sys2Proof.Laws

/-- Settles O57: each command of the family passes its checks one by one. -/
theorem monitorCommands : Obligations.MonitorCommands := by
  unfold Obligations.MonitorCommands
  refine ⟨?_, ?_, ?_, ?_⟩
  · intro s r h hlen
    dsimp only [exec, execMonitorSet]
    refine ⟨fun hall hpause => taken_answers h (exactly_of hlen) ((if_pos hall).trans (if_neg (by omega))), fun hm hsrc hwidth => taken_answers h (exactly_of hlen) ?_⟩
    refine (if_neg (by omega)).trans ((if_neg (by omega)).trans ((if_neg (by omega)).trans (if_neg ?_)))
    exact fun ⟨hlinear, hzero⟩ => hwidth hlinear hzero
  · intro s r h hlen hm
    dsimp only [exec, execMonitorRead]
    exact taken_answers h (exactly_of hlen) (if_neg (by omega))
  · intro s r h hlen hscope
    dsimp only [exec, execMonitorClear]
    exact taken_answers h (exactly_of hlen) (if_neg (by omega))
  · intro s r h hlen hlow hhigh
    dsimp only [exec, execMonitorRegs]
    exact taken_answers h (exactly_of hlen) (if_neg (by omega))

/-! The firmware and attestation families. -/

section
variable {s : State} {r : Req}

theorem exec_firmwarePut {a : Nat} (h : Takes ⟨0x0D01, [1], true⟩ r s) (hlow : 9 ≤ r.payload.length) (hhigh : r.payload.length ≤ 9120)
    (hfits : pay r 0 8 + (r.payload.drop 8).length ≤ stageBytes) :
    (s.fwStage = some a → exec (.firmwarePut r) s = answered r 0x0D01 [] (storeBytes true (deviceCtx s) (a + pay r 0 8) (r.payload.drop 8) false s)) ∧
    ∀ t, s.fwStage = none → allotBlock stageBytes s = some (a, t) →
      exec (.firmwarePut r) s = answered r 0x0D01 [] (storeBytes true (deviceCtx t) (a + pay r 0 8) (r.payload.drop 8) false { t with fwStage := some a }) := by
  have hlen : (decide (9 ≤ r.payload.length) && decide (r.payload.length ≤ 9120)) = true := Bool.and_eq_true_iff.mpr ⟨decide_eq_true hlow, decide_eq_true hhigh⟩
  dsimp only [exec, execFirmwarePut]
  refine ⟨fun hstage => taken_answers h hlen ((if_neg (Nat.not_lt.mpr hfits)).trans ?_), fun t hnone hblock => taken_answers h hlen ((if_neg (Nat.not_lt.mpr hfits)).trans ?_)⟩
  · rw [hstage]
    have hsame : { s with fwStage := some a } = s := by rw [← hstage]
    exact congrArg (fun z => Reply.done [] (storeBytes true (deviceCtx s) (a + pay r 0 8) (r.payload.drop 8) false z)) hsame
  · rw [hnone]
    dsimp only
    rw [hblock]

theorem exec_firmwareUpdate {ok : Verified} {img : List Byte} {u : State} (h : Takes ⟨0x0D02, [1], true⟩ r s) (hlen : r.payload.length = 8) (hnone : s.update = none)
    (hfits : pay r 0 8 ≤ stageBytes) (himg : img = stagedFirmware s (pay r 0 8)) (hu : u = readStage (pay r 0 8) s)
    (hsound : codeSound u (verifier u ok) img (leAt img 20 4) = true) (hlevel : levelClash u (leAt img 8 1) = false) :
    exec (.firmwareUpdate r ok) s = answered r 0x0D02 [] { u with update := some ⟨pay r 0 8, false⟩ } := by
  subst himg hu
  dsimp only [exec, execFirmwareUpdate]
  refine taken_answers h (exactly_of hlen) ((if_neg ?_).trans ((if_neg (Nat.not_lt.mpr hfits)).trans ((if_neg (not_not_eq_true hsound)).trans (if_neg ?_))))
  · rw [hnone]
    exact Bool.false_ne_true
  · rw [hlevel]
    exact Bool.false_ne_true

theorem exec_attestCerts (h : Takes ⟨0x0E01, [0, 1, 2], false⟩ r s) (hlen : r.payload.length = 1) (hk : pay r 0 1 ≤ 4) :
    exec (.attestCerts r) s = answered r 0x0E01 (if pay r 0 1 = 0 then s.fuse.identityCert else if pay r 0 1 = 1 then s.fuse.manufacturingCert
      else if pay r 0 1 = 2 then kemCertificate s else if pay r 0 1 = 3 then s.secure.signerCert else s.secure.ownerCert) s := by
  dsimp only [exec, execAttestCerts]
  refine taken_answers h (exactly_of hlen) ?_
  rcases (by omega : pay r 0 1 = 0 ∨ pay r 0 1 = 1 ∨ pay r 0 1 = 2 ∨ pay r 0 1 = 3 ∨ pay r 0 1 = 4) with hk | hk | hk | hk | hk
  · rw [hk]
    rfl
  · rw [hk]
    rfl
  · rw [hk]
    rfl
  · rw [hk]
    rfl
  · rw [hk]
    rfl

theorem exec_attestSession {ok : Verified} {cred : Bool} {ct : List Byte} (h : Takes ⟨0x0E03, [1, 2], false⟩ r s) (hcred : cred = (natBits (pay r 3 1) 1 1 == 1))
    (hlen : r.payload.length = (if cred then 5993 else 1576)) (hgood : sessionFault r ok s = none)
    (hct : ct = padTo (Config.kemCiphertext (slice r.payload 8 1568) (fresh s).1) 1568) :
    exec (.attestSession r ok) s = answered r 0x0E03 (ct ++ identitySign "TUITH-SESS" (idBytes s ++ padTo r.payload 1576 ++ ct) (fresh (fresh s).2).1 s)
      (makeSession (pay r 0 2) (pay r 2 1) (natBits (pay r 3 1) 0 0 == 1) cred (Config.kemShared (slice r.payload 8 1568) (fresh s).1) (fresh (fresh s).2).2) := by
  subst hcred hct
  dsimp only [exec, execAttestSession]
  refine taken_answers h (exactly_of hlen) ?_
  rw [hgood]

end

/-- What a sound image holds (R381, R397). -/
theorem codeSound_holds {s : State} {w : Verifier} {img : List Byte} {trail : Nat} (h : codeSound s w img trail = true) :
    leAt img 0 4 = 0x4D555242 ∧ leAt img trail 4 = 0x4C525454 ∧ leAt img (trail + 4) 4 = 4425 ∧
    signedBy w (certKey (slice img (trail + 8) 3137)) "TUITH-FW" (img.take trail) (slice img (trail + 3145) 1280) = true := by
  simp only [codeSound, Bool.and_eq_true, decide_eq_true_eq] at h
  obtain ⟨⟨⟨⟨⟨⟨⟨⟨⟨hmagic, -⟩, -⟩, -⟩, -⟩, -⟩, htrailer⟩, hlength⟩, -⟩, hsigned⟩ := h
  exact ⟨hmagic, htrailer, hlength, hsigned⟩

/-- Settles O58: each command of the families passes its checks one by one, and what a sound image holds. -/
theorem securityCommands : Obligations.SecurityCommands := by
  unfold Obligations.SecurityCommands
  refine ⟨?_, ?_, ?_, ?_, ?_, ?_⟩
  · intro s r a h hlow hhigh hfits
    exact exec_firmwarePut h hlow hhigh hfits
  · intro s r ok img u h hlen hnone hfits himg hu hsound hlevel
    exact exec_firmwareUpdate h hlen hnone hfits himg hu hsound hlevel
  · intro s w img trail hsound
    exact codeSound_holds hsound
  · intro s r h hlen hk
    exact exec_attestCerts h hlen hk
  · intro s r h hlen
    dsimp only [exec, execAttestQuote]
    exact taken_answers h (exactly_of hlen) rfl
  · intro s r ok cred ct h hcred hlen hgood hct
    exact exec_attestSession h hcred hlen hgood hct

/-! The maintenance family. -/

section
variable {s : State} {r : Req}

theorem exec_maintRow {k : Nat} (h : Takes ⟨0x0F01, [2], false⟩ r s) (hlen : r.payload.length = 8) (hslice : pay r 0 1 ≤ 23) (hch : pay r 1 1 ≤ 15) (hbank : pay r 2 1 ≤ 15)
    (hrow : pay r 4 4 < rowsOfBank s) (hdrained : drained s = true) (hk : k = 16 * (16 * pay r 0 1 + pay r 1 1) + pay r 2 1) :
    exec (.maintRow r) s = (if sparesLeft s k = 0 then .next (respond r.mailbox r.session r.correlation 0x0F01 0x0305 (detail 2 0) s)
      else answered r 0x0F01 [] (afterRepair (pay r 0 1) { s with repaired := sput (fun _ => 0) s.repaired k (sget (fun _ => 0) s.repaired k + 1) })) := by
  subst hk
  dsimp only [exec, execMaintRow]
  by_cases hspares : sparesLeft s (16 * (16 * pay r 0 1 + pay r 1 1) + pay r 2 1) = 0
  · rw [if_pos hspares]
    exact taken_refuses h (exactly_of hlen) ((if_neg (by omega)).trans ((if_neg (by omega)).trans ((if_neg (by omega)).trans ((if_neg (Nat.not_le.mpr hrow)).trans
      ((if_neg (not_not_eq_true hdrained)).trans (if_pos hspares))))))
  · rw [if_neg hspares]
    exact taken_answers h (exactly_of hlen) ((if_neg (by omega)).trans ((if_neg (by omega)).trans ((if_neg (by omega)).trans ((if_neg (Nat.not_le.mpr hrow)).trans
      ((if_neg (not_not_eq_true hdrained)).trans (if_neg hspares))))))

theorem exec_maintFuse {c : Nat} {l : List Nat} (h : Takes ⟨0x0F02, [2], false⟩ r s) (hlen : r.payload.length = 3) (hslice : pay r 0 1 ≤ 23) (hch : pay r 1 1 ≤ 15)
    (hlane : pay r 2 1 ≤ 79) (hdrained : drained s = true) (hc : c = 16 * pay r 0 1 + pay r 1 1) (hl : l = sget (fun _ => []) s.laneFuse c)
    (hroom : l.contains (pay r 2 1) = true ∨ l.length < 2) :
    exec (.maintFuse r) s = answered r 0x0F02 [] (afterRepair (pay r 0 1)
      { s with laneFuse := sput (fun _ => []) s.laneFuse c (if l.contains (pay r 2 1) then l else l ++ [pay r 2 1]) }) := by
  subst hc hl
  dsimp only [exec, execMaintFuse]
  refine taken_answers h (exactly_of hlen) ((if_neg (by omega)).trans ((if_neg (by omega)).trans ((if_neg (by omega)).trans
    ((if_neg (not_not_eq_true hdrained)).trans (if_neg ?_)))))
  rcases hroom with hheld | hroom
  · rw [hheld]
    exact Bool.false_ne_true
  · rw [decide_eq_false (Nat.not_le.mpr hroom), Bool.and_false]
    exact Bool.false_ne_true

end

/-- Settles O59: each command of the family passes its checks one by one; the handling of an unlisted code refuses. -/
theorem maintenanceCommands : Obligations.MaintenanceCommands := by
  unfold Obligations.MaintenanceCommands
  refine ⟨?_, ?_, ?_, ?_, ?_⟩
  · intro s r k h hlen hslice hch hbank hrow hdrained hk
    exact exec_maintRow h hlen hslice hch hbank hrow hdrained hk
  · intro s r c l h hlen hslice hch hlane hdrained hc hl hroom
    exact exec_maintFuse h hlen hslice hch hlane hdrained hc hl hroom
  · intro s r h hlen hslice
    dsimp only [exec, execMaintRread]
    exact taken_answers h (exactly_of hlen) (if_neg (by omega))
  · intro s r h hlen
    dsimp only [exec, execMaintDebug]
    exact ⟨fun hoff => taken_answers h (exactly_of hlen) (if_pos hoff),
      fun hon hdrained => taken_answers h (exactly_of hlen) ((if_neg (by omega)).trans (if_neg (not_not_eq_true hdrained)))⟩
  · intro s r code hunlisted h
    dsimp only [exec, execUnknownCommand]
    rw [if_neg (by rw [hunlisted]; exact Bool.false_ne_true)]
    exact control_taken _ _ r s h

end Sys2Proof.Proofs
end
